-- ==== Sys2Proof/Word.lean ====
section
/-! DEFINITION. The word types of the Azova A1 and their plainest arithmetic, and the sparse tables the state is
made of. -/

namespace Sys2Proof

/-- One byte of memory. -/
abbrev Byte := BitVec 8
/-- A thread register (R223). -/
abbrev W32 := BitVec 32
/-- A uniform register, an instruction word, a package register (R224, R226, R706). -/
abbrev W64 := BitVec 64
/-- The data of one 128-byte line (R338): byte j in bits 8j+7..8j. -/
abbrev LineData := BitVec 1024

/-- A sparse array: rising keys, no entry equal to the default (`Tbl.wf`). -/
abbrev Tbl (α : Type) := List (Nat × α)

/-- What a sparse array holds at a key; `d` is what an unlisted key reads as. -/
def Tbl.get {α : Type} (d : α) : Tbl α → Nat → α
  | [], _ => d
  | (k, v) :: t, i => if k = i then v else Tbl.get d t i

/-- Write one key, keeping the canonical form. -/
def Tbl.set {α : Type} [DecidableEq α] (d : α) : Tbl α → Nat → α → Tbl α
  | [], i, x => if x = d then [] else [(i, x)]
  | (k, v) :: t, i, x =>
    if i < k then (if x = d then (k, v) :: t else (i, x) :: (k, v) :: t)
    else if i = k then (if x = d then t else (i, x) :: t)
    else (k, v) :: Tbl.set d t i x

/-- Change one key by a function of what it holds. -/
def Tbl.upd {α : Type} [DecidableEq α] (d : α) (t : Tbl α) (i : Nat) (f : α → α) : Tbl α :=
  Tbl.set d t i (f (Tbl.get d t i))

/-- The canonical form of a sparse array: keys strictly rise and no entry is the default. -/
def Tbl.wf {α : Type} [DecidableEq α] (d : α) : Tbl α → Bool
  | [] => true
  | [(_, v)] => decide (v ≠ d)
  | (k, v) :: (k', v') :: t => decide (v ≠ d) && decide (k < k') && Tbl.wf d ((k', v') :: t)

/-- A fixed array written as a function of its index, as a sparse array. -/
def Tbl.ofFn {α : Type} [DecidableEq α] (d : α) (n : Nat) (f : Nat → α) : Tbl α :=
  ((List.range n).map (fun i => (i, f i))).filter (fun e => decide (e.2 ≠ d))

/-- Bits [lo+w-1:lo] of a number. -/
def bits (x lo w : Nat) : Nat := x / 2 ^ lo % 2 ^ w

/-- Bit k of a number. -/
def bit (x k : Nat) : Bool := x.testBit k

/-- Replace bits [lo+w-1:lo] of a number. -/
def setBits (x lo w v : Nat) : Nat :=
  x - (x / 2 ^ lo % 2 ^ w) * 2 ^ lo + (v % 2 ^ w) * 2 ^ lo

/-- A Bool as a bit. -/
def b2n (b : Bool) : Nat := if b then 1 else 0

/-- Saturating increment of a counter of w bits. -/
def satAdd (w x n : Nat) : Nat := min (x + n) (2 ^ w - 1)

/-- Wrapping increment of a counter of w bits. -/
def wrapAdd (w x n : Nat) : Nat := (x + n) % 2 ^ w

/-- The two's complement reading of the low w bits. -/
def toS (w x : Nat) : Int :=
  let y := x % 2 ^ w
  if w ≠ 0 ∧ 2 ^ (w - 1) ≤ y then (y : Int) - (2 ^ w : Nat) else y

/-- The low w bits of an integer. -/
def ofS (w : Nat) (x : Int) : Nat := (x % ((2 ^ w : Nat) : Int)).toNat

/-- Little-endian bytes of a number, n of them. -/
def leBytes : Nat → Nat → List Byte
  | 0, _ => []
  | n + 1, x => BitVec.ofNat 8 x :: leBytes n (x / 256)

/-- The number that little-endian bytes spell. -/
def leNat : List Byte → Nat
  | [] => 0
  | b :: t => b.toNat + 256 * leNat t

/-- The number that big-endian bytes spell. -/
def beNat (l : List Byte) : Nat := l.foldl (fun a b => a * 256 + b.toNat) 0

/-- Big-endian bytes of a number, n of them. -/
def beBytes (n x : Nat) : List Byte := (leBytes n x).reverse

/-- Byte j of a line. -/
def lineByte (d : LineData) (j : Nat) : Byte := d.extractLsb' (8 * j) 8

/-- The bytes of a line. -/
def lineBytes (d : LineData) : List Byte := (List.range 128).map (lineByte d)

/-- A line from its bytes. -/
def lineOfBytes (l : List Byte) : LineData := BitVec.ofNat 1024 (leNat l)

/-- Spread a 128-bit byte mask over the 1024 bits of a line. -/
def maskBits (m : BitVec 128) : LineData :=
  BitVec.ofNat 1024
    ((List.range 128).foldl (fun a j => if m.getLsbD j then a + 255 * 2 ^ (8 * j) else a) 0)

/-- Merge masked bytes of `new` over `old` (R376 WNC). -/
def mergeLine (old new : LineData) (m : BitVec 128) : LineData :=
  let k := maskBits m
  (old &&& ~~~k) ||| (new &&& k)

/-- A byte mask covering bytes [off, off+len) of a line. -/
def byteMask (off len : Nat) : BitVec 128 :=
  BitVec.ofNat 128 ((2 ^ len - 1) * 2 ^ off)

end Sys2Proof
end

