-- ==== Sys2Proof/Types.lean ====
section
/-! DEFINITION. The plain data that commands carry and the state holds: coherence messages, records, addresses. -/

namespace Sys2Proof

/-- Message types of the coherence protocol (R376). -/
inductive MsgType where
  | rds | rdo | upg | wbk | evc | sth | wnc | rnc | anc | sns | sni | sno | dat | datd | ack
  deriving DecidableEq, Repr

/-- GRANT of a DAT (R377). -/
inductive Grant where
  | s | e | m
  deriving DecidableEq, Repr

/-- A coherence message (R377) with its payload (R376). `line` is the byte address of the line (its bits [41:7] are
LINE); ID 1023 is a home. -/
structure Msg where
  ty : MsgType
  src : Nat := 0
  dst : Nat := 1023
  txn : Nat := 0
  line : Nat := 0
  grant : Grant := .s
  retain : Bool := false
  no : Bool := false
  stash : Bool := false
  poison : Bool := false
  op : Nat := 0
  size : Bool := false
  offset : Nat := 0
  target : Nat := 0
  data : LineData := 0
  mask : BitVec 128 := 0
  srcOperand : Nat := 0
  cmpOperand : Nat := 0
  /-- The coil the issuer of an STH acts for: no header field, carried so that a target can decline by R365. -/
  coil : Option Nat := none
  /-- RNC, WNC or ANC of an access to a page of type NC or IO, and the answer to it: no header field, carried so that the home can
  apply R349, and so that a cluster or complex that sends it takes the answer for no line of its cache. -/
  nc : Bool := false
  /-- An STH whose issuer's features include STASH by R91: no header field. -/
  admitted : Bool := false
  deriving DecidableEq, Repr

/-- What a BEACON carries beside the count and the send delay: the period code (R546), and whether its sender's role is MASTER
(no byte of R546; R51 and R53 turn on it, notes/assumptions/33.md). -/
structure BeaconBody where
  period : Nat
  byRole : Bool := false
  deriving DecidableEq, Repr

/-- Error classes (R644). -/
inductive ErrClass where
  | event | ce | de | uc | fe
  deriving DecidableEq, Repr

/-- The code of an error class (R644). -/
def ErrClass.code : ErrClass → Nat
  | .event => 0 | .ce => 1 | .de => 2 | .uc => 3 | .fe => 4

/-- An ERR record (R645). -/
structure ErrRec where
  seq : Nat
  cls : ErrClass
  code : Nat
  srcKind : Nat
  merged : Nat := 0
  srcIndex : Nat
  detail : Nat := 0
  frame : Nat := 0
  addr : Nat := 0
  deriving DecidableEq, Repr

/-- Error patterns on the two codewords of a line as read: (byte index, XOR value) pairs (R408, R409). -/
structure LineErr where
  cw0 : List (Nat × Nat) := []
  cw1 : List (Nat × Nat) := []
  deriving DecidableEq, Repr

/-- What an engine's read returns (R321, R322): data, data marked poisoned, an error in place of data, or nothing yet, where what
is read holds the request. -/
inductive ReadBack (α : Type) where
  | ok (v : α)
  | poisoned
  | failed
  | held
  deriving DecidableEq, Repr

/-- A unit's store for a fault detail (R336): virtual address, strand slot and instruction address. -/
structure StoreSite where
  va : Nat := 0
  slot : Nat := 0
  pc : Nat := 0
  deriving DecidableEq, Repr

/-- A fabric packet (R536, R537). `ty` is TYPE; the payload follows it. -/
structure Packet where
  ty : Nat
  cls : Nat := 0
  bcast : Bool := false
  poison : Bool := false
  src : Nat := 0
  dst : Nat := 0
  tseq : Nat := 0
  tag : Nat := 0
  addr : Nat := 0
  aux : Nat := 0
  payload : List Byte := []
  deriving DecidableEq, Repr

/-- What a JOIN or JOIN reply carries (R528). -/
structure Join where
  index : Nat
  uid : Nat
  incarnation : Nat
  nonce : Nat
  halfTrip : Nat
  /-- A JOIN reply (R530). -/
  reply : Bool := false
  /-- Its sender is already UP, with its index valid (R528). -/
  senderUp : Bool := false
  deriving DecidableEq, Repr

/-- A member's contribution to a collective as it arrives (R551, R555). -/
structure Contribution where
  group : Nat
  tag : Nat
  number : Nat
  rank : Nat
  signature : Nat
  bytes : List Byte
  deriving DecidableEq, Repr

/-! ### Instruction words (R226 to R232, R264): every field as the word holds it, reserved bits included -/

/-- Format A (R228). -/
structure FmtA where
  pg : Nat := 0
  pn : Bool := false
  d : Nat := 0
  a : Nat := 0
  b : Nat := 0
  c : Nat := 0
  mod : Nat := 0
  rm : Nat := 0
  sat : Bool := false
  usrc : Nat := 0
  rsvd : Nat := 0
  deriving DecidableEq, Repr

/-- Format I (R229). -/
structure FmtI where
  pg : Nat := 0
  pn : Bool := false
  d : Nat := 0
  a : Nat := 0
  imm : W32 := 0
  deriving DecidableEq, Repr

/-- Format M (R230); `ord` is OP[7:6]. -/
structure FmtM where
  pg : Nat := 0
  pn : Bool := false
  ord : Nat := 0
  data : Nat := 0
  base : Nat := 0
  baseU : Bool := false
  size : Nat := 0
  sign : Bool := false
  scope : Nat := 0
  space : Bool := false
  off : BitVec 24 := 0
  deriving DecidableEq, Repr

/-- Format B (R231). -/
structure FmtB where
  pg : Nat := 0
  pn : Bool := false
  reg : Nat := 0
  target : BitVec 40 := 0
  deriving DecidableEq, Repr

/-- Format T (R232). -/
structure FmtT where
  pg : Nat := 0
  pn : Bool := false
  x : Nat := 0
  y : Nat := 0
  z : Nat := 0
  mg : Nat := 0
  u : Nat := 0
  sub : Nat := 0
  ty : Nat := 0
  rm : Nat := 0
  sat : Bool := false
  seg : Nat := 0
  mode : Nat := 0
  zf : Bool := false
  w : Bool := false
  ws : Nat := 0
  rsvd : Bool := false
  deriving DecidableEq, Repr

/-- Format Q (R264). -/
structure FmtQ where
  pg : Nat := 0
  pn : Bool := false
  us : Nat := 0
  ud : Nat := 0
  ug : Nat := 0
  ac : Nat := 0
  td : Nat := 0
  qf : Nat := 0
  h : Nat := 0
  rm : Nat := 0
  sf : Bool := false
  cap : Nat := 0
  ws : Nat := 0
  rsvd : Nat := 0
  deriving DecidableEq, Repr

/-- A 64-byte command (R459) but for its opcode: header fields and the body, bytes 16 to 63. -/
structure CmdImg where
  flags : Nat := 0
  sigInc : Nat := 0
  rsvd : Nat := 0
  sigKnot : Nat := 0
  body : List Byte := []
  deriving DecidableEq, Repr

/-- What the sensors and meters give a frame tick (R599, R619): powers of the previous frame in mW, temperatures in °C. -/
structure TickIn where
  pin : Nat := 0
  punty : Nat := 0
  hawser : Nat := 0
  dom : List Nat := []
  die : List Nat := []
  stack : List Nat := []
  deriving DecidableEq, Repr

/-- Who accesses a register (R24, R684). -/
inductive Master where
  | host
  | hart (h : Nat)
  deriving DecidableEq, Repr

/-- Who waits on a knot (R473, R701). -/
inductive KnotWaiter where
  | cmd (id : Nat)
  | slot (k : Nat)
  deriving DecidableEq, Repr

/-- What is fatal in the coherent domain beside a spill set and a protocol event (R401). -/
inductive VitalFault where
  /-- A vital agent, slice, directory or HBM channel fails (R397). -/
  | agent (n : Nat)
  /-- The on-chip directory entry of a line is uncorrectable. -/
  | directory (line : Nat)
  deriving DecidableEq, Repr

/-- A mailbox channel, or the management port (R683, R684). -/
inductive Chan where
  | ch0 | ch1 | mgmt
  deriving DecidableEq, Repr

/-- Where a mailbox operation comes from: GO on a channel, whose registers give its input, or a message at the management
port (R683, R684). -/
inductive OpFrom where
  | ch0 | ch1
  | mgmt (arg offset : Nat) (payload : List Byte)
  deriving DecidableEq, Repr

/-- A register of a node core: integer, floating-point or vector (R688). -/
inductive NodeReg where
  | x (n : Nat)
  | f (n : Nat)
  | v (n : Nat)
  deriving DecidableEq, Repr

/-- A floating-point format of a node core: binary32 or binary64 (R100). -/
inductive NodeFmt where
  | s | d
  deriving DecidableEq, Repr

/-- A floating-point operation of a node core (R100): arithmetic of IEEE 754-2019 as the standard's instructions name it. -/
inductive NodeFp where
  | add | sub | mul | div | sqrt | min | max
  /-- ± (a × b) ± c in one rounding. -/
  | fma (negProduct negC : Bool)
  | eq | lt | le
  /-- To an integer of w bits, and from one. -/
  | toInt (w : Nat) (signed : Bool)
  | ofInt (w : Nat) (signed : Bool)
  /-- From the other format. -/
  | cvt
  deriving DecidableEq, Repr

/-- What an instruction of a node core does (R688, R691, R693). Addresses are virtual (R330). -/
inductive NodeOp where
  | load (rd : NodeReg) (va size : Nat) (signed : Bool)
  | fetch (va : Nat)
  | store (va size value : Nat)
  | amo (rd va size op value : Nat)
  | lr (rd va size : Nat)
  | sc (rd va size value : Nat)
  | fence
  | csrRead (rd csr : Nat)
  | csrWrite (csr value : Nat)
  /-- A scalar floating-point instruction on registers rs1, rs2 and rs3; rm 7: the mode of fcsr. -/
  | fp (op : NodeFp) (fmt : NodeFmt) (rd rs1 rs2 rs3 rm : Nat)
  /-- A vector floating-point instruction on elements of vs1, vs2 and vs3; `masked`: by v0. -/
  | vfp (op : NodeFp) (fmt : NodeFmt) (vd vs1 vs2 vs3 : Nat) (masked : Bool)
  /-- vsetvl: the requested length and the type. -/
  | vset (rd avl vtype : Nat)
  | ecall | ebreak | mret | sret
  /-- Another instruction that stays inside the core: the standard's result in rd. -/
  | other (rd : NodeReg) (value : Nat)
  deriving DecidableEq, Repr

end Sys2Proof
end

