-- ==== Sys2Proof/Syntax.lean ====
section
/-! DEFINITION. The commands of the Azova A1: one constructor for each row of the opcode table, with its operands. -/

namespace Sys2Proof

/-- The operations and events of the package; each docstring names the rule that owns the row. -/
inductive Instr where
  /-- FRAME_TICK (R42). -/
  | frameTick (t : TickIn)
  /-- BEACON (R46). -/
  | beacon (port : Nat) (master : Nat) (count : Nat) (body : BeaconBody) (sendDelay : Nat)
  /-- BEACON_MISS (R48). -/
  | beaconMiss
  /-- FRAME_LOCK (R48). -/
  | frameLock
  /-- ELECTION_START (R52). -/
  | electionStart
  /-- ELECT (R52). -/
  | elect (src : Nat) (prio : Nat)
  /-- ELECTION_END (R52). -/
  | electionEnd
  /-- RELOAD (R80). -/
  | reload (m : Master)
  /-- FRIT_VERIFY_END (R78). -/
  | fritVerifyEnd
  /-- COMMIT (R87). -/
  | commit
  /-- REGISTER_WRITE (R6). -/
  | registerWrite (m : Master) (off : Nat) (size : Nat) (value : Nat)
  /-- NOP (R234). -/
  | nop (u : Nat) (slot : Nat) (f : FmtB)
  /-- EXIT (R246). -/
  | exit (u : Nat) (slot : Nat) (f : FmtB)
  /-- BRA (R246). -/
  | bra (u : Nat) (slot : Nat) (f : FmtB)
  /-- BRU (R234). -/
  | bru (u : Nat) (slot : Nat) (f : FmtB)
  /-- BRC (R246). -/
  | brc (u : Nat) (slot : Nat) (f : FmtB)
  /-- DIV_PUSH (R246). -/
  | divPush (u : Nat) (slot : Nat) (f : FmtB)
  /-- RCV (R246). -/
  | rcv (u : Nat) (slot : Nat) (f : FmtB)
  /-- CALL (R234). -/
  | call (u : Nat) (slot : Nat) (f : FmtB)
  /-- RET (R234). -/
  | ret (u : Nat) (slot : Nat) (f : FmtB)
  /-- COLL_ENTER (R249). -/
  | collEnter (u : Nat) (slot : Nat) (f : FmtB)
  /-- COLL_EXIT (R249). -/
  | collExit (u : Nat) (slot : Nat) (f : FmtB)
  /-- MOV (R234). -/
  | mov (u : Nat) (slot : Nat) (f : FmtA)
  /-- ADD (R240). -/
  | add (u : Nat) (slot : Nat) (f : FmtA)
  /-- SUB (R240). -/
  | sub (u : Nat) (slot : Nat) (f : FmtA)
  /-- MUL (R240). -/
  | mul (u : Nat) (slot : Nat) (f : FmtA)
  /-- MULHI (R234). -/
  | mulhi (u : Nat) (slot : Nat) (f : FmtA)
  /-- MAD (R240). -/
  | mad (u : Nat) (slot : Nat) (f : FmtA)
  /-- AND (R234). -/
  | and (u : Nat) (slot : Nat) (f : FmtA)
  /-- OR (R234). -/
  | or (u : Nat) (slot : Nat) (f : FmtA)
  /-- XOR (R234). -/
  | xor (u : Nat) (slot : Nat) (f : FmtA)
  /-- NOT (R234). -/
  | not (u : Nat) (slot : Nat) (f : FmtA)
  /-- SHL (R240). -/
  | shl (u : Nat) (slot : Nat) (f : FmtA)
  /-- SHR (R234). -/
  | shr (u : Nat) (slot : Nat) (f : FmtA)
  /-- SHRA (R234). -/
  | shra (u : Nat) (slot : Nat) (f : FmtA)
  /-- MIN (R234). -/
  | min (u : Nat) (slot : Nat) (f : FmtA)
  /-- MAX (R234). -/
  | max (u : Nat) (slot : Nat) (f : FmtA)
  /-- SEL (R234). -/
  | sel (u : Nat) (slot : Nat) (f : FmtA)
  /-- SETP (R234). -/
  | setp (u : Nat) (slot : Nat) (f : FmtA)
  /-- POPC (R234). -/
  | popc (u : Nat) (slot : Nat) (f : FmtA)
  /-- CLZ (R234). -/
  | clz (u : Nat) (slot : Nat) (f : FmtA)
  /-- FMOV (R239). -/
  | fmov (u : Nat) (slot : Nat) (f : FmtA)
  /-- FADD (R239). -/
  | fadd (u : Nat) (slot : Nat) (f : FmtA)
  /-- FSUB (R239). -/
  | fsub (u : Nat) (slot : Nat) (f : FmtA)
  /-- FMUL (R239). -/
  | fmul (u : Nat) (slot : Nat) (f : FmtA)
  /-- FFMA (R239). -/
  | ffma (u : Nat) (slot : Nat) (f : FmtA)
  /-- FMIN (R239). -/
  | fmin (u : Nat) (slot : Nat) (f : FmtA)
  /-- FMAX (R239). -/
  | fmax (u : Nat) (slot : Nat) (f : FmtA)
  /-- FABS (R239). -/
  | fabs (u : Nat) (slot : Nat) (f : FmtA)
  /-- FNEG (R239). -/
  | fneg (u : Nat) (slot : Nat) (f : FmtA)
  /-- FDIV (R239). -/
  | fdiv (u : Nat) (slot : Nat) (f : FmtA)
  /-- FSQRT (R239). -/
  | fsqrt (u : Nat) (slot : Nat) (f : FmtA)
  /-- FRCP (R239). -/
  | frcp (u : Nat) (slot : Nat) (f : FmtA)
  /-- FRSQRT (R239). -/
  | frsqrt (u : Nat) (slot : Nat) (f : FmtA)
  /-- FEXP2 (R239). -/
  | fexp2 (u : Nat) (slot : Nat) (f : FmtA)
  /-- FEXP (R239). -/
  | fexp (u : Nat) (slot : Nat) (f : FmtA)
  /-- FLOG2 (R239). -/
  | flog2 (u : Nat) (slot : Nat) (f : FmtA)
  /-- FLOG (R239). -/
  | flog (u : Nat) (slot : Nat) (f : FmtA)
  /-- FSINPI (R239). -/
  | fsinpi (u : Nat) (slot : Nat) (f : FmtA)
  /-- FCOSPI (R239). -/
  | fcospi (u : Nat) (slot : Nat) (f : FmtA)
  /-- FTANH (R239). -/
  | ftanh (u : Nat) (slot : Nat) (f : FmtA)
  /-- FSETP (R187). -/
  | fsetp (u : Nat) (slot : Nat) (f : FmtA)
  /-- FCVT (R239). -/
  | fcvt (u : Nat) (slot : Nat) (f : FmtA)
  /-- UMOV (R234). -/
  | umov (u : Nat) (slot : Nat) (f : FmtA)
  /-- UADD (R234). -/
  | uadd (u : Nat) (slot : Nat) (f : FmtA)
  /-- USUB (R234). -/
  | usub (u : Nat) (slot : Nat) (f : FmtA)
  /-- UMUL (R234). -/
  | umul (u : Nat) (slot : Nat) (f : FmtA)
  /-- UMULHI (R234). -/
  | umulhi (u : Nat) (slot : Nat) (f : FmtA)
  /-- UMAD (R234). -/
  | umad (u : Nat) (slot : Nat) (f : FmtA)
  /-- UAND (R234). -/
  | uand (u : Nat) (slot : Nat) (f : FmtA)
  /-- UOR (R234). -/
  | uor (u : Nat) (slot : Nat) (f : FmtA)
  /-- UXOR (R234). -/
  | uxor (u : Nat) (slot : Nat) (f : FmtA)
  /-- UNOT (R234). -/
  | unot (u : Nat) (slot : Nat) (f : FmtA)
  /-- USHL (R234). -/
  | ushl (u : Nat) (slot : Nat) (f : FmtA)
  /-- USHR (R234). -/
  | ushr (u : Nat) (slot : Nat) (f : FmtA)
  /-- USHRA (R234). -/
  | ushra (u : Nat) (slot : Nat) (f : FmtA)
  /-- UMIN (R234). -/
  | umin (u : Nat) (slot : Nat) (f : FmtA)
  /-- UMAX (R234). -/
  | umax (u : Nat) (slot : Nat) (f : FmtA)
  /-- USEL (R234). -/
  | usel (u : Nat) (slot : Nat) (f : FmtA)
  /-- USET (R234). -/
  | uset (u : Nat) (slot : Nat) (f : FmtA)
  /-- UPOPC (R234). -/
  | upopc (u : Nat) (slot : Nat) (f : FmtA)
  /-- UCLZ (R234). -/
  | uclz (u : Nat) (slot : Nat) (f : FmtA)
  /-- MOVI (R234). -/
  | movi (u : Nat) (slot : Nat) (f : FmtI)
  /-- ADDI (R240). -/
  | addi (u : Nat) (slot : Nat) (f : FmtI)
  /-- UMOVI (R234). -/
  | umovi (u : Nat) (slot : Nat) (f : FmtI)
  /-- UADDI (R234). -/
  | uaddi (u : Nat) (slot : Nat) (f : FmtI)
  /-- UMOVHI (R234). -/
  | umovhi (u : Nat) (slot : Nat) (f : FmtI)
  /-- LSHFL (R241). -/
  | lshfl (u : Nat) (slot : Nat) (f : FmtA)
  /-- LBAL (R234). -/
  | lbal (u : Nat) (slot : Nat) (f : FmtA)
  /-- LRED_ADD (R241). -/
  | lredAdd (u : Nat) (slot : Nat) (f : FmtA)
  /-- LRED_MIN (R241). -/
  | lredMin (u : Nat) (slot : Nat) (f : FmtA)
  /-- LRED_MAX (R241). -/
  | lredMax (u : Nat) (slot : Nat) (f : FmtA)
  /-- LFIRST (R234). -/
  | lfirst (u : Nat) (slot : Nat) (f : FmtA)
  /-- PAND (R234). -/
  | pand (u : Nat) (slot : Nat) (f : FmtA)
  /-- POR (R234). -/
  | por (u : Nat) (slot : Nat) (f : FmtA)
  /-- PXOR (R234). -/
  | pxor (u : Nat) (slot : Nat) (f : FmtA)
  /-- PANDN (R234). -/
  | pandn (u : Nat) (slot : Nat) (f : FmtA)
  /-- PNOT (R234). -/
  | pnot (u : Nat) (slot : Nat) (f : FmtA)
  /-- PFROMU (R234). -/
  | pfromu (u : Nat) (slot : Nat) (f : FmtA)
  /-- PTOU (R234). -/
  | ptou (u : Nat) (slot : Nat) (f : FmtA)
  /-- LD (R242). -/
  | ld (u : Nat) (slot : Nat) (f : FmtM)
  /-- ST (R242). -/
  | st (u : Nat) (slot : Nat) (f : FmtM)
  /-- ULD (R234). -/
  | uld (u : Nat) (slot : Nat) (f : FmtM)
  /-- ATOM_ADD (R306). -/
  | atomAdd (u : Nat) (slot : Nat) (f : FmtM)
  /-- ATOM_SMIN (R306). -/
  | atomSmin (u : Nat) (slot : Nat) (f : FmtM)
  /-- ATOM_SMAX (R306). -/
  | atomSmax (u : Nat) (slot : Nat) (f : FmtM)
  /-- ATOM_UMIN (R306). -/
  | atomUmin (u : Nat) (slot : Nat) (f : FmtM)
  /-- ATOM_UMAX (R306). -/
  | atomUmax (u : Nat) (slot : Nat) (f : FmtM)
  /-- ATOM_AND (R306). -/
  | atomAnd (u : Nat) (slot : Nat) (f : FmtM)
  /-- ATOM_OR (R306). -/
  | atomOr (u : Nat) (slot : Nat) (f : FmtM)
  /-- ATOM_XOR (R306). -/
  | atomXor (u : Nat) (slot : Nat) (f : FmtM)
  /-- ATOM_EXCH (R306). -/
  | atomExch (u : Nat) (slot : Nat) (f : FmtM)
  /-- ATOM_CAS (R309). -/
  | atomCas (u : Nat) (slot : Nat) (f : FmtM)
  /-- ATOM_FADD (R307). -/
  | atomFadd (u : Nat) (slot : Nat) (f : FmtM)
  /-- FENCE_ACQ (R302). -/
  | fenceAcq (u : Nat) (slot : Nat) (f : FmtM)
  /-- FENCE_REL (R302). -/
  | fenceRel (u : Nat) (slot : Nat) (f : FmtM)
  /-- FENCE_AR (R302). -/
  | fenceAr (u : Nat) (slot : Nat) (f : FmtM)
  /-- TLD (R242). -/
  | tld (u : Nat) (slot : Nat) (f : FmtT)
  /-- TST (R242). -/
  | tst (u : Nat) (slot : Nat) (f : FmtT)
  /-- TLD_SF (R242). -/
  | tldSf (u : Nat) (slot : Nat) (f : FmtT)
  /-- TST_SF (R242). -/
  | tstSf (u : Nat) (slot : Nat) (f : FmtT)
  /-- TZERO (R233). -/
  | tzero (u : Nat) (slot : Nat) (f : FmtT)
  /-- TSETVL (R173). -/
  | tsetvl (u : Nat) (slot : Nat) (f : FmtT)
  /-- TMMA (R123). -/
  | tmma (u : Nat) (slot : Nat) (f : FmtT)
  /-- TMMA_START (R605). -/
  | tmmaStart (u : Nat)
  /-- WTILE (R160). -/
  | wtile (u : Nat) (slot : Nat) (f : FmtT)
  /-- WCHK (R168). -/
  | wchk (u : Nat) (slot : Nat) (f : FmtT)
  /-- TEW (R180). -/
  | tew (u : Nat) (slot : Nat) (f : FmtT)
  /-- TCMP (R187). -/
  | tcmp (u : Nat) (slot : Nat) (f : FmtT)
  /-- TMSK (R188). -/
  | tmsk (u : Nat) (slot : Nat) (f : FmtT)
  /-- TRED_ROW (R189). -/
  | tredRow (u : Nat) (slot : Nat) (f : FmtT)
  /-- TRED_COL (R189). -/
  | tredCol (u : Nat) (slot : Nat) (f : FmtT)
  /-- TPERM_ROW (R194). -/
  | tpermRow (u : Nat) (slot : Nat) (f : FmtT)
  /-- TPERM_COL (R195). -/
  | tpermCol (u : Nat) (slot : Nat) (f : FmtT)
  /-- TPERM_T (R196). -/
  | tpermT (u : Nat) (slot : Nat) (f : FmtT)
  /-- TQNT (R198). -/
  | tqnt (u : Nat) (slot : Nat) (f : FmtT)
  /-- TCVT (R203). -/
  | tcvt (u : Nat) (slot : Nat) (f : FmtT)
  /-- TCVT_DQ (R202). -/
  | tcvtDq (u : Nat) (slot : Nat) (f : FmtT)
  /-- TSTAT (R210). -/
  | tstat (u : Nat) (slot : Nat) (f : FmtT)
  /-- SREAD (R254). -/
  | sread (u : Nat) (slot : Nat) (f : FmtA)
  /-- SREADW (R254). -/
  | sreadw (u : Nat) (slot : Nat) (f : FmtA)
  /-- ACPY_H (R267). -/
  | acpyH (u : Nat) (slot : Nat) (f : FmtQ)
  /-- ACPY_T (R267). -/
  | acpyT (u : Nat) (slot : Nat) (f : FmtQ)
  /-- ACPY_SF (R267). -/
  | acpySf (u : Nat) (slot : Nat) (f : FmtQ)
  /-- ACPY_Q (R273). -/
  | acpyQ (u : Nat) (slot : Nat) (f : FmtQ)
  /-- ACWAIT (R281). -/
  | acwait (u : Nat) (slot : Nat) (f : FmtQ)
  /-- ACREAD (R281). -/
  | acread (u : Nat) (slot : Nat) (f : FmtQ)
  /-- BLY_ARRIVE (R284). -/
  | blyArrive (u : Nat) (slot : Nat) (f : FmtQ)
  /-- BLY_WAIT (R288). -/
  | blyWait (u : Nat) (slot : Nat) (f : FmtQ)
  /-- BLY_SYNC (R288). -/
  | blySync (u : Nat) (slot : Nat) (f : FmtQ)
  /-- COPY_COMPLETE (R280). -/
  | copyComplete (u : Nat) (k : Nat)
  /-- STALL (R292). -/
  | stall (u : Nat) (launch : Nat) (hank : Nat)
  /-- WRITE_COMBINING_DRAIN (R340). -/
  | writeCombiningDrain (u : Nat) (line : Nat)
  /-- L1_FILL (R339). -/
  | l1Fill (u : Nat) (line : Nat)
  /-- WALK_COMPLETE (R334). -/
  | walkComplete (cl : Nat) (k : Nat)
  /-- HANK_DISPATCH (R221). -/
  | hankDispatch (cmd : Nat)
  /-- HANK_END (R253). -/
  | hankEnd (u : Nat) (launch : Nat) (hank : Nat)
  /-- CMD_NOP (R457). -/
  | cmdNop (q : Nat) (c : CmdImg)
  /-- LAUNCH (R464). -/
  | launch (q : Nat) (c : CmdImg)
  /-- CANE (R487). -/
  | cane (q : Nat) (c : CmdImg)
  /-- CANE_PUBLISH (R491). -/
  | canePublish (q : Nat) (c : CmdImg)
  /-- DMA (R496). -/
  | dma (q : Nat) (c : CmdImg)
  /-- BEND (R556). -/
  | bend (q : Nat) (c : CmdImg)
  /-- KNOT_SIGNAL (R471). -/
  | knotSignal (q : Nat) (c : CmdImg)
  /-- KNOT_WAIT (R472). -/
  | knotWait (q : Nat) (c : CmdImg)
  /-- QFENCE (R457). -/
  | qfence (q : Nat) (c : CmdImg)
  /-- HINT_HEAVY (R612). -/
  | hintHeavy (q : Nat) (c : CmdImg)
  /-- HINT_LIGHT (R612). -/
  | hintLight (q : Nat) (c : CmdImg)
  /-- HINT_EXPIRY (R612). -/
  | hintExpiry (coil : Nat)
  /-- MARK (R467). -/
  | mark (q : Nat) (c : CmdImg)
  /-- TAIL_READ (R448). -/
  | tailRead (q : Nat) (host : ReadBack Nat)
  /-- COMMAND_FETCH (R454). -/
  | commandFetch (q : Nat) (host : ReadBack (List Byte))
  /-- KNOT_READ (R473). -/
  | knotRead (w : KnotWaiter) (remote : ReadBack Nat)
  /-- COMMAND_COMPLETE (R475). -/
  | commandComplete (cmd : Nat)
  /-- TIMEOUT (R481). -/
  | timeout (cmd : Nat)
  /-- QDT_ENABLE (R441). -/
  | qdtEnable (q : Nat)
  /-- QDT_DISABLE (R443). -/
  | qdtDisable (q : Nat)
  /-- QDT_CANCEL (R444). -/
  | qdtCancel (q : Nat)
  /-- QDT_RESUME (R445). -/
  | qdtResume (q : Nat)
  /-- DMA_BURST_DATA (R493). -/
  | dmaBurstData (e : Nat) (c : Nat) (k : Nat) (ext : ReadBack (List Byte))
  /-- DMA_TRANSFER_COMPLETE (R495). -/
  | dmaTransferComplete (e : Nat) (c : Nat)
  /-- DMA_BUS_ERROR (R510). -/
  | dmaBusError (e : Nat) (addr : Nat)
  /-- DMA_BUS_ERR_DRAIN (R510). -/
  | dmaBusErrDrain (e : Nat)
  /-- STARVED (R513). -/
  | starved (e : Nat) (c : Nat)
  /-- PACE_READ (R507). -/
  | paceRead (e : Nat) (c : Nat)
  /-- DMA_CH_DISABLE (R508). -/
  | dmaChDisable (e : Nat) (c : Nat)
  /-- DMA_CH_ENABLE (R508). -/
  | dmaChEnable (e : Nat) (c : Nat)
  /-- RDS (R382). -/
  | rds (m : Msg)
  /-- RDO (R382). -/
  | rdo (m : Msg)
  /-- UPG (R382). -/
  | upg (m : Msg)
  /-- WBK (R382). -/
  | wbk (m : Msg)
  /-- EVC (R382). -/
  | evc (m : Msg)
  /-- STH (R382). -/
  | sth (m : Msg)
  /-- WNC (R382). -/
  | wnc (m : Msg)
  /-- RNC (R382). -/
  | rnc (m : Msg)
  /-- ANC (R385). -/
  | anc (m : Msg)
  /-- SNS (R379). -/
  | sns (m : Msg)
  /-- SNI (R379). -/
  | sni (m : Msg)
  /-- SNO (R379). -/
  | sno (m : Msg)
  /-- DAT (R379). -/
  | dat (m : Msg)
  /-- DATD (R383). -/
  | datd (m : Msg)
  /-- ACK (R379). -/
  | ack (m : Msg)
  /-- FILL_COMPLETE (R352). -/
  | fillComplete (line : Nat)
  /-- SPILL_READ (R394). -/
  | spillRead (line : Nat) (err : LineErr)
  /-- CLEAT_EXPIRY (R386). -/
  | cleatExpiry (agent : Nat) (line : Nat)
  /-- RECLAIM_END (R399). -/
  | reclaimEnd
  /-- XLT_INV_GO (R333). -/
  | xltInvGo
  /-- XLT_INV_DONE (R333). -/
  | xltInvDone
  /-- HBM_READ (R409). -/
  | hbmRead (line : Nat) (err : LineErr)
  /-- SCRUB_READ (R416). -/
  | scrubRead (stack : Nat) (ch : Nat) (err : LineErr)
  /-- REMAP_COMPLETE (R421). -/
  | remapComplete (stack : Nat) (ch : Nat) (k : Nat) (errs : List LineErr)
  /-- TRACKER_FREE (R418). -/
  | trackerFree (stack : Nat) (ch : Nat) (pch : Nat) (bank : Nat) (row : Nat)
  /-- EYE_TRACK (R425). -/
  | eyeTrack (stack : Nat) (ch : Nat)
  /-- TG_GO (R428). -/
  | tgGo (stack : Nat) (ch : Nat)
  /-- TG_STOP (R434). -/
  | tgStop (stack : Nat) (ch : Nat)
  /-- TG_DONE (R432). -/
  | tgDone (stack : Nat) (ch : Nat) (errs : List (Nat × LineErr))
  /-- HBM_STK_CLEAR (R433). -/
  | hbmStkClear (stack : Nat) (value : Nat)
  /-- HBM_CH_CNT_CLEAR (R434). -/
  | hbmChCntClear (stack : Nat) (ch : Nat) (value : Nat)
  /-- UNI_VTS_CLEAR (R208). -/
  | uniVtsClear (u : Nat) (value : Nat)
  /-- LLM_CNT_CLEAR (R367). -/
  | llmCntClear (n : Nat) (value : Nat)
  /-- COH_CNT_CLEAR (R403). -/
  | cohCntClear (n : Nat) (value : Nat)
  /-- HWS_PORT_CNT_CLEAR (R562). -/
  | hwsPortCntClear (p : Nat) (value : Nat)
  /-- BND_CNT_CLEAR (R565). -/
  | bndCntClear (b : Nat) (value : Nat)
  /-- DLK_CNT_CLEAR (R643). -/
  | dlkCntClear (n : Nat) (value : Nat)
  /-- FLIT (R522). -/
  | flit (p : Nat) (bytes : List Byte) (corrected : Nat) (failed : Bool) (replay : Bool)
  /-- LACK (R522). -/
  | lack (p : Nat) (seq : Nat)
  /-- LNAK (R522). -/
  | lnak (p : Nat) (seq : Nat)
  /-- LCRED (R522). -/
  | lcred (p : Nat) (cls : Nat) (n : Nat)
  /-- LINK_ACK_DUE (R522). -/
  | linkAckDue (p : Nat)
  /-- E2EACK_DUE (R538). -/
  | e2eackDue (peer : Nat) (cls : Nat)
  /-- E2EACK (R538). -/
  | e2eack (peer : Nat) (cls : Nat) (tseq : Nat)
  /-- RD (R544). -/
  | rd (p : Nat) (k : Packet)
  /-- WR (R544). -/
  | wr (p : Nat) (k : Packet)
  /-- AT (R544). -/
  | atomicPacket (p : Nat) (k : Packet)
  /-- BWR (R544). -/
  | bwr (p : Nat) (k : Packet)
  /-- DATA (R543). -/
  | data (p : Nat) (k : Packet)
  /-- ACK_PACKET (R543). -/
  | ackPacket (p : Nat) (k : Packet)
  /-- REFUSE (R544). -/
  | refuse (p : Nat) (k : Packet)
  /-- JOIN (R531). -/
  | join (p : Nat) (j : Join)
  /-- DRAIN (R531). -/
  | drain (src : Nat)
  /-- LEAVE (R531). -/
  | leave (src : Nat)
  /-- LEAVE_BROADCAST (R534). -/
  | leaveBroadcast
  /-- ABSENCE_LIMIT (R531). -/
  | absenceLimit (peer : Nat)
  /-- LEAF_REPORT (R523). -/
  | leafReport (p : Nat) (leaf : Nat) (joined : Bool)
  /-- INDEX_VALID (R528). -/
  | indexValid
  /-- LANE_LOCK_LOSS (R519). -/
  | laneLockLoss (p : Nat)
  /-- LASER_LOSS (R722). -/
  | laserLoss (p : Nat)
  /-- RETRAIN_START (R519). -/
  | retrainStart (p : Nat)
  /-- RETRAIN_END (R519). -/
  | retrainEnd (p : Nat) (ok : Bool)
  /-- PORT_TRAINED (R524). -/
  | portTrained (p : Nat) (plane : Nat) (leaf : Nat) (transit : Nat) (halfTrip : Nat)
  /-- PORT_RETRY (R519). -/
  | portRetry (p : Nat)
  /-- RETRAIN (R562). -/
  | retrain (p : Nat)
  /-- BEND_PACKET (R553). -/
  | bendPacket (b : Nat) (x : Contribution)
  /-- ABORT (R558). -/
  | abort (b : Nat) (group : Nat) (tag : Nat) (number : Nat) (status : Nat)
  /-- COLLECTIVE_COMPLETE (R557). -/
  | collectiveComplete (b : Nat) (cmd : Nat)
  /-- JOBFREQ_RESULT (R615). -/
  | jobfreqResult (epoch : Nat) (level : Nat)
  /-- BAR2_READ (R573). -/
  | bar2Read (rid : Nat) (off : Nat) (len : Nat)
  /-- BAR2_WRITE (R575). -/
  | bar2Write (rid : Nat) (off : Nat) (bytes : List Byte) (poisoned : Bool)
  /-- HPT_FLUSH (R578). -/
  | hptFlush
  /-- HOST_RETRAIN (R582). -/
  | hostRetrain (rate : Nat) (width : Nat) (flit : Bool)
  /-- LINK_DOWN (R583). -/
  | linkDown (acked : Nat)
  /-- HOT_RESET (R583). -/
  | hotReset (acked : Nat)
  /-- FLR (R583). -/
  | flr (acked : Nat)
  /-- PERST_ASSERT (R585). -/
  | perstAssert (acked : Nat)
  /-- PERST_RELEASE (R624). -/
  | perstRelease
  /-- ATTACH (R590). -/
  | attach
  /-- HPT_PARK_HEAD (R591). -/
  | hptParkHead (value : Nat)
  /-- CONFIRM_READBACK (R589). -/
  | confirmReadback (q : Nat) (seen : ReadBack Nat)
  /-- OVERPOWER (R604). -/
  | overpower
  /-- DROOP (R609). -/
  | droop (region : Nat) (level : Nat)
  /-- DROOP_RELAX (R609). -/
  | droopRelax (region : Nat)
  /-- RAMP_GRANT (R611). -/
  | rampGrant (region : Nat)
  /-- RAMP_STEP (R611). -/
  | rampStep (region : Nat)
  /-- REGION_QUIET (R611). -/
  | regionQuiet (region : Nat)
  /-- STAGE_REQUEST (R623). -/
  | stageRequest (target : Nat)
  /-- STAGE_EXIT (R622). -/
  | stageExit
  /-- MEM_READY (R625). -/
  | memReady
  /-- DLK_FLIT (R634). -/
  | dlkFlit (n : Nat) (half : Bool) (bytes : List Byte)
  /-- DLK_NAK (R634). -/
  | dlkNak (n : Nat) (seq : Nat)
  /-- UNIT_SRAM (R651). -/
  | unitSram (u : Nat)
  /-- CLUSTER_CACHE (R651). -/
  | clusterCache (cl : Nat)
  /-- CC_CACHE (R651). -/
  | ccCache (k : Nat)
  /-- VITAL (R401). -/
  | vital (what : VitalFault)
  /-- FENCE_REQ (R653). -/
  | fenceReq
  /-- ERR_STATUS_CLEAR (R662). -/
  | errStatusClear (value : Nat) (meets : Nat)
  /-- ERR_BANK_HEAD (R663). -/
  | errBankHead (b : Nat) (value : Nat)
  /-- WARM_RESET (R666). -/
  | warmReset
  /-- POWER_UP (R717). -/
  | powerUp
  /-- RAIL_RAISE (R717). -/
  | railRaise
  /-- PWR_GOOD (R667). -/
  | pwrGood
  /-- MARVER_START (R667). -/
  | marverStart
  /-- TRAINING_COMPLETE (R667). -/
  | trainingComplete (badHalves : List Nat) (badChannels : List Nat) (unrepaired : List (Nat × Nat))
  /-- MEMTEST_COMPLETE (R667). -/
  | memtestComplete (rows : List (Nat × Nat))
  /-- NODE_START (R698). -/
  | nodeStart
  /-- HART_START (R699). -/
  | hartStart
  /-- KNOT_ARM (R701). -/
  | knotArm (src : OpFrom)
  /-- KNOT_DISARM (R703). -/
  | knotDisarm (src : OpFrom)
  /-- REPORT (R681). -/
  | report (src : OpFrom)
  /-- CERT (R680). -/
  | cert (src : OpFrom)
  /-- LOG (R678). -/
  | log (src : OpFrom)
  /-- EXTEND (R676). -/
  | extend (src : OpFrom)
  /-- FLASH_WRITE (R686). -/
  | flashWrite (src : OpFrom)
  /-- FLASH_ACTIVATE (R686). -/
  | flashActivate (src : OpFrom)
  /-- COMMIT_SVN (R675). -/
  | commitSvn (src : OpFrom)
  /-- REVOKE (R673). -/
  | revoke (src : OpFrom)
  /-- MBX_OP_DONE (R685). -/
  | mbxOpDone (ch : Chan)
  /-- STATUS (R683). -/
  | status
  /-- WAKE (R624). -/
  | wake
  /-- MGMT_WARM_RESET (R665). -/
  | mgmtWarmReset
  /-- SB_RST_ASSERT (R718). -/
  | sbRstAssert
  /-- SB_RST_RELEASE (R718). -/
  | sbRstRelease
  /-- VIN_UNDERVOLTAGE (R712). -/
  | vinUndervoltage
  /-- VIN_OVERVOLTAGE (R712). -/
  | vinOvervoltage
  /-- VIN_LOSS (R713). -/
  | vinLoss
  /-- FTREF_LOSS (R716). -/
  | ftrefLoss
  /-- FTREF_RETURN (R716). -/
  | ftrefReturn
  /-- LINK_UP (R592). -/
  | linkUp (rate : Nat) (width : Nat) (flit : Bool)
  /-- NODE_CORE_INSTRUCTION (R691). -/
  | nodeCoreInstruction (h : Nat) (op : NodeOp)
  /-- MTIMECMP_EXPIRY (R692). -/
  | mtimecmpExpiry (h : Nat)
  /-- SPDM_REQUEST (R682). -/
  | spdmRequest (bytes : List Byte)
  deriving DecidableEq, Repr

end Sys2Proof
end

