-- ==== Sys2Proof/Machine/Float.lean ====
section
/-! DEFINITION. Number formats, exact arithmetic and the one rounding (03_number_formats.md, R93 to R109). Every result is computed
exactly (or bracketed) and rounded once. -/

namespace Sys2Proof.Machine

/-- How a format's top exponent codes are used (R94, R95). -/
inductive Special where
  | ieee      -- top exponent is infinity and NaN
  | ofp8      -- E4M3: only all-ones is NaN, no infinity
  | none      -- no infinity and no NaN
deriving DecidableEq, Repr

/-- A floating-point format (R94, R95). `flush`: R99 applies (FP32, FP64). -/
structure Fmt where
  e : Nat
  m : Nat
  bias : Nat
  special : Special
  flush : Bool
deriving DecidableEq, Repr

/-- FP64 (R95). -/
def fp64 : Fmt := ⟨11, 52, 1023, .ieee, true⟩
/-- FP32 (R95). -/
def fp32 : Fmt := ⟨8, 23, 127, .ieee, true⟩
/-- BF16 (R95). -/
def bf16 : Fmt := ⟨8, 7, 127, .ieee, false⟩
/-- FP16 (R95). -/
def fp16 : Fmt := ⟨5, 10, 15, .ieee, false⟩
/-- E5M2 (R95). -/
def e5m2 : Fmt := ⟨5, 2, 15, .ieee, false⟩
/-- E4M3 (R95). -/
def e4m3 : Fmt := ⟨4, 3, 7, .ofp8, false⟩
/-- E3M2 (R95). -/
def e3m2 : Fmt := ⟨3, 2, 3, .none, false⟩
/-- E2M3 (R95). -/
def e2m3 : Fmt := ⟨2, 3, 1, .none, false⟩
/-- E2M1 (R95). -/
def e2m1 : Fmt := ⟨2, 1, 1, .none, false⟩

/-- The width of a code. -/
def Fmt.width (f : Fmt) : Nat := 1 + f.e + f.m

/-- The sign bit's weight. -/
def Fmt.signBit (f : Fmt) : Nat := 2 ^ (f.e + f.m)

/-- The magnitude code of the largest finite value (R95). -/
def Fmt.maxCode (f : Fmt) : Nat :=
  match f.special with
  | .ieee => (2 ^ f.e - 1) * 2 ^ f.m - 1
  | .ofp8 => 2 ^ (f.e + f.m) - 2
  | .none => 2 ^ (f.e + f.m) - 1

/-- The infinity code, sign clear (R95). -/
def Fmt.infCode (f : Fmt) : Nat := (2 ^ f.e - 1) * 2 ^ f.m

/-- The canonical NaN (R96). -/
def Fmt.nanCode (f : Fmt) : Nat :=
  match f.special with
  | .ieee => (2 ^ f.e - 1) * 2 ^ f.m + 2 ^ (f.m - 1)
  | .ofp8 => 2 ^ (f.e + f.m) - 1
  | .none => 0

/-- A value: NaN, an infinity, or (-1)^neg × man × 2^exp exactly. -/
inductive FVal where
  | nan
  | inf (neg : Bool)
  | fin (neg : Bool) (man : Nat) (exp : Int)
deriving DecidableEq, Repr

/-- Sign, exponent field and mantissa field of a code (R94). -/
def Fmt.sign (f : Fmt) (c : Nat) : Bool := c.testBit (f.e + f.m)
/-- The exponent field (R94). -/
def Fmt.expF (f : Fmt) (c : Nat) : Nat := bits c f.m f.e
/-- The mantissa field (R94). -/
def Fmt.manF (f : Fmt) (c : Nat) : Nat := bits c 0 f.m

/-- The value of a code, subnormals at full value (R94, R95). -/
def Fmt.value (f : Fmt) (c : Nat) : FVal :=
  let s := f.sign c
  let e := f.expF c
  let m := f.manF c
  let top := 2 ^ f.e - 1
  if e = 0 then .fin s m (1 - (f.bias : Int) - f.m)
  else if e = top ∧ f.special = .ieee then (if m = 0 then .inf s else .nan)
  else if e = top ∧ f.special = .ofp8 ∧ m = 2 ^ f.m - 1 then .nan
  else .fin s (2 ^ f.m + m) ((e : Int) - f.bias - f.m)

/-- Is the code a subnormal (nonzero with E = 0)? -/
def Fmt.isSub (f : Fmt) (c : Nat) : Bool := f.expF c == 0 && f.manF c != 0

/-- An input as the unit takes it: an FP32 or FP64 subnormal is a zero of its sign (R99). -/
def Fmt.input (f : Fmt) (c : Nat) : FVal :=
  if f.flush && f.isSub c then .fin (f.sign c) 0 0 else f.value c

/-- Number of bits of a natural number. -/
def bitLen (n : Nat) : Nat := if n = 0 then 0 else Nat.log2 n + 1

/-- A finite result known exactly (`sticky = false`) or to lie strictly between man and man+1 units of
2^exp. -/
structure Exact where
  neg : Bool
  man : Nat
  exp : Int
  sticky : Bool
deriving DecidableEq, Repr

/-- Does the rounding mode (R101: 0 RNE, 1 RTZ, 2 RDN, 3 RUP, 4 RNA) take the next unit up in magnitude? `rem` of
`unit` is discarded. -/
def roundUp (rm : Nat) (neg odd : Bool) (rem unit : Nat) (sticky : Bool) : Bool :=
  let exact := rem = 0 && !sticky
  if exact then false else
  let twice := 2 * rem
  let above := twice > unit || (twice = unit && sticky)
  let tie := twice = unit && !sticky
  match rm with
  | 0 => above || (tie && odd)
  | 1 => false
  | 2 => neg
  | 3 => !neg
  | 4 => above || tie
  | _ => false

/-- Drop the low `k` bits of an exact value's mantissa by one rounding; the flag says inexact. An inexact value carries
more bits than any format keeps, so its sticky part is only a fraction of a dropped unit. -/
def dropBits (rm : Nat) (x : Exact) (k : Nat) : Nat × Bool :=
  let unit := 2 ^ k
  let q := x.man / unit
  let rem := x.man % unit
  let up := if k = 0 then
      (x.sticky && ((rm == 2 && x.neg) || (rm == 3 && !x.neg)))
    else roundUp rm x.neg (q % 2 = 1) rem unit x.sticky
  (if up then q + 1 else q, rem ≠ 0 || x.sticky)

/-- One rounding to p significant bits with an unbounded exponent (R102): mantissa, exponent, inexact. -/
def roundP (rm p : Nat) (x : Exact) : Nat × Int × Bool :=
  let n := bitLen x.man
  if n ≤ p then
    let (q, ix) := dropBits rm x 0
    (q, x.exp, ix)
  else
    let k := n - p
    let (q, ix) := dropBits rm x k
    (q, x.exp + k, ix)

/-- What one delivered element says for the status counters (R204): the flags of one rounding. -/
structure RoundFlags where
  overflow : Bool := false
  flushOut : Bool := false
  underflow : Bool := false
  saturate : Bool := false
deriving DecidableEq, Repr

/-- The overflow rule R103 for a floating-point destination: the code for sign `neg`. -/
def Fmt.overflowCode (f : Fmt) (rm : Nat) (sat neg : Bool) : Nat :=
  let sgn := if neg then f.signBit else 0
  let big := sgn + f.maxCode
  let infn := match f.special with
    | .ieee => sgn + f.infCode
    | .ofp8 => f.nanCode
    | .none => big
  if sat then big else
  match f.special with
  | .none => big
  | _ =>
    match rm with
    | 1 => big
    | 2 => if neg then infn else big
    | 3 => if neg then big else infn
    | _ => infn

/-- The value's largest finite magnitude as mantissa and exponent. -/
def Fmt.maxVal (f : Fmt) : Nat × Int :=
  match f.value f.maxCode with
  | .fin _ m e => (m, e)
  | _ => (0, 0)

/-- Compare two nonnegative dyadics: a < b. -/
def dyLt (ma : Nat) (ea : Int) (mb : Nat) (eb : Int) : Bool :=
  let k := min ea eb
  decide (ma * 2 ^ (ea - k).toNat < mb * 2 ^ (eb - k).toNat)

/-- Encode a nonnegative dyadic that the format holds exactly (normal or subnormal). -/
def Fmt.encodeMag (f : Fmt) (man : Nat) (exp : Int) : Nat :=
  if man = 0 then 0 else
  let emin : Int := 1 - (f.bias : Int) - f.m       -- exponent of one subnormal unit
  let n := bitLen man
  let top : Int := exp + n - 1                      -- exponent of the leading bit
  if top < 1 - (f.bias : Int) then
    -- subnormal: a whole number of units
    if exp ≥ emin then man * 2 ^ (exp - emin).toNat else man / 2 ^ (emin - exp).toNat
  else
    let sig := if n ≤ f.m + 1 then man * 2 ^ (f.m + 1 - n) else man / 2 ^ (n - (f.m + 1))
    (top + f.bias).toNat * 2 ^ f.m + (sig - 2 ^ f.m)

/-- Round an exact finite value to a floating-point format (R102, R99, R103, R105): the code and its flags. Below the
smallest normal a short format rounds the exact value once at its subnormal unit. -/
def Fmt.round (f : Fmt) (rm : Nat) (sat : Bool) (x : Exact) : Nat × RoundFlags :=
  let sgn := if x.neg then f.signBit else 0
  if x.man = 0 ∧ x.sticky = false then (sgn, {})
  else
    let (q, e, _) := roundP rm (f.m + 1) x
    let minN : Int := 1 - (f.bias : Int)
    let below := q = 0 || decide ((e + bitLen q - 1 : Int) < minN)
    if below then
      if f.flush then (sgn, { flushOut := true })
      else
        let unit : Int := minN - f.m
        let r := if x.exp ≥ unit then
            (x.man * 2 ^ (x.exp - unit).toNat
              + (if x.sticky && ((rm == 2 && x.neg) || (rm == 3 && !x.neg)) then 1 else 0), x.sticky)
          else dropBits rm x (unit - x.exp).toNat
        (sgn + f.encodeMag r.1 unit, { underflow := r.2 })
    else
      let (mm, me) := f.maxVal
      if dyLt mm me q e then
        let clamp := sat || f.special = .none
        (f.overflowCode rm sat x.neg, { overflow := !clamp, saturate := clamp })
      else (sgn + f.encodeMag q e, {})

/-- The exact sum of two dyadics as a signed dyadic; zero signs by R105 under rm. -/
def addExact (rm : Nat) (na : Bool) (ma : Nat) (ea : Int) (nb : Bool) (mb : Nat) (eb : Int) : Exact :=
  let k := min ea eb
  let a := ma * 2 ^ (ea - k).toNat
  let b := mb * 2 ^ (eb - k).toNat
  if na = nb then ⟨na, a + b, k, false⟩
  else if a = b then ⟨rm == 2, 0, k, false⟩
  else if a > b then ⟨na, a - b, k, false⟩
  else ⟨nb, b - a, k, false⟩

/-- An intermediate result: NaN (invalid or propagated), an infinity (exact or by division by zero), or finite. -/
inductive Res where
  | nan (invalid : Bool)
  | inf (neg divZero : Bool)
  | fin (x : Exact)
deriving DecidableEq, Repr

/-- a + b (R105). -/
def addV (rm : Nat) : FVal → FVal → Res
  | .nan, _ => .nan false
  | _, .nan => .nan false
  | .inf s, .inf t => if s = t then .inf s false else .nan true
  | .inf s, _ => .inf s false
  | _, .inf t => .inf t false
  | .fin s m e, .fin t n g => .fin (addExact rm s m e t n g)

/-- −v. -/
def FVal.neg : FVal → FVal
  | .nan => .nan
  | .inf s => .inf (!s)
  | .fin s m e => .fin (!s) m e

/-- a × b, exact (R105). -/
def mulV : FVal → FVal → Res
  | .nan, _ => .nan false
  | _, .nan => .nan false
  | .inf s, .inf t => .inf (xor s t) false
  | .inf s, .fin t n _ => if n = 0 then .nan true else .inf (xor s t) false
  | .fin s m _, .inf t => if m = 0 then .nan true else .inf (xor s t) false
  | .fin s m e, .fin t n g => .fin ⟨xor s t, m * n, e + g, false⟩

/-- a × b + c with nothing rounded between (R182 FMA). -/
def fmaV (rm : Nat) (a b c : FVal) : Res :=
  match mulV a b with
  | .nan iv => if c = .nan then .nan false else .nan iv
  | .inf s _ => addV rm (.inf s) c
  | .fin x => addV rm (.fin x.neg x.man x.exp) c

/-- Bits of a quotient or root kept before the sticky bit. -/
def workBits : Nat := 70

/-- a ÷ b (R182 DIV): kept bits and sticky. -/
def divV : FVal → FVal → Res
  | .nan, _ => .nan false
  | _, .nan => .nan false
  | .inf _, .inf _ => .nan true
  | .inf s, .fin t _ _ => .inf (xor s t) false
  | .fin s _ _, .inf t => .fin ⟨xor s t, 0, 0, false⟩
  | .fin s m e, .fin t n g =>
    if n = 0 then (if m = 0 then .nan true else .inf (xor s t) true)
    else
      let k := workBits + bitLen n
      let num := m * 2 ^ k
      .fin ⟨xor s t, num / n, e - g - k, num % n ≠ 0⟩

/-- Newton's iteration from above for the integer square root; `fuel` bounds it. -/
def isqrtGo : Nat → Nat → Nat → Nat
  | 0, _, x => x
  | fuel + 1, n, x =>
    let y := (x + n / x) / 2
    if y < x then isqrtGo fuel n y else x

/-- Integer square root (floor). -/
def isqrt (n : Nat) : Nat :=
  if n = 0 then 0 else isqrtGo (bitLen n + 8) n (2 ^ ((bitLen n + 1) / 2))

/-- √a (R182 SQRT; IEEE 754: √−0 = −0). -/
def sqrtV : FVal → Res
  | .nan => .nan false
  | .inf s => if s then .nan true else .inf false false
  | .fin s m e =>
    if m = 0 then .fin ⟨s, 0, 0, false⟩
    else if s then .nan true
    else
      let (m, e) := if e % 2 = 0 then (m, e) else (2 * m, e - 1)
      let k := 2 * workBits
      let n := m * 2 ^ k
      let r := isqrt n
      .fin ⟨false, r, e / 2 - workBits, r * r ≠ n⟩

/-- 1 ÷ √a (R182 RSQRT; IEEE 754 rSqrt). -/
def rsqrtV : FVal → Res
  | .nan => .nan false
  | .inf s => if s then .nan true else .fin ⟨false, 0, 0, false⟩
  | .fin s m e =>
    if m = 0 then .inf s true
    else if s then .nan true
    else
      let (m, e) := if e % 2 = 0 then (m, e) else (2 * m, e - 1)
      let k := workBits + bitLen m
      let r := isqrt (2 ^ (2 * k) / m)
      .fin ⟨false, r, -(e / 2) - k, r * r * m ≠ 2 ^ (2 * k)⟩

/-- Round an exact value to an integer by rm (R109): magnitude with sign. -/
def roundInt (rm : Nat) (x : Exact) : Int :=
  let mag := if x.exp ≥ 0 then x.man * 2 ^ x.exp.toNat else (dropBits rm x (-x.exp).toNat).1
  if x.neg then -(mag : Int) else mag

/-- Order of two numbers, none when unordered (R107: zeros equal). -/
def cmpV : FVal → FVal → Option Ordering
  | .nan, _ => none
  | _, .nan => none
  | .inf s, .inf t => some (if s = t then .eq else if s then .lt else .gt)
  | .inf s, .fin _ _ _ => some (if s then .lt else .gt)
  | .fin _ _ _, .inf t => some (if t then .gt else .lt)
  | .fin s m e, .fin t n g =>
    let k := min e g
    let a : Int := (if s then -1 else 1) * ((m * 2 ^ (e - k).toNat : Nat) : Int)
    let b : Int := (if t then -1 else 1) * ((n * 2 ^ (g - k).toNat : Nat) : Int)
    some (compare a b)

/-- The condition codes of R187 on an ordering. -/
def condHolds (cond : Nat) (o : Option Ordering) : Bool :=
  match cond, o with
  | 0, some .eq => true
  | 1, some .eq => false
  | 1, _ => true
  | 2, some .lt => true
  | 3, some .lt => true
  | 3, some .eq => true
  | 4, some .gt => true
  | 5, some .gt => true
  | 5, some .eq => true
  | 6, none => true
  | 7, some _ => true
  | _, _ => false

/-- IEEE minimum or maximum of two values: the first is taken when `true` (R108: −0 < +0). -/
def takeFirst (isMax : Bool) (a b : FVal) : Bool :=
  let sgn : FVal → Bool := fun v => match v with | .nan => false | .inf s => s | .fin s _ _ => s
  match cmpV a b with
  | none => true
  | some .eq => if isMax then (!sgn a || sgn b) else (sgn a || !sgn b)
  | some .lt => !isMax
  | some .gt => isMax

end Sys2Proof.Machine
end

