-- ==== Sys2Proof/Machine/Map.lean ====
section
/-! DEFINITION. The numbering of the package's parts and its physical address map (R15 to R35). -/

namespace Sys2Proof.Machine

open Sys2Proof

/-- Region index of a unit index: bits [9:5] (R16). -/
def regionOf (u : Nat) : Nat := bits u 5 5
/-- Cluster index of a unit index: bits [9:2] (R16). -/
def clusterOf (u : Nat) : Nat := bits u 2 8
/-- Tensor die of a unit index: bits [9:7] (R15). -/
def dieOf (u : Nat) : Nat := bits u 7 3
/-- Unit in cluster: bits [1:0] (R15). -/
def unitInCluster (u : Nat) : Nat := bits u 0 2
/-- The four units of a cluster (R15). -/
def unitsOfCluster (c : Nat) : List Nat := (List.range 4).map (fun i => 4 * c + i)
/-- The 32 units of a region (R15). -/
def unitsOfRegion (r : Nat) : List Nat := (List.range 32).map (fun i => 32 * r + i)
/-- The 128 units of a tensor die (R15). -/
def unitsOfDie (d : Nat) : List Nat := (List.range 128).map (fun i => 128 * d + i)
/-- The core die of complex k: CC0 to CC5 on die number 8, CC6 to CC11 on 9 (R17, R18). -/
def dieOfCc (k : Nat) : Nat := if k < 6 then 8 else 9
/-- The complex of a hart (R18). -/
def ccOfHart (h : Nat) : Nat := h / 8
/-- The near stacks of a tensor die (R13). -/
def nearStacks (d : Nat) : List Nat := [3 * d, 3 * d + 1, 3 * d + 2]

/-- The bytes of HBM in one stack's block (R21). -/
def stackBytes : Nat := 0x1000000000

/-- What a local physical address names (R21). -/
inductive Place where
  /-- HBM under its direct address. -/
  | hbm (direct : Nat)
  /-- The backed scratchpad window, by offset. -/
  | scratch (off : Nat)
  /-- The scratchpad window at or beyond its backed size. -/
  | scratchUnbacked
  /-- Register space: offset. -/
  | regs (off : Nat)
  /-- A reserved range. -/
  | reserved
  deriving DecidableEq, Repr

/-- The direct address an interleaved-aperture address names (R29). -/
def apertureDirect (a : Nat) : Nat :=
  let o := a - 0x20000000000
  let n := o / 4096
  (n % 24) * stackBytes + (n / 24) * 4096 + o % 4096

/-- The local physical map (R21), aperture addresses already turned into direct ones (R30); `backed` is S. -/
def place (backed a : Nat) : Place :=
  if a < 0x18000000000 then .hbm a
  else if a < 0x20000000000 then .reserved
  else if a < 0x38000000000 then .hbm (apertureDirect a)
  else if a < 0x3C000000000 then .reserved
  else if a < 0x3F000000000 then
    (if a - 0x3C000000000 < backed then .scratch (a - 0x3C000000000) else .scratchUnbacked)
  else if a < 0x40000000000 then .regs (a - 0x3F000000000)
  else .reserved

/-- The stack of a direct HBM address: A[41:36] (R27). -/
def stackOf (a : Nat) : Nat := bits a 36 6
/-- The home slice of a direct HBM address (R27). -/
def homeSlice (a : Nat) : Nat := 2 * stackOf a + bits a 7 1
/-- The line of an address: its address with bits [6:0] clear. -/
def lineOf (a : Nat) : Nat := a / 128 * 128

/-- The package index a global address names: PA[55:42] (R31). -/
def paIndex (pa : Nat) : Nat := bits pa 42 14
/-- The local part of a global address: PA[41:0] (R31). -/
def paLocal (pa : Nat) : Nat := bits pa 0 42

/-- How the package treats a request's package index (R32, R35). -/
inductive Locality where
  | here
  | remote (index : Nat)
  | noIndex
  deriving DecidableEq, Repr

/-- R32, and R35 while the package's own index is not valid. -/
def locality (indexValid : Bool) (own pa : Nat) : Locality :=
  if indexValid then (if paIndex pa = own then .here else .remote (paIndex pa))
  else if paIndex pa = 0 then .here else .noIndex

end Sys2Proof.Machine
end

