-- ==== Sys2Proof/Config.lean ====
section
/-! DEFINITION. What an implementation fixes and the specification leaves open: free values, with no body, so that no
proof can see them (notes/assumptions/3.md). -/

namespace Sys2Proof

/-- The n-th free 64-bit value: the step supplies n from `State.free` and advances it. -/
opaque Config.freeWord : Nat → W64

/-- The n-th free choice between two allowed outcomes. -/
opaque Config.freeBit : Nat → Bool

/-- A transcendental result that no working precision decided (by TEW code, operand code and rounding mode). -/
opaque Config.undecided : Nat → Nat → Nat → Nat

/-- Does (r, s) sign the 256-bit message digest under the key whose SHA-256 digest is given (R63, R673)? The key itself is
in no rule of the specification. -/
opaque Config.sigOk : (keyDigest msgDigest r s : Nat) → Bool

/-- The ECDSA signature the alias key makes over a digest (R681): the key derives from the device secret, which is in no
rule. -/
opaque Config.aliasSign : (aliasSeed msgDigest : Nat) → Nat × Nat

/-- The 256-bit fused device secret U (R679). -/
opaque Config.deviceSecret : Nat

/-- The DER bytes of the certificate chain of R680 for a device and alias seed. -/
opaque Config.certChain : (uid aliasSeed meas0 meas1 meas2 svnMarver svnNode : Nat) → List Byte

/-- The signature of the SPDM 1.2 responder of R682 with the alias key, over what has passed since its VERSION response: the
standard's transcript rules are in no rule of this manual. -/
opaque Config.spdmSign : (aliasSeed : Nat) → (transcript : List Byte) → List Byte

/-- The digest of the Peonwell root certificate that heads an SPDM certificate chain: the root is in no rule (R680). -/
opaque Config.spdmRootHash : List Byte

/-- The SPDM measurement summary hash of a CHALLENGE_AUTH response, by the kind asked for. -/
opaque Config.spdmSummary : (kind : Nat) → (measurements : List Nat) → List Byte

end Sys2Proof
end

