-- ==== Sys2Proof/Machine/Transcend.lean ====
section
/-! DEFINITION. The seven transcendental functions of R182, bracketed by integer intervals of rising precision until both
ends round alike, so that each result is the exact value rounded once (R183, R184). -/

namespace Sys2Proof.Machine

/-- Sum of a power series by repeated term ratios: the n-th term is the previous one times `num n`, divided by `den n`;
terms are floored at scale 2^P, so each loses less than one unit. -/
def seriesGo (num den : Nat → Nat) : Nat → Nat → Nat → Nat → Nat
  | 0, _, _, acc => acc
  | fuel + 1, n, term, acc =>
    let t := term * num n / den n
    if t = 0 then acc else seriesGo num den fuel (n + 1) t (acc + t)

/-- atanh(p/q) at scale 2^P, low by less than `fuel` units: Σ z^(2k+1)/(2k+1). -/
def atanhGo (p2 q2 : Nat) : Nat → Nat → Nat → Nat → Nat
  | 0, _, _, acc => acc
  | fuel + 1, k, pw, acc =>
    let pw' := pw * p2 / q2
    if pw' = 0 then acc else atanhGo p2 q2 fuel (k + 1) pw' (acc + pw' / (2 * k + 3))

/-- atanh(p/q) for p/q ≤ 1/2 at scale 2^P, within `P + 8` units below the true value. -/
def atanhLo (P p q : Nat) : Nat :=
  let t := 2 ^ P * p / q
  atanhGo (p * p) (q * q) (P + 8) 0 t t

/-- ln 2 = 2·atanh(1/3) at scale 2^P. -/
def ln2Lo (P : Nat) : Nat := 2 * atanhLo P 1 3

/-- Alternating arctangent series of 1/q at scale 2^P. -/
def atanInvGo (q2 : Nat) : Nat → Nat → Nat → Int → Int
  | 0, _, _, acc => acc
  | fuel + 1, k, pw, acc =>
    let pw' := pw / q2
    let t : Int := pw' / (2 * k + 3)
    if pw' = 0 then acc else atanInvGo q2 fuel (k + 1) pw' (if k % 2 = 0 then acc - t else acc + t)

/-- π at scale 2^P by Machin's formula, within `P + 64` units. -/
def piApprox (P : Nat) : Int :=
  let at5 := atanInvGo 25 (P + 8) 0 (2 ^ P / 5) ((2 ^ P / 5 : Nat) : Int)
  let at239 := atanInvGo (239 * 239) (P + 8) 0 (2 ^ P / 239) ((2 ^ P / 239 : Nat) : Int)
  16 * at5 - 4 * at239

/-- An interval at scale 2^P that holds the true value strictly inside. -/
structure Iv where
  lo : Int
  hi : Int
deriving DecidableEq, Repr

/-- A signed dyadic at scale 2^P, floored. -/
def dyAt (P : Nat) (neg : Bool) (m : Nat) (e : Int) : Int :=
  let k := e + P
  let v : Int := if k ≥ 0 then ((m * 2 ^ k.toNat : Nat) : Int) else ((m / 2 ^ (-k).toNat : Nat) : Int)
  if neg then -v else v

/-- e^r for r in [0, 1) at scale 2^P, low by less than 2P + 64 units. -/
def expSmall (P r : Nat) : Nat :=
  2 ^ P + seriesGo (fun _ => r) (fun n => n * 2 ^ P) (P + 8) 1 (2 ^ P) 0

/-- A bracketed positive result: mantissa interval at exponent `exp`. -/
structure Br where
  lo : Nat
  hi : Nat
  exp : Int
  neg : Bool
deriving DecidableEq, Repr

/-- 2^x for a dyadic x at working precision P: x = k + f, 2^f = e^(f ln 2). -/
def exp2Br (P : Nat) (neg : Bool) (m : Nat) (e : Int) : Br :=
  let x := dyAt P neg m e
  let k := x / (2 ^ P : Int)
  let f := (x % (2 ^ P : Int)).toNat
  let r := f * ln2Lo P / 2 ^ P
  let v := expSmall P r
  ⟨v - (8 * P + 512), v + (8 * P + 512), k - P, false⟩

/-- e^x for a dyadic x at working precision P (|x| < 2^16): x = k ln 2 + r. -/
def expBr (P : Nat) (neg : Bool) (m : Nat) (e : Int) : Br :=
  let Q := P + 40
  let x := dyAt Q neg m e
  let l : Int := ln2Lo Q
  let k := x / l
  let r := (x % l).toNat
  let v := expSmall Q r
  let err := 2 ^ 30 + 16 * P
  ⟨v - err, v + err, k - Q, false⟩

/-- ln of m·2^e > 0 as an interval at scale 2^P. -/
def lnIv (P m : Nat) (e : Int) : Iv :=
  -- y = m / 2^n in [1/2, 1), moved to [2/3, 4/3)
  let n := bitLen m
  let up := decide (3 * m < 2 * 2 ^ n)
  let den := if up then 2 ^ (n - 1) else 2 ^ n
  let k : Int := if up then e + n - 1 else e + n
  let neg := decide (m < den)
  let d := if neg then den - m else m - den
  let a := 2 * atanhLo P d (m + den)
  let v : Int := (if neg then -(a : Int) else a) + k * (ln2Lo P : Int)
  let err : Int := (2 * P + 64) * (k.natAbs + 2) + 64
  ⟨v - err, v + err⟩

/-- log2 of m·2^e > 0 as an interval at scale 2^P. -/
def log2Iv (P m : Nat) (e : Int) : Iv :=
  let Q := P + 16
  let i := lnIv Q m e
  let l : Int := ln2Lo Q
  let lh : Int := l + 2 * Q + 64
  let q : Int → Int → Int := fun a b => a * 2 ^ P / b
  let lo := min (q i.lo l) (q i.lo lh)
  let hi := max (q i.hi l) (q i.hi lh)
  ⟨lo - 2, hi + 2⟩

/-- Taylor series of sine or cosine at scale 2^P: terms t, then t·x²/((j+1)(j+2)) alternating. -/
def trigGo (x2 : Nat) (P : Nat) : Nat → Nat → Nat → Bool → Int → Int
  | 0, _, _, _, acc => acc
  | fuel + 1, j, t, plus, acc =>
    let t' := t * x2 / 2 ^ P / ((j + 1) * (j + 2))
    if t' = 0 then acc
    else trigGo x2 P fuel (j + 2) t' (!plus) (if plus then acc + t' else acc - t')

/-- sin(π f) for f = p/2^P in [0, 1/2] as an interval at scale 2^P. -/
def sinPiIv (P p : Nat) : Iv :=
  let x := (piApprox P * p / 2 ^ P).toNat
  let x2 := x * x / 2 ^ P
  let v := trigGo x2 P (P + 8) 1 x false x
  ⟨v - (16 * P + 1024), v + (16 * P + 1024)⟩

/-- cos(π f) for f = p/2^P in [0, 1/2] as an interval at scale 2^P. -/
def cosPiIv (P p : Nat) : Iv :=
  let x := (piApprox P * p / 2 ^ P).toNat
  let x2 := x * x / 2 ^ P
  let v := trigGo x2 P (P + 8) 0 (2 ^ P) false (2 ^ P)
  ⟨v - (16 * P + 1024), v + (16 * P + 1024)⟩

/-- tanh of a positive dyadic m·2^e < 128 as an interval at scale 2^P: 1 − 2/(e^{2x}+1). -/
def tanhBr (P m : Nat) (e : Int) : Br :=
  let b := expBr P false m (e + 1)
  -- e^{2x} lies in (lo, hi)·2^exp; (E−1)/(E+1)
  let one : Int := 2 ^ (-b.exp).toNat
  let f : Nat → Nat := fun v => if b.exp ≤ 0 then (((v : Int) - one).toNat * 2 ^ P) / (v + one.toNat) else 2 ^ P
  ⟨f b.lo - 1, f b.hi + 1, -(P : Int), false⟩

/-- A signed interval as a bracketed magnitude, when it excludes zero. -/
def Iv.br (i : Iv) (P : Nat) : Option Br :=
  if 0 < i.lo then some ⟨i.lo.toNat, i.hi.toNat, -(P : Int), false⟩
  else if i.hi < 0 then some ⟨(-i.hi).toNat, (-i.lo).toNat, -(P : Int), true⟩
  else none

/-- Round both ends of a bracket; a result when they agree and nothing is undecided. -/
def Br.rounded (f : Fmt) (rm : Nat) (b : Br) : Option (Nat × RoundFlags) :=
  let x := f.round rm false ⟨b.neg, b.lo, b.exp, true⟩
  let y := f.round rm false ⟨b.neg, b.hi - 1, b.exp, true⟩
  if x = y then some x else none

/-- The transcendental operations of R182 by their TEW code. -/
def bracket (op P : Nat) (neg : Bool) (m : Nat) (e : Int) : Option Br :=
  match op with
  | 0x14 => some (exp2Br P neg m e)
  | 0x15 => some (expBr P neg m e)
  | 0x16 => (log2Iv P m e).br P
  | 0x17 => (lnIv P m e).br P
  | 0x1A => some { tanhBr P m e with neg := neg }
  | _ => none

/-- Rising precisions tried in turn; should none decide, the value is free (UNVERIFIED that one always does:
notes/assumptions/12.md). -/
def zivGo (f : Fmt) (rm op : Nat) (neg : Bool) (m : Nat) (e : Int) : List Nat → Nat × RoundFlags
  | [] => (Config.undecided op (m + if neg then 1 else 0) rm % 2 ^ f.width, {})
  | P :: ps =>
    match (bracket op P neg m e).bind (Br.rounded f rm) with
    | some r => r
    | none => zivGo f rm op neg m e ps

/-- The precisions tried, in bits. -/
def zivPs : List Nat := [192, 320, 640, 1280]

/-- sin(πa) or cos(πa) for a dyadic: reduce modulo 2 exactly, then a quarter turn. `none`: an exact zero. -/
def trigPi (f : Fmt) (rm : Nat) (isCos neg : Bool) (m : Nat) (e : Int) : Nat × RoundFlags :=
  -- a = m·2^e; fractional turns at scale 2^F
  let F : Nat := if e < 0 then (-e).toNat else 0
  let a := if e < 0 then m else m * 2 ^ e.toNat
  let r := a % (2 * 2 ^ F)                 -- |a| mod 2 at scale 2^F
  let half := r / 2 ^ F                    -- 0 or 1: past one half turn
  let fr := r % 2 ^ F                      -- fraction of a half turn
  let twice := 2 * fr
  -- sin: sign flips in the second half turn; cos: sign flips past a quarter turn
  let pastQ := decide (twice > 2 ^ F)
  let frm := if pastQ then 2 ^ F - fr else fr   -- folded into [0, 1/2]
  let sneg := xor neg (half = 1)
  let cneg := xor (half = 1) pastQ
  let one : Bool → Nat × RoundFlags := fun s => f.round rm false ⟨s, 1, 0, false⟩
  let zero : Bool → Nat × RoundFlags := fun s => (if s then f.signBit else 0, {})
  let go : Bool → (Nat → Iv) → Nat × RoundFlags := fun s iv =>
    match zivPs.findSome? (fun P =>
      if F ≤ P then ((iv P).br P).bind (fun b => Br.rounded f rm { b with neg := s }) else none) with
    | some r => r
    | none => (Config.undecided (if isCos then 0x19 else 0x18) m rm % 2 ^ f.width, {})
  if isCos then
    if 2 * frm = 2 ^ F then zero false
    else if frm = 0 then one cneg
    else go cneg (fun P => cosPiIv P (frm * 2 ^ (P - F)))
  else
    if frm = 0 then zero neg
    else if 2 * frm = 2 ^ F then one sneg
    else go sneg (fun P => sinPiIv P (frm * 2 ^ (P - F)))

/-- Is m·2^e a whole number, and which? -/
def dyInt (neg : Bool) (m : Nat) (e : Int) : Option Int :=
  let v : Option Nat := if e ≥ 0 then some (m * 2 ^ e.toNat)
    else if m % 2 ^ (-e).toNat = 0 then some (m / 2 ^ (-e).toNat) else none
  v.map (fun x => if neg then -(x : Int) else x)

/-- Is m·2^e a power of two? -/
def dyPow2 (m : Nat) (e : Int) : Option Int :=
  if m = 2 ^ (bitLen m - 1) ∧ m ≠ 0 then some (e + bitLen m - 1) else none

/-- Is |m·2^e| at least 2^k? -/
def dyBig (m : Nat) (e k : Int) : Bool := decide (m ≠ 0) && decide (k ≤ e + bitLen m - 1)

/-- Outcome of a transcendental: NaN (invalid or not), an infinity (division by zero or not), or a rounded code. -/
inductive TRes where
  | nan (invalid : Bool)
  | inf (neg divZero : Bool)
  | code (c : Nat) (fl : RoundFlags)
deriving DecidableEq, Repr

/-- EXP2 … TANH of R182 on a value (R184: IEEE 754-2019 clause 9.2 special cases). -/
def transcend (f : Fmt) (rm op : Nat) (v : FVal) : TRes :=
  let rnd : Exact → TRes := fun x => let r := f.round rm false x; .code r.1 r.2
  let ziv : Bool → Nat → Int → TRes := fun n m e => let r := zivGo f rm op n m e zivPs; .code r.1 r.2
  match op, v with
  | _, .nan => .nan false
  | 0x14, .inf s | 0x15, .inf s => if s then .code 0 {} else .inf false false
  | 0x14, .fin s m e =>
    if m = 0 then rnd ⟨false, 1, 0, false⟩
    else if dyBig m e 12 then rnd ⟨false, 2 ^ 100, if s then -(2 ^ 14) else 2 ^ 14, true⟩
    else match dyInt s m e with
      | some k => rnd ⟨false, 1, k, false⟩
      | none => ziv s m e
  | 0x15, .fin s m e =>
    if m = 0 then rnd ⟨false, 1, 0, false⟩
    else if dyBig m e 12 then rnd ⟨false, 2 ^ 100, if s then -(2 ^ 14) else 2 ^ 14, true⟩
    else ziv s m e
  | 0x16, .inf s | 0x17, .inf s => if s then .nan true else .inf false false
  | 0x16, .fin s m e =>
    if m = 0 then .inf true true else if s then .nan true
    else match dyPow2 m e with
      | some k => rnd ⟨decide (k < 0), k.natAbs, 0, false⟩
      | none => ziv false m e
  | 0x17, .fin s m e =>
    if m = 0 then .inf true true else if s then .nan true
    else if dyPow2 m e = some 0 then .code 0 {} else ziv false m e
  | 0x18, .inf _ | 0x19, .inf _ => .nan true
  | 0x18, .fin s m e => if m = 0 then .code (if s then f.signBit else 0) {} else
      let r := trigPi f rm false s m e; .code r.1 r.2
  | 0x19, .fin s m e => if m = 0 then rnd ⟨false, 1, 0, false⟩ else
      let r := trigPi f rm true s m e; .code r.1 r.2
  | 0x1A, .inf s => rnd ⟨s, 1, 0, false⟩
  | 0x1A, .fin s m e =>
    if m = 0 then .code (if s then f.signBit else 0) {}
    else if dyBig m e 7 then rnd ⟨s, 2 ^ 180 - 1, -180, true⟩
    else ziv s m e
  | _, _ => .nan true

end Sys2Proof.Machine
end

