-- ==== Sys2Proof/Machine/Flags.lean ====
section
/-! DEFINITION. What one element adds to the ten status counters (R204), and every typed element operation with the counts
it makes: floating point (R182 to R185), integers (R186, R240), comparisons (R187) and conversions (R121, R203). -/

namespace Sys2Proof.Machine

/-- Counts for the ten status counters, in the order of R204. -/
structure Ev where
  invalid : Nat := 0
  nanIn : Nat := 0
  divZero : Nat := 0
  overflow : Nat := 0
  flushIn : Nat := 0
  flushOut : Nat := 0
  underflow : Nat := 0
  saturate : Nat := 0
  intWrap : Nat := 0
  indexRange : Nat := 0
deriving DecidableEq, Repr

/-- The sum of two counts. -/
def Ev.add (a b : Ev) : Ev :=
  ⟨a.invalid + b.invalid, a.nanIn + b.nanIn, a.divZero + b.divZero, a.overflow + b.overflow,
   a.flushIn + b.flushIn, a.flushOut + b.flushOut, a.underflow + b.underflow, a.saturate + b.saturate,
   a.intWrap + b.intWrap, a.indexRange + b.indexRange⟩

/-- The sum of many counts. -/
def Ev.sum (l : List Ev) : Ev := l.foldl Ev.add {}

/-- Counter c of R204. -/
def Ev.nth (e : Ev) : Nat → Nat
  | 0 => e.invalid | 1 => e.nanIn | 2 => e.divZero | 3 => e.overflow | 4 => e.flushIn
  | 5 => e.flushOut | 6 => e.underflow | 7 => e.saturate | 8 => e.intWrap | 9 => e.indexRange
  | _ => 0

/-- Add a count onto the counters, each saturating at 0xFFFF_FFFF (R204). -/
def Ev.count (held new : Ev) : Ev :=
  ⟨satAdd 32 held.invalid new.invalid, satAdd 32 held.nanIn new.nanIn, satAdd 32 held.divZero new.divZero,
   satAdd 32 held.overflow new.overflow, satAdd 32 held.flushIn new.flushIn,
   satAdd 32 held.flushOut new.flushOut, satAdd 32 held.underflow new.underflow,
   satAdd 32 held.saturate new.saturate, satAdd 32 held.intWrap new.intWrap,
   satAdd 32 held.indexRange new.indexRange⟩

/-- Zero the counters whose bit of `clr` is set (R208). -/
def Ev.clear (e : Ev) (clr : Nat) : Ev :=
  let z : Nat → Nat → Nat := fun c v => if bit clr c then 0 else v
  ⟨z 0 e.invalid, z 1 e.nanIn, z 2 e.divZero, z 3 e.overflow, z 4 e.flushIn, z 5 e.flushOut,
   z 6 e.underflow, z 7 e.saturate, z 8 e.intWrap, z 9 e.indexRange⟩

/-- FLUSH_IN of one input code (R204). -/
def flushCount (f : Fmt) (c : Nat) : Nat := b2n (f.flush && f.isSub c)

/-- Deliver a result: the code, with the counts of R204. `nanIn`: some input was NaN. -/
def deliver (f : Fmt) (rm : Nat) (nanIn : Bool) (fin : Nat) : Res → Nat × Ev
  | .nan _ => (f.nanCode, { flushIn := fin, nanIn := b2n nanIn, invalid := b2n (!nanIn) })
  | .inf s dz =>
    ((if s then f.signBit else 0) + f.infCode, { flushIn := fin, nanIn := b2n nanIn, divZero := b2n dz })
  | .fin x =>
    let (c, fl) := f.round rm false x
    (c, { flushIn := fin, nanIn := b2n nanIn, overflow := b2n fl.overflow, flushOut := b2n fl.flushOut,
          underflow := b2n fl.underflow, saturate := b2n fl.saturate })

/-- The code of a value that the format holds, for MIN and MAX (R108, R185). -/
def minMaxCode (f : Fmt) (isMax : Bool) (a b : Nat) : Nat × Ev :=
  let va := f.input a
  let vb := f.input b
  let fl := flushCount f a + flushCount f b
  if va = .nan ∨ vb = .nan then (f.nanCode, { flushIn := fl, nanIn := 1 })
  else
    let c := if takeFirst isMax va vb then a else b
    (if f.flush && f.isSub c then (if f.sign c then f.signBit else 0) else c, { flushIn := fl })

/-- The floating-point element operations of R182 by their code; `a`, `b`, `c` are codes (R183 to R185). -/
def fpOp (f : Fmt) (op rm a b c : Nat) : Nat × Ev :=
  let va := f.input a
  let vb := f.input b
  let vc := f.input c
  let nan1 := decide (va = .nan)
  let nan2 := nan1 || decide (vb = .nan)
  let f1 := flushCount f a
  let f2 := f1 + flushCount f b
  match op with
  | 0x00 => (b % 2 ^ f.width, {})
  | 0x01 => deliver f rm nan2 f2 (addV rm va vb)
  | 0x02 => deliver f rm nan2 f2 (addV rm va vb.neg)
  | 0x03 => deliver f rm nan2 f2 (mulV va vb)
  | 0x04 => deliver f rm (nan2 || decide (vc = .nan)) (f2 + flushCount f c) (fmaV rm va vb vc)
  | 0x05 => minMaxCode f false a b
  | 0x06 => minMaxCode f true a b
  | 0x07 => (a % f.signBit, {})
  | 0x08 => ((a + f.signBit) % 2 ^ f.width, {})
  | 0x10 => deliver f rm nan2 f2 (divV va vb)
  | 0x11 => deliver f rm nan1 f1 (sqrtV va)
  | 0x12 => deliver f rm nan1 f1 (divV (.fin false 1 0) va)
  | 0x13 => deliver f rm nan1 f1 (rsqrtV va)
  | _ =>
    match transcend f rm op va with
    | .nan _ => (f.nanCode, { flushIn := f1, nanIn := b2n nan1, invalid := b2n (!nan1) })
    | .inf s dz => ((if s then f.signBit else 0) + f.infCode, { flushIn := f1, divZero := b2n dz })
    | .code x fl =>
      (x, { flushIn := f1, overflow := b2n fl.overflow, flushOut := b2n fl.flushOut,
            underflow := b2n fl.underflow, saturate := b2n fl.saturate })

/-- An exact signed integer delivered in w bits, with INT_WRAP when `counts` and the exact value differs (R186, R204,
R240). -/
def wrapTo (w : Nat) (counts : Bool) (x : Int) : Nat × Ev :=
  let r := ofS w x
  (r, { intWrap := b2n (counts && decide (toS w r ≠ x)) })

/-- The INT32 element operations of R182 (R186). -/
def i32Op (op a b c : Nat) : Nat × Ev :=
  let x := toS 32 a
  let y := toS 32 b
  let z := toS 32 c
  let sh := b % 32
  match op with
  | 0x00 => (b % 2 ^ 32, {})
  | 0x01 => wrapTo 32 true (x + y)
  | 0x02 => wrapTo 32 true (x - y)
  | 0x03 => wrapTo 32 true (x * y)
  | 0x04 => wrapTo 32 true (x * y + z)
  | 0x05 => (ofS 32 (min x y), {})
  | 0x06 => (ofS 32 (max x y), {})
  | 0x07 => wrapTo 32 true x.natAbs
  | 0x08 => wrapTo 32 true (-x)
  | 0x20 => (Nat.land a b % 2 ^ 32, {})
  | 0x21 => (Nat.lor a b % 2 ^ 32, {})
  | 0x22 => (Nat.xor a b % 2 ^ 32, {})
  | 0x23 => wrapTo 32 true (x * 2 ^ sh)
  | 0x24 => (ofS 32 (x / 2 ^ sh), {})
  | 0x25 => (a % 2 ^ 32 / 2 ^ sh, {})
  | _ => (0, {})

/-- A TEW, TCMP or TRED element type (R171): 0 FP64, 1 FP32, 2 BF16, 3 FP16; 4 is INT32. -/
def tyFmt : Nat → Fmt
  | 0 => fp64 | 1 => fp32 | 2 => bf16 | _ => fp16

/-- Bytes of an element of a type (R170, R171). -/
def tyBytes : Nat → Nat
  | 0 => 8 | 1 => 4 | 2 => 2 | 3 => 2 | _ => 4

/-- Element operation of a type code (R182). -/
def tyOp (ty op rm a b c : Nat) : Nat × Ev :=
  if ty = 4 then i32Op op a b c else fpOp (tyFmt ty) op rm a b c

/-- Does R182 list this operation for this type? -/
def tyAccepts (ty op : Nat) : Bool :=
  if op ≤ 8 then ty ≤ 4
  else if op = 0x10 || op = 0x11 then ty ≤ 3
  else if 0x12 ≤ op && op ≤ 0x1A then 1 ≤ ty && ty ≤ 3
  else if 0x20 ≤ op && op ≤ 0x25 then ty = 4
  else false

/-- A comparison of two elements (R107, R187): only FLUSH_IN is counted. -/
def tyCmp (ty cond a b : Nat) : Bool × Ev :=
  if ty = 4 then (condHolds cond (some (compare (toS 32 a) (toS 32 b))), {})
  else
    let f := tyFmt ty
    (condHolds cond (cmpV (f.input a) (f.input b)), { flushIn := flushCount f a + flushCount f b })

/-- A format of TCVT and FCVT: floating point or a two's complement width. -/
inductive NumFmt where
  | fp (f : Fmt)
  | int (w : Nat)
deriving DecidableEq, Repr

/-- TCVT's type codes (R233). -/
def cvtFmt : Nat → NumFmt
  | 0 => .fp fp64 | 1 => .fp fp32 | 2 => .fp bf16 | 3 => .fp fp16
  | 4 => .fp e4m3 | 5 => .fp e5m2 | 6 => .int 8 | _ => .int 32

/-- The width of a format in bits. -/
def NumFmt.width : NumFmt → Nat
  | .fp f => f.width
  | .int w => w

/-- Saturate an integer to w bits (R103). -/
def satInt (w : Nat) (x : Int) : Int × Bool :=
  let hi : Int := 2 ^ (w - 1) - 1
  let lo : Int := -(2 ^ (w - 1))
  if x > hi then (hi, true) else if x < lo then (lo, true) else (x, false)

/-- The value a conversion reads, and its FLUSH_IN (R98, R99). A BF16 subnormal converted to FP32 is the exact result of R121
that R99 flushes, so it counts in FLUSH_OUT, as a result does, and not here (DEDUCED from R121 and R204, notes/assumptions/13.md). -/
def cvtSrc (from_ : NumFmt) (a : Nat) : FVal × Nat :=
  match from_ with
  | .int w => let x := toS w a; (.fin (decide (x < 0)) x.natAbs 0, 0)
  | .fp f => (f.input a, flushCount f a)

/-- A conversion between formats without blocks (R121, R122, R103, R104, R109) with its counts (R204). -/
def convert (from_ to_ : NumFmt) (rm : Nat) (sat : Bool) (a : Nat) : Nat × Ev :=
  let (v, fl) := cvtSrc from_ a
  match to_ with
  | .int w =>
    match v with
    | .nan => (0, { flushIn := fl, nanIn := 1 })
    | .inf s => (ofS w (satInt w (if s then -(2 ^ 80) else 2 ^ 80)).1, { flushIn := fl, saturate := 1 })
    | .fin s m e =>
      let r := satInt w (roundInt rm ⟨s, m, e, false⟩)
      (ofS w r.1, { flushIn := fl, saturate := b2n r.2 })
  | .fp f =>
    match v with
    | .nan => (f.nanCode, { flushIn := fl, nanIn := 1 })
    | .inf s =>
      match f.special with
      | .ieee => ((if s then f.signBit else 0) + f.infCode, { flushIn := fl })
      | .ofp8 => (f.nanCode, { flushIn := fl, invalid := 1 })
      | .none => ((if s then f.signBit else 0) + f.maxCode, { flushIn := fl, saturate := 1 })
    | .fin s m e =>
      let sign := match from_ with | .int _ => s && m != 0 | .fp _ => s
      let (c, r) := f.round rm sat ⟨sign, m, e, false⟩
      (c, { flushIn := fl, overflow := b2n r.overflow, flushOut := b2n r.flushOut,
            underflow := b2n r.underflow, saturate := b2n r.saturate })

/-! ### The scalar integer operations of IALU and UALU (R234, R240) -/

/-- IALU and UALU operations on w-bit values by OP code (R234); `uns`: MOD bit 49; shift amounts are taken modulo the
width (notes/assumptions/13.md). -/
def ialuOp (w : Nat) (uns : Bool) (op a b c : Nat) : Nat × Ev :=
  let x := if uns then ((a % 2 ^ w : Nat) : Int) else toS w a
  let y := if uns then ((b % 2 ^ w : Nat) : Int) else toS w b
  let z := if uns then ((c % 2 ^ w : Nat) : Int) else toS w c
  let cnt := w = 32 && !uns
  let sh := b % w
  match op with
  | 0x00 => (a % 2 ^ w, {})
  | 0x01 => wrapTo w cnt (x + y)
  | 0x02 => wrapTo w cnt (x - y)
  | 0x03 => wrapTo w cnt (x * y)
  | 0x04 => (ofS w (x * y / 2 ^ w), {})
  | 0x05 => wrapTo w cnt (x * y + z)
  | 0x06 => (Nat.land a b % 2 ^ w, {})
  | 0x07 => (Nat.lor a b % 2 ^ w, {})
  | 0x08 => (Nat.xor a b % 2 ^ w, {})
  | 0x09 => (2 ^ w - 1 - a % 2 ^ w, {})
  | 0x0A => wrapTo w cnt (x * 2 ^ sh)
  | 0x0B => (a % 2 ^ w / 2 ^ sh, {})
  | 0x0C => (ofS w (toS w a / 2 ^ sh), {})
  | 0x0D => (ofS w (min x y), {})
  | 0x0E => (ofS w (max x y), {})
  | 0x11 => (((List.range w).filter (fun k => a.testBit k)).length, {})
  | 0x12 => (w - bitLen (a % 2 ^ w), {})
  | _ => (0, {})

/-- An integer comparison of SETP and USET (R187, R234). -/
def intCond (w : Nat) (uns : Bool) (cond a b : Nat) : Bool :=
  condHolds cond (some (if uns then compare (a % 2 ^ w) (b % 2 ^ w) else compare (toS w a) (toS w b)))

/-! ### Reductions (R190 to R192, R205) -/

/-- One combine of a floating-point reduction in FP64 or FP32 (R192): the code and whether R99 delivered zero. -/
def redCombine (f : Fmt) (op a b : Nat) : Nat × Bool :=
  if op = 0 then
    let r := fpOp f 0x01 0 a b 0
    (r.1, decide (r.2.flushOut ≠ 0))
  else ((minMaxCode f (op == 2) a b).1, false)

/-- The pairwise tree over a list of codes with their last flush flag (R191, R553). -/
def treeGo {α : Type} (f : α → α → α) : Nat → List α → List α
  | 0, l => l
  | n + 1, l =>
    let rec pairs : List α → List α
      | x :: y :: t => f x y :: pairs t
      | l => l
    treeGo f n (pairs l)

/-- The pairwise tree of R135, R191 and R553 over a list whose length is a power of two. -/
def tree {α : Type} (f : α → α → α) (d : α) (l : List α) : α :=
  match treeGo f (bitLen l.length) l with
  | x :: _ => x
  | [] => d

/-- The identity of a reduction (R192). -/
def redIdentity (ty op : Nat) : Nat :=
  if ty = 4 then (match op with | 0 => 0 | 1 => 0x7FFFFFFF | _ => 0x80000000)
  else
    let f := if ty = 0 then fp64 else fp32
    match op with
    | 0 => f.signBit
    | 1 => f.infCode
    | _ => f.signBit + f.infCode

/-- A long-format input of a reduction: a NaN as the canonical NaN (R96), a subnormal as zero with FLUSH_IN (R99). -/
def redInput (f : Fmt) (c : Nat) : Nat × Nat :=
  (if f.value c = .nan then f.nanCode else if f.isSub c then (if f.sign c then f.signBit else 0) else c, flushCount f c)

/-- Widen one source element to the tree's format (R98, R190): code and FLUSH_IN. -/
def redWiden (ty c : Nat) : Nat × Nat :=
  match ty with
  | 2 => redInput fp32 (c % 2 ^ 16 * 2 ^ 16)
  | 3 => let r := convert (.fp fp16) (.fp fp32) 0 false c; (r.1, 0)
  | 0 => redInput fp64 c
  | 1 => redInput fp32 c
  | _ => (c, 0)

/-- One reduction over elements, `none` for an inactive or disabled one (R191, R192, R205). -/
def reduceElems (ty op : Nat) (xs : List (Option Nat)) : Nat × Ev :=
  if ty = 4 then
    let vals := xs.map (fun x => toS 32 (x.getD (redIdentity 4 op)))
    match op with
    | 0 => wrapTo 32 true (vals.foldl (· + ·) 0)
    | 1 => (ofS 32 (vals.foldl min 0x7FFFFFFF), {})
    | _ => (ofS 32 (vals.foldl max (-0x80000000)), {})
  else
    let f := if ty = 0 then fp64 else fp32
    let ws := xs.map (fun x => match x with | some c => redWiden ty c | none => (redIdentity ty op, 0))
    let read := (xs.zip ws).filterMap (fun p => p.1.map (fun _ => f.value p.2.1))
    let fl := ws.foldl (fun a p => a + p.2) 0
    let r := tree (fun p q => redCombine f op p.1 q.1) (0, false) (ws.map (fun p => (p.1, false)))
    let v := f.value r.1
    let anyNan := read.any (fun x => decide (x = .nan))
    let anyInf := read.any (fun x => match x with | .inf _ => true | _ => false)
    let isInf := match v with | .inf _ => true | _ => false
    (r.1, { flushIn := fl, nanIn := b2n (decide (v = .nan) && anyNan),
            invalid := b2n (decide (v = .nan) && !anyNan),
            overflow := b2n (isInf && !anyInf), flushOut := b2n r.2 })

end Sys2Proof.Machine
end

