-- ==== Sys2Proof/Machine/Quant.lean ====
section
/-! DEFINITION. Block-scaled formats: scales, element values, quantization and dequantization (R110 to R121, R198). -/

namespace Sys2Proof.Machine

/-- The block formats by TQNT code (R198): 0 MXFP8 E4M3, 1 MXFP8 E5M2, 2 MXFP6 E3M2, 3 MXFP6 E2M3, 4 MXFP4, 5 MXINT8, 6 T2. -/
inductive BlkFmt where
  | mx (f : Fmt)
  | mxint8
  | t2
deriving DecidableEq, Repr

/-- The block format of a code of R198. -/
def blkFmt : Nat → BlkFmt
  | 0 => .mx e4m3 | 1 => .mx e5m2 | 2 => .mx e3m2 | 3 => .mx e2m3 | 4 => .mx e2m1 | 5 => .mxint8 | _ => .t2

/-- Element width in bits (R93). -/
def BlkFmt.width : BlkFmt → Nat
  | .mx f => f.width
  | .mxint8 => 8
  | .t2 => 2

/-- Elements in a block (R110, R113). -/
def BlkFmt.blockLen : BlkFmt → Nat
  | .t2 => 16
  | _ => 32

/-- Bytes of a block's element field (R115, R129). -/
def BlkFmt.fieldBytes (b : BlkFmt) : Nat := b.blockLen * b.width / 8

/-- Blocks in one row of a tile (R198). -/
def BlkFmt.blocksPerRow : BlkFmt → Nat
  | .mx f => if f.width = 4 then 8 else 4
  | .mxint8 => 4
  | .t2 => 32

/-- The T2S scale's value (R114); none for 0xFF. -/
def t2sValue (s : Nat) : FVal :=
  let e := s / 4 % 64
  let m := s % 4
  if s % 256 = 0xFF then .nan
  else if e = 0 then .fin false m (-32)
  else .fin false (4 + m) ((e : Int) - 33)

/-- The E8M0 scale's value (R111). -/
def e8m0Value (s : Nat) : FVal :=
  if s % 256 = 0xFF then .nan else .fin false 1 ((s % 256 : Nat) - 127 : Int)

/-- The value of an element code on its own (R110, R113). -/
def BlkFmt.elem : BlkFmt → Nat → FVal
  | .mx f, c => f.value c
  | .mxint8, c => let x := toS 8 c; .fin (decide (x < 0)) x.natAbs (-6)
  | .t2, c => match c % 4 with
    | 0 => .fin false 0 0
    | 1 => .fin false 1 0
    | 3 => .fin true 1 0
    | _ => .nan

/-- Element value times block scale, exact (R110, R111, R113). -/
def BlkFmt.scaled (b : BlkFmt) (scale code : Nat) : FVal :=
  let s := match b with | .t2 => t2sValue scale | _ => e8m0Value scale
  match s, b.elem code with
  | .nan, _ => .nan
  | _, .nan => .nan
  | .fin _ m e, .fin t n g => .fin t (m * n) (e + g)
  | .fin _ _ _, .inf t => .inf t
  | .inf _, _ => .nan

/-- Counts of the four range-watch events (R120). -/
structure RangeEv where
  saturations : Nat := 0
  scaleClamps : Nat := 0
  nanInputs : Nat := 0
  underflows : Nat := 0
deriving DecidableEq, Repr

/-- The sum of two counts. -/
def RangeEv.add (a b : RangeEv) : RangeEv :=
  ⟨a.saturations + b.saturations, a.scaleClamps + b.scaleClamps, a.nanInputs + b.nanInputs,
   a.underflows + b.underflows⟩

/-- Add onto held counters, each saturating at 0xFFFF_FFFF (R148, R149). -/
def RangeEv.count (a b : RangeEv) : RangeEv :=
  ⟨satAdd 32 a.saturations b.saturations, satAdd 32 a.scaleClamps b.scaleClamps,
   satAdd 32 a.nanInputs b.nanInputs, satAdd 32 a.underflows b.underflows⟩

/-- EMAX of R116. -/
def BlkFmt.emax : BlkFmt → Int
  | .mx f => if f = e4m3 then 8 else if f = e5m2 then 15 else if f = e3m2 then 4 else 2
  | _ => 0

/-- floor(log2) of a positive dyadic. -/
def dyLog2 (m : Nat) (e : Int) : Int := e + bitLen m - 1

/-- A quantization input as an FP32 value with R99 applied, and whether it was flushed; `bf` : a BF16 code (R98). -/
def quantIn (bf : Bool) (c : Nat) : FVal × Nat :=
  let c32 := if bf then c % 2 ^ 16 * 2 ^ 16 else c % 2 ^ 32
  (fp32.input c32, flushCount fp32 c32)

/-- Round a scaled value to an MX element: code, saturated, underflowed (R116's inner loop). -/
def mxElem (b : BlkFmt) (rm : Nat) (neg : Bool) (m : Nat) (e : Int) : Nat × Bool × Bool :=
  match b with
  | .mx f =>
    if m = 0 then ((if neg then f.signBit else 0), false, false)
    else
      let x : Exact := ⟨neg, m, e, false⟩
      let sgn := if neg then f.signBit else 0
      let r := roundP rm (f.m + 1) x
      let below := decide (dyLog2 r.1 r.2.1 < 1 - (f.bias : Int))
      if below then
        let c := (f.round rm true x).1
        (c, false, decide (c % f.signBit = 0))
      else
        let mx := f.maxVal
        if dyLt mx.1 mx.2 r.1 r.2.1 then (sgn + f.maxCode, true, false)
        else (sgn + f.encodeMag r.1 r.2.1, false, false)
  | _ =>
    -- MXINT8: round to a multiple of 1/64; magnitude at most 127/64 (R110, R112)
    let r := roundInt rm ⟨neg, m, e + 6, false⟩
    let sat := decide (r.natAbs > 127)
    let v : Int := if sat then (if neg then -127 else 127) else r
    (ofS 8 v, sat, decide (r = 0 ∧ m ≠ 0))

/-- Quantize one MX block (R116): scale byte, element codes, counts. -/
def quantMx (b : BlkFmt) (h rm : Nat) (vs : List FVal) : Nat × List Nat × RangeEv :=
  let bad := (vs.filter (fun v => match v with | .fin _ _ _ => false | _ => true)).length
  if bad > 0 then (0xFF, vs.map (fun _ => 0), { nanInputs := bad })
  else
    let logs := vs.filterMap (fun v => match v with | .fin _ m e => if m = 0 then none else some (dyLog2 m e) | _ => none)
    match logs with
    | [] => (0, vs.map (fun v => match v, b with
        | .fin s _ _, .mx f => if s then f.signBit else 0
        | _, _ => 0), {})
    | l :: ls =>
      let X := ls.foldl max l - b.emax + h
      let Xc := if X < -127 then -127 else if X > 127 then 127 else X
      let rs := vs.map (fun v => match v with
        | .fin s m e => mxElem b rm s m (e - Xc)
        | _ => (0, false, false))
      ((Xc + 127).toNat, rs.map (·.1),
       { scaleClamps := b2n (decide (Xc ≠ X)), saturations := (rs.filter (·.2.1)).length,
         underflows := (rs.filter (·.2.2)).length })

/-- Round a nonnegative FP32 value to a T2S scale by RNE, clamped as R117 states: scale byte and clamp count. -/
def t2sRound (a : FVal) : Nat × Nat :=
  match a with
  | .fin _ m e =>
    if m = 0 then (0x01, 1)
    else
      let r := roundP 0 3 ⟨false, m, e, false⟩
      let lg := dyLog2 r.1 r.2.1
      if lg < -30 then
        -- the E = 0 range has the unit 2^-32
        let k := (roundInt 0 ⟨false, m, e + 32, false⟩).toNat
        if k = 0 then (0x01, 1) else (k, 0)
      else if dyLt 6 30 r.1 r.2.1 then (0xFE, 1)
      else
        let n := bitLen r.1
        let sig := if n ≤ 3 then r.1 * 2 ^ (3 - n) else r.1 / 2 ^ (n - 3)
        ((lg + 31).toNat * 4 + (sig - 4), 0)
  | _ => (0xFE, 1)

/-- The AMEAN sum and quotient of R117 in FP32 RNE over magnitudes, as FP32 codes. -/
def t2Mean (mags : List Nat) : FVal :=
  let s := mags.foldl (fun a c => (fpOp fp32 0x01 0 a c 0).1) 0
  let n := (convert (.int 32) (.fp fp32) 0 false mags.length).1
  fp32.value (fpOp fp32 0x10 0 s n 0).1

/-- Quantize one T2 block (R117): scale byte, element codes, counts. `cs` are FP32 codes, already flushed. -/
def quantT2 (amean : Bool) (cs : List Nat) : Nat × List Nat × RangeEv :=
  let vs := cs.map fp32.value
  let isFin : FVal → Bool := fun v => match v with | .fin _ _ _ => true | _ => false
  let bad := (vs.filter (fun v => !isFin v)).length
  let mags := (cs.filter (fun c => isFin (fp32.value c))).map (fun c => c % fp32.signBit)
  if mags.all (· == 0) then (0, vs.map (fun v => if isFin v then 0 else 2), { nanInputs := bad })
  else
    let a := if amean then t2Mean mags else fp32.value (mags.foldl max 0)
    let (s, clamp) := t2sRound a
    let rs : List (Nat × Bool) := vs.map (fun v => match v with
      | .fin sg m e =>
        match divV (.fin sg m e) (t2sValue s) with
        | .fin x =>
          let r := roundInt 0 x
          if r = 0 then (0, false)
          else ((if r < 0 then 3 else 1), decide (r.natAbs > 1))
        | _ => (0, false)
      | _ => (2, false))
    (s, rs.map (·.1), { nanInputs := bad, scaleClamps := clamp, saturations := (rs.filter (·.2)).length })

/-- Quantize one block of source codes (FP32, or BF16 when `bf`): scale, element codes, range-watch events, FLUSH_IN
(R116, R117, R201). `h` is the headroom, or for T2 the policy. -/
def quantBlock (b : BlkFmt) (h rm : Nat) (bf : Bool) (cs : List Nat) : Nat × List Nat × RangeEv × Nat :=
  let ins := cs.map (quantIn bf)
  let fl := ins.foldl (fun a p => a + p.2) 0
  match b with
  | .t2 =>
    let c32 := cs.map (fun c =>
      let x := if bf then c % 2 ^ 16 * 2 ^ 16 else c % 2 ^ 32
      if fp32.isSub x then (if fp32.sign x then fp32.signBit else 0) else x)
    let r := quantT2 (h == 1) c32
    (r.1, r.2.1, r.2.2, fl)
  | _ =>
    let r := quantMx b h rm (ins.map (·.1))
    (r.1, r.2.1, r.2.2, fl)

/-- Pack element codes of w bits from bit 0 upward (R115). -/
def packElems (w : Nat) (cs : List Nat) : Nat := cs.foldr (fun c a => c % 2 ^ w + 2 ^ w * a) 0

/-- Dequantize one element to FP32 (`toBf = false`) or BF16, with its counts (R121, R204). -/
def dequant (b : BlkFmt) (toBf : Bool) (rm scale code : Nat) : Nat × Ev :=
  let f := if toBf then bf16 else fp32
  match b.scaled scale code with
  | .nan => (f.nanCode, { nanIn := 1 })
  | .inf s => ((if s then f.signBit else 0) + f.infCode, {})
  | .fin s m e =>
    let (c, r) := f.round rm false ⟨s, m, e, false⟩
    (c, { overflow := b2n r.overflow, flushOut := b2n r.flushOut, underflow := b2n r.underflow })

end Sys2Proof.Machine
end

