-- ==== Sys2Proof/Machine/StateMem.lean ====
section
/-! DEFINITION. State of the error block, the frame counter, the frit image, feature negotiation, the coherence
directory, the last-level memory slices, the caching agents and the HBM stacks. -/

namespace Sys2Proof.Machine

open Sys2Proof

/-! ### Errors and fences (R644 to R663, R727) -/

/-- One ERR bank (R647, R649, R663): `recs` is keyed by sequence number modulo the entry count. -/
structure ErrBank where
  head : Nat := 0
  tail : Nat := 0
  overflow : Nat := 0
  recs : List (Nat × ErrRec) := []
  deriving DecidableEq, Repr

/-- The ERR block. -/
structure Err where
  /-- ERR_STATUS.FATAL. -/
  fatal : Bool := false
  /-- ERR_STATUS W1C flags UC, DE, CE, EVENT. -/
  fUc : Bool := false
  fDe : Bool := false
  fCe : Bool := false
  fEvent : Bool := false
  /-- ERR_OCC, 16 bits each. -/
  occUc : Nat := 0
  occDe : Nat := 0
  occCe : Nat := 0
  occEvent : Nat := 0
  /-- ERR_OCC_FE, kept in the standby island (R650). -/
  occFe : Nat := 0
  irqMask : Nat := 3
  irqNum : Nat := 0
  irqDest : Nat := 0
  reqKind : Nat := 0
  reqIndex : Nat := 0
  /-- ERR_FENCE_STATUS.COUNT, kept. -/
  fenceCount : Nat := 0
  bank0 : ErrBank := {}
  bank1 : ErrBank := {}
  bank2 : ErrBank := {}
  bank3 : ErrBank := {}
  /-- The (SRC_KIND, SRC_INDEX, CODE) triples that already logged a record in this frame (R648). -/
  thisFrame : List (Nat × Nat × Nat) := []
  /-- The fence map (R658), kept in the standby island (R657). -/
  fmUnit : BitVec 1024 := 0
  fmCluster : BitVec 256 := 0
  fmRegion : BitVec 32 := 0
  fmCc : BitVec 12 := 0
  fmDie : BitVec 10 := 0
  deriving DecidableEq, Repr

/-! ### Frame, frit image, features (R39 to R92) -/

/-- FRM_STATUS.STATE (R48). -/
inductive FrmState where
  | free | acquiring | locked | holdover
  deriving DecidableEq, Repr

/-- The code of a frame state (R57). -/
def FrmState.code : FrmState → Nat
  | .free => 0 | .acquiring => 1 | .locked => 2 | .holdover => 3

/-- The frame counter and the beacon discipline. -/
structure Frm where
  count : Nat := 0
  state : FrmState := .free
  isMaster : Bool := false
  mismatch : Bool := false
  roleConflict : Bool := false
  masterValid : Bool := false
  masterIndex : Nat := 0
  /-- FRM_OFFSET.OFFSET in ns. -/
  offset : Int := 0
  pathDelay : Nat := 0
  port : Nat := 0
  steps : Nat := 0
  lockLosses : Nat := 0
  masterChanges : Nat := 0
  /-- Consecutive frames with the offset within ±40 ns (R48). -/
  inTol : Nat := 0
  /-- Frames ended without a beacon in succession (R48), and whether one has come in the present frame. -/
  missed : Nat := 0
  heard : Bool := false
  /-- Frames with a valid index, no master and no election offer (R54). -/
  alone : Nat := 0
  /-- Frames spent in HOLDOVER (R52). -/
  heldFrames : Nat := 0
  /-- The first entry to ACQUIRING after one of R50's three events still has to load FRM_COUNT. -/
  loadDue : Bool := true
  /-- The count to take at the next tick (R50). -/
  pendingCount : Option Nat := none
  /-- Length of the present frame less its nominal length, in hcyc (R47). -/
  adjust : Int := 0
  /-- Length change of the next frame, in hcyc. -/
  nextAdjust : Int := 0
  /-- Ticks since reset, whatever FRM_COUNT is loaded with. -/
  ticks : Nat := 0
  /-- `now` at the last tick, in ucyc. -/
  tickAt : Nat := 0
  /-- An election in progress: best priority and its package index (R52). -/
  election : Option (Nat × Nat) := none
  /-- Frame counting runs from REFCLK since FTREF was lost (R716). -/
  onRefclk : Bool := false
  /-- Frames FTREF has been present since its return (R716). -/
  ftrefFrames : Nat := 0
  ftrefPresent : Bool := true
  deriving DecidableEq, Repr

/-- A frit image in force or pending: its section bodies by type (R60 to R62). -/
structure Frit where
  seq : Nat
  /-- SHA-256 of header and sections. -/
  digest : Nat
  bodies : List (Nat × List Byte)
  /-- The image as supplied, kept in the standby island once it is applied (R665). -/
  raw : List Byte := []
  deriving DecidableEq, Repr

/-- FRT registers and the images. -/
structure Frt where
  active : Option Frit := none
  busy : Bool := false
  /-- The image under verification (R80). -/
  checking : Option (List Byte) := none
  /-- The verified image that waits for the next tick (R78). -/
  pending : Option Frit := none
  refused : Bool := false
  lastResult : Nat := 0
  deriving DecidableEq, Repr

/-- FEA registers (R92); FEA_OFFER follows from the image in force (`State.feaOffer`). -/
structure Fea where
  accept : BitVec 128 := 0
  active : BitVec 128 := 0
  locked : Bool := false
  deriving DecidableEq, Repr

/-! ### Caching agents (R378, R379) -/

/-- States of a line in a caching agent (R378). -/
inductive CState where
  | I | S | E | M | O | ISd | IMd | SMa | OMa | MIa | OIa | EIa | SIa | IIa
  deriving DecidableEq, Repr

/-- May an access that only reads be served in this state (R379)? -/
def CState.readable : CState → Bool
  | .S | .E | .M | .O | .SMa | .OMa => true
  | _ => false

/-- Is the state stable (R378)? -/
def CState.stable : CState → Bool
  | .I | .S | .E | .M | .O => true
  | _ => false

/-- One line of a caching agent; the agent's list keeps the most recently used first (R343). -/
structure CLine where
  line : Nat
  st : CState
  data : LineData := 0
  poison : Bool := false
  /-- `now` when a grant of M or E was won by the agent's own request (R386). -/
  wonAt : Option Nat := none
  /-- CLEAT in force when it was won, in hcyc (R387). -/
  cleat : Nat := 0
  /-- The access that caused the request has not been performed yet (R386). -/
  owed : Bool := false
  /-- A snoop that waits for the cleat time (R386). -/
  held : Option Msg := none
  deriving DecidableEq, Repr

/-- A caching agent: a cluster cache or a complex cache (R369). -/
structure Agent where
  lines : List CLine := []
  deriving DecidableEq, Repr

/-! ### Homes (R373 to R396) -/

/-- Directory states with a recorded holder (R373). -/
inductive DState where
  | S | X | O
  deriving DecidableEq, Repr

/-- A directory entry (R374, R393). In coarse mode `sharers` holds group numbers k; in pointer mode agent IDs. -/
structure DirEntry where
  line : Nat
  st : DState
  owner : Nat := 0
  coarse : Bool := false
  sharers : List Nat := []
  deriving DecidableEq, Repr

/-- What a busy line waits for (R381). -/
inductive Busy where
  /-- The line's spill set to be read. -/
  | bp
  /-- Data from the slice or HBM. -/
  | bd
  /-- Answers to its snoops. -/
  | bs
  /-- The answer to a stash offer. -/
  | bo
  deriving DecidableEq, Repr

/-- A busy line at its home: the request served, the snoops not yet answered and the data gathered. -/
structure BusyLine where
  line : Nat
  why : Busy
  req : Msg
  /-- Agents that owe an answer; true: the owner's. -/
  owed : List (Nat × Bool) := []
  /-- Current data once an owner's answer supplied it. -/
  data : Option (LineData × Bool) := none
  /-- How the owner answered: 0 not yet, 1 DAT, 2 DATD RETAIN 1, 3 DATD RETAIN 0, 4 ACK (R383). -/
  ans : Nat := 0
  /-- Serve an UPG as an RDO (R382). -/
  asRdo : Bool := false
  /-- This is a forced invalidation or a reclaim's (R396, R398), not a request. -/
  forced : Bool := false
  /-- In BD: its line is to come from HBM, and waits for its set, or for one of the 64 blocked sets (R352, R353). -/
  stalled : Bool := false
  /-- Directory entry as it stood when the line became busy. -/
  was : Option DirEntry := none
  deriving DecidableEq, Repr

/-- One line in a cache way of a slice; the list keeps the most recently used first (R350). -/
structure SliceLine where
  line : Nat
  data : LineData
  dirty : Bool := false
  poison : Bool := false
  /-- Filled by a prefetch and not yet hit (R350, R367). -/
  pf : Bool := false
  deriving DecidableEq, Repr

/-- An HBM read that a slice waits for (R352). -/
structure Fill where
  line : Nat
  prefetch : Bool := false
  /-- No way is allocated for it (R345, R349). -/
  bypass : Bool := false
  /-- Data decoded by the controller (R409), with its POISON. -/
  got : Option (LineData × Bool) := none
  deriving DecidableEq, Repr

/-- A stream entry (R360). -/
structure Stream where
  entry : Nat
  requester : Nat
  last : Nat
  stride : Int := 0
  conf : Nat := 0
  deriving DecidableEq, Repr

/-- The eight counters of a slice (R367). -/
structure LlmCnt where
  hit : Nat := 0
  miss : Nat := 0
  wb : Nat := 0
  pfIssue : Nat := 0
  pfUsed : Nat := 0
  sthAcc : Nat := 0
  sthDec : Nat := 0
  setWait : Nat := 0
  deriving DecidableEq, Repr

/-- The six counters of a directory (R403). -/
structure CohCnt where
  snoop : Nat := 0
  spillWr : Nat := 0
  spillRd : Nat := 0
  forced : Nat := 0
  stale : Nat := 0
  upgRdo : Nat := 0
  deriving DecidableEq, Repr

/-- A watch on a line for an agent: a queue's tail word, a knot or a pacing ring (R451, R473, R506). -/
structure Watch where
  line : Nat
  /-- 0 queue tail, 1 command knot, 2 node-core slot, 3 pacing ring. -/
  kind : Nat
  index : Nat
  deriving DecidableEq, Repr

/-- A last-level memory slice with the directory it homes. -/
structure Slice where
  lines : List SliceLine := []
  fills : List Fill := []
  streams : List Stream := []
  cnt : LlmCnt := {}
  dir : List DirEntry := []
  /-- The oldest first. -/
  busy : List BusyLine := []
  /-- Requests not served yet, in arrival order: their line is busy, their set blocked, or no directory or busy entry is free
  (R352, R353, R381, R389). -/
  waiting : List Msg := []
  /-- Spill sets whose summary bit is set (R394). -/
  summary : List Nat := []
  /-- The slots in use of each spill set, the oldest entry first (R395). -/
  spillOrder : Tbl (List Nat) := []
  /-- The line address from which its scrubber goes on (R416). -/
  scrubAt : Nat := 0
  ccnt : CohCnt := {}
  watches : List Watch := []
  deriving DecidableEq, Repr

/-- Package-wide coherence state (R390, R398, R402). -/
structure Coh where
  cleat : Nat := 128
  /-- The value that the next tick puts in force (R387). -/
  cleatNext : Nat := 128
  /-- COH_STATUS.MODE: false FORCE, true SPILL. -/
  spill : Bool := false
  reclaim : Bool := false
  test : Bool := false
  agent : Nat := 0
  count : Nat := 0
  poisoned : Nat := 0
  dead : List Nat := []
  /-- Slices serve requests: false before the coherent domain is up and after an FE (R401). -/
  serving : Bool := true
  deriving DecidableEq, Repr

/-! ### Stacked memory (R405 to R434) -/

/-- A row tracker entry (R418). The list keeps the most recently incremented first. -/
structure Track where
  pch : Nat
  bank : Nat
  row : Nat
  count : Nat
  /-- `now` at the last event. -/
  at_ : Nat := 0
  deriving DecidableEq, Repr

/-- A remap entry (R421). -/
structure Remap where
  pch : Nat
  bank : Nat
  row : Nat
  newBank : Nat
  newRow : Nat
  index : Nat
  /-- Activated: the copy has ended. -/
  active : Bool := false
  /-- The bank of the reserved row that a copy in progress moves the data from (R421); none: the row's own. -/
  moving : Option Nat := none
  deriving DecidableEq, Repr

/-- A traffic generator (R428 to R434). -/
structure Tg where
  op : Nat := 0
  scatter : Bool := false
  data : Nat := 0
  invert : Bool := false
  passes : Nat := 1
  rowLo : Nat := 0
  rowsLog2 : Nat := 0
  seed : Nat := 0
  busy : Bool := false
  done : Bool := false
  refused : Bool := false
  pass : Nat := 0
  mismatch : Nat := 0
  ce : Nat := 0
  first : Nat := 0
  firstValid : Bool := false
  /-- STOP was written during the run. -/
  stopping : Bool := false
  deriving DecidableEq, Repr

/-- An HBM channel (R434). -/
structure Channel where
  cntCe : Nat := 0
  cntUe : Nat := 0
  cntPoison : Nat := 0
  full : Bool := false
  tracker : List Track := []
  remaps : List Remap := []
  /-- Reserved rows (pseudo-channel, bank) retired until reset (R421). -/
  retired : List (Nat × Nat) := []
  tg : Tg := {}
  /-- Stack offset of the line the scrubber reads next, within this channel's order (R416). -/
  scrubAt : Nat := 0
  /-- Ticks since reset at the last eye-tracking pass (R425). -/
  eyeAt : Nat := 0
  deriving DecidableEq, Repr

/-- HBM_STK_STATUS.STATE (R433). -/
inductive StkState where
  | untrained | training | ready | failed
  deriving DecidableEq, Repr

/-- The code of a stack state (R433). -/
def StkState.code : StkState → Nat
  | .untrained => 0 | .training => 1 | .ready => 2 | .failed => 3

/-- An HBM stack with its controller (R433). -/
structure Stack where
  state : StkState := .untrained
  selfRefresh : Bool := false
  hold : Bool := false
  throttle : Nat := 0
  refresh2x : Bool := false
  temp : Nat := 0
  tempMax : Nat := 0
  committed : Nat := 0
  failed : Nat := 0
  /-- The repair list: (channel, pseudo-channel, bank, row), kept through warm reset (R423). -/
  repair : List (Nat × Nat × Nat × Nat) := []
  /-- Row copies that fell due during thermal hold (R421). -/
  deferred : List (Nat × Nat × Nat × Nat) := []
  /-- Listed rows that the last training tried and could not repair (R423). -/
  unrepaired : List (Nat × Nat × Nat × Nat) := []
  /-- Writes that wait for a row copy or for a hold to end, with their POISON, in arrival order (R421, R620). -/
  held : List (Nat × LineData × Bool) := []
  channels : List (Nat × Channel) := []
  deriving DecidableEq, Repr

end Sys2Proof.Machine
end

