-- ==== Sys2Proof/Machine/StateUnit.lean ====
section
/-! DEFINITION. State of the compute units, their hanks and strands, the clusters and the launches they run. -/

namespace Sys2Proof.Machine

open Sys2Proof

/-! ### Strands (R217 to R252) -/

/-- A divergence-stack entry (R245): RECONV or PENDING, a lane mask and a target. -/
structure DivEntry where
  pending : Bool
  mask : W32
  target : Nat
  deriving DecidableEq, Repr

/-- The access kinds of a fault detail (R336). -/
inductive Access where
  | load | store | atomic | fetch | copy | report
  deriving DecidableEq, Repr

/-- What a memory instruction does (R234, R242). -/
inductive MemKind where
  | ld | st | uld | atom | tld | tst | tldSf | tstSf | fence
  deriving DecidableEq, Repr

/-- One piece of a memory instruction: `len` bytes at virtual address `va` for lane or row `lane`, with the bytes to store,
then the physical address and page type once translated, then the bytes read. -/
structure Piece where
  lane : Nat
  va : Nat
  len : Nat
  bytes : List Byte := []
  pa : Option Nat := none
  pbmt : Nat := 0
  got : Option (List Byte) := none
  /-- It cannot be performed: the status and cause its instruction ends with, in the order of R725. -/
  fail : Option (Nat × Nat) := none
  deriving DecidableEq, Repr

/-- A memory instruction that has issued and is not complete. -/
structure MemOp where
  kind : MemKind
  /-- Ordering (R230): bit 0 acquire, bit 1 release. -/
  ord : Nat := 0
  scope : Nat := 0
  /-- ATOM OP[5:0] (R234). -/
  op : Nat := 0
  /-- Destination register, tile or uniform register. -/
  dst : Nat := 0
  sign : Bool := false
  /-- The access is to hank memory. -/
  hmem : Bool := false
  /-- The release part is done: the write-combining entries it waits for have drained. -/
  released : Bool := false
  /-- The remote stores of the package that a system-scope release waits for, by tag, once it has begun (R303, R313). -/
  await : Option (List Nat) := none
  pieces : List Piece := []
  deriving DecidableEq, Repr

/-- The copies (R265, R267). -/
inductive CopyKind where
  | h | t | sf | q
  deriving DecidableEq, Repr

/-- A copy in flight (R267 to R275). -/
structure Copy where
  kind : CopyKind
  launch : Nat
  hank : Nat
  slot : Nat
  src : Nat
  rows : Nat := 0
  rowBytes : Nat := 0
  stride : Nat := 0
  dst : Nat := 0
  ac : Nat := 0
  qf : Nat := 0
  h : Nat := 0
  rm : Nat := 0
  bf : Bool := false
  /-- Capture role and witness slot when it captures (R162, R275). -/
  cap : Nat := 0
  ws : Nat := 0
  /-- The address of its instruction. -/
  pc : Nat := 0
  /-- The unit's own number for it, in the order of issue. -/
  id : Nat := 0
  /-- The destination is written; the counter waits for earlier copies (R280). -/
  done : Bool := false
  /-- Its counter has counted it. -/
  counted : Bool := false
  /-- Tile rows, or hank-memory bytes, that an instruction has written since it was issued (R277). -/
  touched : List Nat := []
  /-- Remote lines answered for it: tag, and the data, POISON, or a refusal. -/
  lines : List (Nat × ReadBack LineData) := []
  deriving DecidableEq, Repr

/-- Why a strand does not issue. -/
inductive Wait where
  | ready
  /-- A memory instruction is outstanding. -/
  | mem (op : MemOp)
  /-- ACWAIT on a counter for a target (R281). -/
  | ac (counter target : Nat)
  /-- BLY.WAIT or BLY.SYNC on a belay, in the phase it waits for the end of (R288). -/
  | belay (b phase : Nat)
  /-- An ACPY issued while 64 copies were in flight (R271). -/
  | copySlot (k : Copy)
  | ended
  deriving DecidableEq, Repr

/-- The strand can issue. -/
def Wait.isReady : Wait → Bool
  | .ready => true | _ => false
/-- The strand has ended (R253). -/
def Wait.isEnded : Wait → Bool
  | .ended => true | _ => false

/-- A strand (R217, R223, R224, R245, R249, R252). `w` is keyed by 256 × lane + register. -/
structure Strand where
  slot : Nat
  index : Nat
  pc : Nat
  live : W32
  active : W32
  stack : List DivEntry := []
  spilled : List (List DivEntry) := []
  cd : Nat := 0
  vl : Nat := 32
  w : Tbl W32 := []
  u : Tbl W64 := []
  p : Tbl W32 := []
  wait : Wait := .ready
  deriving DecidableEq, Repr

/-! ### Hanks (R148, R158 to R169, R257 to R294) -/

/-- A belay (R283): its phase and the threads arrived in it. -/
structure Belay where
  phase : Nat := 0
  arrived : BitVec 1024 := 0
  deriving DecidableEq, Repr

/-- The first excursion a hank met (R169): coordinate, e and m as FP32 codes. -/
structure Excursion where
  coord : Nat
  unit : Nat
  e : Nat
  m : Nat
  deriving DecidableEq, Repr

/-- Witness state of a hank (R158 to R169). `rows` is keyed by 32 × (2 × slot + half) + row and holds the row's BF16 values
packed, the first lowest; `shadow` holds row i of the shadow accumulator at i. -/
structure Witness where
  /-- Owner strand slot, accumulator and coordinate of the active tile. -/
  active : Option (Nat × Nat × Nat) := none
  shadow : Tbl (BitVec 1024) := []
  /-- Captured parts: (slot, half, part); part 0 and part 1 are those of a copy into an even and an odd register. -/
  captured : List (Nat × Nat × Nat) := []
  rows : Tbl Nat := []
  tiles : Nat := 0
  excursions : Nat := 0
  skipped : Nat := 0
  first : Option Excursion := none
  deriving DecidableEq, Repr

/-- A resident hank. Tiles and side-files are keyed by 32 × tile + row, mask tiles by 32 × mask + row. -/
structure Hank where
  /-- The launch, by command number. -/
  launch : Nat
  index : Nat
  strands : List Strand
  tiles : Tbl (BitVec 1024) := []
  sides : Tbl (BitVec 256) := []
  masks : Tbl (BitVec 64) := []
  /-- Arrival counters, and the copies issued to each (R280). -/
  acs : Tbl Nat := []
  issued : Tbl Nat := []
  belays : Tbl Belay := []
  hmem : Tbl Byte := []
  range : RangeEv := {}
  wit : Witness := {}
  /-- `now` at the last progress (R291), at residence, or when a strand last began to wait as R290 states. -/
  progress : Nat := 0
  deriving DecidableEq, Repr

/-! ### Units (R257, R263, R271, R310, R339, R342) -/

/-- An L1 line (R311, R338): its 56-bit address and hank-local mark; the list keeps the most recently used first. -/
structure L1Line where
  addr : Nat
  data : LineData
  poison : Bool := false
  /-- The hank (launch, index) that marked it hank-local. -/
  hank : Option (Nat × Nat) := none
  deriving DecidableEq, Repr

/-- A write-combining entry (R310, R340): the list keeps the oldest first. -/
structure WcEntry where
  addr : Nat
  data : LineData
  mask : BitVec 128
  /-- The launch whose strands stored: stores of two launches share no entry. -/
  launch : Nat := 0
  /-- The store to its lowest address. -/
  site : StoreSite := {}
  deriving DecidableEq, Repr

/-- A cached leaf translation (R331): page `va / size`, tagged with ASID, or global. -/
structure Tlb where
  asid : Nat
  glob : Bool
  size : Nat
  vpage : Nat
  ppage : Nat
  /-- PTE bits 7:0 (V R W X U G A D). -/
  flags : Nat
  pbmt : Nat
  deriving DecidableEq, Repr

/-- A cached non-leaf entry (R331): ASID, level, virtual prefix and the table it names. -/
structure NonLeaf where
  asid : Nat
  glob : Bool
  level : Nat
  prefix_ : Nat
  table : Nat
  deriving DecidableEq, Repr

/-- A TMMA that has issued and not started (R123, R143). -/
structure Mma where
  launch : Nat
  hank : Nat
  slot : Nat
  fmt : Nat
  tc : Nat
  ta : Nat
  tb : Nat
  z : Bool
  w : Bool
  ws : Nat
  deriving DecidableEq, Repr

/-- A unit. -/
structure UnitSt where
  l1Code : Nat := 3
  l1 : List L1Line := []
  wc : List WcEntry := []
  tlb : List Tlb := []
  vts : Ev := {}
  hanks : List Hank := []
  copies : List Copy := []
  /-- The number the next copy takes as its ACPY issues. -/
  copySeq : Nat := 0
  /-- Strand slot that issued last (R236). -/
  issued : Nat := 31
  mmaQ : List Mma := []
  /-- `now` when the matrix engine's occupancy ends (R140). -/
  mmaFree : Nat := 0
  /-- Strand slot the matrix engine last served (R143). -/
  mmaSlot : Nat := 31
  /-- Token bucket of the matrix issue-rate limiter (R605). -/
  tokens : Int := 8192
  /-- Remote stores not yet acknowledged by their home package (R313). -/
  remoteStores : Nat := 0
  /-- Lines that an L1 miss waits for. -/
  misses : List Nat := []
  /-- Strand slots whose next instruction's line is on its way, with the line (R244, R339). -/
  fetchMiss : List (Nat × Nat) := []
  deriving DecidableEq, Repr

/-! ### Clusters (R342, R344) -/

/-- A page-table walk in progress or waiting for a walker (R342). -/
structure Walk where
  unit : Nat
  slot : Nat
  va : Nat
  kind : Access
  /-- The address of a copy's instruction. -/
  pc : Nat := 0
  deriving DecidableEq, Repr

/-- What a cluster holds beside its cache: the shared translation caches and the walks. -/
structure Cluster where
  tlb : List Tlb := []
  nonLeaf : List NonLeaf := []
  walks : List Walk := []
  deriving DecidableEq, Repr

end Sys2Proof.Machine
end

