-- ==== Sys2Proof/Machine/StateCmd.lean ====
section
/-! DEFINITION. State of the queues, the commands in flight, the launches, the canes and the DMA engines. -/

namespace Sys2Proof.Machine

open Sys2Proof

/-- QDT_STATUS.STATE (R438). -/
inductive QState where
  | disabled | running | draining | halted | cancelling
  deriving DecidableEq, Repr

/-- The code of a queue state (R438). -/
def QState.code : QState → Nat
  | .disabled => 0 | .running => 1 | .draining => 2 | .halted => 3 | .cancelling => 4

/-- A record written or due: the fields of R477. -/
structure Completion where
  seq : Nat
  queue : Nat
  dkind : Nat := 0
  errk : Bool := false
  parked : Bool := false
  status : Nat := 0
  cause : Nat := 0
  startFrame : Nat := 0
  endFrame : Nat := 0
  rw : RangeEv := {}
  wit : Nat := 0
  detail : Nat := 0
  deriving DecidableEq, Repr

/-- A queue: its descriptor (R437), control and status words (R438), and what the engine keeps of it. -/
structure Queue where
  ringLoc : Bool := false
  size : Nat := 0
  base : Nat := 0
  tailAddr : Nat := 0
  cplLoc : Bool := false
  confirm : Bool := false
  cplBase : Nat := 0
  asroot : Nat := 0
  kind : Nat := 0
  coil : Nat := 0
  engine : Nat := 0
  halt : Bool := false
  pollF : Nat := 0
  timeout : Nat := 0
  irqNum : Nat := 0
  irqDest : Nat := 0
  state : QState := .disabled
  polling : Bool := false
  enableErr : Nat := 0
  headSeq : Nat := 0
  lastSeq : Nat := 0
  lastValid : Bool := false
  fSeq : Nat := 0
  fCause : Nat := 0
  fKind : Nat := 0
  fObj : Nat := 0
  fObjBelay : Bool := false
  fValid : Bool := false
  fAddr : Nat := 0
  fPc : Nat := 0
  errors : Nat := 0
  timeouts : Nat := 0
  faults : Nat := 0
  /-- The engine that serves the queue, fixed at enable (R442). -/
  served : Nat := 0
  /-- The DMA and bend engines that the queue's binding makes available, fixed at enable (R79, R442). -/
  dmaMask : Nat := 0
  bendMask : Nat := 0
  /-- The tail as last read (R448). -/
  tail : Nat := 0
  /-- A read of the tail word is outstanding (R451, R453). -/
  tailDue : Bool := false
  /-- Number of the present window of R471, and whether a command admitted in it has completed with an error. -/
  win : Nat := 0
  winErr : Bool := false
  /-- Records are parked until the queue reaches DISABLED (R586). -/
  park : Bool := false
  /-- Sequence number of the next record to write (R476). -/
  nextRecord : Nat := 0
  deriving DecidableEq, Repr

/-- The fault detail of a failure (R336, R482). -/
structure FaultInfo where
  cause : Nat
  kind : Nat := 0
  addr : Nat := 0
  pc : Nat := 0
  obj : Nat := 0
  objBelay : Bool := false
  /-- Unit index and strand slot, for DETAIL. -/
  unit : Option (Nat × Nat) := none
  deriving DecidableEq, Repr

/-- How a command ends: status (R478), cause and fault detail. -/
structure Ending where
  status : Nat
  cause : Nat := 0
  dkind : Nat := 0
  detail : Nat := 0
  fault : Option FaultInfo := none
  deriving DecidableEq, Repr

/-- A launch descriptor as read (R463). -/
structure Desc where
  entry : Nat := 0
  rwReport : Nat := 0
  threads : Nat := 0
  regs : Nat := 0
  tiles : Nat := 0
  masks : Nat := 0
  l1Cfg : Nat := 0
  acs : Nat := 0
  belays : Nat := 0
  hmem : Nat := 0
  divSpill : Nat := 0
  rwMask : Nat := 0
  witEn : Bool := false
  witDepth : Nat := 0
  witK : Nat := 0
  witLog2N : Nat := 0
  witTau : Nat := 0
  thresh : List Nat := []
  witSeed : Nat := 0
  /-- A rsvd bit of the descriptor is set (R464). -/
  rsvdSet : Bool := false
  deriving DecidableEq, Repr

/-- The launch part of a command: descriptor, dispatch and totals (R149, R465). -/
structure Launch where
  desc : Desc
  args : Nat := 0
  hankCount : Nat := 0
  rerun : Bool := false
  /-- The next hank not yet given to a unit, and hanks to give again (R466). -/
  nextHank : Nat := 0
  again : List Nat := []
  hanksDone : Nat := 0
  /-- The first fenced unit on which a hank of the launch ran (R466). -/
  firstFenced : Option Nat := none
  /-- Units on which a hank of the launch has run. -/
  used : List Nat := []
  totals : RangeEv := {}
  witTiles : Nat := 0
  witExc : Nat := 0
  witSkipped : Nat := 0
  witFirst : Option Excursion := none
  deriving DecidableEq, Repr

/-- A node of a running cane (R488, R489). -/
inductive NodeState where
  | waiting | ready | running | done | failed | cancelled
  deriving DecidableEq, Repr

/-- One node of a cane: its record's address and what the engine read of it. -/
structure CaneNode where
  /-- Bytes 0 to 63 of its record. -/
  command : List Byte := []
  /-- What its record fails by (R485, R488). -/
  bad : Option Ending := none
  npred : Nat := 0
  succ : List Nat := []
  st : NodeState := .waiting
  /-- How it completed. -/
  ending : Option Ending := none
  deriving DecidableEq, Repr

/-- The cane part of a command (R487 to R490). -/
structure Cane where
  /-- Local physical address of the header. -/
  header : Nat
  /-- The header's page is of type NC or IO (R349). -/
  nc : Bool := false
  /-- Virtual address of the node knots. -/
  scratch : Nat
  slot : Nat
  retire : Nat := 0
  nodes : List CaneNode := []
  rw : RangeEv := {}
  wit : Nat := 0
  deriving DecidableEq, Repr

/-- What a command does while it is in flight; a collective itself is held by its bend engine (R556). -/
inductive Work where
  | nop
  /-- A launch whose descriptor is on its way from another package. -/
  | descRead (off args hankCount : Nat) (rerun : Bool)
  | launch (l : Launch)
  | cane (c : Cane)
  | dma (engine channel : Nat)
  | bend (engine : Nat)
  /-- KNOT.SIGNAL: signalled with error when `err` (R471). -/
  | signal (knot value : Nat) (err : Bool)
  /-- KNOT.WAIT; `due`: the knot is to be read (R473). -/
  | knotWait (knot target : Nat) (due : Bool)
  /-- QFENCE (R471): PROPAGATE, and whether a command of its window failed. -/
  | qfence (propagate err : Bool)
  /-- MARK; `after` and not yet written (R457). -/
  | mark (addr : Nat) (after : Bool)
  deriving DecidableEq, Repr

/-- A command in flight (R455, R456): `id` is the package's own number for it. -/
structure Cmd where
  id : Nat
  queue : Nat
  seq : Nat
  /-- The cane and node it runs for (R488). -/
  node : Option (Nat × Nat) := none
  engine : Nat := 0
  coil : Nat := 0
  asroot : Nat := 0
  /-- FEA_ACTIVE at admission (R91). -/
  features : BitVec 128 := 0
  startFrame : Nat := 0
  /-- Ticks left before TIMEOUT (R481). -/
  ticksLeft : Nat := 0
  /-- SIG_KNOT and SIG_INC. -/
  sigKnot : Option (Nat × Nat) := none
  intr : Bool := false
  work : Work
  /-- The work has ended this way; knots and record follow (R475). -/
  ending : Option Ending := none
  /-- The window of R471 in which it was admitted. -/
  win : Nat := 0
  /-- Its report has been written, or its cane slot given back (R475, R490). -/
  reported : Bool := false
  /-- Its knots have been signalled or their signals sent (R475). -/
  signalled : Bool := false
  /-- A knot has been signalled with error (R477). -/
  errk : Bool := false
  /-- It has completed, and its record waits for its turn (R476). -/
  record : Option Completion := none
  deriving DecidableEq, Repr

/-! ### DMA engines (R492 to R516) -/

/-- A transfer image (R497) with the command that carries it. -/
structure Xfer where
  cmd : Nat
  queue : Nat
  seq : Nat
  coil : Nat
  asroot : Nat
  features : BitVec 128
  /-- Command bytes 16 to 63. -/
  image : List Byte
  deriving DecidableEq, Repr

/-- Where the bytes of a burst come from. -/
inductive DmaSrc where
  /-- Local memory, and whether its page is of type NC or IO (R349). -/
  | here (a : Nat) (nc : Bool)
  | remote (peer a : Nat)
  | host (a : Nat)
  deriving DecidableEq, Repr

/-- A piece of a burst: `len` bytes of the transfer from byte n; `second`: of the area at DST (COMPARE). -/
structure DmaPart where
  n : Nat
  len : Nat
  second : Bool := false
  src : DmaSrc
  /-- Its bytes and their POISON, once arrived. -/
  got : Option (List Byte × Bool) := none
  deriving DecidableEq, Repr

/-- A burst with its block (R492, R493): bytes [from, from + len) of the transfer. -/
structure Burst where
  from_ : Nat
  len : Nat
  parts : List DmaPart := []
  deriving DecidableEq, Repr

/-- A DMA channel (R515). -/
structure DmaCh where
  disable : Bool := false
  stallLimit : Nat := 16
  paceMode : Nat := 0
  paceAddr : Nat := 0
  paceLow : Nat := 0
  paceHigh : Nat := 0
  act : Option Xfer := none
  shd : Option Xfer := none
  paused : Bool := false
  starved : Bool := false
  event : Nat := 0
  starveCount : Nat := 0
  done : Nat := 0
  resOffset : Nat := 0
  resMismatch : Bool := false
  resValid : Bool := false
  resSeq : Nat := 0
  resQueue : Nat := 0
  bursts : List Burst := []
  /-- The next byte of the active transfer for which no burst has been issued. -/
  issued : Nat := 0
  /-- The difference that a COMPARE has found (R503). -/
  mism : Option Nat := none
  /-- No read data has arrived since the previous tick (R512). -/
  quiet : Bool := false
  /-- The pacing ring's line is to be read (R506). -/
  paceDue : Bool := false
  /-- Consecutive starving ticks (R513). -/
  starveTicks : Nat := 0
  /-- Commands admitted for the channel that wait for the shadow set, oldest first (R496). -/
  queueing : List Xfer := []
  deriving DecidableEq, Repr

/-- A DMA engine (R514). -/
structure DmaEng where
  busErr : Bool := false
  busErrCount : Nat := 0
  errAddr : Nat := 0
  channels : Tbl DmaCh := []
  tlb : List Tlb := []
  deriving DecidableEq, Repr

end Sys2Proof.Machine
end

