-- ==== Sys2Proof/Machine/StateNet.lean ====
section
/-! DEFINITION. State of the Hawser fabric, the bend engines and the die links. -/

namespace Sys2Proof.Machine

open Sys2Proof

/-- HWS_PORT_STATUS.STATE (R518). -/
inductive PortState where
  | disabled | training | up | down | refused
  deriving DecidableEq, Repr

/-- The code of a port state (R518). -/
def PortState.code : PortState → Nat
  | .disabled => 0 | .training => 1 | .up => 2 | .down => 3 | .refused => 4

/-- A Hawser port (R517 to R524, R562). -/
structure Port where
  state : PortState := .disabled
  laserOk : Bool := false
  cause : Nat := 0
  plane : Nat := 0
  leaf : Nat := 0
  halfTrip : Nat := 0
  transit : Nat := 0
  fecCorr : Nat := 0
  fecUnc : Nat := 0
  crc : Nat := 0
  replay : Nat := 0
  retrain : Nat := 0
  resent : Nat := 0
  /-- Sequence of the next flit to send (R522). -/
  txSeq : Nat := 0
  /-- Flits sent and not acknowledged, oldest first: the packets that start in each (R522). -/
  replayBuf : List (List Packet) := []
  /-- Packets waiting for room in the replay buffer. -/
  txWait : List Packet := []
  /-- Sequence the receiver expects (R522). -/
  rxSeq : Nat := 0
  /-- Flits received and not yet acknowledged, and `now` at the first of them (R522). -/
  rxUnacked : Nat := 0
  rxSince : Nat := 0
  /-- Flits after a failed one are discarded until the replay arrives (R522). -/
  rxNak : Bool := false
  /-- The flit last asked for by a NAK, and consecutive failed replays of it (R519). -/
  nakSeq : Option Nat := none
  failedReplays : Nat := 0
  /-- Bytes received of a packet that continues in the next flit (R521). -/
  rxPart : List Byte := []
  /-- `now` when a lane lost lock (R519). -/
  lockLost : Option Nat := none
  /-- A retrain is running rather than a first training (R519). -/
  retraining : Bool := false
  /-- Link credits per class (R522). -/
  credits : List Nat := [0, 0, 0, 0]
  /-- Deficits of request, response and bulk (R541). -/
  deficits : List Nat := [0, 0, 0]
  deriving DecidableEq, Repr

/-- HWS_PEER.STATE (R530). -/
inductive PeerState where
  | absent | up | draining | gone
  deriving DecidableEq, Repr

/-- The code of a peer state (R530). -/
def PeerState.code : PeerState → Nat
  | .absent => 0 | .up => 1 | .draining => 2 | .gone => 3

/-- Transport state of one class to and from a peer (R538). -/
structure Transport where
  txNext : Nat := 0
  /-- Packets kept, oldest first, with the port they went through; 48: not sent yet (R538, R540). -/
  kept : List (Packet × Nat) := []
  rxNext : Nat := 0
  /-- Packets delivered and not yet acknowledged end to end, and `now` at the first (R538). -/
  rxUnacked : Nat := 0
  rxSince : Nat := 0
  /-- Packets that came ahead of their turn, with the port they came through (R538). -/
  early : List (Nat × Packet) := []
  deriving DecidableEq, Repr

/-- A peer entry (R530, R564) with its transport state by class. -/
structure Peer where
  state : PeerState := .absent
  planes : Nat := 0
  incarnation : Nat := 0
  nonce : Nat := 0
  uid : Nat := 0
  /-- HALF_TRIP of its port, by plane (R528, R546). -/
  halfTrips : Tbl Nat := []
  /-- DRAINING after a DRAIN was received (R531). -/
  drained : Bool := false
  /-- Frames in DRAINING with a zero mask (R531). -/
  absentFrames : Nat := 0
  tr : Tbl Transport := []
  deriving DecidableEq, Repr

/-- Who waits for the answer to a remote request (R532, R543). -/
inductive Requester where
  /-- An L1 fill or atomic of a unit's strand slot. -/
  | unit (u slot : Nat)
  /-- A write of a unit, draining or performed, for a launch. -/
  | unitStore (u launch : Nat)
  /-- A copy of a unit, by its number. -/
  | copy (u id : Nat)
  | dma (engine channel : Nat)
  | hart (h : Nat)
  /-- A command's knot, mark or report. -/
  | cmd (id : Nat)
  /-- A read of a waited knot. -/
  | knot (w : KnotWaiter)
  deriving DecidableEq, Repr

/-- A remote request that is outstanding, or held for a DRAINING peer (R533). -/
structure RemoteReq where
  tag : Nat
  peer : Nat
  who : Requester
  packet : Packet
  held : Bool := false
  /-- A read whose line must not enter L1: its unit has performed an acquire, or an access to the line, since it asked (R298, R302). -/
  stale : Bool := false
  /-- Where a unit's store, or an access of a command, comes from (R336, R482). -/
  site : StoreSite := {}
  deriving DecidableEq, Repr

/-- A request of another package that has arrived and is not answered (R534, R544). -/
structure HomeReq where
  port : Nat
  packet : Packet
  /-- The reason of the REFUSE that it is owed; 0: it was accepted. -/
  refusal : Nat := 0
  deriving DecidableEq, Repr

/-- The Hawser fabric (R563). -/
structure Hws where
  ports : Tbl Port := []
  peers : Tbl Peer := []
  index : Nat := 0
  indexChosen : Bool := false
  indexValid : Bool := false
  indexConflict : Bool := false
  uid : Nat := 0
  incarnation : Nat := 0
  nonce : Nat := 0
  /-- Ticks since the first JOIN went out (R528). -/
  joinTicks : Option Nat := none
  evtSize : Nat := 0
  evtEn : Bool := false
  evtAddr : Nat := 0
  evtIrqNum : Nat := 0
  evtIrqDest : Nat := 0
  evtSeq : Nat := 0
  reqs : List RemoteReq := []
  nextTag : Nat := 0
  homeReqs : List HomeReq := []
  /-- Port that the next bulk packet takes, by position among the UP ports (R539). -/
  bulkNext : Nat := 0
  /-- The package has broadcast DRAIN and refuses new remote requests (R534). -/
  departing : Bool := false
  /-- Packets handed to the ports, newest last. -/
  sent : List Packet := []
  deriving DecidableEq, Repr

/-! ### Bend engines (R547 to R565) -/

/-- A collective in progress (R547, R549, R556). -/
structure Collective where
  cmd : Nat
  group : Nat
  tag : Nat
  number : Nat
  members : List Nat
  rank : Nat
  op : Nat
  dtype : Nat
  red : Nat
  out32 : Bool
  root : Nat
  src : Nat
  dst : Nat
  count : Nat
  asroot : Nat
  coil : Nat
  signature : Nat
  /-- Contributions by rank: input bytes. -/
  got : Tbl (List Byte) := []
  /-- Ranks whose contributions have arrived. -/
  came : List Nat := []
  /-- It has read SRC and sent its contributions. -/
  started : Bool := false
  deriving DecidableEq, Repr

/-- A bend engine (R565). -/
structure Bend where
  cols : List Collective := []
  ops : Nat := 0
  bytes : Nat := 0
  aborts : Nat := 0
  /-- ABORTs kept for numbers not yet admitted: (group, tag, number), oldest first (R558). -/
  early : List (Nat × Nat × Nat) := []
  /-- The next number of each group (group, tag) of which a collective has been admitted (R549). -/
  nexts : List ((Nat × Nat) × Nat) := []
  /-- Contributions for numbers not yet admitted. -/
  earlyData : List Contribution := []
  /-- Contributions of which a part has arrived, with their whole length (notes/assumptions/22.md). -/
  coming : List (Contribution × Nat) := []
  /-- Collectives waiting for a slot or for their group's running collective, oldest first (R547). -/
  queueing : List Collective := []
  deriving DecidableEq, Repr

/-! ### Die links (R629 to R643) -/

/-- DLK_STATUS.STATE (R642). -/
inductive DlkState where
  | training | full | narrow0 | narrow1 | down
  deriving DecidableEq, Repr

/-- The code of a bundle state (R642). -/
def DlkState.code : DlkState → Nat
  | .training => 0 | .full => 1 | .narrow0 => 2 | .narrow1 => 3 | .down => 4

/-- A die-link bundle (R642). -/
structure Bundle where
  state : DlkState := .training
  spares0 : Nat := 0
  spares1 : Nat := 0
  thresh : Nat := 16
  /-- The value that the next tick puts in force (R637). -/
  threshNext : Nat := 16
  last0 : Nat := 0
  last1 : Nat := 0
  cnt0 : Nat := 0
  cnt1 : Nat := 0
  steer : Nat := 0
  /-- Retries of the present frame per half (R637). -/
  frame0 : Nat := 0
  frame1 : Nat := 0
  /-- Narrow mode to enter at the next tick (R638). -/
  goNarrow : Option DlkState := none
  /-- Flits kept for replay: the last 512 delivered, oldest first (R634). -/
  replayBuf : List (List Byte) := []
  /-- Sequence number the receiver expects, and whether it has sent a NAK that the transmitter has not acted on. -/
  rxSeq : Nat := 0
  rxNak : Bool := false
  /-- The flit that the last NAK named, and its consecutive failed replays (R635). -/
  nakSeq : Option Nat := none
  failedReplays : Nat := 0
  /-- Payloads delivered, newest last. -/
  delivered : Nat := 0
  deriving DecidableEq, Repr

end Sys2Proof.Machine
end

