-- ==== Sys2Proof/Machine/StatePkg.lean ====
section
/-! DEFINITION. State of the host port, the power arbiter, boot and attestation, the node cores, and the package's pins,
fuses and board flash. -/

namespace Sys2Proof.Machine

open Sys2Proof

/-! ### Host port (R567 to R594) -/

/-- A posted write to host memory that the link partner has not acknowledged (R583). `record`: a completion record. -/
structure HostWrite where
  addr : Nat
  bytes : List Byte
  /-- The queue whose record it is, for a completion record. -/
  record : Option Nat := none
  /-- PARK was in the features of its command (R588). -/
  park : Bool := false
  /-- An MSI-X message. -/
  msix : Bool := false
  deriving DecidableEq, Repr

/-- An MSI-X table entry (R580): address, data and mask bit. -/
structure MsixEntry where
  addr : Nat := 0
  data : Nat := 0
  masked : Bool := true
  deriving DecidableEq, Repr

/-- A confirmed record whose read-back is outstanding (R589). -/
structure Confirm where
  queue : Nat
  seq : Nat
  bytes : List Byte
  /-- PARK was in the features of its command (R588). -/
  park : Bool := false
  deriving DecidableEq, Repr

/-- A piece of an admitted BAR2 write that its home slice has not performed (R575, R576, R578): inside one line. -/
structure Inbound where
  addr : Nat
  bytes : List Byte
  poison : Bool := false
  /-- Stash target and coil, where the line goes as STH. -/
  stash : Option (Nat × Nat) := none
  deriving DecidableEq, Repr

/-- The host port (R592). -/
structure Hpt where
  linkUp : Bool := false
  rate : Nat := 0
  width : Nat := 0
  flit : Bool := false
  attached : Bool := false
  detaches : Nat := 0
  retrains : Nat := 0
  refused : Nat := 0
  parkHead : Nat := 0
  parkTail : Nat := 0
  parkOverflow : Nat := 0
  errRid : Nat := 0
  errWrite : Bool := false
  errOffset : Nat := 0
  /-- The parking area by entry: 32-byte records (R586). -/
  park : Tbl (List Byte) := []
  msix : Tbl MsixEntry := []
  /-- Pending Bit Array (R580). -/
  pba : Tbl Bool := []
  /-- Posted writes sent and not acknowledged by the link partner, oldest first. -/
  posted : List HostWrite := []
  confirms : List Confirm := []
  /-- The port has detached since the last reset (R590). -/
  detachedOnce : Bool := false
  /-- BAR2 writes received and not performed, oldest first. -/
  inbound : List Inbound := []
  /-- Reads of HPT_FLUSH that wait for them (R578). -/
  flushes : Nat := 0
  /-- The DOE mailbox: the responder's last response, and every message since VERSION (R682). -/
  doe : List Byte := []
  spdm : List Byte := []
  deriving DecidableEq, Repr

/-! ### The Lehr (R595 to R628) -/

/-- A rationed domain (R595, R628). Powers are in mW. -/
structure Dom where
  limit : Nat := 64
  rampK : Nat := 0
  armed : Bool := false
  gated : Bool := false
  skip : Nat := 0
  grant : Nat := 0
  demand : Nat := 0
  skips : Nat := 0
  /-- The unit clock since the units left reset, in 288ths of a ucyc (R254, R613). -/
  clk : Nat := 0
  /-- The ucyc of the last droop beyond 2 % (R609). -/
  droopAt : Nat := 0
  /-- Over-power skipping until the next tick (R604). -/
  overSkip : Bool := false
  /-- The ucyc of the last TMMA start (R611). -/
  lastMma : Nat := 0
  quiet : Bool := true
  /-- The ucyc of the last ramp step or grant. -/
  rampAt : Nat := 0
  /-- Ends of HINT.HEAVY: frames left (R612). -/
  hintLeft : Nat := 0
  /-- Frames without a resident hank (R626). -/
  idleFrames : Nat := 0
  /-- Busy in this frame; held L = 64 in every busy frame of the epoch (R614). -/
  busy : Bool := false
  /-- Rail voltage setting in mV above its fused voltage for the clock (R608). -/
  guard : Nat := 10
  deriving DecidableEq, Repr

/-- A die's thermal record (R628). -/
structure Die where
  temp : Nat := 0
  tempMax : Nat := 0
  warn : Bool := false
  hot : Bool := false
  deriving DecidableEq, Repr

/-- A hint waiting for its frame (R612). -/
structure Hint where
  coil : Nat
  frame : Nat
  heavy : Bool
  deriving DecidableEq, Repr

/-- The power arbiter (R627). -/
structure Lhr where
  stage : Nat := 0
  onlyFloors : Bool := false
  jobLevel : Nat := 15
  posted : Nat := 15
  memReady : Bool := true
  /-- C in mW (R601). -/
  carry : Nat := 0
  input : Nat := 0
  unrationed : Nat := 0
  granted : Nat := 0
  lastTarget : Nat := 0
  refused : Bool := false
  reason : Nat := 0
  jobfLate : Nat := 0
  overpower : Nat := 0
  dieHot : Nat := 0
  holds : Nat := 0
  doms : Tbl Dom := []
  dies : Tbl Die := []
  hints : List Hint := []
  /-- A stage request waits for the next tick (R623). -/
  request : Option Nat := none
  /-- A wake is in progress (R622, R624). -/
  waking : Bool := false
  /-- Regions waiting for a ramp grant with `now` at their request, in the order of granting, and `now` of the last grant
  (R611). -/
  rampQ : List (Nat × Nat) := []
  lastGrant : Option Nat := none
  /-- Epoch statistics (R614). -/
  epHot : Bool := false
  epWarn : Bool := false
  epSkipFrames : Nat := 0
  epSkipped : Bool := false
  epBusySum : Nat := 0
  epBusyCount : Nat := 0
  epAllFull : Bool := true
  epAllCool : Bool := true
  /-- The result of the epoch's min-reduction, once held, and whether a value was posted (R615). -/
  result : Option Nat := none
  postedNow : Bool := false
  /-- The job-frequency reduction is running on bend engine 0 (R560). -/
  jobRunning : Bool := false
  /-- LHR_STAGE_CTRL.TARGET (R627). -/
  ctrl : Nat := 0
  deriving DecidableEq, Repr

/-! ### Boot, measurement and attestation (R665 to R687) -/

/-- BOOT_STATUS.STAGE (R687). -/
inductive BootStage where
  | rom | marver | train | test | waitFrit | released | failed
  deriving DecidableEq, Repr

/-- The code of a boot stage (R687). -/
def BootStage.code : BootStage → Nat
  | .rom => 0 | .marver => 1 | .train => 2 | .test => 3 | .waitFrit => 4 | .released => 5 | .failed => 6

/-- A measurement log entry (R678). -/
structure LogEntry where
  index : Nat
  frame : Nat
  digest : Nat
  deriving DecidableEq, Repr

/-- A mailbox operation that is running: OP, ARG, OFFSET and LEN as GO found them, and the copy of its input (R684, R685). -/
structure MbxRun where
  op : Nat
  arg : Nat
  offset : Nat
  len : Nat
  input : List Byte
  deriving DecidableEq, Repr

/-- One mailbox channel, or the management port's buffer and status (R683, R685). -/
structure Mbx where
  op : Nat := 0
  arg : Nat := 0
  busy : Bool := false
  result : Nat := 0
  length : Nat := 0
  offset : Nat := 0
  len : Nat := 0
  buf : Tbl Byte := []
  /-- The operation running (R684). -/
  running : Option MbxRun := none
  /-- Result and output length of the finished operation, until BUSY clears. -/
  outcome : Option (Nat × Nat) := none
  deriving DecidableEq, Repr

/-- Boot and attestation state (R687). -/
structure Boot where
  stage : BootStage := .rom
  result : Nat := 0
  marverSlot : Bool := false
  nodeSlot : Bool := false
  nodeState : Nat := 0
  fritSrc : Nat := 0
  warm : Bool := false
  memtest : Bool := false
  /-- MEAS0 to MEAS15 as big-endian numbers of 256 bits. -/
  meas : Tbl Nat := []
  log : List LogEntry := []
  logOverflow : Nat := 0
  /-- Seed of the alias key (R679). -/
  aliasSeed : Nat := 0
  /-- The device secret is locked (R679). -/
  secretLocked : Bool := false
  /-- The image last applied, kept in the standby island (R665, R669). -/
  keptFrit : Option (List Byte) := none
  /-- The host port waits for the tick that releases it (R667 step 7). -/
  releaseDue : Bool := false
  /-- The main rails are coming up for a cold restart (R665). -/
  cold : Bool := false
  /-- Flash operations that wait, in arrival order (R685). -/
  flashQ : List Chan := []
  /-- SVNs of the running images (R675). -/
  svnMarver : Nat := 0
  svnNode : Nat := 0
  deriving DecidableEq, Repr

/-- Fuses: fixed at package test but for the counts and revocations (R673, R675, R679). -/
structure Fuses where
  countMarver : Nat := 0
  countNode : Nat := 0
  ownerSet : BitVec 4 := 0
  ownerRevoked : BitVec 4 := 0
  /-- SHA-256 digests of the keys (R673). -/
  firmwareKey : Nat := 0
  ownerKeys : List Nat := [0, 0, 0, 0]
  defaultOwnerKey : Nat := 0
  uid : Nat := 0
  /-- Every fuse word except the device secret, as bytes (R677). -/
  words : List Byte := []
  /-- The boot ROM's bytes (R677). -/
  rom : List Byte := []
  spares : List (Nat × Nat) := []
  deriving DecidableEq, Repr

/-- A board-flash slot (R671): its directory entry and its contents. -/
structure FlashSlot where
  offset : Nat := 0
  size : Nat := 0
  preferred : Bool := false
  bytes : Tbl Byte := []
  deriving DecidableEq, Repr

/-- Board flash: the six slots of R671 in directory order. -/
structure Flash where
  /-- The flash answers (R670). -/
  answers : Bool := true
  marverA : FlashSlot := {}
  marverB : FlashSlot := {}
  nodeA : FlashSlot := {}
  nodeB : FlashSlot := {}
  fritA : FlashSlot := {}
  fritB : FlashSlot := {}
  deriving DecidableEq, Repr

/-! ### Node cores (R688 to R705) -/

/-- A hart's run state (R705). -/
inductive HartState where
  | held | running | fenced
  deriving DecidableEq, Repr

/-- A node-core hart: what this manual gives it (R692, R693, R698, R699). -/
structure Hart where
  state : HartState := .held
  pc : Nat := 0
  x : Tbl W64 := []
  /-- Floating-point and vector registers (R688). -/
  f : Tbl W64 := []
  v : Tbl (BitVec 1024) := []
  /-- Privilege: 0 user, 1 supervisor, 3 machine (R698). -/
  priv : Nat := 3
  /-- The standard's CSRs that the model keeps, by number (notes/assumptions/41.md). -/
  csr : Tbl Nat := []
  /-- Lines in the core's L1 caches and its L2, latest used first (R689); their data is the complex cache's (R371). -/
  l1i : List Nat := []
  l1d : List Nat := []
  l2 : List Nat := []
  stimecmp : Nat := 2 ^ 64 - 1
  /-- miselect and siselect of the standard's IMSIC (R694). -/
  misel : Nat := 0
  sisel : Nat := 0
  /-- Machine timer and supervisor timer interrupt pending (R692). -/
  mtip : Bool := false
  stip : Bool := false
  /-- LR reservation: line and value it read, while held. -/
  resv : Option Nat := none
  /-- The exception that its last instruction took: RISC-V cause number. -/
  trap : Option Nat := none
  /-- Its access to another package that has not been answered, and the physical address. -/
  wait : Option (NodeOp × Nat) := none
  deriving DecidableEq, Repr

/-- NCC_IRQ_ROUTEn (R705). -/
structure Route where
  hart : Nat := 0
  file : Nat := 0
  eiid : Nat := 0
  en : Bool := false
  deriving DecidableEq, Repr

/-- NCC_KWAITk.STATE (R705). -/
inductive SlotState where
  | idle | armed | fired
  deriving DecidableEq, Repr

/-- The code of a wait slot's state (R705). -/
def SlotState.code : SlotState → Nat
  | .idle => 0 | .armed => 1 | .fired => 2

/-- A node-core wait slot (R701, R702). -/
structure KWait where
  state : SlotState := .idle
  result : Nat := 0
  frame : Nat := 0
  addr : Nat := 0
  target : Nat := 0
  irq : Nat := 0
  /-- The knot is to be read (R473, R702). -/
  due : Bool := false
  deriving DecidableEq, Repr

/-- The NCC block (R705). IMSIC pending bits are keyed by 4096 × (8 × hart + file) + identity. -/
structure Ncc where
  routes : Tbl Route := []
  lost : Nat := 0
  startHart : Nat := 0
  hartAddr : Nat := 0
  harts : Tbl Hart := []
  mtimecmp : Tbl Nat := []
  kwait : Tbl KWait := []
  imsic : Tbl Bool := []
  /-- The standard's enable bits by the same key, and eidelivery and eithreshold by 8 × hart + file (R694). -/
  eie : Tbl Bool := []
  edel : Tbl Nat := []
  ethr : Tbl Nat := []
  deriving DecidableEq, Repr

/-! ### Pins and power (R711 to R722) -/

/-- The package's contacts and the standby island (R714, R717). -/
structure Pins where
  vinOk : Bool := true
  sbRstN : Bool := true
  sbGood : Bool := true
  pwrGood : Bool := true
  thermtrip : Bool := false
  /-- Main rails are up. -/
  rails : Bool := true
  /-- I3C_ADDR straps, and the static address sampled from them at standby start (R714, R717). -/
  i3cStrap : Nat := 0
  i3cAddr : Nat := 0x30
  perstN : Bool := true
  deriving DecidableEq, Repr

end Sys2Proof.Machine
end

