-- ==== Sys2Proof/Machine/State.lean ====
section
/-! DEFINITION. The whole state of the package, the reasons a command can stop, and the state after reset. -/

namespace Sys2Proof.Machine

open Sys2Proof

/-- Why a command would fault. No command of this block faults: every row of the table has an effect in the specification,
and an event that is not due leaves the state as it is. Safe: nothing is cut short. -/
inductive Fault
  deriving DecidableEq, Repr

/-- Why a command is refused. -/
inductive Refusal where
  /-- Raised by `exec` for a row whose meaning is not written; no row is left so. Safe: the machine stops. -/
  | notModelled (mnemonic : String)
  deriving DecidableEq, Repr

/-- What one command answers. -/
abbrev Out (σ : Type) := Host.Outcome σ Fault Refusal

/-- A departure under way (R534): what happens once LEAVE has been broadcast. -/
inductive Departure where
  | warmReset
  | stage (target : Nat)
  | fabric
  deriving DecidableEq, Repr

/-- The translation-invalidation registers (R332). -/
structure XltInv where
  vpn : Nat := 0
  kind : Nat := 0
  asid : Nat := 0
  busy : Bool := false
  done : Nat := 0
  deriving DecidableEq, Repr

/-- The state of the package. -/
structure State where
  /-- Unit clocks (ucyc at job level 15) since power-up or warm reset (R254, R692). -/
  now : Nat := 0
  /-- The commands that are waiting, first in, first out. -/
  pending : List Instr := []
  frm : Frm := {}
  frt : Frt := {}
  fea : Fea := {}
  err : Err := {}
  lhr : Lhr := {}
  boot : Boot := {}
  fuses : Fuses := {}
  flash : Flash := {}
  mbx0 : Mbx := {}
  mbx1 : Mbx := {}
  mgmt : Mbx := {}
  hpt : Hpt := {}
  hws : Hws := {}
  bends : Tbl Bend := []
  /-- BND_JOBGRP (R565). -/
  jobAddr : Nat := 0
  jobEn : Bool := false
  dlk : Tbl Bundle := []
  ncc : Ncc := {}
  pins : Pins := {}
  queues : Tbl Queue := []
  cmds : List Cmd := []
  /-- The number the next admitted command takes. -/
  nextCmd : Nat := 0
  /-- The queue number from which each command engine, by its agent ID, looks for its next ready queue (R455). -/
  nextQueue : Tbl Nat := []
  /-- The unit each launch engine last gave a hank to (R465). -/
  lastUnit : Tbl Nat := []
  dma : Tbl DmaEng := []
  units : Tbl UnitSt := []
  clusters : Tbl Cluster := []
  xlt : XltInv := {}
  /-- Cluster caches 0 to 255 and complex caches 256 to 267 (R369, R370). -/
  agents : Tbl Agent := []
  slices : Tbl Slice := []
  coh : Coh := {}
  hbm : Tbl Stack := []
  /-- HBM by byte, under direct addresses, in canonical form (`Memory.wf`). -/
  mem : List Host.Cell := []
  /-- Lines of HBM written with the poison marker (R410). -/
  memPoison : List Nat := []
  /-- Scratchpad lines by window offset, and those poisoned (R355, R356). -/
  scratch : Tbl LineData := []
  scratchPoison : List Nat := []
  /-- Coherence messages in flight, oldest first (R375). -/
  net : List Msg := []
  /-- A departure under way (R534). -/
  depart : Option Departure := none
  /-- Free values taken so far (the model's own field, not the specification's). -/
  free : Nat := 0
  /-- An engine's access has met a home that cannot serve it now, so that what needs it has not happened yet (the model's own field; it
  is false between commands, see `State.attempt`). -/
  stuck : Bool := false
  deriving DecidableEq, Repr

/-- The state right after reset (R707): event P of R667, main rails up, PWR_GOOD about to assert. Every field stands at
its declared default: the specification's reset value, or the value notes/assumptions/2.md names. -/
def State.reset : State :=
  { pins := { pwrGood := false } }

end Sys2Proof.Machine
end

