-- ==== Sys2Proof/Machine/Ops.lean ====
section
/-! DEFINITION. Named operations over the state: access to the package's numbered parts, free values, error records,
interrupts, and the configuration in force. -/

namespace Sys2Proof.Machine

open Sys2Proof

/-! ### Numbered parts -/

/-- Unit u. -/
def State.unit (s : State) (u : Nat) : UnitSt := Tbl.get {} s.units u
/-- Change unit u. -/
def State.modUnit (s : State) (u : Nat) (f : UnitSt → UnitSt) : State :=
  { s with units := Tbl.upd {} s.units u f }
/-- Cluster c beside its cache. -/
def State.cluster (s : State) (c : Nat) : Cluster := Tbl.get {} s.clusters c
/-- Change cluster c. -/
def State.modCluster (s : State) (c : Nat) (f : Cluster → Cluster) : State :=
  { s with clusters := Tbl.upd {} s.clusters c f }
/-- Caching agent a (R370). -/
def State.agent (s : State) (a : Nat) : Agent := Tbl.get {} s.agents a
/-- Change caching agent a. -/
def State.modAgent (s : State) (a : Nat) (f : Agent → Agent) : State :=
  { s with agents := Tbl.upd {} s.agents a f }
/-- Slice n. -/
def State.slice (s : State) (n : Nat) : Slice := Tbl.get {} s.slices n
/-- Change slice n. -/
def State.modSlice (s : State) (n : Nat) (f : Slice → Slice) : State :=
  { s with slices := Tbl.upd {} s.slices n f }
/-- HBM stack k. -/
def State.stack (s : State) (k : Nat) : Stack := Tbl.get {} s.hbm k
/-- Change HBM stack k. -/
def State.modStack (s : State) (k : Nat) (f : Stack → Stack) : State :=
  { s with hbm := Tbl.upd {} s.hbm k f }
/-- Channel c of a stack. -/
def Stack.channel (k : Stack) (c : Nat) : Channel := Tbl.get {} k.channels c
/-- Change channel c of a stack. -/
def Stack.modChannel (k : Stack) (c : Nat) (f : Channel → Channel) : Stack :=
  { k with channels := Tbl.upd {} k.channels c f }
/-- Queue q. -/
def State.queue (s : State) (q : Nat) : Queue := Tbl.get {} s.queues q
/-- Change queue q. -/
def State.modQueue (s : State) (q : Nat) (f : Queue → Queue) : State :=
  { s with queues := Tbl.upd {} s.queues q f }
/-- DMA engine e. -/
def State.dmaEng (s : State) (e : Nat) : DmaEng := Tbl.get {} s.dma e
/-- Change DMA engine e. -/
def State.modDma (s : State) (e : Nat) (f : DmaEng → DmaEng) : State :=
  { s with dma := Tbl.upd {} s.dma e f }
/-- Channel c of a DMA engine. -/
def DmaEng.channel (k : DmaEng) (c : Nat) : DmaCh := Tbl.get {} k.channels c
/-- Change channel c of a DMA engine. -/
def DmaEng.modChannel (k : DmaEng) (c : Nat) (f : DmaCh → DmaCh) : DmaEng :=
  { k with channels := Tbl.upd {} k.channels c f }
/-- Channel c of DMA engine e. -/
def State.dmaCh (s : State) (e c : Nat) : DmaCh := (s.dmaEng e).channel c
/-- Change channel c of DMA engine e. -/
def State.modDmaCh (s : State) (e c : Nat) (f : DmaCh → DmaCh) : State :=
  s.modDma e (fun k => k.modChannel c f)
/-- Hawser port p. -/
def State.port (s : State) (p : Nat) : Port := Tbl.get {} s.hws.ports p
/-- Change Hawser port p. -/
def State.modPort (s : State) (p : Nat) (f : Port → Port) : State :=
  { s with hws := { s.hws with ports := Tbl.upd {} s.hws.ports p f } }
/-- Peer entry i. -/
def State.peer (s : State) (i : Nat) : Peer := Tbl.get {} s.hws.peers i
/-- Change peer entry i. -/
def State.modPeer (s : State) (i : Nat) (f : Peer → Peer) : State :=
  { s with hws := { s.hws with peers := Tbl.upd {} s.hws.peers i f } }
/-- Bend engine b. -/
def State.bend (s : State) (b : Nat) : Bend := Tbl.get {} s.bends b
/-- Change bend engine b. -/
def State.modBend (s : State) (b : Nat) (f : Bend → Bend) : State :=
  { s with bends := Tbl.upd {} s.bends b f }
/-- Die-link bundle n. -/
def State.bundle (s : State) (n : Nat) : Bundle := Tbl.get {} s.dlk n
/-- Change die-link bundle n. -/
def State.modBundle (s : State) (n : Nat) (f : Bundle → Bundle) : State :=
  { s with dlk := Tbl.upd {} s.dlk n f }
/-- Rationed power domain d (R595). -/
def State.dom (s : State) (d : Nat) : Dom := Tbl.get {} s.lhr.doms d
/-- Change rationed power domain d. -/
def State.modDom (s : State) (d : Nat) (f : Dom → Dom) : State :=
  { s with lhr := { s.lhr with doms := Tbl.upd {} s.lhr.doms d f } }
/-- Die n's thermal record. -/
def State.die (s : State) (n : Nat) : Die := Tbl.get {} s.lhr.dies n
/-- Change die n's thermal record. -/
def State.modDie (s : State) (n : Nat) (f : Die → Die) : State :=
  { s with lhr := { s.lhr with dies := Tbl.upd {} s.lhr.dies n f } }
/-- Hart h. -/
def State.hart (s : State) (h : Nat) : Hart := Tbl.get {} s.ncc.harts h
/-- Change hart h. -/
def State.modHart (s : State) (h : Nat) (f : Hart → Hart) : State :=
  { s with ncc := { s.ncc with harts := Tbl.upd {} s.ncc.harts h f } }
/-- Node-core wait slot k. -/
def State.kwait (s : State) (k : Nat) : KWait := Tbl.get {} s.ncc.kwait k
/-- Change node-core wait slot k. -/
def State.modKwait (s : State) (k : Nat) (f : KWait → KWait) : State :=
  { s with ncc := { s.ncc with kwait := Tbl.upd {} s.ncc.kwait k f } }
/-- A mailbox channel or the management port's buffer. -/
def State.mbx (s : State) : Chan → Mbx
  | .ch0 => s.mbx0 | .ch1 => s.mbx1 | .mgmt => s.mgmt
/-- Change a mailbox channel. -/
def State.modMbx (s : State) (c : Chan) (f : Mbx → Mbx) : State :=
  match c with
  | .ch0 => { s with mbx0 := f s.mbx0 }
  | .ch1 => { s with mbx1 := f s.mbx1 }
  | .mgmt => { s with mgmt := f s.mgmt }
/-- The command in flight numbered id. -/
def State.cmd? (s : State) (id : Nat) : Option Cmd := s.cmds.find? (fun c => c.id == id)
/-- Change the command in flight numbered id. -/
def State.modCmd (s : State) (id : Nat) (f : Cmd → Cmd) : State :=
  { s with cmds := s.cmds.map (fun c => if c.id == id then f c else c) }

/-! ### Free values (notes/assumptions/3.md) -/

/-- Take the next free value of w bits. -/
def State.freeVal (s : State) (w : Nat) : Nat × State :=
  ((Config.freeWord s.free).toNat % 2 ^ w, { s with free := s.free + 1 })
/-- Take the next free choice. -/
def State.freeChoice (s : State) : Bool × State :=
  (Config.freeBit s.free, { s with free := s.free + 1 })

/-! ### Time (R4, R39) -/

/-- hcyc since power-up or warm reset: one hcyc is two ucyc. -/
def State.hcyc (s : State) : Nat := s.now / 2
/-- ucyc of a region's clock since its units left reset (R254, R613). -/
def Dom.ucyc (d : Dom) : Nat := d.clk / 288
/-- ucyc of a unit's clock. -/
def State.ucyc (s : State) (u : Nat) : Nat := (s.dom (regionOf u)).ucyc
/-- ucyc of a frame of period code p, at job level 15 (R39). -/
def frameUcyc (p : Nat) : Nat := 3600 * 2 ^ p
/-- hcyc elapsed since the present frame's tick. -/
def State.phase (s : State) : Nat := (s.now - s.frm.tickAt) / 2

/-! ### Interrupts (R580, R581, R696) -/

/-- Raise MSI-X vector v: a posted write, a pending bit when masked, nothing while not attached (R580, R581). -/
def State.raiseMsix (s : State) (v : Nat) : State :=
  if s.hpt.attached then
    let e := Tbl.get {} s.hpt.msix v
    if e.masked then { s with hpt := { s.hpt with pba := Tbl.set false s.hpt.pba v true } }
    else { s with hpt := { s.hpt with
             posted := s.hpt.posted ++ [{ addr := e.addr, bytes := leBytes 4 e.data, msix := true }] } }
  else s

/-- The key of an IMSIC pending bit: file 0 machine, 1 supervisor, 2 to 5 guests (R694). -/
def imsicKey (hart file eiid : Nat) : Nat := 4096 * (8 * hart + file) + eiid

/-- Is the hart fenced (R656)? -/
def State.hartFenced (s : State) (h : Nat) : Bool := decide (96 ≤ h) || s.err.fmCc.getLsbD (ccOfHart h)

/-- Deliver interrupt number n through its route, or count it as lost (R696). A file has 511 identities, and the write of another one does
nothing in it (R694). -/
def State.raiseRoute (s : State) (n : Nat) : State :=
  let r := Tbl.get {} s.ncc.routes n
  if !r.en || r.eiid == 0 || decide (6 ≤ r.file) || s.hartFenced r.hart then
    { s with ncc := { s.ncc with lost := satAdd 32 s.ncc.lost 1 } }
  else if 512 ≤ r.eiid then s
  else { s with ncc := { s.ncc with imsic := Tbl.set false s.ncc.imsic (imsicKey r.hart r.file r.eiid) true } }

/-- Raise interrupt number n with a destination: 0 the host's MSI-X vector, 1 a node core (R437). -/
def State.raiseIrq (s : State) (dest n : Nat) : State :=
  if dest = 0 then s.raiseMsix n else s.raiseRoute n

/-! ### Error records (R644 to R663) -/

/-- Entries of bank b (R647). -/
def bankSize : Nat → Nat
  | 0 => 16 | 1 => 64 | 2 => 256 | _ => 1024

/-- The bank of a class (R647). -/
def bankOf : ErrClass → Nat
  | .fe => 0 | .uc => 1 | .de => 2 | _ => 3

/-- Bank b. -/
def Err.bank (e : Err) : Nat → ErrBank
  | 0 => e.bank0 | 1 => e.bank1 | 2 => e.bank2 | _ => e.bank3

/-- Replace bank b. -/
def Err.setBank (e : Err) (b : Nat) (k : ErrBank) : Err :=
  match b with
  | 0 => { e with bank0 := k } | 1 => { e with bank1 := k } | 2 => { e with bank2 := k } | _ => { e with bank3 := k }

/-- What ring position p of a bank holds. -/
def ErrBank.at? (k : ErrBank) (p : Nat) : Option ErrRec := (k.recs.find? (fun e => e.1 == p)).map (·.2)

/-- Put a record at ring position p. -/
def ErrBank.put (k : ErrBank) (p : Nat) (r : ErrRec) : ErrBank :=
  { k with recs := (p, r) :: k.recs.filter (fun e => e.1 != p) }

/-- Count one record of a class in its occurrence counter and set its flag (R650, R662, R663). -/
def Err.occur (e : Err) : ErrClass → Err
  | .fe => { e with occFe := wrapAdd 16 e.occFe 1, fatal := true }
  | .uc => { e with occUc := wrapAdd 16 e.occUc 1, fUc := true }
  | .de => { e with occDe := wrapAdd 16 e.occDe 1, fDe := true }
  | .ce => { e with occCe := wrapAdd 16 e.occCe 1, fCe := true }
  | .event => { e with occEvent := wrapAdd 16 e.occEvent 1, fEvent := true }

/-- Store a record: merged into the newest, dropped with OVERFLOW, or logged (R648, R649). -/
def Err.store (e : Err) (r : ErrRec) : Err :=
  let b := bankOf r.cls
  let k := e.bank b
  let key := (r.srcKind, r.srcIndex, r.code)
  let newest := (k.tail + 2 ^ 32 - 1) % 2 ^ 32 % bankSize b
  let full := decide ((k.tail + 2 ^ 32 - k.head) % 2 ^ 32 = bankSize b)
  if e.thisFrame.contains key then
    match k.at? newest with
    | some n =>
      if n.srcKind == r.srcKind && n.srcIndex == r.srcIndex && n.code == r.code && n.frame == r.frame then
        e.setBank b (k.put newest { n with merged := satAdd 8 n.merged 1 })
      else e.setBank b { k with overflow := satAdd 16 k.overflow 1 }
    | none => e.setBank b { k with overflow := satAdd 16 k.overflow 1 }
  else if full then e.setBank b { k with overflow := satAdd 16 k.overflow 1 }
  else
    let k' := k.put (k.tail % bankSize b) { r with seq := k.tail }
    { (e.setBank b { k' with tail := (k.tail + 1) % 2 ^ 32 }) with thisFrame := key :: e.thisFrame }

/-- Is the class's interrupt enabled in ERR_CFG.IRQ_MASK (R663)? An FE raises it whatever the mask holds (R659). -/
def Err.irqOn (e : Err) : ErrClass → Bool
  | .fe => true | .uc => bit e.irqMask 0 | .de => bit e.irqMask 1 | .ce => bit e.irqMask 2 | .event => bit e.irqMask 3

/-- The codes whose DETAIL a rule gives: the requester's agent ID for REG_ACCESS, channel address bits, the port cause, the
bundle half (R518, R638, R645, R727), and the supply fault of an EMERGENCY (R712). Any other DETAIL is a free value
(notes/assumptions/26.md). -/
def detailStated (code detail : Nat) : Bool :=
  [0x01, 0x10, 0x11, 0x12, 0x40, 0x60].contains code || (code == 0x71 && detail != 0)

/-- Log an error record: occurrence counter, flag, bank, interrupt (R644 to R663). -/
def State.logErr (s : State) (cls : ErrClass) (code kind index : Nat) (detail addr : Nat := 0) : State :=
  let (detail, s) := if detailStated code detail then (detail, s) else s.freeVal 32
  let r : ErrRec := { seq := 0, cls := cls, code := code, srcKind := kind, srcIndex := index, detail := detail,
                      frame := s.frm.count, addr := addr }
  let s := { s with err := (s.err.occur cls).store r }
  if s.err.irqOn cls then s.raiseIrq s.err.irqDest s.err.irqNum else s

/-! ### Fence map (R658) -/

/-- Is unit u fenced? -/
def State.unitFenced (s : State) (u : Nat) : Bool := s.err.fmUnit.getLsbD u

/-! ### Loss of the coherent domain (R401, R659) -/

/-- The ports that are UP, ascending (R539). -/
def State.upPorts (s : State) : List Nat :=
  (List.range 48).filter (fun p => (s.port p).state == .up)

/-- Flits a port may hold unacknowledged (R522). -/
def replayLimit : Nat := 1024
/-- Bytes of a packet on the wire: header and payload. -/
def packetSize (k : Packet) : Nat := 16 + k.payload.length

/-- Flits a packet takes (R521). -/
def flitsOf (k : Packet) : Nat := (packetSize k + 251) / 252

/-- Give a packet to a port: flits of the replay buffer, or it waits for room there (R522). -/
def State.portSend (s : State) (p : Nat) (k : Packet) : State :=
  let s := s.modPort p (fun x =>
    let x := { x with deficits := x.deficits.mapIdx (fun i d => if i + 1 = k.cls then d + packetSize k else d) }
    let n := flitsOf k
    if x.txWait.isEmpty && decide (x.replayBuf.length + n ≤ replayLimit) then
      { x with replayBuf := x.replayBuf ++ [k] :: List.replicate (n - 1) [], txSeq := (x.txSeq + n) % 4096,
               credits := x.credits.mapIdx (fun i c => if i = k.cls then c - 1 else c) }
    else { x with txWait := x.txWait ++ [k] })
  { s with hws := { s.hws with sent := s.hws.sent ++ [k] } }

/-- Broadcast a packet on every UP port (R537, R538). -/
def State.broadcast (s : State) (k : Packet) : State :=
  let k := { k with bcast := true, src := s.hws.index }
  s.upPorts.foldl (fun s p => s.portSend p k) s

/-- An FE event: the record, FATAL, slices stop serving and a reclaim ends (R661), ports refuse and drop what they accepted, LEAVE is broadcast, and
the ERR interrupt is raised (R659). -/
def State.fatal (s : State) (code kind index : Nat) (detail addr : Nat := 0) : State :=
  let s := s.logErr .fe code kind index detail addr
  let s := { s with coh := { s.coh with serving := false, reclaim := false },
                    hws := { s.hws with departing := true, homeReqs := [] } }
  if s.hws.indexValid && !s.upPorts.isEmpty then s.broadcast { ty := 0x22, cls := 0 } else s

/-- The package serves: no FE since the last reset, and its rails are up. -/
def State.alive (s : State) : Bool := !s.err.fatal && s.pins.rails

end Sys2Proof.Machine
end

