-- ==== Sys2Proof/Machine/HartOps.lean ====
section
/-! DEFINITION. Inside a node core: registers, CSRs, exceptions, floating point and its private caches (R99, R100, R371, R688,
R689, R693, R698). Where R688 leaves a rule to its standard, that standard's (notes/assumptions/41.md). -/

namespace Sys2Proof.Machine

open Sys2Proof

/-! ### Registers -/

/-- Write a register of a hart; x0 stays zero. -/
def Hart.put (k : Hart) (r : NodeReg) (v : Nat) : Hart :=
  match r with
  | .x n => if n = 0 then k else { k with x := Tbl.set 0 k.x n (BitVec.ofNat 64 v) }
  | .f n => { k with f := Tbl.set 0 k.f n (BitVec.ofNat 64 v) }
  | .v n => { k with v := Tbl.set 0 k.v n (BitVec.ofNat 1024 v) }

/-- An instruction's result reaches its register; nothing is awaited any more. -/
def State.hartPut (s : State) (h : Nat) (r : NodeReg) (v : Nat) : State := s.modHart h (fun k => { k.put r v with wait := none })
/-- An integer result. -/
def State.hartSet (s : State) (h rd v : Nat) : State := s.hartPut h (.x rd) v

/-- An instruction has completed: where the pc goes is the standard's (a free value). -/
def State.hartNext (s : State) (h : Nat) : State :=
  let (pc, s) := s.freeVal 64
  s.modHart h (fun k => { k with pc := pc })

/-! ### CSRs (R688) -/

/-- A CSR that the model keeps. -/
def Hart.reg (k : Hart) (n : Nat) : Nat := Tbl.get 0 k.csr n
/-- Change one. -/
def Hart.setReg (k : Hart) (n v : Nat) : Hart := { k with csr := Tbl.set 0 k.csr n v }

/-- mstatus. -/
def Hart.mstatus (k : Hart) : Nat := k.reg 0x300
/-- satp. -/
def Hart.satp (k : Hart) : Nat := k.reg 0x180

/-- The bits of mstatus that hold: SIE, MIE, SPIE, MPIE, SPP, VS, MPP, FS, MPRV, SUM, MXR, TVM, TW and TSR. -/
def mstatusMask : Nat := 0x7E7FAA
/-- The bits of mstatus that sstatus shows: SIE, SPIE, SPP, VS, FS, SUM and MXR. -/
def sstatusMask : Nat := 0x0C6722

/-- A CSR's value after a write, where the model keeps it and the standard limits it. -/
def Hart.csrLegal (k : Hart) (n v : Nat) : Nat :=
  let v := v % 2 ^ 64
  match n with
  | 0x001 => v % 32
  | 0x002 => v % 8
  | 0x003 => v % 256
  | 0x008 => v % 1024
  | 0x180 => if [0, 8, 9, 10].contains (bits v 60 4) then v else k.satp
  | 0x300 =>
    let v := v &&& mstatusMask
    if bits v 11 2 = 2 then setBits v 11 2 (bits k.mstatus 11 2) else v
  | 0x302 => setBits v 11 1 0
  | 0x105 | 0x305 => setBits v 1 1 0
  | 0x141 | 0x341 => setBits v 0 1 0
  | _ => v

/-- The CSRs that the model keeps under their own number. -/
def keptCsrs : List Nat := [0x008, 0x105, 0x140, 0x141, 0x142, 0x143, 0x180, 0x300, 0x302, 0x305, 0x30A, 0x340, 0x341, 0x342, 0x343]

/-- Read one of them, or a view of one: fflags, frm, fcsr, sstatus, vl, vtype and vlenb; none: not kept. -/
def Hart.csrGet (k : Hart) (n : Nat) : Option Nat :=
  match n with
  | 0x001 => some (bits (k.reg 0x003) 0 5)
  | 0x002 => some (bits (k.reg 0x003) 5 3)
  | 0x003 => some (k.reg 0x003)
  | 0x100 => some (k.mstatus &&& sstatusMask)
  | 0xC20 => some (k.reg 0xC20)
  | 0xC21 => some (k.reg 0xC21)
  | 0xC22 => some 128
  | _ => if keptCsrs.contains n then some (k.reg n) else none

/-- Write one of them. -/
def Hart.csrPut (k : Hart) (n v : Nat) : Hart :=
  match n with
  | 0x001 => k.setReg 0x003 (setBits (k.reg 0x003) 0 5 (v % 32))
  | 0x002 => k.setReg 0x003 (setBits (k.reg 0x003) 5 3 (v % 8))
  | 0x003 => k.setReg 0x003 (v % 256)
  | 0x100 => k.setReg 0x300 (k.mstatus - (k.mstatus &&& sstatusMask) + (v &&& sstatusMask))
  | _ => if keptCsrs.contains n then k.setReg n (k.csrLegal n v) else k

/-! ### Exceptions -/

/-- A hart takes an exception, in machine mode, or in supervisor mode where medeleg says so and it is not in machine mode; what it was
waiting for is over. -/
def Hart.take (k : Hart) (cause tval : Nat) : Hart :=
  let m := k.mstatus
  let k := { k with trap := some cause, wait := none }
  if k.priv ≤ 1 && bit (k.reg 0x302) cause then
    let m := setBits (setBits (setBits m 5 1 (bits m 1 1)) 1 1 0) 8 1 k.priv
    { ((((k.setReg 0x300 m).setReg 0x141 k.pc).setReg 0x142 cause).setReg 0x143 tval) with priv := 1, pc := k.reg 0x105 / 4 * 4 }
  else
    let m := setBits (setBits (setBits m 7 1 (bits m 3 1)) 3 1 0) 11 2 k.priv
    { ((((k.setReg 0x300 m).setReg 0x341 k.pc).setReg 0x342 cause).setReg 0x343 tval) with priv := 3, pc := k.reg 0x305 / 4 * 4 }

/-- A hart takes an exception. -/
def State.hartTrap (s : State) (h cause : Nat) (tval : Nat := 0) : State := s.modHart h (fun k => k.take cause tval)

/-- MRET: back to the mode and the pc that machine mode's last exception left. -/
def Hart.mret (k : Hart) : Hart :=
  let m := k.mstatus
  let p := bits m 11 2
  let m' := setBits (setBits (setBits m 3 1 (bits m 7 1)) 7 1 1) 11 2 0
  { (k.setReg 0x300 (if p = 3 then m' else setBits m' 17 1 0)) with priv := p, pc := k.reg 0x341 }

/-- SRET: the same of supervisor mode. -/
def Hart.sret (k : Hart) : Hart :=
  let m := k.mstatus
  let m' := setBits (setBits (setBits m 1 1 (bits m 5 1)) 5 1 1) 8 1 0
  { (k.setReg 0x300 (setBits m' 17 1 0)) with priv := bits m 8 1, pc := k.reg 0x141 }

/-- The virtual address of an operation. -/
def opVa : NodeOp → Nat
  | .load _ va _ _ | .fetch va | .store va _ _ | .amo _ va _ _ _ | .lr _ va _ | .sc _ va _ _ => va
  | _ => 0

/-- The access-fault cause of an operation: 1 instruction, 5 load, 7 store or AMO. -/
def accessFault (o : NodeOp) : Nat :=
  match o with
  | .fetch _ => 1
  | .store _ _ _ => 7
  | .amo _ _ _ _ _ => 7
  | .sc _ _ _ _ => 7
  | _ => 5

/-- The page-fault cause of an operation: 12 instruction, 13 load, 15 store or AMO. -/
def pageFault (o : NodeOp) : Nat := match accessFault o with | 1 => 12 | 7 => 15 | _ => 13

/-- An access takes its access fault (R22, R321). -/
def State.nodeFault (s : State) (h : Nat) (o : NodeOp) : State := s.hartTrap h (accessFault o) (opVa o)

/-- A hart's outstanding remote access faults. -/
def State.hartFault (s : State) (h : Nat) : State :=
  match (s.hart h).wait with
  | some (o, _) => s.nodeFault h o
  | none => s

/-- The value that a load leaves in a register: a binary32 value in a floating-point register is boxed in ones. -/
def loadValue (size : Nat) (signed : Bool) (bs : List Byte) : Nat :=
  if signed then ofS 64 (toS (8 * size) (leNat (bs.take size))) else leNat (bs.take size)

/-- The register value of a load's bytes. -/
def regLoaded (r : NodeReg) (size : Nat) (signed : Bool) (bs : List Byte) : Nat :=
  match r with
  | .x _ => loadValue size signed bs
  | .f _ => if size = 4 then 0xFFFFFFFF00000000 + leNat (bs.take 4) else leNat (bs.take size)
  | .v _ => leNat (bs.take size)

/-! ### Floating point (R100) -/

/-- binary32 and binary64 with subnormals: R99 does not apply to node cores. -/
def fpFmt : NodeFmt → Fmt
  | .s => { fp32 with flush := false }
  | .d => { fp64 with flush := false }
/-- The other format. -/
def fpOther : NodeFmt → NodeFmt | .s => .d | .d => .s

/-- A signaling NaN. -/
def Fmt.signaling (f : Fmt) (c : Nat) : Bool := f.value c == .nan && !bit c (f.m - 1)

/-- fflags: invalid 16, division by zero 8, overflow 4, underflow 2, inexact 1. -/
def roundFlags (f : Fmt) (rm : Nat) (x : Exact) : Nat × Nat :=
  let (c, r) := f.round rm false x
  let inexact := r.overflow || r.underflow || (roundP rm (f.m + 1) x).2.2
  (c, 4 * b2n r.overflow + 2 * b2n r.underflow + b2n inexact)

/-- A result as a code and flags. -/
def Res.code (f : Fmt) (rm : Nat) : Res → Nat × Nat
  | .nan iv => (f.nanCode, 16 * b2n iv)
  | .inf neg dz => ((if neg then f.signBit else 0) + f.infCode, 8 * b2n dz)
  | .fin x => roundFlags f rm x

/-- Minimum or maximum: of a number and a NaN the number; a signaling NaN is invalid. -/
def fpPick (f : Fmt) (isMax : Bool) (a b : Nat) : Nat × Nat :=
  let iv := 16 * b2n (f.signaling a || f.signaling b)
  let c := match f.value a, f.value b with
    | .nan, .nan => f.nanCode
    | .nan, _ => b
    | _, .nan => a
    | x, y => if takeFirst isMax x y then a else b
  (c, iv)

/-- To an integer of w bits: out of range is invalid and gives the nearest bound, a NaN the greatest. -/
def fpToInt (f : Fmt) (rm w : Nat) (signed : Bool) (a : Nat) : Nat × Nat :=
  let lo : Int := if signed then -(2 ^ (w - 1) : Nat) else 0
  let hi : Int := if signed then (2 ^ (w - 1) : Nat) - 1 else (2 ^ w : Nat) - 1
  let out (v : Int) : Nat := ofS 64 (toS w (ofS w v))
  match f.value a with
  | .nan => (out hi, 16)
  | .inf s => (out (if s then lo else hi), 16)
  | .fin s m e =>
    let v := roundInt rm ⟨s, m, e, false⟩
    if v < lo then (out lo, 16)
    else if hi < v then (out hi, 16)
    else (out v, b2n (0 > e && m % 2 ^ (-e).toNat != 0))

/-- One operation on codes of a format; an integer operand and an integer result as 64 bits. The flags of 754's sections 7.2 to 7.6. -/
def fpRun (o : NodeFp) (k : NodeFmt) (rm a b c : Nat) : Nat × Nat :=
  let f := fpFmt k
  let v := f.value
  let sn (l : List Nat) (r : Nat × Nat) : Nat × Nat := (r.1, r.2 ||| 16 * b2n (l.any f.signaling))
  match o with
  | .add => sn [a, b] ((addV rm (v a) (v b)).code f rm)
  | .sub => sn [a, b] ((addV rm (v a) (v b).neg).code f rm)
  | .mul => sn [a, b] ((mulV (v a) (v b)).code f rm)
  | .div => sn [a, b] ((divV (v a) (v b)).code f rm)
  | .sqrt => sn [a] ((sqrtV (v a)).code f rm)
  | .min => fpPick f false a b
  | .max => fpPick f true a b
  | .fma np nc =>
    let x := if np then (v a).neg else v a
    let y := if nc then (v c).neg else v c
    let r := sn [a, b, c] ((fmaV rm x (v b) y).code f rm)
    (r.1, r.2 ||| 16 * b2n (mulV x (v b) == .nan true))
  | .eq => sn [a, b] (b2n (cmpV (v a) (v b) == some .eq), 0)
  | .lt => (b2n (cmpV (v a) (v b) == some .lt), 16 * b2n (cmpV (v a) (v b)).isNone)
  | .le => (b2n (condHolds 3 (cmpV (v a) (v b))), 16 * b2n (cmpV (v a) (v b)).isNone)
  | .toInt w signed => fpToInt f rm w signed a
  | .ofInt w signed =>
    let n : Int := if signed then toS w a else bits a 0 w
    roundFlags f rm ⟨decide (n < 0), n.natAbs, 0, false⟩
  | .cvt =>
    let g := fpFmt (fpOther k)
    let r := match g.value a with
      | .nan => (f.nanCode, 0)
      | .inf s => ((if s then f.signBit else 0) + f.infCode, 0)
      | .fin s m e => roundFlags f rm ⟨s, m, e, false⟩
    (r.1, r.2 ||| 16 * b2n (g.signaling a))

/-- The result of an operation goes to an integer register. -/
def fpToX : NodeFp → Bool
  | .eq | .lt | .le | .toInt _ _ => true
  | _ => false

/-- A code of a format out of a floating-point register: a binary32 one that is not boxed is the canonical NaN. -/
def fpUnbox (k : NodeFmt) (r : W64) : Nat :=
  match k with
  | .d => r.toNat
  | .s => if r.toNat / 2 ^ 32 = 2 ^ 32 - 1 then r.toNat % 2 ^ 32 else (fpFmt k).nanCode
/-- A code into one. -/
def fpBox (k : NodeFmt) (c : Nat) : Nat := match k with | .d => c | .s => 0xFFFFFFFF00000000 + c

/-- Accrued flags, and the floating-point state dirty. -/
def Hart.accrue (k : Hart) (flags : Nat) : Hart := (k.setReg 0x003 (k.reg 0x003 ||| flags)).setReg 0x300 (setBits k.mstatus 13 2 3)

/-- A scalar floating-point instruction; none: an illegal instruction (FS off, or a reserved rounding mode). -/
def Hart.fp (k : Hart) (o : NodeFp) (fmt : NodeFmt) (rd a b c rm : Nat) : Option Hart :=
  let rm := if rm = 7 then bits (k.reg 0x003) 5 3 else rm
  if bits k.mstatus 13 2 = 0 || decide (4 < rm) then none
  else
    let get (g : NodeFmt) (n : Nat) : Nat := fpUnbox g (Tbl.get 0 k.f n)
    let x := match o with
      | .ofInt _ _ => (Tbl.get 0 k.x a).toNat
      | .cvt => get (fpOther fmt) a
      | _ => get fmt a
    let (r, flags) := fpRun o fmt rm x (get fmt b) (get fmt c)
    some ((k.accrue flags).put (if fpToX o then .x rd else .f rd) (if fpToX o then r else fpBox fmt r))

/-! ### Vectors (R688: VLEN 1,024) -/

/-- SEW in bits, and LMUL in eighths, of a vtype. -/
def vSew (vtype : Nat) : Nat := 2 ^ (3 + bits vtype 3 3)
/-- LMUL in eighths: 1, 2, 4, 8, 16, 32 or 64; 0: reserved. -/
def vLmul8 (vtype : Nat) : Nat := match bits vtype 0 3 with | 0 => 8 | 1 => 16 | 2 => 32 | 3 => 64 | 5 => 1 | 6 => 2 | 7 => 4 | _ => 0
/-- VLMAX of a vtype; 0: the type is not supported. -/
def vlMax (vtype : Nat) : Nat := if 3 < bits vtype 3 3 ∨ 256 ≤ vtype then 0 else 1024 * vLmul8 vtype / 8 / vSew vtype

/-- Element e of a group of vector registers. -/
def Hart.vGet (k : Hart) (r sew e : Nat) : Nat :=
  bits (Tbl.get 0 k.v (r + e * sew / 1024)).toNat (e * sew % 1024) sew
/-- Write one. -/
def Hart.vPut (k : Hart) (r sew e c : Nat) : Hart :=
  let n := r + e * sew / 1024
  k.put (.v n) (setBits (Tbl.get 0 k.v n).toNat (e * sew % 1024) sew c)

/-- The format of the elements of a type. -/
def fpSew : NodeFmt → Nat | .s => 32 | .d => 64

/-- A vector floating-point instruction on elements vstart to vl − 1; the others keep their values, which the standard allows under
either policy. None: illegal (VS or FS off, a type that is not the format's, a group out of line). A comparison writes mask bits. -/
def Hart.vfp (k : Hart) (o : NodeFp) (fmt : NodeFmt) (vd a b c : Nat) (masked : Bool) : Option Hart :=
  let sew := fpSew fmt
  let rm := bits (k.reg 0x003) 5 3
  let group := max 1 (vLmul8 (k.reg 0xC21) / 8)
  let line (r : Nat) : Bool := decide (r % group = 0)
  let cmp := match o with | .eq | .lt | .le => true | _ => false
  let whole := match o with | .toInt w _ | .ofInt w _ => w == sew | .cvt => false | _ => true
  if bits k.mstatus 13 2 = 0 || bits k.mstatus 9 2 = 0 || bit (k.reg 0xC21) 63 || vSew (k.reg 0xC21) != sew || decide (4 < rm) || !whole
      || !(line a && line b && line c && (cmp || line vd)) || (masked && !cmp && vd == 0) then none
  else
    let on (e : Nat) : Bool := decide (k.reg 0x008 ≤ e) && (!masked || bit (Tbl.get 0 k.v 0).toNat e)
    let r := ((List.range (k.reg 0xC20)).filter on).foldl (fun (acc : Hart × Nat) e =>
      let (x, fl) := fpRun o fmt rm (k.vGet a sew e) (k.vGet b sew e) (k.vGet c sew e)
      (if cmp then acc.1.put (.v vd) (setBits (Tbl.get 0 acc.1.v vd).toNat e 1 x) else acc.1.vPut vd sew e (x % 2 ^ sew),
       acc.2 ||| fl)) (k, 0)
    let k := r.1.accrue r.2
    some ((k.setReg 0x300 (setBits k.mstatus 9 2 3)).setReg 0x008 0)

/-! ### Private caches (R371, R689) -/

/-- A line is the latest used of its cache: sets by the low bits of the line number, `ways` of them each. -/
def coreTouch (ways sets : Nat) (c : List Nat) (l : Nat) : List Nat :=
  let rest := c.filter (fun x => x != l)
  let set (x : Nat) : Bool := x / 128 % sets == l / 128 % sets
  match if ways ≤ (rest.filter set).length then (rest.filter set).getLast? else none with
  | some v => l :: rest.erase v
  | none => l :: rest

/-- A hart reads or writes a line that its complex cache holds: L1 instruction 128 sets of 4, L1 data 64 of 8, L2 1,024 of 16. -/
def Hart.touch (k : Hart) (l : Nat) (fetch : Bool) : Hart :=
  let k := { k with l2 := coreTouch 16 1024 k.l2 l }
  if fetch then { k with l1i := coreTouch 4 128 k.l1i l } else { k with l1d := coreTouch 8 64 k.l1d l }

/-- A hart's caches and its reservation lose a line. -/
def Hart.lose (k : Hart) (l : Nat) : Hart :=
  { k with l1i := k.l1i.filter (fun x => x != l), l1d := k.l1d.filter (fun x => x != l), l2 := k.l2.filter (fun x => x != l)
           resv := if k.resv = some l then none else k.resv }

/-- The harts of a complex, but one, lose a line. -/
def State.coresLose (s : State) (cc : Nat) (keep : Option Nat) (l : Nat) : State :=
  (List.range 8).foldl (fun s i =>
    let h := 8 * cc + i
    if keep = some h then s else s.modHart h (fun k => k.lose l)) s

end Sys2Proof.Machine
end

