-- ==== Sys2Proof/Machine/Codes.lean ====
section
/-! DEFINITION. Checksums, digests and the guard code: CRC-32 (R521), CRC-16 (R632), SHA-256 and HMAC (R63, R676, R679) and
RS(72,64) with its poison marker (R408 to R411). -/

namespace Sys2Proof.Machine

/-- Fields laid one after another from bit 0 upward: each a width and a value. -/
def joinBits (fs : List (Nat × Nat)) : Nat := fs.foldr (fun f a => f.2 % 2 ^ f.1 + 2 ^ f.1 * a) 0

/-! ### CRCs: each byte least significant bit first -/

/-- Shift one message bit into a w-bit CRC register with the given generator. -/
def crcBit (w gen : Nat) (r : Nat) (b : Bool) : Nat :=
  let top := r.testBit (w - 1)
  let r2 := (r * 2) % 2 ^ w
  if xor top b then Nat.xor r2 gen else r2

/-- One byte, least significant bit first. -/
def crcByte (w gen : Nat) (r : Nat) (b : Byte) : Nat :=
  (List.range 8).foldl (fun r k => crcBit w gen r (b.getLsbD k)) r

/-- A register of w bits read in the opposite bit order. -/
def bitRev (w x : Nat) : Nat :=
  (List.range w).foldl (fun a k => 2 * a + b2n (x.testBit k)) 0

/-- The CRC-32 of R521: initial value all ones, result complemented; the register is taken in the reflected order that
least-significant-bit-first input gives (notes/assumptions/14.md). -/
def crc32 (l : List Byte) : Nat :=
  Nat.xor (bitRev 32 (l.foldl (crcByte 32 0x04C11DB7) 0xFFFFFFFF)) 0xFFFFFFFF

/-- The CRC-16 of R632: initial value 0xFFFF, in the same bit order. -/
def crc16 (l : List Byte) : Nat :=
  bitRev 16 (l.foldl (crcByte 16 0x8BB7) 0xFFFF)

/-! ### SHA-256 (R63, R676): the standard's constants are fractional parts of roots of primes -/

/-- The greatest r < 2^b + r0 with r^k ≤ x, found bit by bit from r0. -/
def rootFrom (k x : Nat) : Nat → Nat → Nat
  | 0, r => r
  | b + 1, r => rootFrom k x b (if (r + 2 ^ b) ^ k ≤ x then r + 2 ^ b else r)

/-- The first 32 bits of the fractional part of the k-th root of p. -/
def rootFrac (k p : Nat) : Nat := rootFrom k (p * 2 ^ (32 * k)) 37 0 % 2 ^ 32

/-- The primes below 312: there are 64. -/
def shaPrimes : List Nat :=
  ((List.range 312).drop 2).filter (fun p => (List.range 16).all (fun i => p % (i + 2) != 0 || p == i + 2))

/-- The exclusive or of right rotations of a 32-bit word. -/
def rotXor (x : Nat) (by_ : List Nat) : Nat :=
  by_.foldl (fun acc n => Nat.xor acc (x * (2 ^ 32 + 1) / 2 ^ n)) 0 % 2 ^ 32

/-- Extend a message schedule, newest word first, by n words. -/
def shaExtend : Nat → List Nat → List Nat
  | 0, w => w
  | n + 1, w =>
    let old := w.getD 14 0
    let late := w.getD 1 0
    let sum := w.getD 15 0 + w.getD 6 0 + Nat.xor (rotXor old [7, 18]) (old / 8) + Nat.xor (rotXor late [17, 19]) (late / 1024)
    shaExtend n (sum % 2 ^ 32 :: w)

/-- The values the working variables a and e have taken in a block, newest first: b, c, d are the former values of a, and f, g, h
those of e. -/
structure ShaVars where
  up : List Nat
  low : List Nat

/-- One round with its constant and schedule word. -/
def ShaVars.round (v : ShaVars) (k w : Nat) : ShaVars :=
  let e := v.low.headD 0
  let a := v.up.headD 0
  let choose := Nat.xor (v.low.getD 2 0) (Nat.land e (Nat.xor (v.low.getD 1 0) (v.low.getD 2 0)))
  let most := Nat.lor (Nat.land a (v.up.getD 1 0)) (Nat.land (v.up.getD 2 0) (Nat.lor a (v.up.getD 1 0)))
  let t := v.low.getD 3 0 + rotXor e [6, 11, 25] + choose + k + w
  { up := (t + rotXor a [2, 13, 22] + most) % 2 ^ 32 :: v.up, low := (v.up.getD 3 0 + t) % 2 ^ 32 :: v.low }

/-- The chaining value: its four upper and four lower words. -/
def ShaVars.start : ShaVars :=
  let r := (shaPrimes.take 8).map (rootFrac 2)
  { up := r.take 4, low := r.drop 4 }

/-- Add, word by word, the variables after the rounds to the chaining value. -/
def shaAdd (old new : List Nat) : List Nat := (List.range 4).map (fun i => (old.getD i 0 + new.getD i 0) % 2 ^ 32)

/-- Compress one block of sixteen big-endian words. -/
def shaBlock (h : ShaVars) (ws : List Nat) : ShaVars :=
  let words := (shaExtend 48 ws.reverse).reverse
  let v := (shaPrimes.zip words).foldl (fun (v : ShaVars) p => v.round (rootFrac 3 p.1) p.2) h
  { up := shaAdd h.up v.up, low := shaAdd h.low v.low }

/-- The blocks of a padded message, one after another. -/
def shaBlocks : Nat → List Byte → ShaVars → ShaVars
  | 0, _, h => h
  | n + 1, l, h => shaBlocks n (l.drop 64) (shaBlock h ((List.range 16).map (fun i => beNat ((l.drop (4 * i)).take 4))))

/-- SHA-256 of a byte string, as its 32 bytes: the string is followed by a one bit, zeros, and its length in bits. -/
def sha256 (l : List Byte) : List Byte :=
  let fill := List.replicate ((119 - l.length % 64) % 64) (0 : Byte)
  let whole := l ++ 0x80 :: fill ++ beBytes 8 (8 * l.length)
  let h := shaBlocks (whole.length / 64) whole ShaVars.start
  (h.up ++ h.low).flatMap (beBytes 4)

/-- SHA-256 as a number, byte 0 most significant. -/
def sha256N (l : List Byte) : Nat := beNat (sha256 l)

/-- HMAC-SHA-256 (R679). -/
def hmac (key msg : List Byte) : List Byte :=
  let k0 := if key.length > 64 then sha256 key else key
  let k := k0 ++ List.replicate (64 - k0.length) 0
  sha256 ((k.map (· ^^^ 0x5C)) ++ sha256 ((k.map (· ^^^ 0x36)) ++ msg))

/-! ### The guard code RS(72,64) over GF(2^8) (R408) -/

/-- Multiply by α in the field of x^8 + x^4 + x^3 + x^2 + 1. -/
def gfX (a : Nat) : Nat := let b := 2 * a; if b ≥ 256 then Nat.xor b 0x11D else b

/-- Field product. -/
def gfMul (a b : Nat) : Nat :=
  ((List.range 8).foldl (fun (p : Nat × Nat) k => (if b.testBit k then Nat.xor p.1 p.2 else p.1, gfX p.2)) (0, a)).1

/-- α^n. -/
def gfPow : Nat → Nat
  | 0 => 1
  | n + 1 => gfX (gfPow n)

/-- a^254, the field inverse of a nonzero a. -/
def gfInv (a : Nat) : Nat :=
  let a2 := gfMul a a
  let a4 := gfMul a2 a2
  let a8 := gfMul a4 a4
  let a16 := gfMul a8 a8
  let a32 := gfMul a16 a16
  let a64 := gfMul a32 a32
  let a128 := gfMul a64 a64
  [a2, a4, a8, a16, a32, a64, a128].foldl gfMul 1

/-- The value of a codeword polynomial at x: byte j is the coefficient of x^(71−j) (Horner from byte 0). -/
def gfEval (c : List Nat) (x : Nat) : Nat := c.foldl (fun a b => Nat.xor (gfMul a x) b) 0

/-- The eight syndromes c(α^i), i = 0 to 7. -/
def syndromes (c : List Nat) : List Nat := (List.range 8).map (fun i => gfEval c (gfPow i))

/-- The generator polynomial ∏ (x − α^i), i = 0 to 7, highest coefficient first. -/
def rsGen : List Nat :=
  (List.range 8).foldl (fun g i =>
    let r := gfPow i
    ((g ++ [0]).zip (0 :: g)).map (fun (p : Nat × Nat) => Nat.xor p.1 (gfMul r p.2))) [1]

/-- The eight check bytes of 64 data bytes: the remainder of data·x^8 by the generator. -/
def rsCheck (d : List Nat) : List Nat :=
  d.foldl (fun r b =>
    let f := Nat.xor b (r.headD 0)
    ((r.drop 1 ++ [0]).zip (rsGen.drop 1)).map (fun (p : Nat × Nat) => Nat.xor p.1 (gfMul f p.2)))
    (List.replicate 8 0)

/-- The poison marker on bytes 64 to 71 (R410). -/
def poisonMarker : List Nat := [0x5A, 0xA5, 0x3C, 0xC3, 0x96, 0x69, 0x0F, 0xF0]

/-- A stored codeword: data with check bytes, marked when poisoned (R410, R411). -/
def codeword (poison : Bool) (d : List Nat) : List Nat :=
  let c := rsCheck d
  d ++ (if poison then (c.zip poisonMarker).map (fun p => Nat.xor p.1 p.2) else c)

/-- Solve for the error at one known position: magnitude. -/
def err1 (s : List Nat) (p : Nat) : Option (List (Nat × Nat)) :=
  -- position p has locator X = α^(71−p); S_i = Y·X^i
  let x := gfPow (71 - p)
  let y := s.getD 0 0
  let ok := (List.range 8).all (fun i => s.getD i 0 == gfMul y ((List.range i).foldl (fun a _ => gfMul a x) 1))
  if ok && y != 0 then some [(p, y)] else none

/-- Syndromes of an error pattern. -/
def errSynd (es : List (Nat × Nat)) : List Nat :=
  (List.range 8).map (fun i => es.foldl (fun a e =>
    let x := gfPow (71 - e.1)
    Nat.xor a (gfMul e.2 ((List.range i).foldl (fun a _ => gfMul a x) 1))) 0)

/-- 2 × 2 determinant over the field. -/
def det2 (a b c d : Nat) : Nat := Nat.xor (gfMul a d) (gfMul b c)

/-- 3 × 3 determinant over the field. -/
def det3 (a b c d e f g h i : Nat) : Nat :=
  Nat.xor (Nat.xor (gfMul a (det2 e f h i)) (gfMul b (det2 d f g i))) (gfMul c (det2 d e g h))

/-- Positions whose locator is a root of Λ: 1 + λ1 x + λ2 x² + λ3 x³ at X⁻¹. -/
def chien (l1 l2 l3 : Nat) : List Nat :=
  (List.range 72).filter (fun p =>
    let xi := gfInv (gfPow (71 - p))
    let x2 := gfMul xi xi
    Nat.xor (Nat.xor 1 (gfMul l1 xi)) (Nat.xor (gfMul l2 x2) (gfMul l3 (gfMul x2 xi))) = 0)

/-- The error magnitudes at given positions from the first syndromes. -/
def magnitudes (s ps : List Nat) : Option (List (Nat × Nat)) :=
  let S := fun i => s.getD i 0
  let X := fun k => gfPow (71 - ps.getD k 0)
  match ps.length with
  | 2 =>
    let d := gfInv (Nat.xor (X 0) (X 1))
    let y0 := gfMul d (Nat.xor (S 1) (gfMul (S 0) (X 1)))
    let y1 := Nat.xor (S 0) y0
    some [(ps.getD 0 0, y0), (ps.getD 1 0, y1)]
  | 3 =>
    let a := X 0; let b := X 1; let c := X 2
    let a2 := gfMul a a; let b2 := gfMul b b; let c2 := gfMul c c
    let D := gfInv (det3 1 1 1 a b c a2 b2 c2)
    let y0 := gfMul D (det3 (S 0) 1 1 (S 1) b c (S 2) b2 c2)
    let y1 := gfMul D (det3 1 (S 0) 1 a (S 1) c a2 (S 2) c2)
    let y2 := gfMul D (det3 1 1 (S 0) a b (S 1) a2 b2 (S 2))
    some [(ps.getD 0 0, y0), (ps.getD 1 0, y1), (ps.getD 2 0, y2)]
  | _ => none

/-- An error pattern of one to `t` ≤ 3 bytes with the given nonzero syndromes, if there is one (it is unique, the code's
distance being 9). -/
def locate (t : Nat) (s : List Nat) : Option (List (Nat × Nat)) :=
  let S := fun i => s.getD i 0
  let check : Option (List (Nat × Nat)) → Option (List (Nat × Nat)) := fun o =>
    o.bind (fun es => if errSynd es = s && es.all (·.2 != 0) then some es else none)
  match (List.range 72).findSome? (err1 s) with
  | some es => some es
  | none =>
    let d2 := det2 (S 0) (S 1) (S 1) (S 2)
    let two : Option (List (Nat × Nat)) :=
      if d2 = 0 then none else
        let i := gfInv d2
        -- [S0 S1; S1 S2] [λ2; λ1] = [S2; S3]
        let l2 := gfMul i (det2 (S 2) (S 1) (S 3) (S 2))
        let l1 := gfMul i (det2 (S 0) (S 2) (S 1) (S 3))
        let ps := chien l1 l2 0
        if ps.length = 2 then check (magnitudes s ps) else none
    match two with
    | some es => some es
    | none =>
      if t < 3 then none else
      let d3 := det3 (S 0) (S 1) (S 2) (S 1) (S 2) (S 3) (S 2) (S 3) (S 4)
      if d3 = 0 then none else
        let i := gfInv d3
        -- [S0 S1 S2; S1 S2 S3; S2 S3 S4] [λ3; λ2; λ1] = [S3; S4; S5]
        let l3 := gfMul i (det3 (S 3) (S 1) (S 2) (S 4) (S 2) (S 3) (S 5) (S 3) (S 4))
        let l2 := gfMul i (det3 (S 0) (S 3) (S 2) (S 1) (S 4) (S 3) (S 2) (S 5) (S 4))
        let l1 := gfMul i (det3 (S 0) (S 1) (S 3) (S 1) (S 2) (S 4) (S 2) (S 3) (S 5))
        let ps := chien l1 l2 l3
        if ps.length = 3 then check (magnitudes s ps) else none

/-- How the decoder treats one codeword read (R409). -/
inductive Decoded where
  | clean
  | poisoned
  | corrected (data : List Nat)
  | uncorrectable
deriving DecidableEq, Repr

/-- Apply an error pattern to a codeword. -/
def applyErr (c : List Nat) (es : List (Nat × Nat)) : List Nat :=
  (c.zipIdx).map (fun p => match es.find? (fun e => e.1 == p.2) with
    | some e => Nat.xor p.1 e.2
    | none => p.1)

/-- The decoder of R409, in its order. -/
def rsDecode (c : List Nat) : Decoded :=
  let s := syndromes c
  if s.all (· == 0) then .clean
  else
    let m := syndromes (List.replicate 64 0 ++ poisonMarker)
    let sm := (s.zip m).map (fun p => Nat.xor p.1 p.2)
    if sm.all (· == 0) || (locate 2 sm).isSome then .poisoned
    else match locate 3 s with
      | some es => .corrected ((applyErr c es).take 64)
      | none => .uncorrectable

end Sys2Proof.Machine
end

