-- ==== Sys2Proof/Machine/Frit.lean ====
section
/-! DEFINITION. The frit image: its fields, the values in force while no image or no section gives them, and the checks
Marver makes (R60 to R73, R347, R391, R419, R446, R526, R572, R598). -/

namespace Sys2Proof.Machine

open Sys2Proof

/-- The little-endian number in n bytes of a list from an offset; bytes past its end read zero. -/
def fieldAt (l : List Byte) (off n : Nat) : Nat := leNat ((l.drop off).take n)

/-- The body of a section of an image (R62). -/
def Frit.body (f : Frit) (t : Nat) : Option (List Byte) := (f.bodies.find? (fun b => b.1 == t)).map (·.2)

/-- The body in force of section t. -/
def State.sec (s : State) (t : Nat) : Option (List Byte) := s.frt.active.bind (fun f => f.body t)

/-! ### STRUCT (R68) -/

/-- A coil record: number, complexes, regions. -/
structure Coil where
  coil : Nat
  ccs : Nat
  regions : Nat
  deriving DecidableEq, Repr

/-- The coil records of a STRUCT body. -/
def coilsOf (b : List Byte) : List Coil :=
  (List.range (fieldAt b 0 1)).map (fun i =>
    { coil := fieldAt b (8 + 8 * i) 1, ccs := fieldAt b (10 + 8 * i) 2, regions := fieldAt b (12 + 8 * i) 4 })

/-- The coils in force. -/
def State.coils (s : State) : List Coil := (s.sec 1).elim [] coilsOf
/-- The coil of region r (R69, R70). -/
def State.coilOfRegion (s : State) (r : Nat) : Option Nat :=
  (s.coils.find? (fun c => bit c.regions r)).map (·.coil)
/-- The coil of complex k (R69). -/
def State.coilOfCc (s : State) (k : Nat) : Option Nat := (s.coils.find? (fun c => bit c.ccs k)).map (·.coil)
/-- The regions of a coil, ascending. -/
def State.regionsOfCoil (s : State) (c : Nat) : List Nat :=
  ((s.coils.find? (fun k => k.coil == c)).map (fun k => (List.range 32).filter (fun r => bit k.regions r))).getD []
/-- A coil's lead region (R71). -/
def State.leadRegion (s : State) (c : Nat) : Option Nat := (s.regionsOfCoil c).head?
/-- The units of a coil, ascending. -/
def State.unitsOfCoil (s : State) (c : Nat) : List Nat := (s.regionsOfCoil c).flatMap unitsOfRegion

/-! ### MEMORY (R346, R391, R419) -/

/-- Scratchpad ways of group g; 0 before an image (R348). -/
def State.scrWays (s : State) (g : Nat) : Nat := (s.sec 2).elim 0 (fun b => fieldAt b (8 + 8 * g) 1)
/-- Owner of group g's scratchpad; 0xFF before an image. -/
def State.scrOwner (s : State) (g : Nat) : Nat := (s.sec 2).elim 0xFF (fun b => fieldAt b (9 + 8 * g) 1)
/-- REMOTE flag of group g (R358). -/
def State.scrRemote (s : State) (g : Nat) : Bool := (s.sec 2).elim false (fun b => bit (fieldAt b (10 + 8 * g) 1) 0)
/-- Stride prefetch of group g; on before an image (R348). -/
def State.pfEn (s : State) (g : Nat) : Bool := (s.sec 2).elim true (fun b => bit (fieldAt b (10 + 8 * g) 1) 1)
/-- Prefetch depth of group g; 4 before an image (R348). -/
def State.pfDepth (s : State) (g : Nat) : Nat := (s.sec 2).elim 4 (fun b => fieldAt b (11 + 8 * g) 1)
/-- The interleaved aperture is mapped; so before an image (R348). -/
def State.apertureEn (s : State) : Bool := (s.sec 2).elim true (fun b => bit (fieldAt b 0 1) 0)
/-- 3 MiB: one scratchpad way in each slice of a group (R355). -/
def scrWayBytes : Nat := 3 * 1024 * 1024
/-- The backed size S of the scratchpad window (R21, R355). -/
def State.backed (s : State) : Nat :=
  (List.range 24).foldl (fun a g => a + s.scrWays g * scrWayBytes) 0
/-- REMAP_EN (R419). -/
def State.remapEn (s : State) : Bool := (s.sec 2).elim false (fun b => bit (fieldAt b 200 1) 0)
/-- PPR_EN (R419). -/
def State.pprEn (s : State) : Bool := (s.sec 2).elim false (fun b => bit (fieldAt b 200 1) 1)
/-- REMAP_THRESH in force: 0 selects 3; 3 before an image (R419, R433). -/
def State.remapThresh (s : State) : Nat :=
  (s.sec 2).elim 3 (fun b => if fieldAt b 201 1 = 0 then 3 else fieldAt b 201 1)
/-- SCRUB code in force: 0 selects 24 h, code 3; off, code 5, before an image (R419, R433). -/
def State.scrubCode (s : State) : Nat :=
  (s.sec 2).elim 5 (fun b => if fieldAt b 202 1 = 0 then 3 else fieldAt b 202 1)
/-- SPILL_SHIFT in force: 0 selects 10; none before an image (R391, R402). -/
def State.spillShift (s : State) : Option Nat :=
  (s.sec 2).map (fun b => if fieldAt b 208 1 = 0 then 10 else fieldAt b 208 1)
/-- SPILL_BASE of a stack, while a spill area exists (R392). -/
def State.spillBase (s : State) (k : Nat) : Option Nat :=
  s.spillShift.map (fun h => k * stackBytes + stackBytes - stackBytes / 2 ^ h)
/-- REMAP_BASE of a stack, while a remap area exists (R420). -/
def State.remapBase (s : State) (k : Nat) : Option Nat :=
  if s.remapEn then (s.spillBase k).map (fun b => b - 0x400000) else none
/-- A direct HBM address lies in a spill area or a remap area (R392, R420). -/
def State.inSpillOrRemap (s : State) (a : Nat) : Bool :=
  match s.remapBase (stackOf a), s.spillBase (stackOf a) with
  | some b, _ => decide (b ≤ a)
  | none, some b => decide (b ≤ a)
  | none, none => false
/-- The group whose scratchpad a window offset names, with the offset in the group's share (R355). -/
def State.scrGroup (s : State) (o : Nat) : Option (Nat × Nat) :=
  ((List.range 24).foldl (fun (acc : Nat × Option (Nat × Nat)) g =>
    let size := s.scrWays g * scrWayBytes
    (acc.1 + size,
     if acc.2.isNone && decide (o < acc.1 + size) then some (g, o - acc.1) else acc.2)) (0, none)).2
/-- The home slice of a scratchpad offset: its own slice (R355, R356). -/
def State.scrSlice (s : State) (o : Nat) : Nat :=
  match s.scrGroup o with
  | some (g, r) => 2 * g + bits r 7 1
  | none => 0

/-- What a local physical address names, by the map in force (R21, R346): a line of HBM, backed scratchpad, or nothing. -/
def State.placeOf (s : State) (a : Nat) : Place :=
  match place s.backed a with
  | .hbm d =>
    if decide (0x20000000000 ≤ a) && !s.apertureEn then .reserved
    else if s.inSpillOrRemap d then .reserved else .hbm d
  | p => p

/-! ### FRAME, FEATURES (R64, R65, R85) -/

/-- The frame period code; 3 before an image (R39, R56). -/
def State.period (s : State) : Nat := (s.sec 3).elim 3 (fun b => fieldAt b 0 1)
/-- The beacon role; CANDIDATE before an image (R51, R56). -/
def State.role (s : State) : Nat := (s.sec 3).elim 1 (fun b => fieldAt b 1 1)
/-- The election priority (R56). -/
def State.prio (s : State) : Nat := (s.sec 3).elim 0 (fun b => fieldAt b 2 1)
/-- FEA_OFFER: the defined bits that the image permits; zero before an image (R65, R85, R86, R92). -/
def State.feaOffer (s : State) : BitVec 128 :=
  match s.frt.active with
  | none => 0
  | some f => BitVec.ofNat 128 ((f.body 8).elim 0xFFFF (fun b => fieldAt b 0 2))
/-- Feature bit k of FEA_ACTIVE (R86). -/
def State.feature (s : State) (k : Nat) : Bool := s.fea.active.getLsbD k

/-! ### POWER (R597) -/

/-- A field of POWER, or its default. -/
def State.powerField (s : State) (off n dflt : Nat) : Nat := (s.sec 4).elim dflt (fun b => fieldAt b off n)
/-- CAP in W. -/
def State.cap (s : State) : Nat := s.powerField 0 2 4600
/-- Weight of each region of a coil. -/
def State.coilW (s : State) (c : Nat) : Nat := s.powerField (16 + c) 1 4

/-! ### FABRIC (R525, R526) -/

/-- A field of FABRIC, or its default. -/
def State.fabricField (s : State) (off n dflt : Nat) : Nat := (s.sec 5).elim dflt (fun b => fieldAt b off n)
/-- ABSENCE_LIMIT: 0 selects 4,096. -/
def State.absenceLimit (s : State) : Nat :=
  let v := s.fabricField 16 4 4096
  if v = 0 then 4096 else v
/-- Port p is trained (PORT_EN). -/
def State.portEn (s : State) (p : Nat) : Bool := bit (s.fabricField 8 8 (2 ^ 48 - 1)) p
/-- The plane that port p must find; 0xFF accepts any. -/
def State.planeMap (s : State) (p : Nat) : Nat := s.fabricField (24 + p) 1 0xFF

/-! ### HOST (R571) -/

/-- PERST_POLICY is PACKAGE. -/
def State.perstPackage (s : State) : Bool := (s.sec 6).elim false (fun b => fieldAt b 0 1 == 1)
/-- Requester ID k, for k below NRID. -/
def State.rids (s : State) : List Nat :=
  (s.sec 6).elim [] (fun b => (List.range (fieldAt b 1 1)).map (fun k => fieldAt b (8 + 2 * k) 2))
/-- The placement records, 32 bytes each. -/
def State.placeRecs (s : State) : List (List Byte) :=
  (s.sec 6).elim [] (fun b => (List.range (fieldAt b 2 2)).map (fun n => (b.drop (136 + 32 * n)).take 32))

/-! ### QUEUES (R446, R447) -/

/-- A binding record: coil, bend mask, first queue, count, DMA mask. -/
structure Binding where
  coil : Nat
  bendMask : Nat
  first : Nat
  count : Nat
  dmaMask : Nat
  deriving DecidableEq, Repr

/-- The binding records of a QUEUES body. -/
def bindingsOf (b : List Byte) : List Binding :=
  (List.range (fieldAt b 12 1)).map (fun i =>
    { coil := fieldAt b (16 + 8 * i) 1, bendMask := fieldAt b (17 + 8 * i) 1, first := fieldAt b (18 + 8 * i) 2,
      count := fieldAt b (20 + 8 * i) 2, dmaMask := fieldAt b (22 + 8 * i) 2 })

/-- The bindings in force; an absent section binds every queue to the lowest-numbered coil with every engine (R447). -/
def State.bindings (s : State) : List Binding :=
  match s.sec 7 with
  | some b => bindingsOf b
  | none =>
    match s.coils.foldl (fun (m : Option Nat) c => some (m.elim c.coil (min c.coil))) none with
    | some c => [{ coil := c, bendMask := 0xFF, first := 0, count := 2048, dmaMask := 0xFFFF }]
    | none => []

/-- The binding record of a queue. -/
def State.binding (s : State) (q : Nat) : Option Binding :=
  s.bindings.find? (fun b => decide (b.first ≤ q) && decide (q < b.first + b.count))

/-- Default timeout in frames for a queue KIND: 0 selects 131,072 (R446). -/
def State.defTimeout (s : State) (kind : Nat) : Nat :=
  let v := (s.sec 7).elim 0 (fun b => fieldAt b (4 * kind) 4)
  if v = 0 then 131072 else v

/-! ### The checks of R66 -/

/-- ASCII "PWA1-N1536" padded with zero bytes (R60). -/
def partBytes : List Byte :=
  [0x50, 0x57, 0x41, 0x31, 0x2D, 0x4E, 0x31, 0x35, 0x33, 0x36, 0, 0, 0, 0, 0, 0]

/-- The sections of an image laid end to end (R61); none where a section header is at fault. -/
def splitSections : Nat → List Byte → Option (List (Nat × List Byte))
  | 0, l => if l.isEmpty then some [] else none
  | n + 1, l =>
    let t := fieldAt l 0 2
    let len := fieldAt l 4 4
    if l.length < 8 ∨ t = 0 ∨ 8 < t ∨ fieldAt l 2 2 ≠ 0 ∨ len % 8 ≠ 0 ∨ l.length < 8 + len then none
    else (splitSections n (l.drop (8 + len))).map (fun r => (t, (l.drop 8).take len) :: r)

/-- All bytes of a range are zero. -/
def zeros (l : List Byte) (off n : Nat) : Bool := fieldAt l off n == 0

/-- Check 1 of R66: the header and every section header; the required sections are present. -/
def fritParse (img : List Byte) : Option (List (Nat × List Byte)) :=
  let n := fieldAt img 6 2
  let len := fieldAt img 8 4
  if fieldAt img 0 4 ≠ 0x54495246 ∨ fieldAt img 4 2 ≠ 1 ∨ n < 3 ∨ 8 < n ∨ len % 8 ≠ 0 ∨ 65536 < len ∨ len < 64
      ∨ img.length < len + 96 ∨ !zeros img 32 32 then none
  else
    match splitSections n ((img.take len).drop 64) with
    | none => none
    | some secs =>
      let ts := secs.map (·.1)
      if ts.Nodup ∧ ts.contains 1 ∧ ts.contains 2 ∧ ts.contains 3 then some secs else none

/-- The signed part of an image: header and sections (R63). -/
def fritSigned (img : List Byte) : List Byte := img.take (fieldAt img 8 4)

/-- The owner keys accepted for frit and node images (R673). -/
def Fuses.ownerDigests (f : Fuses) : List Nat :=
  if f.ownerSet = 0 then [f.defaultOwnerKey]
  else ((List.range 4).filter (fun k => f.ownerSet.getLsbD k && !f.ownerRevoked.getLsbD k)).map
    (fun k => f.ownerKeys.getD k 0)

/-- A signature block verifies over a message under one of the accepted keys (R63, R673). -/
def sigBlockOk (keys : List Nat) (msg block : List Byte) : Bool :=
  let key := beNat (block.take 32)
  keys.contains key && Config.sigOk key (sha256N msg) (beNat ((block.drop 32).take 32)) (beNat ((block.drop 64).take 32))

/-- STRUCT is in rule (R68, R69). -/
def structOk (b : List Byte) : Bool :=
  let n := fieldAt b 0 1
  let cs := coilsOf b
  decide (1 ≤ n) && decide (n ≤ 32) && decide (b.length = 8 + 8 * n) && zeros b 1 7
    && cs.all (fun c => decide (c.coil < 32) && decide (c.ccs < 4096) && !(c.ccs == 0 && c.regions == 0))
    && (List.range n).all (fun i => zeros b (9 + 8 * i) 1)
    && decide ((cs.map (·.coil)).Nodup)
    && (List.range 12).all (fun k => decide ((cs.filter (fun c => bit c.ccs k)).length = 1))
    && (List.range 32).all (fun r => decide ((cs.filter (fun c => bit c.regions r)).length ≤ 1))

/-- MEMORY is in rule (R346, R347, R391, R419). -/
def memoryOk (coils : List Coil) (b : List Byte) : Bool :=
  decide (b.length = 216) && decide (fieldAt b 0 1 < 2) && zeros b 1 7
    && (List.range 24).all (fun g =>
        let w := fieldAt b (8 + 8 * g) 1
        let ow := fieldAt b (9 + 8 * g) 1
        let d := fieldAt b (11 + 8 * g) 1
        (decide (w ≤ 14) || w == 16) && decide (fieldAt b (10 + 8 * g) 1 < 4) && decide (1 ≤ d) && decide (d ≤ 8)
          && zeros b (12 + 8 * g) 4
          && (if w = 0 then ow == 0xFF else coils.any (fun c => c.coil == ow)))
    && decide (fieldAt b 200 1 < 4) && decide (fieldAt b 201 1 ≤ 15) && decide (fieldAt b 202 1 ≤ 5) && zeros b 203 5
    && (fieldAt b 208 1 == 0 || (decide (8 ≤ fieldAt b 208 1) && decide (fieldAt b 208 1 ≤ 14))) && zeros b 209 7

/-- FRAME is in rule (R39, R51, R64). -/
def frameOk (b : List Byte) : Bool :=
  decide (b.length = 8) && decide (fieldAt b 0 1 ≤ 6) && decide (fieldAt b 1 1 ≤ 2) && zeros b 3 5

/-- A field of a body lies in a range. -/
def inRange (b : List Byte) (off n lo hi : Nat) : Bool := decide (lo ≤ fieldAt b off n) && decide (fieldAt b off n ≤ hi)

/-- POWER is in rule (R597, R598). -/
def powerOk (coils : List Coil) (b : List Byte) : Bool :=
  decide (b.length = 48) && inRange b 0 2 1500 5200 && inRange b 2 1 1 255 && inRange b 3 1 1 255 && inRange b 4 1 16 255
    && inRange b 5 1 0 64 && inRange b 6 1 0 64 && inRange b 7 1 1 7 && inRange b 8 1 1 255
    && inRange b 10 1 70 95 && inRange b 11 1 75 105 && inRange b 12 1 80 95 && inRange b 13 1 90 105 && zeros b 14 2
    && decide (fieldAt b 10 1 + 5 ≤ fieldAt b 11 1) && decide (fieldAt b 12 1 + 5 ≤ fieldAt b 13 1)
    && (List.range 32).all (fun c =>
        if coils.any (fun k => k.coil == c) then fieldAt b (16 + c) 1 != 0 else fieldAt b (16 + c) 1 == 0)

/-- FABRIC is in rule (R525, R526). -/
def fabricOk (b : List Byte) : Bool :=
  let planes := ((List.range 48).map (fun p => fieldAt b (24 + p) 1)).filter (fun x => x != 0xFF)
  decide (b.length = 72) && inRange b 0 1 0 1 && inRange b 1 1 0 47 && inRange b 2 2 0 16383
    && (fieldAt b 0 1 == 0 || zeros b 2 2) && inRange b 4 1 0 4 && inRange b 5 1 1 255 && inRange b 6 1 1 255
    && inRange b 7 1 1 255 && zeros b 14 2 && zeros b 20 4 && decide planes.Nodup

/-- Two ranges [a, a+n) and [b, b+m) overlap. -/
def overlaps (a n b m : Nat) : Bool := decide (a < b + m) && decide (b < a + n)

/-- The MEMORY body of an image, as numbers for the checks of other sections. -/
def memScrWays (mem : List Byte) (g : Nat) : Nat := fieldAt mem (8 + 8 * g) 1

/-- The address range [a, a+n) of a target lies wholly in direct HBM or the mapped aperture, clear of spill and remap
areas, or in scratchpad owned by the coil, under a MEMORY body (R441, R572). -/
def rangeOk (mem : List Byte) (coil a n : Nat) : Bool :=
  let shift := if fieldAt mem 208 1 = 0 then 10 else fieldAt mem 208 1
  let remap := if bit (fieldAt mem 200 1) 0 then 0x400000 else 0
  let top := stackBytes - stackBytes / 2 ^ shift - remap
  let shares := (List.range 24).foldl (fun (acc : Nat × List (Nat × Nat × Nat)) g =>
      let sz := memScrWays mem g * scrWayBytes
      (acc.1 + sz, (acc.1, sz, fieldAt mem (9 + 8 * g) 1) :: acc.2)) (0, [])
  if a + n ≤ 0x18000000000 then
    (List.range 24).all (fun k => !overlaps a n (k * stackBytes + top) (stackBytes - top))
  else if 0x20000000000 ≤ a ∧ a + n ≤ 0x38000000000 then
    bit (fieldAt mem 0 1) 0 && decide ((a - 0x20000000000 + n + 4095) / 4096 ≤ 24 * (top / 4096))
  else if 0x3C000000000 ≤ a ∧ a + n ≤ 0x3C000000000 + shares.1 then
    shares.2.all (fun e => !overlaps (a - 0x3C000000000) n e.1 e.2.1 || e.2.2 == coil)
  else false

/-- HOST is in rule (R571, R572). -/
def hostOk (coils : List Coil) (mem b : List Byte) : Bool :=
  let nr := fieldAt b 1 1
  let n := fieldAt b 2 2
  let recs := (List.range n).map (fun i => (b.drop (136 + 32 * i)).take 32)
  decide (fieldAt b 0 1 ≤ 1) && decide (nr ≤ 64) && decide (n ≤ 256) && decide (b.length = 136 + 32 * n) && zeros b 4 4
    && (List.range 64).all (fun k => decide (k < nr) || zeros b (8 + 2 * k) 2)
    && decide ((recs.map (fun r => fieldAt r 0 1)).Nodup)
    && recs.all (fun r =>
        decide (fieldAt r 2 1 < 8) && zeros r 3 1 && decide (fieldAt r 4 2 < 4096) && zeros r 6 2
          && decide (fieldAt r 8 8 < 2 ^ nr) && decide (1 ≤ fieldAt r 20 4)
          && decide (fieldAt r 16 4 + fieldAt r 20 4 ≤ 0x100000) && decide (fieldAt r 24 8 % 65536 = 0)
          && coils.any (fun c => c.coil == fieldAt r 1 1)
          && (!bit (fieldAt r 2 1) 2 || decide (fieldAt r 5 1 % 16 ≤ 2))
          && rangeOk mem (fieldAt r 1 1) (fieldAt r 24 8) (fieldAt r 20 4 * 65536))
    && recs.Pairwise (fun x y => !overlaps (fieldAt x 16 4) (fieldAt x 20 4) (fieldAt y 16 4) (fieldAt y 20 4))

/-- QUEUES is in rule (R446, R447). -/
def queuesOk (coils : List Coil) (b : List Byte) : Bool :=
  let n := fieldAt b 12 1
  let bs := bindingsOf b
  decide (n ≤ 32) && decide (b.length = 16 + 8 * n) && zeros b 13 3
    && inRange b 0 4 0 (2 ^ 24) && inRange b 4 4 0 (2 ^ 24) && inRange b 8 4 0 (2 ^ 24)
    && bs.all (fun x => coils.any (fun c => c.coil == x.coil) && decide (1 ≤ x.count) && decide (x.count ≤ 2048)
        && decide (x.first + x.count ≤ 2048))
    && bs.Pairwise (fun x y => !overlaps x.first x.count y.first y.count)

/-- FEATURES is in rule (R65, R66, R86): a mask whose rsvd bits [127:16] are zero. -/
def featuresOk (b : List Byte) : Bool := decide (b.length = 16) && zeros b 2 14

/-- Check 5 of R66: every section body in rule. -/
def fritValueOk (secs : List (Nat × List Byte)) : Bool :=
  let get (t : Nat) := (secs.find? (fun b => b.1 == t)).map (·.2)
  let st := (get 1).getD []
  let mem := (get 2).getD []
  let coils := coilsOf st
  structOk st && memoryOk coils mem && frameOk ((get 3).getD [])
    && (get 4).elim true (powerOk coils) && (get 5).elim true fabricOk && (get 6).elim true (hostOk coils mem)
    && (get 7).elim true (queuesOk coils) && (get 8).elim true featuresOk

/-- The sections whose bodies differ between two images (R74). -/
def changed (old new : List (Nat × List Byte)) : List Nat :=
  ((List.range 9).drop 1).filter (fun t =>
    (old.find? (fun b => b.1 == t)).map (·.2) != (new.find? (fun b => b.1 == t)).map (·.2))

/-- The coils that a change of sections affects (R75): by STRUCT, those whose record is added, removed or altered; by
MEMORY, FRAME, FABRIC, HOST or FEATURES, every coil of either image. -/
def affectedCoils (old new : List (Nat × List Byte)) : List Nat :=
  let get (l : List (Nat × List Byte)) := coilsOf (((l.find? (fun b => b.1 == 1)).map (·.2)).getD [])
  let all := ((get old ++ get new).map (·.coil)).eraseDups
  let ch := changed old new
  if ch.any (fun t => [2, 3, 5, 6, 8].contains t) then all
  else if ch.contains 1 then
    all.filter (fun c => (get old).filter (fun k => k.coil == c) != (get new).filter (fun k => k.coil == c))
  else []

/-- The coils affected by a verified change that waits for its tick (R77). -/
def State.pendingCoils (s : State) : List Nat :=
  match s.frt.pending with
  | some f => affectedCoils ((s.frt.active.map (·.bodies)).getD []) f.bodies
  | none => []

/-- A coil is quiescent: its queues are disabled and none of its commands is in flight (R76). -/
def State.quiescent (s : State) (c : Nat) : Bool :=
  s.queues.all (fun e => e.2.coil != c || e.2.state == .disabled) && s.cmds.all (fun k => k.coil != c)

/-- The result of checks 1 to 3 and 5 of R66 on an image, with 4 and 6 on a reload; the image on success. -/
def State.fritCheck (s : State) (reload : Bool) (img : List Byte) : Nat × Option Frit :=
  match fritParse img with
  | none => (0x02, none)
  | some secs =>
    let msg := fritSigned img
    let f : Frit := { seq := fieldAt img 12 4, digest := sha256N msg, bodies := secs, raw := img.take (msg.length + 96) }
    let act := (s.frt.active.map (·.bodies)).getD []
    let mem (l : List (Nat × List Byte)) := ((l.find? (fun b => b.1 == 2)).map (·.2)).getD []
    if (img.drop 16).take 16 ≠ partBytes then (0x03, none)
    else if !sigBlockOk s.fuses.ownerDigests msg ((img.drop msg.length).take 96) then (0x01, none)
    else if reload && s.frt.active.any (fun a => decide (f.seq ≤ a.seq)) then (0x04, none)
    else if !fritValueOk secs then (0x07, none)
    else if reload && s.frt.active.isSome
        && ((mem act).drop 200).take 16 != ((mem secs).drop 200).take 16 then (0x07, none)
    else if reload && !(affectedCoils act secs).all s.quiescent then (0x05, none)
    else (0x00, some f)

end Sys2Proof.Machine
end

