-- ==== Sys2Proof/Machine/Memory.lean ====
section
/-! DEFINITION. HBM and scratchpad contents, the guard code on a read, the row tracker and remapping, and the data side
of the last-level memory slices (R349 to R362, R406 to R422). -/

namespace Sys2Proof.Machine

open Sys2Proof

/-! ### Bytes of HBM -/

/-- What a byte of HBM that nothing has written reads as (notes/assumptions/4.md). -/
def unlisted : Byte := 0
/-- One byte of memory. -/
def Memory.read (m : List Host.Cell) (a : Nat) : Byte := Tbl.get unlisted m a
/-- Write one byte, keeping the canonical form. -/
def Memory.write (m : List Host.Cell) (a : Nat) (b : Byte) : List Host.Cell := Tbl.set unlisted m a b
/-- The canonical form of memory: addresses strictly rise and no entry equals what an unlisted address reads as. -/
def Memory.wf (m : List Host.Cell) : Bool := Tbl.wf unlisted m
/-- Write successive bytes. -/
def Memory.writes : List Host.Cell → Nat → List Byte → List Host.Cell
  | m, _, [] => m
  | m, a, b :: t => Memory.writes (Memory.write m a b) (a + 1) t
/-- Read n successive bytes. -/
def Memory.reads (m : List Host.Cell) (a n : Nat) : List Byte := (List.range n).map (fun i => Memory.read m (a + i))

/-- A line of HBM as stored, and whether it is poisoned (R410). -/
def State.hbmLine (s : State) (l : Nat) : LineData × Bool :=
  (lineOfBytes (Memory.reads s.mem l 128), s.memPoison.contains l)
/-- Put a member into, or out of, a list without repeats. -/
def mark (l : List Nat) (x : Nat) (on : Bool) : List Nat :=
  if on then (if l.contains x then l else x :: l) else l.filter (fun y => y != x)
/-- Write a line of HBM: fresh check bytes, or the marker when poisoned (R411). -/
def State.hbmPut (s : State) (l : Nat) (d : LineData) (poison : Bool) : State :=
  { s with mem := Memory.writes s.mem l (lineBytes d), memPoison := mark s.memPoison l poison }

/-! ### Scratchpad -/

/-- A scratchpad line by window offset. -/
def State.scratchLine (s : State) (o : Nat) : LineData × Bool := (Tbl.get 0 s.scratch o, s.scratchPoison.contains o)
/-- Write a scratchpad line. -/
def State.scratchPut (s : State) (o : Nat) (d : LineData) (poison : Bool) : State :=
  { s with scratch := Tbl.set 0 s.scratch o d, scratchPoison := mark s.scratchPoison o poison }

/-- The base of the scratchpad window (R21). -/
def scratchBase : Nat := 0x3C000000000
/-- Is the line in the scratchpad window? -/
def isScratch (l : Nat) : Bool := decide (scratchBase ≤ l)

/-- The home slice of a line (R27, R356, R373). -/
def State.homeOf (s : State) (l : Nat) : Nat := if isScratch l then s.scrSlice (l - scratchBase) else homeSlice l
/-- The slice's set of an HBM line (R349). -/
def sliceSet (l : Nat) : Nat := bits l 8 28 % 12288

/-! ### The guard code on a read (R409, R411 to R413) -/

/-- One codeword's outcome: what a stored codeword decodes to under an error pattern. -/
def decodeCw (d : List Byte) (poison : Bool) (err : List (Nat × Nat)) : Decoded :=
  rsDecode (applyErr (codeword poison (d.map (·.toNat))) err)

/-- What a read of a line comes to: each codeword's outcome. -/
structure LineRead where
  cw0 : Decoded
  cw1 : Decoded
  deriving DecidableEq, Repr

/-- Read a stored line under error patterns on its two codewords (R406, R409). -/
def State.readLine (s : State) (l : Nat) (e : LineErr) : LineRead :=
  let b := lineBytes (s.hbmLine l).1
  { cw0 := decodeCw (b.take 64) (s.hbmLine l).2 e.cw0, cw1 := decodeCw (b.drop 64) (s.hbmLine l).2 e.cw1 }

/-- Codewords of a read that decode in some way. -/
def LineRead.count (r : LineRead) (p : Decoded → Bool) : Nat := b2n (p r.cw0) + b2n (p r.cw1)
/-- A corrected codeword. -/
def isCorrected : Decoded → Bool
  | .corrected _ => true | _ => false
/-- A poisoned codeword. -/
def isPoisoned : Decoded → Bool
  | .poisoned => true | _ => false
/-- An uncorrectable codeword. -/
def isUncorrectable : Decoded → Bool
  | .uncorrectable => true | _ => false

/-- A poisoned or uncorrectable codeword poisons the line (R411). -/
def LineRead.poisoned (r : LineRead) : Bool := r.count isPoisoned + r.count isUncorrectable != 0

/-- The data a codeword delivers: corrected bytes, or the stored ones. -/
def Decoded.bytes (d : Decoded) (stored : List Byte) : List Byte :=
  match d with
  | .corrected x => x.map (fun n => BitVec.ofNat 8 n)
  | _ => stored

/-! ### Where a line lies in its stack (R407) -/

/-- Channel, pseudo-channel, line in row, bank and row of a direct address. -/
def chOf (a : Nat) : Nat := 16 * bits a 7 1 + bits a 8 4
/-- Pseudo-channel. -/
def pchOf (a : Nat) : Nat := bits a 12 1
/-- Line within the 1 KiB row. -/
def rowLineOf (a : Nat) : Nat := bits a 13 3
/-- Bank. -/
def bankIx (a : Nat) : Nat := bits a 16 6
/-- Row. -/
def rowOf (a : Nat) : Nat := bits a 22 14
/-- The direct address of a location (R407). -/
def addrOf (stack ch pch bank row line : Nat) : Nat :=
  stack * stackBytes + (ch / 16) * 2 ^ 7 + (ch % 16) * 2 ^ 8 + pch * 2 ^ 12 + line * 2 ^ 13 + bank * 2 ^ 16 + row * 2 ^ 22

/-! ### Row tracker and remapping (R418, R421, R422) -/

/-- The bank and row where a row's data lies: its own, its reserved row once remapped, or the reserved row that a copy moves it
from (R421, R727). -/
def Channel.physical (k : Channel) (pch bank row : Nat) : Nat × Nat :=
  match k.remaps.find? (fun e => e.pch == pch && e.bank == bank && e.row == row) with
  | some e => if e.active then (e.newBank, e.newRow) else match e.moving with
    | some b => (b, e.newRow)
    | none => (bank, row)
  | none => (bank, row)

/-- DETAIL of an HBM_CE_ROW or HBM_UE record: the location read, the reserved row where the row is remapped (R727). -/
def hbmDetail (k : Channel) (l : Nat) : Nat :=
  let (b, r) := k.physical (pchOf l) (bankIx l) (rowOf l)
  r + b * 2 ^ 14 + pchOf l * 2 ^ 20 + rowLineOf l * 2 ^ 21

/-- The row of an HBM line is being copied (R421), or its stack holds requests (R620) or is not ready. -/
def State.hbmHeld (s : State) (l : Nat) : Bool :=
  let k := s.stack (stackOf l)
  k.hold || k.selfRefresh || !s.lhr.memReady
    || (k.channel (chOf l)).remaps.any (fun e => !e.active && e.pch == pchOf l && e.bank == bankIx l && e.row == rowOf l)

/-- A write that a slice sends to the controller: it waits in order while the controller holds accesses to its row (R421, R620). -/
def State.hbmStore (s : State) (l : Nat) (d : LineData) (poison : Bool) : State :=
  if s.hbmHeld l then s.modStack (stackOf l) (fun k => { k with held := k.held ++ [(l, d, poison)] }) else s.hbmPut l d poison

/-- The writes of a stack that nothing holds any more are performed, in their order (R421, R620). -/
def State.flushHeld (s : State) (st : Nat) : State :=
  let ws := (s.stack st).held
  (ws.filter (fun w => !s.hbmHeld w.1)).foldl (fun s w => s.hbmPut w.1 w.2.1 w.2.2)
    (s.modStack st (fun k => { k with held := ws.filter (fun w => s.hbmHeld w.1) }))

/-- Count an event in the row's tracker entry; the new count (R418). -/
def Channel.track (k : Channel) (now pch bank row : Nat) : Nat × Channel :=
  match k.tracker.find? (fun e => e.pch == pch && e.bank == bank && e.row == row) with
  | some e =>
    let rest := k.tracker.filter (fun x => !(x.pch == pch && x.bank == bank && x.row == row))
    let e' : Track := { e with count := e.count + 1, at_ := now }
    (e.count + 1, { k with tracker := e' :: rest })
  | none =>
    let new : Track := { pch := pch, bank := bank, row := row, count := 1, at_ := now }
    if k.tracker.length < 16 then (1, { k with tracker := (new :: k.tracker) })
    else
      -- the lowest count, and among equals the least recently incremented: the last of the list
      let low := k.tracker.foldl (fun m e => min m e.count) (2 ^ 32)
      match (k.tracker.reverse.find? (fun e => e.count == low)) with
      | some v => (1, { k with tracker := new :: k.tracker.filter (fun e => e != v) })
      | none => (1, k)

/-- Add a row to the stack's repair list, at most 4,096 rows (R423). -/
def Stack.addRepair (k : Stack) (r : Nat × Nat × Nat × Nat) : Stack :=
  if k.repair.contains r || decide (4096 ≤ k.repair.length) then k else { k with repair := k.repair ++ [r] }

/-- Reserved rows of a channel: (pseudo-channel, bank), taken or retired (R420, R421). -/
def Channel.reservedTaken (k : Channel) (pch bank : Nat) : Bool :=
  k.remaps.any (fun e => e.pch == pch && e.newBank == bank) || k.retired.contains (pch, bank)

/-- The free reserved row a remap takes: the lowest-numbered bank other than the row's own (R421). -/
def Channel.freeReserved (k : Channel) (pch bank : Nat) : Option Nat :=
  (List.range 64).find? (fun b => b != bank && !k.reservedTaken pch b)

/-- The lowest free remap entry number (R421). -/
def Channel.freeEntry (k : Channel) : Option Nat := (List.range 64).find? (fun i => k.remaps.all (fun e => e.index != i))

/-- REMAP_START (R421, R422): a row that reaches its threshold, or met a DE, is remapped where it can be, and joins the
repair list. A reserved row that reaches the threshold moves under its own entry. -/
def State.remapStart (s : State) (st ch pch bank row : Nat) : State :=
  let k := s.stack st
  let c := k.channel ch
  let listed := s.modStack st (fun k => k.addRepair (ch, pch, bank, row))
  if !s.remapEn then listed
  else if k.hold then s.modStack st (fun k => { k with deferred := mark4 k.deferred (ch, pch, bank, row) })
  else
    let newRow := ((s.remapBase st).getD 0) % stackBytes / 2 ^ 22
    match c.remaps.find? (fun e => e.pch == pch && e.bank == bank && e.row == row) with
    | some e =>
      -- already remapped: the reserved row itself is worn; move to another under the same entry
      if !e.active then s
      else match c.freeReserved pch bank with
        | some b => s.modStack st (fun k => k.modChannel ch (fun c =>
            { c with retired := (pch, e.newBank) :: c.retired,
                     remaps := c.remaps.map (fun x => if x.index == e.index then { x with newBank := b, active := false, moving := some x.newBank } else x) }))
        | none => listed.modStack st (fun k => k.modChannel ch (fun c => { c with full := true }))
    | none =>
      match c.freeEntry, c.freeReserved pch bank with
      | some i, some b => s.modStack st (fun k => k.modChannel ch (fun c =>
          { c with remaps := c.remaps ++ [{ pch := pch, bank := bank, row := row, newBank := b, newRow := newRow, index := i }] }))
      | _, _ => listed.modStack st (fun k => k.modChannel ch (fun c => { c with full := true }))
where
  /-- Add without repeating. -/
  mark4 (l : List (Nat × Nat × Nat × Nat)) (x : Nat × Nat × Nat × Nat) : List (Nat × Nat × Nat × Nat) :=
    if l.contains x then l else l ++ [x]

/-- Events of a controller or scrub read on counters, records, tracker and write-back (R411 to R413, R418). The read's
data and POISON. -/
def State.readEvents (s : State) (l : Nat) (r : LineRead) : (LineData × Bool) × State :=
  let st := stackOf l
  let ch := chOf l
  let stored := lineBytes (s.hbmLine l).1
  let data := lineOfBytes (r.cw0.bytes (stored.take 64) ++ r.cw1.bytes (stored.drop 64))
  let ce := r.count isCorrected
  let ue := r.count isUncorrectable
  let po := r.count isPoisoned
  let s := s.modStack st (fun k => k.modChannel ch (fun c =>
    { c with cntCe := wrapAdd 64 c.cntCe (b2n (ce != 0)), cntUe := wrapAdd 64 c.cntUe (b2n (ue != 0)),
             cntPoison := wrapAdd 64 c.cntPoison po }))
  let pch := pchOf l
  let bank := bankIx l
  let row := rowOf l
  let (n, s) :=
    if ce + ue = 0 then (0, s)
    else
      let (b, r) := ((s.stack st).channel ch).physical pch bank row
      let (n, c) := ((s.stack st).channel ch).track s.now pch b r
      (n, s.modStack st (fun k => k.modChannel ch (fun _ => c)))
  let detail := hbmDetail ((s.stack st).channel ch) l
  -- corrected or uncorrectable: the line is written back, poisoned when it is poisoned (R411 to R413)
  let s := if ce + ue = 0 then s else s.hbmPut l data r.poisoned
  let s := if ue = 0 then s else s.logErr .de 0x12 7 (32 * st + ch) detail l
  let reached := decide (n = s.remapThresh)
  let s := if ue = 0 && ce != 0 && reached then s.logErr .ce 0x10 7 (32 * st + ch) detail l else s
  let s := if ue != 0 || (ce != 0 && reached) then s.remapStart st ch pch bank row else s
  ((data, r.poisoned), s)

/-! ### Slices (R349 to R362) -/

/-- Cache ways of a slice in force (R345). -/
def State.cacheWays (s : State) (n : Nat) : Nat := 16 - s.scrWays (n / 2)

/-- The cached line of a slice. -/
def Slice.find (k : Slice) (l : Nat) : Option SliceLine := k.lines.find? (fun x => x.line == l)

/-- Place a line in a slice's cache ways, its victim written back when dirty; `mru`: most recently used (R350, R351). -/
def State.sliceAlloc (s : State) (n : Nat) (x : SliceLine) (mru : Bool) : State :=
  let k := s.slice n
  let rest := k.lines.filter (fun y => y.line != x.line)
  let inSet := rest.filter (fun y => sliceSet y.line == sliceSet x.line)
  let victim := if inSet.length < s.cacheWays n then none else inSet.getLast?
  let rest' := match victim with
    | some v => rest.filter (fun y => y.line != v.line)
    | none => rest
  let s := match victim with
    | some v => if v.dirty then
        (s.hbmStore v.line v.data v.poison).modSlice n (fun k => { k with cnt := { k.cnt with wb := wrapAdd 64 k.cnt.wb 1 } })
      else s
    | none => s
  s.modSlice n (fun k => { k with lines := if mru then x :: rest' else rest' ++ [x] })

/-- "Write" (R382): the line goes to its scratchpad way, its slice, or HBM where the group has no cache ways. -/
def State.homeWrite (s : State) (l : Nat) (d : LineData) (poison : Bool) : State :=
  if isScratch l then s.scratchPut (l - scratchBase) d poison
  else
    let n := homeSlice l
    if s.cacheWays n = 0 then s.hbmStore l d poison
    else s.sliceAlloc n { line := l, data := d, dirty := true, poison := poison } true

/-- Write in place: the slice's way if the line is present, HBM otherwise (R349, for NC and IO pages). -/
def State.homeWriteInPlace (s : State) (l : Nat) (d : LineData) (poison : Bool) : State :=
  if isScratch l then s.scratchPut (l - scratchBase) d poison
  else match (s.slice (homeSlice l)).find l with
    | some x => s.modSlice (homeSlice l) (fun k =>
        { k with lines := k.lines.map (fun y => if y.line == l then { x with data := d, dirty := true, poison := poison } else y) })
    | none => s.hbmStore l d poison

/-- A slice's data for a line that is on the punty: a scratchpad way or a cache way. -/
def State.homePeek (s : State) (l : Nat) : Option (LineData × Bool) :=
  if isScratch l then some (s.scratchLine (l - scratchBase))
  else ((s.slice (homeSlice l)).find l).map (fun x => (x.data, x.poison))

/-- A demand hit: counters, most recently used (R350, R367). -/
def Slice.touch (k : Slice) (l : Nat) : Slice :=
  match k.find l with
  | some x => { k with lines := { x with pf := false } :: k.lines.filter (fun y => y.line != l),
                       cnt := { k.cnt with hit := wrapAdd 64 k.cnt.hit 1, pfUsed := wrapAdd 64 k.cnt.pfUsed (b2n x.pf) } }
  | none => k

/-- Absolute difference of two line numbers. -/
def absDiff (a b : Nat) : Nat := if a ≤ b then b - a else a - b

/-- Streams after a demand miss by requester q at slice line number n, and the line numbers to prefetch (R360). The list
keeps the most recently updated entry first. -/
def streamUpdate (depth : Nat) (ss : List Stream) (q n : Nat) : List Stream × List Int :=
  let cands := ss.filter (fun e => e.requester == q && decide (absDiff n e.last ≤ 64))
  let low := cands.foldl (fun m e => min m e.entry) 64
  match cands.find? (fun e => e.entry == low) with
  | none =>
    let new (i : Nat) : Stream := { entry := i, requester := q, last := n }
    (match (List.range 64).find? (fun i => ss.all (fun e => e.entry != i)) with
     | some i => (new i :: ss, [])
     | none => match ss.getLast? with
       | some v => (new v.entry :: ss.dropLast, [])
       | none => (ss, []))
  | some e =>
    let d : Int := (n : Int) - e.last
    let e' : Stream := if d ≠ 0 ∧ d = e.stride then { e with conf := min (e.conf + 1) 3, last := n }
                       else { e with stride := d, conf := 0, last := n }
    (e' :: ss.filter (fun x => x.entry != e.entry),
     if 2 ≤ e'.conf then (List.range depth).map (fun (i : Nat) => (n : Int) + ((i : Int) + 1) * e'.stride) else [])

/-- The line's set is blocked by a fill (R352). -/
def State.setFilling (s : State) (l : Nat) : Bool :=
  (s.slice (homeSlice l)).fills.any (fun f => !f.bypass && sliceSet f.line == sliceSet l)

/-- A fill of a line cannot start: its set is blocked, or 64 sets are (R352, R353). -/
def State.missHeld (s : State) (l : Nat) : Bool :=
  s.setFilling l || decide (64 ≤ ((s.slice (homeSlice l)).fills.filter (fun f => !f.bypass)).length)

/-- The victim that a fill of a line would take is clean, or there is a free way (R350, R361); with no cache ways there is none. -/
def State.victimClean (s : State) (l : Nat) : Bool :=
  let n := homeSlice l
  let inSet := (s.slice n).lines.filter (fun y => sliceSet y.line == sliceSet l)
  decide (s.cacheWays n ≠ 0) && (decide (inSet.length < s.cacheWays n) || inSet.getLast?.any (fun v => !v.dirty))

/-- Issue one prefetch where R361 lets it: same 64 KiB block, not present, set not blocked, victim clean. -/
def State.prefetch (s : State) (n miss : Nat) (ln : Int) : State :=
  let l := (stackOf miss) * stackBytes + (ln.toNat * 256) + bits miss 7 1 * 128
  let k := s.slice n
  if ln < 0 || l / 65536 != miss / 65536 || (k.find l).isSome || s.missHeld l || !s.victimClean l || s.inSpillOrRemap l then s
  else s.modSlice n (fun k => { k with fills := k.fills ++ [{ line := l, prefetch := true }],
                                       cnt := { k.cnt with pfIssue := wrapAdd 64 k.cnt.pfIssue 1 } })

/-- The requesters whose misses a slice follows: cluster and complex caches, DMA engines and bend engines (R360). -/
def isStreamer (q : Nat) : Bool := decide (q < 268) || (decide (512 ≤ q) && decide (q < 536))

/-- What the home answers a read of a line with. -/
inductive HomeRead where
  /-- Data on the punty. -/
  | data (d : LineData × Bool) (s : State)
  /-- An HBM read starts. -/
  | fill (s : State)
  /-- The line is to be filled once its set, or one of 64 blocked sets, unblocks. -/
  | held

/-- A read of a line at its home (R349, R352, R353, R360). `nc`: no allocation, as for an NC or IO page; `demand`: false for the
fill of a partial write, which trains no stream and counts in neither LLM_CNT_HIT nor LLM_CNT_MISS. -/
def State.homeRead (s : State) (l q : Nat) (nc demand : Bool) : HomeRead :=
  match s.homePeek l with
  | some x => .data x (if isScratch l || !demand then s else s.modSlice (homeSlice l) (fun k => k.touch l))
  | none =>
    let n := homeSlice l
    let bypass := nc || decide (s.cacheWays n = 0)
    if !bypass && s.missHeld l then .held
    else
      let (ss, pfs) := if demand && s.pfEn (n / 2) && isStreamer q then
          streamUpdate (s.pfDepth (n / 2)) (s.slice n).streams q (bits l 8 28)
        else ((s.slice n).streams, [])
      let s := s.modSlice n (fun k => { k with streams := ss, fills := k.fills ++ [{ line := l, bypass := bypass }],
                                               cnt := { k.cnt with miss := wrapAdd 64 k.cnt.miss (b2n demand) } })
      .fill (pfs.foldl (fun s ln => s.prefetch n l ln) s)

/-- Requests to the set of a line are held: a fill blocks the set, or a miss of the set waits for one of the 64 blocked sets (R352,
R353); scratchpad waits while memory is zeroed (R625). -/
def State.setBlocked (s : State) (l : Nat) : Bool :=
  if isScratch l then !s.lhr.memReady
  else s.setFilling l || (s.slice (homeSlice l)).busy.any (fun b => b.stalled && sliceSet b.line == sliceSet l)

/-- Requests of a slice that wait on a blocked set now (R367). -/
def State.setWaiters (s : State) (n : Nat) : Nat :=
  let k := s.slice n
  (k.waiting.filter (fun m => !isScratch m.line && s.setBlocked m.line)).length + (k.busy.filter (·.stalled)).length

end Sys2Proof.Machine
end

