-- ==== Sys2Proof/Machine/Coherence.lean ====
section
/-! DEFINITION. The coherence protocol: caching agents, homes, directory spill and reclaim, and whole accesses made of its
messages (R369 to R401). -/

namespace Sys2Proof.Machine

open Sys2Proof

/-- The ID of a home in messages (R377). -/
def homeId : Nat := 1023
/-- Caching agents (R369, R370). -/
def isCaching (a : Nat) : Bool := decide (a < 268)
/-- Agents without a cache: DMA engines, bend engines, launch engines, the host port, Hawser ports, management harts (R370, R372). -/
def isUncached (a : Nat) : Bool :=
  (decide (512 ≤ a) && decide (a ≤ 568)) || (decide (576 ≤ a) && decide (a ≤ 623)) || a == 640
/-- The set of a caching agent's cache that a line indexes (R343, R689). -/
def agentSet (a l : Nat) : Nat := if a < 256 then bits l 7 10 else bits l 7 13

/-! ### Caching agents (R378, R379) -/

/-- What reaches a caching agent for a line. -/
inductive CEv where
  | sns | sni | sno | dat (g : Grant) | ack
  deriving DecidableEq, Repr

/-- What a caching agent answers a snoop with. -/
inductive Reply where
  | dat | datd (retain : Bool) | ack
  deriving DecidableEq, Repr

/-- The columns SNS, SNI, SNO, DAT and ACK of R379; none is a cell marked —. -/
def cacheTable : CState → CEv → Option (CState × Option Reply)
  | .I, .sni => some (.I, some .ack)
  | .ISd, .sni => some (.ISd, some .ack)
  | .ISd, .dat .s => some (.S, none)
  | .ISd, .dat .e => some (.E, none)
  | .IMd, .sni => some (.IMd, some .ack)
  | .IMd, .dat .m => some (.M, none)
  | .S, .sni => some (.I, some .ack)
  | .E, .sns => some (.S, some .dat)
  | .E, .sno => some (.I, some .dat)
  | .M, .sns => some (.O, some (.datd true))
  | .M, .sno => some (.I, some (.datd false))
  | .O, .sns => some (.O, some (.datd true))
  | .O, .sno => some (.I, some (.datd false))
  | .SMa, .sni => some (.IMd, some .ack)
  | .SMa, .dat .m => some (.M, none)
  | .SMa, .ack => some (.M, none)
  | .OMa, .sns => some (.OMa, some (.datd true))
  | .OMa, .sno => some (.IMd, some (.datd false))
  | .OMa, .dat .m => some (.M, none)
  | .OMa, .ack => some (.M, none)
  | .MIa, .sns => some (.IIa, some (.datd false))
  | .MIa, .sno => some (.IIa, some (.datd false))
  | .MIa, .ack => some (.I, none)
  | .OIa, .sns => some (.IIa, some (.datd false))
  | .OIa, .sno => some (.IIa, some (.datd false))
  | .OIa, .ack => some (.I, none)
  | .EIa, .sns => some (.IIa, some .ack)
  | .EIa, .sno => some (.IIa, some .ack)
  | .EIa, .ack => some (.I, none)
  | .SIa, .sni => some (.IIa, some .ack)
  | .SIa, .ack => some (.I, none)
  | .IIa, .sni => some (.IIa, some .ack)
  | .IIa, .ack => some (.I, none)
  | _, _ => none

/-- An agent's line. -/
def Agent.find (a : Agent) (l : Nat) : Option CLine := a.lines.find? (fun x => x.line == l)
/-- An agent's state for a line. -/
def Agent.st (a : Agent) (l : Nat) : CState := ((a.find l).map (·.st)).getD .I
/-- Replace an agent's line, dropping it in state I; it becomes the most recently used. -/
def Agent.put (a : Agent) (x : CLine) : Agent :=
  let rest := a.lines.filter (fun y => y.line != x.line)
  { a with lines := if x.st = .I then rest else x :: rest }
/-- Use a line: it becomes the most recently used (R343). -/
def Agent.use (a : Agent) (l : Nat) : Agent :=
  match a.find l with
  | some x => a.put x
  | none => a

/-- Send a message. -/
def State.send (s : State) (m : Msg) : State := { s with net := s.net ++ [m] }

/-- The state takes part in the set's occupancy: a line in the write-back buffer does not. -/
def CState.inWay : CState → Bool
  | .I | .MIa | .OIa | .EIa | .SIa | .IIa => false
  | _ => true

/-- The request that evicts a stable line, and its transient state (R379, Replace). -/
def evictMsg : CState → Option (MsgType × CState)
  | .S => some (.evc, .SIa) | .E => some (.evc, .EIa) | .M => some (.wbk, .MIa) | .O => some (.wbk, .OIa) | _ => none

/-- Ways of a caching agent's set (R338, R689). -/
def agentWays : Nat := 16

/-- A complex cache loses a line: so do its cores' caches, which it includes, and the reservations of its harts (R371, R691, with the
standard's LR and SC). -/
def State.dropResv (s : State) (a l : Nat) : State := if a < 256 then s else s.coresLose (a - 256) none l

/-- Make room in the set of a line (R343): nothing to do, a victim evicted, or no stable line (none: the access waits). A line that
was won and not yet used is no victim: the winner performs its access before it gives the line up (R388). -/
def State.agentRoom (s : State) (a l : Nat) : Option State :=
  let inSet := (s.agent a).lines.filter (fun x => x.st.inWay && agentSet a x.line == agentSet a l)
  if inSet.length < agentWays ∨ inSet.any (fun x => x.line == l) then some s
  else match inSet.reverse.find? (fun x => x.st.stable && !x.owed) with
    | none => none
    | some v => match evictMsg v.st with
      | none => none
      | some (ty, st) =>
        some (((s.dropResv a v.line).modAgent a (fun g => g.put { v with st := st })).send
          { ty := ty, src := a, line := v.line, data := v.data, poison := v.poison })

/-- An access that misses in a caching agent: the request of R379's Load and Store columns; an access to a transient line,
or to a set without a stable line, waits and changes nothing. -/
def State.agentMiss (s : State) (a l : Nat) (write : Bool) : State :=
  let req (ty : MsgType) (st : CState) : State :=
    match s.agentRoom a l with
    | none => s
    | some s =>
      let x : CLine := ((s.agent a).find l).getD { line := l, st := st }
      (s.modAgent a (fun g => g.put { x with st := st })).send { ty := ty, src := a, line := l }
  match (s.agent a).st l, write with
  | .I, false => req .rds .ISd
  | .I, true => req .rdo .IMd
  | .S, true => req .upg .SMa
  | .O, true => req .upg .OMa
  | _, _ => s

/-- The event a message is for a caching agent; none: not a message agents receive. -/
def msgEv (m : Msg) : Option CEv :=
  match m.ty with
  | .sns => some .sns | .sni => some .sni | .sno => some .sno | .dat => some (.dat m.grant) | .ack => some .ack
  | _ => none

/-- Is the message a snoop? -/
def isSnoop (m : Msg) : Bool := match m.ty with | .sns | .sni | .sno => true | _ => false

/-- The coil a caching agent belongs to (R68). -/
def State.coilOfAgent (s : State) (a : Nat) : Option Nat :=
  if a < 256 then s.coilOfRegion (a / 8) else s.coilOfCc (a - 256)

/-- An excluded event: an FE record PROTOCOL (R380). SRC_KIND 2 cluster, 4 complex, 6 slice. -/
def State.protocol (s : State) (kind index l : Nat) : State := s.fatal 0x23 kind index 0 l

/-- Offers to an agent that have arrived there, but for one, and whose answers have not reached the home (R365, R381). -/
def State.offersAt (s : State) (m : Msg) : Nat :=
  let open' := (s.slices.map (fun k => (k.2.busy.filter (fun b => b.why == .bo && b.owed.any (fun o => o.1 == m.dst))).length)).sum
  open' - (s.net.filter (fun k => k.stash && k.dst == m.dst && k.ty == .dat)).length - 1

/-- STASH_OFFER (R365, R379): the target installs the line clean and exclusive, or declines; a stable line it holds already is an
event that the home excludes (R380). Its queue of 16 offers can be full only where 16 others have come and are not known to be
answered: whether it then is, is a free choice (notes/assumptions/7.md). -/
def State.stashOffer (s : State) (m : Msg) : State :=
  let a := m.dst
  let g := s.agent a
  let st := g.st m.line
  if st.stable && st != .I then s.protocol (if a < 256 then 2 else 4) (if a < 256 then a else a - 256) m.line
  else
    let (full, s) := if 16 ≤ s.offersAt m then s.freeChoice else (false, s)
    let inSet := g.lines.filter (fun x => x.st.inWay && agentSet a x.line == agentSet a m.line)
    let victim := if inSet.length < agentWays then none else inSet.reverse.find? (fun x => x.st.stable && !x.owed)
    let noRoom := decide (agentWays ≤ inSet.length) &&
      (match victim with | none => true | some v => v.st == .M || v.st == .O)
    let decline := st != .I || noRoom || full || s.coh.dead.contains a
      || (match m.coil with | some c => s.coilOfAgent a != some c | none => false)
    let ack : Msg := { ty := .ack, src := a, dst := homeId, txn := m.txn, line := m.line }
    if decline then s.send { ack with no := true }
    else match s.agentRoom a m.line with
      | none => s.send { ack with no := true }
      | some s => (s.modAgent a (fun g => g.put { line := m.line, st := .E, data := m.data, poison := m.poison })).send ack

/-- Answer an event by the table: the line's new state and data, and the reply to the home. -/
def State.agentApply (s : State) (m : Msg) (ev : CEv) : State :=
  let a := m.dst
  let x : CLine := ((s.agent a).find m.line).getD { line := m.line, st := .I }
  match cacheTable x.st ev with
  | none => s.protocol (if a < 256 then 2 else 4) (if a < 256 then a else a - 256) m.line
  | some (st, reply) =>
    let won : Bool := match ev with | .dat .m => true | .dat .e => true | .ack => st == .M | _ => false
    let isDat : Bool := match ev with | .dat _ => true | _ => false
    let y : CLine := { x with st := st, data := if isDat then m.data else x.data, poison := if isDat then m.poison else x.poison,
                              wonAt := if won then some s.now else x.wonAt, cleat := if won then s.coh.cleat else x.cleat,
                              owed := if won then true else x.owed, held := none }
    let s := s.modAgent a (fun g => g.put y)
    let s := if st.readable then s else s.dropResv a m.line
    let r : Msg := { ty := .ack, src := a, dst := homeId, txn := m.txn, line := m.line, data := x.data, poison := x.poison }
    match reply with
    | none => s
    | some .ack => s.send { r with data := 0, poison := false }
    | some .dat => s.send { r with ty := .dat }
    | some (.datd k) => s.send { r with ty := .datd, retain := k }

/-- The line still has its cleat time (R386). -/
def State.cleatHolds (s : State) (x : CLine) : Bool :=
  match x.wonAt with
  | some t => x.owed || decide (s.now < t + 2 * x.cleat)
  | none => false

/-- A message reaches a caching agent (R379, R386). -/
def State.agentReceive (s : State) (m : Msg) : State :=
  if s.coh.dead.contains m.dst then s
  else if m.ty = .dat ∧ m.stash then s.stashOffer m
  else match msgEv m, (s.agent m.dst).find m.line with
    | none, _ => s.protocol (if m.dst < 256 then 2 else 4) (if m.dst < 256 then m.dst else m.dst - 256) m.line
    | some ev, some x =>
      if isSnoop m && s.cleatHolds x then s.modAgent m.dst (fun g => g.put { x with held := some m })
      else s.agentApply m ev
    | some ev, none => s.agentApply m ev

/-- A held snoop is answered (R386). -/
def State.answerHeld (s : State) (a l : Nat) : State :=
  match (s.agent a).find l with
  | some x => match x.held with
    | some m => match msgEv m with
      | some ev => (s.modAgent a (fun g => g.put { x with wonAt := none, held := none })).agentApply m ev
      | none => s
    | none => s
  | none => s

/-- The access that caused a request has been performed (R386). -/
def State.agentDone (s : State) (a l : Nat) : State :=
  match (s.agent a).find l with
  | some x => s.modAgent a (fun g => g.put { x with owed := false })
  | none => s

/-! ### Directory entries (R374, R393) -/

/-- The caching agents an SNI "to H" goes to (R374), the owner left out. -/
def DirEntry.holders (e : DirEntry) : List Nat :=
  let hs := if e.coarse then e.sharers.flatMap (fun k => ((List.range 4).map (fun i => 4 * k + i)).filter isCaching) else e.sharers
  if e.st = .S then hs else hs.filter (fun a => a != e.owner)

/-- Add a sharer: a fifth one changes the entry to coarse mode (R374). -/
def DirEntry.add (e : DirEntry) (q : Nat) : DirEntry :=
  if e.coarse then (if e.sharers.contains (q / 4) then e else { e with sharers := e.sharers ++ [q / 4] })
  else if e.sharers.contains q then e
  else if e.sharers.length < 4 then { e with sharers := e.sharers ++ [q] }
  else { e with coarse := true, sharers := ((e.sharers ++ [q]).map (· / 4)).eraseDups }

/-- Pointer mode with Q in H (R382). -/
def DirEntry.pointed (e : DirEntry) (q : Nat) : Bool := !e.coarse && e.sharers.contains q

/-- State S with the entry's sharers, or I in pointer mode with none (R382, R383). -/
def DirEntry.toS (e : DirEntry) : Option DirEntry :=
  if !e.coarse && e.sharers.isEmpty then none else some { e with st := .S, owner := 0 }

/-- The 16 bytes of a spilled entry as a number (R393). -/
def DirEntry.encode (e : DirEntry) : Nat :=
  let st := match e.st with | .S => 1 | .X => 2 | .O => 3
  let sh := if e.coarse then e.sharers.foldl (fun a k => a + 2 ^ k) 0
    else (e.sharers.zip (List.range 4)).foldl (fun a (p : Nat × Nat) => a + p.1 * 2 ^ (9 * p.2)) 0 + e.sharers.length * 2 ^ 36
  bits e.line 8 28 + st * 2 ^ 28 + (if e.st = .S then 0 else e.owner) * 2 ^ 30 + b2n e.coarse * 2 ^ 39 + sh * 2 ^ 40

/-- The entry a spilled number holds for a slice; none: an empty slot (R393). -/
def decodeSpill (slice w : Nat) : Option DirEntry :=
  let l := (slice / 2) * stackBytes + bits w 0 28 * 256 + (slice % 2) * 128
  let st := bits w 28 2
  if st = 0 then none
  else some { line := l, st := if st = 1 then .S else if st = 2 then .X else .O, owner := bits w 30 9, coarse := bit w 39,
              sharers := if bit w 39 then (List.range 67).filter (fun k => bit w (40 + k))
                         else (List.range (bits w 76 3)).map (fun i => bits w (40 + 9 * i) 9) }

/-- The spill set of a line and the address of its 128 bytes (R392). -/
def State.spillSet (s : State) (l : Nat) : Option (Nat × Nat) :=
  match s.spillShift, s.spillBase (stackOf l) with
  | some h, some b => if isScratch l then none else
      let k := bits l 8 28 % 2 ^ (28 - h)
      some (k, b + 256 * k + 128 * bits l 7 1)
  | _, _ => none

/-- The eight spilled numbers of a spill set. -/
def spillWords (d : LineData) : List Nat := (List.range 8).map (fun i => bits d.toNat (128 * i) 128)
/-- A spill set's line from its eight numbers. -/
def spillLine (ws : List Nat) : LineData := BitVec.ofNat 1024 (ws.foldr (fun w a => w % 2 ^ 128 + 2 ^ 128 * a) 0)

/-! ### Watches (R451) -/

/-- A woken engine is to read its line again (R451, R473, R506). -/
def State.wakeOne (s : State) (w : Watch) : State :=
  match w.kind with
  | 0 => ({ s with lhr := { s.lhr with waking := s.lhr.waking || (decide (1 ≤ s.lhr.stage) && decide (s.lhr.stage ≤ 3)) } } : State).modQueue
      w.index (fun q => { q with tailDue := true })
  | 1 => s.modCmd w.index (fun c => match c.work with
      | .knotWait k t _ => { c with work := .knotWait k t true }
      | _ => c)
  | 2 => s.modKwait w.index (fun k => { k with due := true })
  | _ => s.modDmaCh (w.index / 16) (w.index % 16) (fun c => { c with paceDue := true })

/-- Wake every engine watching a line. -/
def State.wake (s : State) (l : Nat) : State :=
  ((s.slice (s.homeOf l)).watches.filter (fun w => w.line == l)).foldl (fun s w => s.wakeOne w) s

/-- Watch a line (R451, R452): true where its slice has a free watch, or holds this one already. -/
def State.addWatch (s : State) (l kind index : Nat) : Bool × State :=
  let n := s.homeOf l
  let ws := (s.slice n).watches
  let w : Watch := { line := l, kind := kind, index := index }
  if ws.contains w then (true, s)
  else if ws.length < 64 then (true, s.modSlice n (fun k => { k with watches := k.watches ++ [w] }))
  else (false, s)

/-- Give up a watch. -/
def State.dropWatch (s : State) (kind index : Nat) : State :=
  (s.slices.map (·.1)).foldl (fun s n => s.modSlice n (fun k =>
    { k with watches := k.watches.filter (fun w => !(w.kind == kind && w.index == index)) })) s

/-! ### The home (R381 to R396) -/

/-- The busy line of a home. -/
def Slice.busyOf (k : Slice) (l : Nat) : Option BusyLine := k.busy.find? (fun b => b.line == l)
/-- The on-chip directory entry of a line. -/
def Slice.entry (k : Slice) (l : Nat) : Option DirEntry := k.dir.find? (fun e => e.line == l)
/-- The directory set of a line (R389). -/
def dirSet (l : Nat) : Nat := bits l 8 14

/-- Set or replace a busy line; the list keeps the oldest first. -/
def Slice.putBusy (k : Slice) (b : BusyLine) : Slice :=
  { k with busy := if (k.busyOf b.line).isSome then k.busy.map (fun x => if x.line == b.line then b else x) else k.busy ++ [b] }
/-- Set or replace a busy line. -/
def State.setBusy (s : State) (b : BusyLine) : State := s.modSlice (s.homeOf b.line) (fun k => k.putBusy b)
/-- The line is no longer busy. -/
def State.clearBusy (s : State) (l : Nat) : State :=
  s.modSlice (s.homeOf l) (fun k => { k with busy := k.busy.filter (fun x => x.line != l) })

/-- Send snoops to living agents and count them; a dead agent's answer is taken as ACK (R398). -/
def State.snoops (s : State) (l txn : Nat) (ty : MsgType) (dsts : List Nat) : State :=
  let live := dsts.filter (fun a => !s.coh.dead.contains a)
  let s := live.foldl (fun s a => s.send { ty := ty, src := homeId, dst := a, txn := txn, line := l }) s
  s.modSlice (s.homeOf l) (fun k => { k with ccnt := { k.ccnt with snoop := wrapAdd 64 k.ccnt.snoop live.length } })

/-- Put a line's directory entry on chip as the most recently used, or remove it (R389). -/
def State.setDir (s : State) (l : Nat) (e : Option DirEntry) : State :=
  s.modSlice (s.homeOf l) (fun k => { k with dir := e.toList ++ k.dir.filter (fun x => x.line != l) })
/-- Change a line's directory entry where it stands, or remove it: no use of it (R389). -/
def State.changeDir (s : State) (l : Nat) (e : Option DirEntry) : State :=
  s.modSlice (s.homeOf l) (fun k => { k with dir := k.dir.flatMap (fun x => if x.line == l then e.toList else [x]) })

/-! ### Spill sets (R392 to R395) -/

/-- A line of HBM with the write that waits for it, if one does. -/
def State.hbmLatest (s : State) (l : Nat) : LineData :=
  match (s.stack (stackOf l)).held.reverse.find? (fun w => w.1 == l) with
  | some w => w.2.1
  | none => (s.hbmLine l).1

/-- The words of spill set k of a slice: empty where its summary bit is clear (R394). -/
def State.spillSeen (s : State) (n k a : Nat) : List Nat :=
  if (s.slice n).summary.contains k then spillWords (s.hbmLatest a) else List.replicate 8 0

/-- A spill set's slot is empty (R393). -/
def emptySlot (w : Nat) : Bool := bits w 28 2 == 0

/-- What a home's read of a spill set comes to. -/
inductive SpillSet where
  | words (ws : List Nat) (s : State)
  /-- A word is uncorrectable, or was found so before and is poisoned: the coherent domain is lost (R401, R415). -/
  | lost (s : State)
  /-- The controller holds the read (R421, R620). -/
  | held

/-- Read spill set k of slice n, at address a: a set whose summary bit is clear is empty and is not read (R394, R401, R411 to
R413, R415). A poisoned word is taken as uncorrectable (DESIGN CHOICE, notes/assumptions/18.md). -/
def State.readSpill (s : State) (n k a : Nat) (err : LineErr) : SpillSet :=
  if !(s.slice n).summary.contains k then .words (List.replicate 8 0) s
  else if s.hbmHeld a then .held
  else
    let s := s.modSlice n (fun x => { x with ccnt := { x.ccnt with spillRd := wrapAdd 64 x.ccnt.spillRd 1 } })
    let r := s.readLine a err
    if r.poisoned then
      .lost ((s.modStack (stackOf a) (fun k => k.modChannel (chOf a) (fun c =>
        { c with cntCe := wrapAdd 64 c.cntCe (b2n (r.count isCorrected != 0)),
                 cntUe := wrapAdd 64 c.cntUe (b2n (r.count isUncorrectable != 0)),
                 cntPoison := wrapAdd 64 c.cntPoison (r.count isPoisoned) }))).fatal 0x22 6 n 0 a)
    else
      let (d, s) := s.readEvents a r
      .words (spillWords d.1) s

/-- Write spill set k of slice n, its slots in use in a given order of age (R394). -/
def State.writeSpill (s : State) (n k a : Nat) (ws : List Nat) (order : List Nat) : State :=
  (s.hbmStore a (spillLine ws) false).modSlice n (fun x =>
    { x with summary := mark x.summary k (ws.any (fun w => !emptySlot w)), spillOrder := Tbl.set [] x.spillOrder k order })

/-- Empty slot j of spill set k (R394, R395). -/
def State.emptySpill (s : State) (n k a : Nat) (ws : List Nat) (j : Nat) : State :=
  s.writeSpill n k a (ws.set j 0) ((Tbl.get [] (s.slice n).spillOrder k).filter (fun i => i != j))

/-- The slot of a spill set that holds a line's entry. -/
def spillSlot (n l : Nat) (ws : List Nat) : Option Nat :=
  (List.range 8).find? (fun i => ((decodeSpill n (ws.getD i 0)).map (·.line)) == some l)

/-- A line's entry is freed, on chip or in its spill set (R396). -/
def State.freeEntry (s : State) (l : Nat) : State :=
  let n := s.homeOf l
  if ((s.slice n).entry l).isSome then s.setDir l none
  else match s.spillSet l with
    | none => s
    | some (k, a) =>
      let ws := s.spillSeen n k a
      match spillSlot n l ws with
      | some j => s.emptySpill n k a ws j
      | none => s

/-- Start a forced invalidation of an entry, which is freed once every answer has arrived (R396). -/
def State.force (s : State) (e : DirEntry) : State :=
  let own := if e.st = .S then [] else [e.owner]
  let live (l : List Nat) := l.filter (fun a => !s.coh.dead.contains a)
  let owed := (live own).map (fun a => (a, true)) ++ (live e.holders).map (fun a => (a, false))
  let s := s.modSlice (s.homeOf e.line) (fun k => { k with ccnt := { k.ccnt with forced := wrapAdd 64 k.ccnt.forced 1 } })
  if owed.isEmpty then s.freeEntry e.line
  else
    let s := s.setBusy { line := e.line, why := .bs, req := { ty := .sno, line := e.line }, owed := owed, was := some e, forced := true }
    (s.snoops e.line 0 .sno own).snoops e.line 0 .sni e.holders

/-- Spill entry v of slice n to spill set k: into an empty slot, or the set's oldest entry is recalled first; none: nothing can
be done yet (R395). -/
def State.spillOut (s : State) (n : Nat) (v : DirEntry) (k a : Nat) : Option State :=
  let seen := s.spillSeen n k a
  let old := ((Tbl.get [] (s.slice n).spillOrder k).head?.bind (fun j => decodeSpill n (seen.getD j 0)))
  let full := seen.all (fun w => !emptySlot w)
  if full && old.all (fun e => ((s.slice n).busyOf e.line).isSome || decide (256 ≤ (s.slice n).busy.length)) then none
  else match s.readSpill n k a {} with
    | .held => none
    | .lost s => some s
    | .words ws s => match (List.range 8).find? (fun i => emptySlot (ws.getD i 0)), old with
      | some j, _ =>
        some (((s.writeSpill n k a (ws.set j v.encode) (Tbl.get [] (s.slice n).spillOrder k ++ [j])).setDir v.line none).modSlice n
          (fun x => { x with ccnt := { x.ccnt with spillWr := wrapAdd 64 x.ccnt.spillWr 1 } }))
      | none, some e => some (s.force e)
      | none, none => none

/-- The reply of the home to a requester. -/
def State.reply (s : State) (m : Msg) (r : Msg) : State :=
  if s.coh.dead.contains m.src then s
  else s.send { r with src := homeId, dst := m.src, txn := m.txn, line := m.line, nc := m.nc }

/-- The atomic operations on w-bit values (R234, R306, R307, R309): the value written, or none. -/
def atomicOp (w op old src cmp : Nat) : Option Nat :=
  match op with
  | 0x08 => some ((old + src) % 2 ^ w)
  | 0x09 => some (if toS w old ≤ toS w src then old else src)
  | 0x0A => some (if toS w old ≤ toS w src then src else old)
  | 0x0B => some (min old src)
  | 0x0C => some (max old src)
  | 0x0D => some (Nat.land old src)
  | 0x0E => some (Nat.lor old src)
  | 0x0F => some (Nat.xor old src)
  | 0x10 => some src
  | 0x11 => if old = cmp then some src else none
  | 0x12 => some (fpOp fp32 1 0 old src 0).1
  | _ => none

/-- Perform an atomic on w/8 bytes of a line at an offset: the old value, and the new line where it writes (R309). -/
def lineAtomic (d : LineData) (off n op src cmp : Nat) : Nat × Option LineData :=
  let w := 8 * n
  let old := bits d.toNat (8 * off) w
  (old, (atomicOp w op old (src % 2 ^ w) (cmp % 2 ^ w)).map (fun v => BitVec.ofNat 1024 (setBits d.toNat (8 * off) w v)))

/-- Does the request need the line's current data, once its snoops are answered (R382)? -/
def needsData (b : BusyLine) : Bool :=
  if b.forced then false
  else match b.req.ty with
    | .rds | .rdo | .rnc | .anc => true
    | .upg => b.asRdo
    | .wnc => b.req.mask != BitVec.allOnes 128
    | _ => false

/-- The target of an STH, where its kind names one and the issuer's features include STASH (R91, R363, R364, R382). -/
def State.stashTarget (s : State) (m : Msg) : Option Nat :=
  if !s.feature 7 && !m.admitted then none
  else match bits m.target 8 4 with
    | 1 => some (bits m.target 0 8)
    | 2 => if bits m.target 0 8 < 12 then some (256 + bits m.target 0 8) else none
    | _ => none

/-- The last part of a request: data moves, the reply goes out, the directory changes and the line is no longer busy
(R382, R383). An entry in coarse mode stays so until its line goes to I (R374). -/
def State.finishLine (s : State) (b : BusyLine) (d : LineData × Bool) : State :=
  let m := b.req
  let l := b.line
  let q := m.src
  let coarse := b.was.any (·.coarse)
  let dat (g : Grant) (s : State) := s.reply m { ty := .dat, grant := g, data := d.1, poison := d.2 }
  let own (a : Nat) : Option DirEntry := some { line := l, st := .X, owner := a, coarse := coarse }
  let count (f : CohCnt → CohCnt) (s : State) := s.modSlice (s.homeOf l) (fun k => { k with ccnt := f k.ccnt })
  -- where an atomic writes nothing, dirty data that the owner gave up still goes to the slice
  let keep (s : State) : State := if b.ans = 3 then s.homeWrite l d.1 d.2 else s
  let s := s.clearBusy l
  if b.forced then (match b.was with | some _ => s.freeEntry l | none => s)
  else match m.ty with
    | .rds => match b.was with
      | none => dat .e (s.setDir l (own q))
      | some e =>
        let e' : DirEntry := if e.st = .S then e.add q
          else if b.ans = 1 then (({ line := l, st := .S, coarse := coarse } : DirEntry).add e.owner).add q
          else if b.ans = 2 then { (e.add q) with st := .O }
          else { (e.add q) with st := .S, owner := 0 }
        dat .s (s.setDir l (some e'))
    | .rnc => match b.was with
      | none => dat .s s
      | some e =>
        if e.st = .S then dat .s s
        else if b.ans = 1 then dat .s (s.setDir l (some (({ e with st := .S, owner := 0 } : DirEntry).add e.owner)))
        else if b.ans = 2 then dat .s (s.setDir l (some { e with st := .O }))
        else dat .s (s.setDir l e.toS)
    | .rdo => dat .m (s.setDir l (own q))
    | .upg => if b.asRdo then dat .m ((count (fun c => { c with upgRdo := wrapAdd 64 c.upgRdo 1 }) s).setDir l (own q))
              else (s.setDir l (own q)).reply m { ty := .ack }
    | .wnc =>
      let merged := if d.2 && m.mask != BitVec.allOnes 128 then (d.1, true)
                    else (mergeLine d.1 m.data m.mask, m.poison)
      let w := if m.nc then s.homeWriteInPlace l merged.1 merged.2 else s.homeWrite l merged.1 merged.2
      w.setDir l none
    | .anc =>
      let n := if m.size then 8 else 4
      if d.2 then ((keep s).setDir l none).reply m { ty := .dat, grant := .s, poison := true }
      else
        let (old, new) := lineAtomic d.1 m.offset n m.op m.srcOperand m.cmpOperand
        let w := match new with
          | some x => if m.nc then s.homeWriteInPlace l x false else s.homeWrite l x false
          | none => keep s
        (w.setDir l none).reply m { ty := .dat, grant := .s, data := BitVec.ofNat 1024 old }
    | .sth =>
      let s := s.homeWrite l m.data m.poison
      match s.stashTarget m with
      | some t =>
        if s.coh.dead.contains t then
          (s.setDir l none).modSlice (s.homeOf l) (fun k => { k with cnt := { k.cnt with sthDec := wrapAdd 64 k.cnt.sthDec 1 } })
        else
          let s := s.setBusy { line := l, why := .bo, req := m, owed := [(t, false)], was := b.was }
          s.send { ty := .dat, src := homeId, dst := t, txn := m.txn, line := l, grant := .e, stash := true, data := m.data,
                   poison := m.poison, coil := m.coil }
      | none => s.setDir l none
    | .wbk =>
      let stale := (count (fun c => { c with stale := wrapAdd 64 c.stale 1 }) s).reply m { ty := .ack }
      match b.was with
      | some e =>
        if e.st ≠ .S ∧ e.owner = q then
          ((s.homeWrite l m.data m.poison).setDir l (if e.st = .X then none else e.toS)).reply m { ty := .ack }
        else stale
      | none => stale
    | .evc =>
      let stale := (count (fun c => { c with stale := wrapAdd 64 c.stale 1 }) s).reply m { ty := .ack }
      match b.was with
      | some e =>
        if e.st = .X ∧ e.owner = q then (s.setDir l none).reply m { ty := .ack }
        else if e.st ≠ .X ∧ e.pointed q then
          let e' : DirEntry := { e with sharers := e.sharers.filter (fun a => a != q) }
          (s.setDir l (if e.st = .S then e'.toS else some e')).reply m { ty := .ack }
        else stale
      | none => stale
    | _ => s

/-- Go on with a busy line whose snoops are all answered: read the line when its data is needed, or finish (R381). -/
def State.progress (s : State) (b : BusyLine) : State :=
  if !b.owed.isEmpty then s.setBusy { b with why := .bs }
  else if needsData b then
    match b.data with
    | some d => s.finishLine b d
    | none =>
      match s.homeRead b.line b.req.src b.req.nc (b.req.ty != .wnc) with
      | .data d s => s.finishLine b d
      | .fill s => s.setBusy { b with why := .bd, stalled := false }
      | .held => s.setBusy { b with why := .bd, stalled := true }
  else s.finishLine b (b.data.getD (0, false))

/-- Serve a request whose directory entry is known: its snoops by R382's table. -/
def State.act (s : State) (m : Msg) (e : Option DirEntry) : State :=
  let l := m.line
  let b0 : BusyLine := { line := l, why := .bs, req := m, was := e }
  let s := match m.ty with | .rdo | .upg | .wnc | .sth | .anc => s.wake l | _ => s
  let live (k : List Nat) := k.filter (fun a => !s.coh.dead.contains a)
  let snoop (b : BusyLine) (own : Option MsgType) (sni : List Nat) : State :=
    let owner := match e with | some x => if x.st = .S then [] else [x.owner] | none => []
    let owners := if own.isSome then live owner else []
    let sni := live sni
    let b := { b with owed := owners.map (fun a => (a, true)) ++ sni.map (fun a => (a, false)) }
    let s := match own with | some ty => s.snoops l m.txn ty owners | none => s
    (s.snoops l m.txn .sni sni).progress b
  match m.ty, e with
  | .rds, some x | .rnc, some x => if x.st = .S then s.progress b0 else snoop b0 (some .sns) []
  | .rdo, some x | .wnc, some x | .anc, some x | .sth, some x =>
    if x.st = .S then snoop b0 none x.holders else snoop b0 (some .sno) x.holders
  | .upg, some x =>
    if x.st = .S ∧ x.pointed m.src then snoop b0 none (x.holders.filter (fun a => a != m.src))
    else if x.st = .O ∧ x.owner = m.src then snoop b0 none x.holders
    else if x.st = .O ∧ x.pointed m.src then snoop b0 (some .sno) (x.holders.filter (fun a => a != m.src))
    else if x.st = .S then snoop { b0 with asRdo := true } none x.holders
    else snoop { b0 with asRdo := true } (some .sno) x.holders
  | .upg, none => s.progress { b0 with asRdo := true }
  | _, _ => s.progress b0

/-! ### Dead agents at a home (R398) -/

/-- An entry names a dead agent, so that a scrub changes it (R398). -/
def State.namesDead (s : State) (e : DirEntry) : Bool :=
  (e.st != .S && s.coh.dead.contains e.owner) || (!e.coarse && e.sharers.any (fun a => s.coh.dead.contains a))

/-- Scrub an entry for the dead agents (R398): an owner that died poisons the line, a sharer that died is removed. -/
def State.scrub (s : State) (e : DirEntry) : Option DirEntry × State :=
  if e.st ≠ .S ∧ s.coh.dead.contains e.owner then
    let sharers := e.holders.filter (fun a => !s.coh.dead.contains a)
    let s := (s.homeWrite e.line 0 true)
    let s := { s with coh := { s.coh with poisoned := satAdd 32 s.coh.poisoned 1 } }
    let s := if sharers.isEmpty then s
      else (s.setBusy { line := e.line, why := .bs, req := { ty := .sni, line := e.line },
                        owed := sharers.map (fun a => (a, false)), was := none, forced := true }).snoops e.line 0 .sni sharers
    (none, s)
  else if !e.coarse ∧ e.sharers.any (fun a => s.coh.dead.contains a) then
    let e' := { e with sharers := e.sharers.filter (fun a => !s.coh.dead.contains a) }
    (if e.st = .S ∧ e'.sharers.isEmpty then none else some e', s)
  else (some e, s)

/-! ### Serving requests (R381, R388, R389) -/

/-- A request that ends with its sender or its target in the directory (R382). -/
def State.installs (s : State) (m : Msg) : Bool :=
  match m.ty with | .rds | .rdo | .upg => true | .sth => (s.stashTarget m).isSome | _ => false

/-- Directory entries of a line's set that are in use, or kept for the requests being served (R389). -/
def State.dirUsed (s : State) (l : Nat) : Nat :=
  let k := s.slice (s.homeOf l)
  (k.dir.filter (fun x => dirSet x.line == dirSet l)).length
    + (k.busy.filter (fun b => dirSet b.line == dirSet l && (k.entry b.line).isNone && (b.why == .bp || (!b.forced && s.installs b.req)))).length

/-- A request has its directory entry, or needs none, or there is one free in its set (R389). -/
def State.dirReady (s : State) (m : Msg) : Bool :=
  let k := s.slice (s.homeOf m.line)
  (k.entry m.line).isSome || decide (s.dirUsed m.line < 16)
    || !(s.installs m || (s.spillSet m.line).any (fun p => k.summary.contains p.1))

/-- Make room in the directory set of a line: the victim is the least recently used entry whose line is not busy. It is scrubbed,
spilled, or invalidated by force. None: room is on its way, or nothing can be done yet (R389, R390, R395, R396, R398). -/
def State.makeRoom (s : State) (l : Nat) : Option State :=
  let n := s.homeOf l
  let k := s.slice n
  let leaving := (k.busy.filter (fun b => b.forced && dirSet b.line == dirSet l && (k.entry b.line).isSome)).length
  let crowded := decide (256 ≤ k.busy.length)
  if s.dirUsed l < 16 + leaving then none
  else match (k.dir.filter (fun x => dirSet x.line == dirSet l)).reverse.find? (fun x => (k.busyOf x.line).isNone) with
    | none => none
    | some v =>
      if s.coh.reclaim && s.namesDead v then
        if crowded then none else some (let (e, s) := s.scrub v; s.changeDir v.line e)
      else match s.coh.spill, s.spillSet v.line with
        | true, some (i, a) => s.spillOut n v i a
        | _, _ => if crowded then none else some (s.force v)

/-- Serve a request to a line that is not busy: a spilled entry is read first, an unscrubbed one is scrubbed (R394, R398). -/
def State.serve (s : State) (m : Msg) : State :=
  let n := s.homeOf m.line
  match (s.slice n).entry m.line with
  | some e =>
    if s.coh.reclaim && s.namesDead e then
      let (e', s) := s.scrub e
      let s := s.setDir m.line e'
      if ((s.slice n).busyOf m.line).isSome then
        s.modSlice n (fun k => { k with waiting := m :: k.waiting })
      else s.act m e'
    else (s.setDir m.line (some e)).act m (some e)
  | none => match s.spillSet m.line with
    | some (k, _) =>
      if (s.slice n).summary.contains k then
        s.setBusy { line := m.line, why := .bp, req := m, was := none }
      else s.act m none
    | none => s.act m none

/-- A request that came before keeps a later one waiting: one of its line, or one of its set that no busy line holds up (R352,
R353, R388). -/
def Slice.before (k : Slice) (x m : Msg) : Bool :=
  x.line == m.line
    || (!isScratch x.line && !isScratch m.line && sliceSet x.line == sliceSet m.line && (k.busyOf x.line).isNone)

/-- A request may be served now, with those ahead of it still waiting: its line is not busy, there is a free busy entry, its set is
not blocked (R352, R353, R381). -/
def State.lineFree (s : State) (ahead : List Msg) (m : Msg) : Bool :=
  let k := s.slice (s.homeOf m.line)
  (k.busyOf m.line).isNone && decide (k.busy.length < 256) && !s.setBlocked m.line && !ahead.any (fun x => k.before x m)

/-- The first waiting request that can go on does, or room is made for it; none: nothing can. -/
def State.pumpWaiting (s : State) (n : Nat) : (ahead rest : List Msg) → Option State
  | _, [] => none
  | ahead, m :: rest =>
    let next := State.pumpWaiting s n (ahead ++ [m]) rest
    if !s.lineFree ahead m then next
    else if s.dirReady m then some ((s.modSlice n (fun k => { k with waiting := k.waiting.erase m })).serve m)
    else match s.makeRoom m.line with
      | some s => some s
      | none => next

/-- One more request of a slice goes on: a read that waits for its set, then the waiting requests in arrival order (R352, R381). -/
def State.pumpStep (s : State) (n : Nat) : Option State :=
  match (s.slice n).busy.find? (fun b => b.stalled && !s.missHeld b.line) with
  | some b => some (s.progress { b with stalled := false })
  | none => s.pumpWaiting n [] (s.slice n).waiting

/-- Go on while requests of a slice can. -/
def State.drainHome : Nat → State → Nat → State
  | 0, s, _ => s
  | fuel + 1, s, n => match s.pumpStep n with
    | some s => State.drainHome fuel s n
    | none => s

/-- Serve what waits at a slice. -/
def State.pumpHome (s : State) (n : Nat) : State :=
  State.drainHome (4 * ((s.slice n).waiting.length + (s.slice n).busy.length) + 8) s n

/-- A request reaches its home (R381, R388): served, or it waits in arrival order. -/
def State.homeRequest (s : State) (m : Msg) : State :=
  if !s.coh.serving || s.coh.dead.contains m.src then s
  else
    let n := s.homeOf m.line
    if s.lineFree (s.slice n).waiting m && s.dirReady m then (s.serve m).pumpHome n
    else (s.modSlice n (fun k => { k with waiting := k.waiting ++ [m] })).pumpHome n

/-- An answer to a snoop or an offer reaches the home (R383). -/
def State.homeResponse (s : State) (m : Msg) : State :=
  let n := s.homeOf m.line
  if !s.coh.serving || s.coh.dead.contains m.src then s
  else match (s.slice n).busyOf m.line with
    | none => s.protocol 6 n m.line
    | some b =>
      match b.owed.find? (fun o => o.1 == m.src) with
      | none => s.protocol 6 n m.line
      | some o =>
        let b := { b with owed := b.owed.erase o }
        if b.why = .bo then
          if m.ty ≠ .ack then s.protocol 6 n m.line
          else
          let acc := !m.no
          let s := s.clearBusy m.line
          let s := s.setDir m.line (if acc then some { line := m.line, st := .X, owner := m.src, coarse := b.was.any (·.coarse) } else none)
          let up (c : LlmCnt) : LlmCnt := if acc then { c with sthAcc := wrapAdd 64 c.sthAcc 1 } else { c with sthDec := wrapAdd 64 c.sthDec 1 }
          (s.modSlice n (fun k => { k with cnt := up k.cnt })).pumpHome n
        else if !o.2 then (if m.ty = .ack then (s.progress b).pumpHome n else s.protocol 6 n m.line)
        else
          let reads := match b.req.ty with | .rds | .rnc => true | _ => false
          let go (ans : Nat) (data : Option (LineData × Bool)) (s : State) : State :=
            (s.progress { b with ans := ans, data := if b.forced then none else data }).pumpHome n
          match m.ty, m.retain with
          | .dat, _ => go 1 (some (m.data, m.poison)) s
          | .datd, true => if reads then go 2 (some (m.data, m.poison)) s else s.protocol 6 n m.line
          | .datd, false =>
            go 3 (some (m.data, m.poison)) (if reads || b.forced then s.homeWrite m.line m.data m.poison else s)
          | .ack, _ => go 4 none s
          | _, _ => s.protocol 6 n m.line

/-! ### Data from HBM (R352, R394, R409) -/

/-- The controller's read of a line a slice waits for: decoded, counted, and kept for the fill (R409 to R413). -/
def State.hbmRead (s : State) (l : Nat) (e : LineErr) : State :=
  let n := homeSlice l
  match (s.slice n).fills.find? (fun f => f.line == l && f.got.isNone) with
  | none => s
  | some _ =>
    if s.hbmHeld l then s
    else
      let (d, s) := s.readEvents l (s.readLine l e)
      s.modSlice n (fun k => { k with fills := k.fills.map (fun g => if g.line == l then { g with got := some d } else g) })

/-- The fill of a line that has its data: placed in a way, the set unblocked, the request that waits goes on (R352). A prefetch whose
victim has become dirty is dropped: it never forces a write-back (R361). -/
def State.fillComplete (s : State) (l : Nat) : State :=
  let n := homeSlice l
  match (s.slice n).fills.find? (fun f => f.line == l && f.got.isSome) with
  | none => s
  | some f =>
    match f.got with
    | none => s
    | some d =>
      let s := s.modSlice n (fun k => { k with fills := k.fills.filter (fun g => g.line != l) })
      let s := if f.bypass || (f.prefetch && !s.victimClean l) then s
        else s.sliceAlloc n { line := l, data := d.1, poison := d.2, pf := f.prefetch } (!f.prefetch)
      match (s.slice n).busyOf l with
      | some b => if b.why = .bd && !b.stalled && !f.prefetch then (s.finishLine b d).pumpHome n else s.pumpHome n
      | none => s.pumpHome n

/-- A spill-set read returns (R394): uncorrectable is fatal; an entry found moves on chip; the request goes on. -/
def State.spillRead (s : State) (l : Nat) (e : LineErr) : State :=
  let n := s.homeOf l
  match (s.slice n).busyOf l, s.spillSet l with
  | some b, some (k, a) =>
    if b.why ≠ .bp then s
    else match s.readSpill n k a e with
      | .held => s
      | .lost s => s
      | .words ws s =>
        let s := s.clearBusy l
        match spillSlot n l ws with
        | none => (s.act b.req none).pumpHome n
        | some i => (((s.emptySpill n k a ws i).setDir l (decodeSpill n (ws.getD i 0))).serve b.req).pumpHome n
  | _, _ => s

/-! ### Message delivery and whole accesses -/

/-- Is the message a request to a home (R376)? -/
def isRequest (m : Msg) : Bool :=
  match m.ty with | .rds | .rdo | .upg | .wbk | .evc | .sth | .wnc | .rnc | .anc => true | _ => false

/-- A message from a home: a snoop, or the home's DAT and ACK (R375). -/
def fromHome (m : Msg) : Bool := m.src == homeId

/-- Two messages travel on one channel between one agent and one slice (R375). -/
def State.sameChannel (s : State) (a b : Msg) : Bool :=
  isRequest a == isRequest b && fromHome a == fromHome b && a.src == b.src && a.dst == b.dst && s.homeOf a.line == s.homeOf b.line

/-- A message that a caching agent takes for its cache; not the answer to an access that its cache does not hold (R329). -/
def forCache (m : Msg) : Bool := isCaching m.dst && !m.nc

/-- A message arrives where it is going: it leaves the messages in flight and acts. -/
def State.arrive (s : State) (m : Msg) : State :=
  let s := { s with net := s.net.erase m }
  if !s.coh.serving then s
  else if isRequest m then s.homeRequest m
  else if m.dst = homeId then s.homeResponse m
  else if forCache m then s.agentReceive m
  else s

/-- The first message in flight on a message's channel (R375). -/
def State.channelHead (s : State) (m : Msg) : Msg := (s.net.find? (fun x => s.sameChannel x m)).getD m

/-- One step towards quiet on a line: the message for it that is first in flight, or those ahead of it on its channel; its HBM
data; its spill set; or a held snoop whose time has come (R375, R386). -/
def State.settleStep (s : State) (l : Nat) : Option State :=
  match s.net.find? (fun m => m.line == l && (m.dst == homeId || forCache m)) with
  | some m => some (s.arrive (s.channelHead m))
  | none =>
    let n := s.homeOf l
    match (s.slice n).busyOf l with
    | some b =>
      (match b.why with
       | .bp => match s.spillSet l with
         | some (_, a) => if s.hbmHeld a then none else some (s.spillRead l {})
         | none => none
       | .bd =>
         if b.stalled || s.hbmHeld l then none
         else some ((s.hbmRead l {}).fillComplete l)
       | _ =>
         match b.owed.find? (fun o => ((s.agent o.1).find l).any (fun x => x.held.isSome && !s.cleatHolds x)) with
         | some o => some (s.answerHeld o.1 l)
         | none => none)
    | none => none

/-- Deliver messages of one line until it is quiet: a whole access takes its place in the line's order (R388;
notes/assumptions/7.md). -/
def State.settleGo : Nat → State → Nat → State
  | 0, s, _ => s
  | fuel + 1, s, l =>
    match s.settleStep l with
    | some s' => State.settleGo fuel s' l
    | none => s

/-- Bring one line to quiet; the count bounds the deliveries that takes. -/
def State.settle (s : State) (l : Nat) : State := State.settleGo (1200 + 4 * s.net.length) s l

/-- Answers in flight to a request of an access that no cache holds. -/
def State.answersTo (s : State) (m : Msg) : List Msg :=
  s.net.filter (fun r => r.ty == .dat && r.dst == m.src && r.line == m.line && r.nc == m.nc && !r.stash)

/-- A whole request without a cache: performed at the home in this step, after those ahead of it on its channel; its answer, where
it has one. A read or an atomic that its home cannot serve now has not happened; a write then waits at the home. -/
def State.transact (s : State) (m : Msg) : Option Msg × State :=
  let t := (s.net.filter (fun x => s.sameChannel x m)).foldl (fun s x => s.arrive x) s
  let t := t.settle m.line
  let u := (if t.coh.serving then t.homeRequest m else t).settle m.line
  if (t.answersTo m).length < (u.answersTo m).length then
    match (u.answersTo m).getLast? with
    | some r => (some r, { u with net := u.net.reverse.erase r |>.reverse })
    | none => (none, s)
  else match m.ty with
    | .rnc | .anc => (none, s)
    | _ => (none, u)

/-- A whole read of a line without a cache (RNC): its data and POISON; none while the home cannot serve. -/
def State.cohRead (s : State) (agent l : Nat) (nc : Bool := false) : Option (LineData × Bool) × State :=
  match s.transact { ty := .rnc, src := agent, line := l, nc := nc } with
  | (some r, s) => (some (r.data, r.poison), s)
  | (none, s) => (none, s)

/-- A whole masked write without a cache (WNC). -/
def State.cohWrite (s : State) (agent l : Nat) (d : LineData) (mask : BitVec 128) (nc : Bool := false)
    (poison : Bool := false) : State :=
  (s.transact { ty := .wnc, src := agent, line := l, data := d, mask := mask, nc := nc, poison := poison }).2

/-- A request of an agent for a line is at the line's home and not done. -/
def State.waitsAt (s : State) (agent l : Nat) : Bool :=
  let k := s.slice (s.homeOf l)
  k.waiting.any (fun m => m.src == agent && m.line == l) || k.busy.any (fun b => b.req.src == agent && b.line == l)

/-- A whole masked write without a cache that its home performs now (R313, R495); none, with nothing done, while it cannot. -/
def State.cohPut (s : State) (agent l : Nat) (d : LineData) (mask : BitVec 128) (nc : Bool := false) (poison : Bool := false) :
    Option State :=
  if !s.coh.serving then none
  else
    let t := s.cohWrite agent l d mask nc poison
    if t.waitsAt agent l then none else some t

/-- A whole atomic without a cache (ANC): the old value and POISON. -/
def State.cohAtomic (s : State) (agent l off n op src cmp : Nat) (nc : Bool := false) : Option (Nat × Bool) × State :=
  match s.transact { ty := .anc, src := agent, line := l, size := n == 8, offset := off, op := op, srcOperand := src,
                     cmpOperand := cmp, nc := nc } with
  | (some r, s) => (some (r.data.toNat, r.poison), s)
  | (none, s) => (none, s)

/-- A whole access of a caching agent: it gains the line readable, or in M or E for a write. -/
def State.obtain (s : State) (a l : Nat) (write : Bool) : State :=
  let s := s.settle l
  let st := (s.agent a).st l
  if (!write && st.readable) || st == .M || st == .E then s
  else (s.agentMiss a l write).settle l

/-- A caching agent's data for a line it may read. -/
def State.agentData (s : State) (a l : Nat) : Option (LineData × Bool) :=
  match (s.agent a).find l with
  | some x => if x.st.readable then some (x.data, x.poison) else none
  | none => none

/-- A caching agent that holds a line in M or E writes it (R379): E becomes M. -/
def State.agentWrite (s : State) (a l : Nat) (d : LineData) (poison : Bool) : State :=
  match (s.agent a).find l with
  | some x => if x.st = .M ∨ x.st = .E then
      s.modAgent a (fun g => g.put { x with st := .M, data := d, poison := poison, owed := false }) else s
  | none => s

end Sys2Proof.Machine
end

