-- ==== Sys2Proof/Machine/Access.lean ====
section
/-! DEFINITION. Whole accesses of the package's engines to local memory, and address translation by the Sv57 tables (R22,
R325 to R331, R335, R336, R357). -/

namespace Sys2Proof.Machine

open Sys2Proof

/-! ### Local memory by bytes -/

/-- The line of a backed local physical address, as the protocol names it: its direct address, or its place in the
scratchpad window (R30, R338). -/
def State.lineAt (s : State) (a : Nat) : Option Nat :=
  match s.placeOf a with
  | .hbm d => some (lineOf d)
  | .scratch o => some (scratchBase + lineOf o)
  | _ => none

/-- The pieces of [a, a + n) that cross no line: address and length. -/
def segments (a n : Nat) : List (Nat × Nat) :=
  if n = 0 then []
  else (List.range ((a % 128 + n + 127) / 128)).map (fun i =>
    let lo := max a (lineOf a + 128 * i)
    let hi := min (a + n) (lineOf a + 128 * (i + 1))
    (lo, hi - lo))

/-- Bytes [off, off + n) of a line. -/
def lineSlice (d : LineData) (off n : Nat) : List Byte := ((lineBytes d).drop off).take n

/-- Bytes placed in a line from an offset. -/
def linePlace (off : Nat) (bs : List Byte) : LineData := BitVec.ofNat 1024 (leNat bs * 2 ^ (8 * off))

/-- What an engine does takes effect whole, or not yet: where one of its reads met a home that cannot serve it now, nothing has
happened, and the event that does it comes later (R352, R421, R620). -/
def State.attempt (s t : State) : State := if t.stuck then s else t

/-- Read n bytes of local memory as an agent without a cache: failed where no memory is backed; held, with nothing done, where a
home cannot serve now. -/
def State.bytesRead (s : State) (agent a n : Nat) (nc : Bool := false) : ReadBack (List Byte) × State :=
  let s₀ := s
  (segments a n).foldl (fun (acc : ReadBack (List Byte) × State) (seg : Nat × Nat) =>
    match acc.1 with
    | .ok bs =>
      match acc.2.lineAt seg.1 with
      | none => (.failed, acc.2)
      | some l =>
        match acc.2.cohRead agent l nc with
        | (none, _) => (.held, { s₀ with stuck := true })
        | (some (d, true), s) => let _ := d; (.poisoned, s)
        | (some (d, false), s) => (.ok (bs ++ lineSlice d (seg.1 % 128) seg.2), s)
    | r => (r, acc.2)) (.ok [], s)

/-- Write bytes to local memory as an agent without a cache; false, with nothing written, where no memory is backed, and where a home
cannot perform the write now (`stuck`). -/
def State.bytesWrite (s : State) (agent a : Nat) (bs : List Byte) (nc : Bool := false) : Bool × State :=
  let segs := segments a bs.length
  if segs.any (fun g => (s.lineAt g.1).isNone) then (false, s)
  else
    match segs.foldl (fun (acc : Option State) g => acc.bind (fun s =>
      match s.lineAt g.1 with
      | none => some s
      | some l => s.cohPut agent l (linePlace (g.1 % 128) ((bs.drop (g.1 - a)).take g.2)) (byteMask (g.1 % 128) g.2) nc)) (some s) with
    | some t => (true, t)
    | none => (false, { s with stuck := true })

/-- Send a write of bytes to its homes: where one cannot perform it now, it waits there in its turn. -/
def State.bytesSend (s : State) (agent a : Nat) (bs : List Byte) : State :=
  (segments a bs.length).foldl (fun s g =>
    match s.lineAt g.1 with
    | none => s
    | some l => s.cohWrite agent l (linePlace (g.1 % 128) ((bs.drop (g.1 - a)).take g.2)) (byteMask (g.1 % 128) g.2)) s

/-- An atomic of n bytes, 4 or 8, on local memory as an agent without a cache: the old value; held, with nothing done, where its
home cannot serve now. -/
def State.atomWord (s : State) (agent a op v : Nat) (cmp : Nat := 0) (nc : Bool := false) (n : Nat := 8) :
    ReadBack Nat × State :=
  match s.lineAt a with
  | none => (.failed, s)
  | some l =>
    match s.cohAtomic agent l (a % 128) n op v cmp nc with
    | (none, s) => (.held, { s with stuck := true })
    | (some (_, true), s) => (.poisoned, s)
    | (some (old, false), s) => (.ok old, s)

/-- A scratchpad address of a group that another coil owns (R357). -/
def State.foreignScratch (s : State) (coil : Nat) (a : Nat) : Bool :=
  match s.placeOf a with
  | .scratch o => match s.scrGroup o with
    | some (g, _) => s.scrOwner g != coil
    | none => true
  | _ => false

/-- Why a local access by an agent of a coil ends: UNBACKED, REGSPACE, or none (R22, R23, R335, R357). All 64 GiB of register space
give REGSPACE, the reserved part above the first 256 MiB too: R21 calls it both (DESIGN CHOICE, notes/assumptions/8.md). -/
def State.localCause (s : State) (coil : Nat) (a : Nat) : Option Nat :=
  match s.placeOf a with
  | .hbm _ => none
  | .scratch _ => if s.foreignScratch coil a then some 0x25 else none
  | .regs _ => some 0x26
  | .scratchUnbacked => some 0x25
  | .reserved => some 0x25

/-- A write of the package's own, which acts for no coil: nothing is written in a scratchpad group that a coil owns, or where nothing is
backed (R22, R357). -/
def State.packageWrite (s : State) (agent a : Nat) (bs : List Byte) : State :=
  if (segments a bs.length).all (fun g => (s.localCause 256 g.1).isNone) then s.bytesSend agent a bs else s

/-! ### Translation (R325 to R331) -/

/-- MODE, ASID and PPN of an ASROOT (R325). -/
def asMode (r : Nat) : Nat := bits r 60 4
/-- ASID. -/
def asAsid (r : Nat) : Nat := bits r 44 16
/-- The address of the root table. -/
def asTable (r : Nat) : Nat := bits r 0 44 * 4096

/-- A translation satisfies an access: none, or the cause it raises (R328, R335). -/
def permCause (flags : Nat) : Access → Option Nat
  | k =>
    let r := bit flags 1
    let w := bit flags 2
    let x := bit flags 3
    let writes : Bool := match k with | .store => true | .atomic => true | .report => true | _ => false
    let ok : Bool := match k with
      | .load => r | .copy => r | .atomic => r && w | .store => w | .report => w | .fetch => x
    if !bit flags 4 || !ok then some 0x23
    else if !bit flags 6 || (writes && !bit flags 7) then some 0x24
    else none

/-- Does a cached translation map an address for an ASID (R331)? -/
def Tlb.hits (t : Tlb) (asid va : Nat) : Bool := (t.glob || t.asid == asid) && t.vpage == va / t.size

/-- The physical address a translation gives. -/
def Tlb.pa (t : Tlb) (va : Nat) : Nat := t.ppage * t.size + va % t.size

/-- What a walk comes to. -/
inductive WalkEnd where
  | leaf (t : Tlb)
  | fault (cause : Nat)
  | poisoned (pa : Nat)
  | unable
  deriving DecidableEq, Repr

/-- A virtual address is a sign-extended 57-bit number. -/
def canonical (va : Nat) : Bool := bits va 56 8 == 0 || bits va 56 8 == 255

/-- Where a PTE may be read: local, and backed, and not another coil's scratchpad (R327). -/
def State.pteReadable (s : State) (coil pa : Nat) : Bool :=
  (match locality s.hws.indexValid s.hws.index pa with | .here => true | _ => false)
    && (s.localCause coil (paLocal pa)).isNone

/-- Walk the tables from a table at a level (4: the root's) down to a leaf; `n` is the level plus one. -/
def walkGo (rd : State → Nat → ReadBack Nat × State) (coil asid va : Nat) :
    (n : Nat) → (table : Nat) → (glob : Bool) → List NonLeaf → State → WalkEnd × List NonLeaf × State
  | 0, _, _, nl, s => (.fault 0x22, nl, s)
  | n + 1, table, glob, nl, s =>
    let pa := table + 8 * bits va (12 + 9 * n) 9
    if !s.pteReadable coil pa then (.fault 0x22, nl, s)
    else
      match rd s (paLocal pa) with
      | (.failed, s) | (.held, s) => (.unable, nl, s)
      | (.poisoned, s) => (.poisoned (paLocal pa), nl, s)
      | (.ok e, s) =>
        let g := glob || bit e 5
        let leaf := bit e 1 || bit e 3
        if !bit e 0 || (bit e 2 && !bit e 1) || bits e 54 7 != 0 || bit e 63 || bits e 61 2 == 3 then (.fault 0x22, nl, s)
        else if leaf then
          if bits e 10 44 % 2 ^ (9 * n) ≠ 0 then (.fault 0x22, nl, s)
          else
            let size := 2 ^ (12 + 9 * n)
            (.leaf { asid := asid, glob := g, size := size, vpage := va / size, ppage := bits e 10 44 * 4096 / size,
                     flags := bits e 0 8, pbmt := bits e 61 2 }, nl, s)
        else if bits e 61 2 ≠ 0 then (.fault 0x22, nl, s)
        else
          let t := bits e 10 44 * 4096
          walkGo rd coil asid va n t g
            ({ asid := asid, glob := g, level := n, prefix_ := va / 2 ^ (12 + 9 * n), table := t } :: nl) s

/-- A whole walk from the deepest cached non-leaf entry, or the root (R331). -/
def walk (rd : State → Nat → ReadBack Nat × State) (coil asroot va : Nat) (cached : List NonLeaf) (s : State) :
    WalkEnd × List NonLeaf × State :=
  let asid := asAsid asroot
  if !canonical va then (.fault 0x22, [], s)
  else
    let hit (n : Nat) := cached.find? (fun e => (e.glob || e.asid == asid) && e.level == n && e.prefix_ == va / 2 ^ (12 + 9 * n))
    match ([1, 2, 3, 4].filterMap hit).head? with
    | some e => walkGo rd coil asid va e.level e.table e.glob [] s
    | none => walkGo rd coil asid va 5 (asTable asroot) false [] s

/-- Read a PTE as an agent without a cache. -/
def pteReader (agent : Nat) (s : State) (a : Nat) : ReadBack Nat × State :=
  match s.bytesRead agent a 8 with
  | (.ok bs, s) => (.ok (leNat bs), s)
  | (.poisoned, s) => (.poisoned, s)
  | (.failed, s) => (.failed, s)
  | (.held, s) => (.held, s)

/-- Where an engine's virtual address leads. -/
inductive Xlated where
  /-- Local memory, and whether its page is of type NC or IO (R329, R349). -/
  | here (a : Nat) (nc : Bool)
  /-- Memory of another package, by its global address. -/
  | remote (peer : Nat) (a : Nat)
  /-- A fault with its cause. -/
  | fault (cause : Nat)
  | poisoned (a : Nat)
  /-- R35: the package's own index is not valid. -/
  | noIndex
  /-- The home of a page table cannot serve now. -/
  | unable
  deriving DecidableEq, Repr

/-- Translate an address for an engine acting for a coil (R325 to R328, R32, R35, R357); unable, with nothing done, where a home of
the tables cannot serve now. -/
def State.xlate (s : State) (agent coil asroot va : Nat) (k : Access) : Xlated × State :=
  match walk (pteReader agent) coil asroot va [] s with
  | (.fault c, _, s) => (.fault c, s)
  | (.poisoned a, _, s) => (.poisoned a, s)
  | (.unable, _, _) => (.unable, { s with stuck := true })
  | (.leaf t, _, s) =>
    match permCause t.flags k with
    | some c => (.fault c, s)
    | none =>
      let pa := t.pa va
      match locality s.hws.indexValid s.hws.index pa with
      | .noIndex => (.noIndex, s)
      | .remote p => (.remote p (paLocal pa), s)
      | .here => match s.localCause coil (paLocal pa) with
        | some c => (.fault c, s)
        | none => (.here (paLocal pa) (t.pbmt != 0), s)

/-- Poisoned data consumed: the record of R321 (R646). SRC_KIND and SRC_INDEX name the consumer. -/
def State.poisonUse (s : State) (kind index a : Nat) : State := s.logErr .de 0x20 kind index 0 (lineOf a)

end Sys2Proof.Machine
end

