-- ==== Sys2Proof/Machine/Fabric.lean ====
section
/-! DEFINITION. The transmit side of the Hawser fabric: ports, transport, remote requests and events (R522, R533 to R543). -/

namespace Sys2Proof.Machine

open Sys2Proof

/-- Packets a sender may hold unacknowledged per destination and class (R538). -/
def keepLimit : Nat := 1024

/-- The UP port a unicast packet takes (R539): by (SRC + DST) mod n, or round-robin for bulk; none while no port is UP. -/
def State.portFor (s : State) (k : Packet) : Option Nat × State :=
  let ups := s.upPorts
  let n := ups.length
  if n = 0 then (none, s)
  else if k.cls = 3 then
    (ups[s.hws.bulkNext % n]?, { s with hws := { s.hws with bulkNext := (s.hws.bulkNext + 1) % n } })
  else (ups[(k.src + k.dst) % n]?, s)

/-- Transport state of a class with a peer. -/
def Peer.transport (p : Peer) (cls : Nat) : Transport := Tbl.get {} p.tr cls
/-- Change it. -/
def Peer.modTransport (p : Peer) (cls : Nat) (f : Transport → Transport) : Peer := { p with tr := Tbl.upd {} p.tr cls f }

/-- Send a unicast packet: numbered, kept until acknowledged end to end, and given to a port while the window has room
(R538, R539). E2EACK is neither numbered nor kept. -/
def State.sendPacket (s : State) (k : Packet) : State :=
  let k := { k with src := s.hws.index }
  if k.ty = 0x26 then
    match s.portFor k with
    | (some p, s) => s.portSend p k
    | (none, s) => s
  else
    let t := (s.peer k.dst).transport k.cls
    let k := { k with tseq := t.txNext }
    let (p, s) := if t.kept.length < keepLimit then s.portFor k else (none, s)
    let s := s.modPeer k.dst (fun x => x.modTransport k.cls (fun t =>
      { t with txNext := (t.txNext + 1) % 65536, kept := t.kept ++ [(k, p.getD 48)] }))
    match p with
    | some p => s.portSend p k
    | none => s

/-- A request to a peer that is GONE ends at once (R532). -/
def State.peerGone (s : State) (i : Nat) : Bool := (s.peer i).state == .gone

/-- Make a remote request: sent to an UP peer, held for any other (R533; notes/assumptions/21.md). -/
def State.remoteRequest (s : State) (who : Requester) (peer : Nat) (k : Packet) (site : StoreSite := {}) : State :=
  let tag := s.hws.nextTag
  let k := { k with dst := peer, tag := tag }
  let up := (s.peer peer).state == .up
  let r : RemoteReq := { tag := tag, peer := peer, who := who, packet := k, held := !up, site := site }
  let s := { s with hws := { s.hws with nextTag := (tag + 1) % 4096, reqs := s.hws.reqs ++ [r] } }
  if up then s.sendPacket k else s

/-- The packets of a remote read of a line (AUX 1: its DATA is bulk, notes/assumptions/22.md), a masked line write and an atomic (R537, R543). -/
def rdPacket (a : Nat) (bulk : Bool := false) : Packet := { ty := 0x01, cls := 1, addr := lineOf a, aux := b2n bulk }
/-- WR: 128 data bytes and a 16-byte byte mask. -/
def wrPacket (a : Nat) (d : LineData) (m : BitVec 128) (poison : Bool := false) : Packet :=
  { ty := 0x02, cls := 1, addr := lineOf a, payload := lineBytes d ++ leBytes 16 m.toNat, poison := poison }
/-- AT: source, then compare, and AUX. -/
def atPacket (a op n src cmp : Nat) : Packet :=
  { ty := 0x03, cls := 1, addr := a, aux := op + (if n = 8 then 32 else 0), payload := leBytes 8 src ++ leBytes 8 cmp }

/-- Write an event to the event ring and raise its interrupt (R535). `ty`: 0 peer, 1 port, 2 index. -/
def State.hwsEvent (s : State) (ty new old cause num inc : Nat) : State :=
  if !s.hws.evtEn then s
  else
    let h := s.hws
    let a := h.evtAddr * 4096 + 16 * (h.evtSeq % 2 ^ (h.evtSize + 6))
    let bs := leBytes 4 h.evtSeq ++ leBytes 1 ty ++ leBytes 1 new ++ leBytes 1 old ++ leBytes 1 cause ++ leBytes 2 num
      ++ leBytes 2 inc ++ leBytes 4 s.frm.count
    let s := s.packageWrite 576 a bs
    let s := { s with hws := { s.hws with evtSeq := wrapAdd 32 s.hws.evtSeq 1 } }
    s.raiseIrq s.hws.evtIrqDest s.hws.evtIrqNum

end Sys2Proof.Machine
end

