-- ==== Sys2Proof/Machine/Operands.lean ====
section
/-! DEFINITION. The operand forms of the unit's instructions: registers by lane, uniform registers and masks, and when a
word's fields are legal and within the hank's allocation (R223 to R232, R235, R264). -/

namespace Sys2Proof.Machine

open Sys2Proof

/-- How an instruction stops short of its effect. -/
inductive Stop where
  /-- It cannot issue now: an operand is still in use (R142, R236). -/
  | notDue
  /-- It ends the launch (R255): status, cause, access kind and address of the fault detail. -/
  | cause (status code : Nat) (kind : Nat) (addr : Nat)
  deriving DecidableEq, Repr

/-- An illegal encoding (R235). -/
def illegal : Stop := .cause 0x10 0x01 0 0
/-- An unallocated register or object (R225). -/
def resource : Stop := .cause 0x10 0x02 0 0
/-- A missing feature (R90). -/
def noFeature : Stop := .cause 0x10 0x06 0 0
/-- Go on if a condition holds. -/
def need (p : Bool) (e : Stop) : Except Stop Unit := if p then .ok () else .error e

/-! ### Register files (R223, R224) -/

/-- Thread register r of a lane. -/
def Strand.rdW (t : Strand) (lane r : Nat) : Nat := (Tbl.get (0 : W32) t.w (256 * lane + r)).toNat
/-- Write thread register r of a lane. -/
def Strand.wrW (t : Strand) (lane r v : Nat) : Strand := { t with w := Tbl.set 0 t.w (256 * lane + r) (BitVec.ofNat 32 v) }
/-- A thread register, or the pair at r for a 64-bit value. -/
def Strand.rdWX (t : Strand) (wide : Bool) (lane r : Nat) : Nat :=
  if wide then t.rdW lane r + 2 ^ 32 * t.rdW lane (r + 1) else t.rdW lane r
/-- Write a thread register or a pair. -/
def Strand.wrWX (t : Strand) (wide : Bool) (lane r v : Nat) : Strand :=
  if wide then (t.wrW lane r v).wrW lane (r + 1) (v / 2 ^ 32) else t.wrW lane r v
/-- Uniform register r. -/
def Strand.rdU (t : Strand) (r : Nat) : Nat := (Tbl.get (0 : W64) t.u r).toNat
/-- Write uniform register r. -/
def Strand.wrU (t : Strand) (r v : Nat) : Strand := { t with u := Tbl.set 0 t.u r (BitVec.ofNat 64 v) }
/-- Mask r: p0 reads as all ones (R224). -/
def Strand.rdP (t : Strand) (r : Nat) : W32 := if r = 0 then BitVec.allOnes 32 else Tbl.get 0 t.p r
/-- Write mask r: no instruction may name p0 as a destination, and p0 holds nothing. -/
def Strand.wrP (t : Strand) (r : Nat) (v : W32) : Strand := if r = 0 then t else { t with p := Tbl.set 0 t.p r v }

/-- Lanes of a mask, ascending. -/
def lanesOf (m : W32) : List Nat := (List.range 32).filter (fun l => m.getLsbD l)
/-- The lanes a guarded instruction acts in (R237). -/
def Strand.acting (t : Strand) (pg : Nat) (pn : Bool) : W32 := t.active &&& (if pn then ~~~(t.rdP pg) else t.rdP pg)
/-- The next instruction's address. -/
def Strand.advance (t : Strand) : Strand := { t with pc := (t.pc + 8) % 2 ^ 64 }

/-! ### Format A (R228) -/

/-- What a field of format A names. -/
inductive Opnd where
  | unused | w | u | p
  /-- A mask as destination: never p0 (R224). -/
  | pd
  /-- A type code or a special register. -/
  | code
  deriving DecidableEq, Repr

/-- A legal field: within its file, an even register for a pair, zero when unused; `us`: its USRC bit. -/
def Opnd.ok (o : Opnd) (wide us : Bool) (x : Nat) : Bool :=
  match o with
  | .unused => x == 0 && !us
  | .w => if us then decide (x < 64) else !wide || x % 2 == 0
  | .u => decide (x < 64) && !us
  | .p => decide (x < 8) && !us
  | .pd => decide (0 < x) && decide (x < 8) && !us
  | .code => !us

/-- A field within the hank's registers (R225). -/
def Opnd.fits (o : Opnd) (regs : Nat) (wide us : Bool) (x : Nat) : Bool :=
  match o with
  | .w => us || decide (x + b2n wide < regs)
  | _ => true

/-- What an operation of format A uses. -/
structure ShapeA where
  d : Opnd := .unused
  a : Opnd := .unused
  b : Opnd := .unused
  c : Opnd := .unused
  /-- 64-bit values of D, A, B and C lie in pairs. -/
  wd : Bool := false
  wa : Bool := false
  wb : Bool := false
  wc : Bool := false
  uniform : Bool := false
  usrc : Bool := false
  modOk : Bool := false
  rmOk : Bool := false
  satOk : Bool := false
  deriving DecidableEq, Repr

/-- The header is legal: a guard only on a thread instruction (R235). -/
def headOk (uniform : Bool) (pg : Nat) (pn : Bool) : Bool := decide (pg < 8) && (!uniform || (pg == 0 && !pn))

/-- A legal word of format A for a shape. -/
def ShapeA.legal (k : ShapeA) (f : FmtA) : Bool :=
  headOk k.uniform f.pg f.pn && f.rsvd == 0
    && (k.modOk || f.mod == 0) && (k.rmOk || f.rm == 0) && (k.satOk || !f.sat) && (k.usrc || f.usrc == 0)
    && k.d.ok k.wd false f.d && k.a.ok k.wa (bit f.usrc 0) f.a && k.b.ok k.wb (bit f.usrc 1) f.b
    && k.c.ok k.wc (bit f.usrc 2) f.c

/-- Every register of the word lies within the allocation. -/
def ShapeA.fits (k : ShapeA) (regs : Nat) (f : FmtA) : Bool :=
  k.d.fits regs k.wd false f.d && k.a.fits regs k.wa (bit f.usrc 0) f.a && k.b.fits regs k.wb (bit f.usrc 1) f.b
    && k.c.fits regs k.wc (bit f.usrc 2) f.c

/-- The checks of a format A word (R235, R225), in R725's order. -/
def ShapeA.check (k : ShapeA) (regs : Nat) (f : FmtA) : Except Stop Unit := do
  need (k.legal f) illegal
  need (k.fits regs f) resource

/-- A source value of a lane: a thread register or pair, or a uniform register under USRC. -/
def Strand.src (t : Strand) (wide us : Bool) (lane x : Nat) : Nat :=
  if us then t.rdU x % 2 ^ (if wide then 64 else 32) else t.rdWX wide lane x

/-! ### Formats I, B, M, T and Q -/

/-- A legal word of format B: the fields it may use (R231). -/
def bLegal (usesReg usesTarget guarded : Bool) (regMax : Nat) (f : FmtB) : Bool :=
  headOk (!guarded) f.pg f.pn && (if usesReg then decide (f.reg < regMax) else f.reg == 0)
    && (usesTarget || f.target == 0)

/-- The address a branch names (R231). -/
def branchTo (pc : Nat) (target : BitVec 40) : Nat := ofS 64 ((pc : Int) + 8 * target.toInt)

/-- The fields an operation of format T uses (R233); a field it does not use must be zero. -/
structure ShapeT where
  x : Bool := false
  y : Bool := false
  z : Bool := false
  mg : Bool := false
  u : Bool := false
  /-- Bits of SUB in use. -/
  sub : Nat := 0
  ty : Bool := false
  rm : Bool := false
  sat : Bool := false
  seg : Bool := false
  /-- Bits of MODE in use. -/
  mode : Nat := 0
  zf : Bool := false
  w : Bool := false
  deriving DecidableEq, Repr

/-- A legal word of format T for a shape; every tile instruction is unguarded (R235). -/
def ShapeT.legal (k : ShapeT) (f : FmtT) : Bool :=
  headOk true f.pg f.pn && !f.rsvd && (k.x || f.x == 0) && (k.y || f.y == 0) && (k.z || f.z == 0) && (k.mg || f.mg == 0)
    && (k.u || f.u == 0) && decide (f.sub < 2 ^ k.sub) && (k.ty || f.ty == 0) && (k.rm || f.rm == 0) && (k.sat || !f.sat)
    && (k.seg || f.seg == 0) && decide (f.mode < 2 ^ k.mode) && (k.zf || !f.zf) && (k.w || (!f.w && f.ws == 0))

/-- The fields an operation of format Q uses (R265). -/
structure ShapeQ where
  us : Bool := false
  ud : Bool := false
  ug : Bool := false
  /-- 1 more than the largest AC. -/
  ac : Nat := 32
  td : Bool := false
  q : Bool := false
  deriving DecidableEq, Repr

/-- A legal word of format Q for a shape (R264, R268). -/
def ShapeQ.legal (k : ShapeQ) (f : FmtQ) : Bool :=
  headOk true f.pg f.pn && f.rsvd == 0 && (k.us || f.us == 0) && (k.ud || f.ud == 0) && (k.ug || f.ug == 0)
    && decide (f.ac < k.ac) && (k.td || f.td == 0)
    && (if k.q then decide (f.qf < 7) && decide (f.rm < 5) && decide (f.cap < 3) && (f.qf != 6 || decide (f.h < 2))
        else f.qf == 0 && f.h == 0 && f.rm == 0 && !f.sf && f.cap == 0 && f.ws == 0)

end Sys2Proof.Machine
end

