-- ==== Sys2Proof/Machine/Launch.lean ====
section
/-! DEFINITION. Strands at work: finding them, issuing and retiring, the unit's translation and write-combining, and how a
launch ends (R149, R225, R236, R244, R255, R256, R310, R331, R340, R342, R465). -/

namespace Sys2Proof.Machine

open Sys2Proof

/-! ### L1 (R310 to R314, R338, R339) -/

/-- The L1 tag of a physical address: for a local line the package's index with its direct address, for a remote line the
address as issued (R317, R338). -/
def State.l1Tag (s : State) (pa : Nat) : Option Nat :=
  match locality s.hws.indexValid s.hws.index pa with
  | .here => (s.lineAt (paLocal pa)).map (fun l => paIndex pa * 2 ^ 42 + l)
  | _ => some (lineOf pa)

/-- The L1 line of a tag. -/
def UnitSt.l1Find (x : UnitSt) (tag : Nat) : Option L1Line := x.l1.find? (fun y => y.addr == tag)
/-- Use a line: it becomes the most recently used (R339). -/
def UnitSt.l1Touch (x : UnitSt) (tag : Nat) : UnitSt :=
  match x.l1Find tag with
  | some y => { x with l1 := y :: x.l1.filter (fun z => z.addr != tag) }
  | none => x

/-- A read in flight of a unit that `p` names is not to fill L1 any more (R298, R302). -/
def State.markStale (s : State) (u : Nat) (p : RemoteReq → Bool) : State :=
  { s with hws := { s.hws with reqs := s.hws.reqs.map (fun r => match r.who with
      | .unit v _ => if v == u && p r then { r with stale := true } else r
      | _ => r) } }

/-- An acquire at device or system scope: ordinary lines go, and hank-local lines of hanks no longer resident (R313). -/
def UnitSt.l1Acquire (x : UnitSt) : UnitSt :=
  { x with l1 := x.l1.filter (fun y => match y.hank with
      | some h => x.hanks.any (fun k => k.launch == h.1 && k.index == h.2)
      | none => false) }
/-- The acquire of a unit: a line that was asked for before it does not enter L1 after it (R302, R313). -/
def State.l1Acquire (s : State) (u : Nat) : State := (s.modUnit u (fun x => x.l1Acquire)).markStale u (fun _ => true)

/-! ### Translation caches (R331, R342) -/

/-- Keep at most n entries, the most recently used first. -/
def keepMru {α : Type} [BEq α] (n : Nat) (x : α) (l : List α) : List α := (x :: l.filter (fun y => !(y == x))).take n

/-- Keep a leaf translation in a cluster's cache: 2,048 entries in 8 ways, the set by the low bits of the page number (R342; DESIGN
CHOICE, notes/assumptions/16.md). -/
def keepLeaf (t : Tlb) (l : List Tlb) : List Tlb :=
  let inSet (y : Tlb) : Bool := y.vpage % 256 == t.vpage % 256
  let kept := (l.filter (fun y => inSet y && !(y == t))).take 7
  t :: l.filter (fun y => !inSet y || kept.contains y)

/-- A translation of an address for an ASID from the unit's cache, or from its cluster's into the unit's (R342). -/
def State.tlbLookup (s : State) (u asid va : Nat) : Option Tlb × State :=
  match (s.unit u).tlb.find? (fun t => t.hits asid va) with
  | some t => (some t, s.modUnit u (fun x => { x with tlb := keepMru 64 t x.tlb }))
  | none => match (s.cluster (clusterOf u)).tlb.find? (fun t => t.hits asid va) with
    | some t => (some t, (s.modUnit u (fun x => { x with tlb := keepMru 64 t x.tlb })).modCluster (clusterOf u)
        (fun x => { x with tlb := keepLeaf t x.tlb }))
    | none => (none, s)

/-- Ask for a walk of the unit's cluster (R342); `pc`: the instruction of a copy that needs it. -/
def State.askWalk (s : State) (u slot va : Nat) (k : Access) (pc : Nat := 0) : State :=
  let w : Walk := { unit := u, slot := slot, va := va, kind := k, pc := pc }
  s.modCluster (clusterOf u) (fun x =>
    if x.walks.any (fun y => y.unit == u && y.slot == slot && y.kind == k && y.va == va) then x
    else { x with walks := x.walks ++ [w] })

/-! ### Write-combining buffers (R310, R313, R340) -/

/-- Drain one entry: to the cluster cache in M or E, or to the home slice of a remote package. It stays while the line
cannot be had (R310, R340). -/
def State.drainEntry (s : State) (u : Nat) (e : WcEntry) : State :=
  let gone (s : State) : State := s.modUnit u (fun x => { x with wc := x.wc.erase e })
  match locality s.hws.indexValid s.hws.index e.addr with
  | .remote p =>
    let s := s.modUnit u (fun x => { x with remoteStores := x.remoteStores + 1 })
    let s := s.markStale u (fun r => r.peer == p && r.packet.addr == paLocal e.addr)
    gone (s.remoteRequest (.unitStore u e.launch) p (wrPacket (paLocal e.addr) e.data e.mask) e.site)
  | .noIndex => gone s
  | .here =>
    let l := paLocal e.addr
    let c := clusterOf u
    let s := s.obtain c l true
    match (s.agent c).find l with
    | some x => if x.st = .M ∨ x.st = .E then
        gone (s.agentWrite c l (mergeLine x.data e.data e.mask) (x.poison && e.mask != BitVec.allOnes 128))
      else s
    | none => s

/-- Drain a unit's entry of a line, where it has one (R300); none while it cannot drain. -/
def State.drainLine (s : State) (u tag : Nat) : Option State :=
  match (s.unit u).wc.find? (fun e => e.addr == tag) with
  | some e =>
    let s := s.drainEntry u e
    if (s.unit u).wc.any (fun e => e.addr == tag) then none else some s
  | none => some s

/-- Drain every entry of a unit that can drain now. -/
def State.drainWc (s : State) (u : Nat) : State :=
  (s.unit u).wc.foldl (fun s e => s.drainEntry u e) s

/-! ### Strands -/

/-- A strand that may issue, with its unit, hank and launch. -/
structure Ctx where
  u : Nat
  slot : Nat
  hank : Hank
  t : Strand
  cmd : Cmd
  l : Launch
  deriving DecidableEq, Repr

/-- The hank that holds a strand slot. -/
def State.hankAt (s : State) (u slot : Nat) : Option Hank :=
  (s.unit u).hanks.find? (fun h => h.strands.any (fun t => t.slot == slot))
/-- The strand in a slot. -/
def State.strandAt (s : State) (u slot : Nat) : Option Strand :=
  (s.hankAt u slot).bind (fun h => h.strands.find? (fun t => t.slot == slot))
/-- Its context, whatever it waits for. -/
def State.ctxAny (s : State) (u slot : Nat) : Option Ctx :=
  match s.hankAt u slot with
  | none => none
  | some h => match h.strands.find? (fun t => t.slot == slot), s.cmd? h.launch with
    | some t, some c => match c.work with
      | .launch l => some { u := u, slot := slot, hank := h, t := t, cmd := c, l := l }
      | _ => none
    | _, _ => none
/-- The strand waits for its next instruction: a walk of its page, or its line (R244). -/
def State.fetching (s : State) (u slot : Nat) : Bool :=
  (s.cluster (clusterOf u)).walks.any (fun w => w.unit == u && w.slot == slot && w.kind == .fetch)
    || (s.unit u).fetchMiss.any (fun e => e.1 == slot)
/-- The strand in a slot waits for nothing before its next instruction. -/
def State.strandReady (s : State) (u slot : Nat) : Bool :=
  (s.ctxAny u slot).any (fun c => c.t.wait.isReady) && !s.fetching u slot
/-- It is a slot's turn: round-robin, no slot after the one last issued and before it is ready (R236). -/
def State.turn (s : State) (u slot : Nat) : Bool :=
  let last := (s.unit u).issued
  (List.range ((slot + 31 - last) % 32)).all (fun k => !s.strandReady u ((last + 1 + k) % 32))
/-- The context of a strand that issues an instruction now: none outside stage L0, nor out of its turn (R236, R622). -/
def State.ctx (s : State) (u slot : Nat) : Option Ctx :=
  if !s.alive || s.unitFenced u || s.lhr.stage != 0 || !s.strandReady u slot || !s.turn u slot then none else s.ctxAny u slot

/-- Change a hank of a unit. -/
def State.modHank (s : State) (u launch index : Nat) (f : Hank → Hank) : State :=
  s.modUnit u (fun x => { x with hanks := x.hanks.map (fun h => if h.launch == launch && h.index == index then f h else h) })
/-- Replace a strand of a hank. -/
def Hank.setStrand (h : Hank) (t : Strand) : Hank :=
  { h with strands := h.strands.map (fun y => if y.slot == t.slot then t else y) }
/-- Replace the strand of a context. -/
def State.setStrand (s : State) (c : Ctx) (t : Strand) : State :=
  s.modHank c.u c.hank.launch c.hank.index (fun h => h.setStrand t)
/-- Change the hank of a context. -/
def State.onHank (s : State) (c : Ctx) (f : Hank → Hank) : State := s.modHank c.u c.hank.launch c.hank.index f

/-- Where a unit's translated access goes, or the status and cause it ends with (R22, R23, R35, R328, R335, R357, R532, R542). -/
inductive Dest where
  | here (a : Nat)
  | remote (peer : Nat)
  | ends (status code : Nat)
  deriving DecidableEq, Repr

/-- Route a physical address for a launch. -/
def State.route (s : State) (c : Ctx) (pa : Nat) : Dest :=
  match locality s.hws.indexValid s.hws.index pa with
  | .noIndex => .ends 0x18 0x63
  | .remote p =>
    if !c.cmd.features.getLsbD 12 then .ends 0x10 0x06
    else if s.peerGone p then .ends 0x18 0x62 else .remote p
  | .here => match s.localCause c.cmd.coil (paLocal pa) with
    | some k => .ends 0x17 k
    | none => .here (paLocal pa)

/-- Fetch the line of a strand's next instruction (R244): it is in L1, or it is asked for and will fill it (R339); a page of type NC
or IO is read at the home slice and fills nothing (R329). Poisoned: that read returned poison. Held: its home cannot serve now. -/
def State.fetchLine (s : State) (c : Ctx) (pa pbmt : Nat) : ReadBack Unit × State :=
  match s.l1Tag pa with
  | none => (.ok (), s)
  | some tag =>
    let waits (s : State) : State := s.modUnit c.u (fun x => { x with fetchMiss := x.fetchMiss ++ [(c.slot, tag)] })
    if pbmt = 0 && ((s.unit c.u).l1Find tag).isSome then (.ok (), s.modUnit c.u (fun x => x.l1Touch tag))
    else match s.route c pa with
      | .remote peer =>
        let s := (waits s).remoteRequest (.unit c.u c.slot) peer (rdPacket (paLocal pa))
        (.ok (), if pbmt = 0 then s else s.markStale c.u (fun r => r.peer == peer && r.packet.addr == lineOf (paLocal pa)))
      | _ =>
        let cl := clusterOf c.u
        let l := tag % 2 ^ 42
        if pbmt ≠ 0 then
          match s.cohRead cl l true with
          | (none, s) => (.held, s)
          | (some (_, true), s) => (.poisoned, s)
          | (some (_, false), s) => (.ok (), s)
        else
          (.ok (), ((waits s).modUnit c.u (fun x => { x with misses := if x.misses.contains tag then x.misses else x.misses ++ [tag] })).agentMiss
            cl l false)

/-- Look up a strand's next instruction: a walk is asked for where no cache holds its translation, or where it cannot be fetched
through the one held, so that the walk finds the fault (R244, R256, R342). -/
def State.lookAhead (s : State) (c : Ctx) (pc : Nat) : State :=
  match s.tlbLookup c.u (asAsid c.cmd.asroot) pc with
  | (none, s) => s.askWalk c.u c.slot pc .fetch
  | (some t, s) =>
    let good := (permCause t.flags .fetch).isNone && (match s.route c (t.pa pc) with | .ends _ _ => false | _ => true)
    if !good then s.askWalk c.u c.slot pc .fetch
    else match s.fetchLine c (t.pa pc) t.pbmt with
      | (.ok _, s) => s
      | (_, s) => s.askWalk c.u c.slot pc .fetch

/-! ### Copies that wait for a place (R263, R271, R280) -/

/-- Copies in flight on a unit, 0 to 64 (R263, R271). -/
def UnitSt.inFlight (x : UnitSt) : Nat := (x.copies.filter (fun k => !k.done)).length

/-- A copy enters the copy path, under the number it took as its ACPY issued: its counter's order is the order of issue (R236,
R280). -/
def State.copyIssue (s : State) (c : Ctx) (k : Copy) : State :=
  let s := s.modUnit c.u (fun x => { x with copies := x.copies ++ [k] })
  s.onHank c (fun h => { h with issued := Tbl.upd 0 h.issued k.ac (· + 1) })

/-- The strand whose ACPY has waited longest for one of the unit's 64 places, in the order of issue (R271, R280). -/
def State.copyWaiter (s : State) (u : Nat) : Option (Nat × Copy) :=
  (List.range 32).foldl (fun (best : Option (Nat × Copy)) n =>
    match (s.strandAt u n).map (·.wait) with
    | some (Wait.copySlot k) => if best.all (fun b => decide (k.id < b.2.id)) then some (n, k) else best
    | _ => best) none

/-- A place is free, and the ACPY first in line takes it; the strand's next instruction is looked up (R244, R271). -/
def State.startCopyWaiter (s : State) (u : Nat) : State :=
  match s.copyWaiter u with
  | some (n, k) => match s.ctxAny u n with
    | some c =>
      if (s.unit u).inFlight < 64 then
        let t := { c.t.advance with wait := .ready }
        ((s.copyIssue c k).setStrand c t).lookAhead c t.pc
      else s
    | none => s
  | none => s

/-- Copies have left the unit: those that wait take the places (R271). -/
def State.startCopyWaiters (s : State) (u : Nat) : State := (List.range 32).foldl (fun s _ => s.startCopyWaiter u) s

/-! ### How a launch ends -/

/-- Lower coordinate first, then lower unit index (R169). -/
def Excursion.before (a b : Excursion) : Bool :=
  decide (a.coord < b.coord) || (a.coord == b.coord && decide (a.unit < b.unit))
/-- The earlier of two first excursions; where coordinate and unit are equal the one recorded first, R169 naming no other order
(DESIGN CHOICE, notes/assumptions/15.md). -/
def firstExc (a b : Option Excursion) : Option Excursion :=
  match a, b with
  | some x, some y => if y.before x then some y else some x
  | some x, none => some x
  | none, y => y

/-- Add a hank's counts into its launch's totals (R149). -/
def Launch.addHank (l : Launch) (h : Hank) : Launch :=
  { l with totals := l.totals.count h.range, witTiles := satAdd 32 l.witTiles h.wit.tiles,
           witExc := satAdd 32 l.witExc h.wit.excursions, witSkipped := satAdd 32 l.witSkipped h.wit.skipped,
           witFirst := firstExc l.witFirst h.wit.first }

/-- Change the launch part of a command. -/
def State.modLaunch (s : State) (id : Nat) (f : Launch → Launch) : State :=
  s.modCmd id (fun c => match c.work with | .launch l => { c with work := .launch (f l) } | _ => c)

/-- Free what a hank holds on its unit: the hank, its copies, TMMAs, walks, outstanding remote reads and L1 marks (R253, R279,
R314). -/
def State.freeHank (s : State) (u : Nat) (h : Hank) : State :=
  let slots := h.strands.map (·.slot)
  let mine (r : RemoteReq) : Bool := match r.who with | .unit v k => v == u && slots.contains k | _ => false
  -- a store of a page of type IO that is on its way is performed all the same
  let sent := s.hws.reqs.filter (fun r => mine r && r.packet.ty == 0x02)
  let s := s.modUnit u (fun x =>
    { x with hanks := x.hanks.filter (fun y => !(y.launch == h.launch && y.index == h.index)),
             copies := x.copies.filter (fun c => !(c.launch == h.launch && c.hank == h.index)),
             mmaQ := x.mmaQ.filter (fun c => !(c.launch == h.launch && c.hank == h.index)),
             fetchMiss := x.fetchMiss.filter (fun e => !slots.contains e.1),
             remoteStores := x.remoteStores + sent.length,
             l1 := x.l1.map (fun y => if y.hank == some (h.launch, h.index) then { y with hank := none } else y) })
  let s := s.modCluster (clusterOf u) (fun x =>
    { x with walks := x.walks.filter (fun w => !(w.unit == u && slots.contains w.slot)) })
  { s with hws := { s.hws with reqs := s.hws.reqs.flatMap (fun r =>
      if !mine r then [r] else if r.packet.ty == 0x02 then [{ r with who := .unitStore u h.launch }] else []) } }

/-- Stop every hank of a launch on every unit: its counts join the totals and its stores are released (R149, R256, R315). -/
def State.stopHanks (s : State) (id : Nat) : State :=
  s.units.foldl (fun s e =>
    let hs := e.2.hanks.filter (fun h => h.launch == id)
    if hs.isEmpty then s
    else ((hs.foldl (fun s h => (s.modLaunch id (fun l => l.addHank h)).freeHank e.1 h) s).drainWc e.1).startCopyWaiters e.1) s

/-- A command's work ends; the first ending stands (R465). -/
def State.endCmd (s : State) (id : Nat) (e : Ending) : State :=
  s.modCmd id (fun c => if c.ending.isSome then c else { c with ending := some e })

/-- A cause reaches the launch engine: it stops every hank and records the cause; later causes are discarded (R465). -/
def State.endLaunch (s : State) (id : Nat) (e : Ending) : State :=
  match s.cmd? id with
  | some c => if c.ending.isSome then s else (s.stopHanks id).endCmd id e
  | none => s

/-- A strand ends its launch with a cause (R255, R256): DETAIL names the unit and the slot. -/
def State.raise (s : State) (c : Ctx) (status code kind addr : Nat) : State :=
  s.endLaunch c.cmd.id
    { status := status, cause := code, dkind := 1, detail := c.u + 1024 * c.slot,
      fault := some { cause := code, kind := kind, addr := addr, pc := c.t.pc, unit := some (c.u, c.slot) } }

/-- The code of an access kind (R482). -/
def Access.code : Access → Nat
  | .load => 0 | .store => 1 | .atomic => 2 | .fetch => 3 | .copy => 4 | .report => 5

/-- The next instruction is looked up: its translation is cached, asked of a walker, or a fault of the fetch; then its line (R244). -/
def State.fetchAhead (s : State) (c : Ctx) (pc : Nat) : State :=
  match s.tlbLookup c.u (asAsid c.cmd.asroot) pc with
  | (none, s) => s.askWalk c.u c.slot pc .fetch
  | (some t, s) =>
    let c := { c with t := { c.t with pc := pc } }
    match permCause t.flags .fetch with
    | some k => s.raise c 0x17 k 3 pc
    | none => match s.route c (t.pa pc) with
      | .ends st k => s.raise c st k 3 pc
      | _ => match s.fetchLine c (t.pa pc) t.pbmt with
        | (.ok _, s) => s
        | (.poisoned, s) => (s.poisonUse 1 c.u (paLocal (t.pa pc))).raise c 0x16 0 3 pc
        | (_, s) => s.askWalk c.u c.slot pc .fetch

/-- An instruction has executed: the strand takes its new state and its next instruction is looked up. -/
def State.retire (s : State) (c : Ctx) (t : Strand) : State := (s.setStrand c t).fetchAhead c t.pc

/-- The unit has taken a slot's turn (R236). -/
def State.took (s : State) (u slot : Nat) : State := s.modUnit u (fun x => { x with issued := slot % 32 })

/-- Issue an instruction from a strand slot whose turn it is: its effect, or the launch ends; one that an interlock holds is passed
over (R236, R256). -/
def State.issue (s : State) (u slot : Nat) (body : Ctx → Except Stop State) : State :=
  match s.ctx u slot with
  | none => s
  | some c => (match body c with
    | .ok s' => s'
    | .error .notDue => s
    | .error (.cause st code kind addr) => s.raise c st code kind addr).took u slot

/-- Add counts to a unit's ten status counters (R204). -/
def State.countVts (s : State) (u : Nat) (e : Ev) : State := s.modUnit u (fun x => { x with vts := x.vts.count e })

/-- A group-wide instruction (R250). -/
def collCheck (t : Strand) : Except Stop Unit := do
  need (decide (0 < t.cd)) (.cause 0x13 0x11 0 0)
  need (t.active == BitVec.allOnes 32) (.cause 0x13 0x10 0 0)

end Sys2Proof.Machine
end

