-- ==== Sys2Proof/Machine/UnitCtl.lean ====
section
/-! DEFINITION. The control instructions: branches, divergence, calls, exit and collective regions (R231, R234, R245 to R251),
with what a thread's exit does to belays and witness tiles (R161, R286, R287). -/

namespace Sys2Proof.Machine

open Sys2Proof

/-! ### Belays and exits -/

/-- The threads of a hank that count as arrived at a belay: those marked, and those that have exited (R286). -/
def Hank.arrivedAll (h : Hank) (threads : Nat) (b : Belay) : Bool :=
  h.strands.all (fun t => (List.range 32).all (fun l =>
    decide (threads ≤ 32 * t.index + l) || !t.live.getLsbD l || b.arrived.getLsbD (32 * t.index + l)))

/-- Some thread of the hank is still live. -/
def Hank.anyLive (h : Hank) : Bool := h.strands.any (fun t => t.live != 0)

/-- Complete the phases that every thread has arrived in (R287); the belays that advanced. -/
def Hank.settleBelays (h : Hank) (threads belays : Nat) : Hank × List Nat :=
  let done := if h.anyLive then (List.range belays).filter (fun k =>
      (Tbl.get {} h.belays k).arrived != 0 && h.arrivedAll threads (Tbl.get {} h.belays k)) else []
  (done.foldl (fun h k => { h with belays := Tbl.upd {} h.belays k (fun b => { phase := b.phase + 1 }) }) h, done)

/-- Phases complete and their waiters go on (R287, R288). -/
def State.settleBelays (s : State) (c : Ctx) : State :=
  match s.hankAt c.u c.slot with
  | none => s
  | some h =>
    let (h', done) := h.settleBelays c.l.desc.threads c.l.desc.belays
    if done.isEmpty then s
    else
      let woken := h'.strands.filter (fun t => match t.wait with | .belay b _ => done.contains b | _ => false)
      let h'' := { h' with progress := s.ucyc c.u, strands := h'.strands.map (fun t =>
        if woken.any (fun w => w.slot == t.slot) then { t.advance with wait := .ready } else t) }
      let s := s.onHank c (fun _ => h'')
      woken.foldl (fun s t => s.fetchAhead { c with slot := t.slot, t := t.advance } t.advance.pc) s

/-- An active witnessed tile is abandoned (R161). -/
def Witness.abandon (w : Witness) : Witness :=
  { w with active := none, shadow := [], captured := [], rows := [], skipped := satAdd 32 w.skipped 1 }

/-- The strand's slot owns the active tile. -/
def Witness.ownedBy (w : Witness) (slot : Nat) : Bool := match w.active with | some a => a.1 == slot | none => false

/-! ### The divergence stack (R245 to R247) -/

/-- Push an entry; none: a further spill block is needed (R247). -/
def Strand.push (t : Strand) (spillBlocks : Nat) (e : DivEntry) : Option Strand :=
  if t.stack.length < 32 then some { t with stack := e :: t.stack }
  else if t.spilled.length < spillBlocks then
    some { t with stack := e :: t.stack.take 16, spilled := t.stack.drop 16 :: t.spilled }
  else none

/-- Pop an entry, refilled from the most recently spilled block (R247). -/
def Strand.pop (t : Strand) : Option (DivEntry × Strand) :=
  match t.stack with
  | e :: r => some (e, { t with stack := r })
  | [] => match t.spilled with
    | (e :: r) :: q => some (e, { t with stack := r, spilled := q })
    | _ => none

/-- resume() of R246; none: the stack is empty. -/
def Strand.resume : Nat → Strand → Option Strand
  | 0, _ => none
  | fuel + 1, t =>
    match t.pop with
    | none => none
    | some (e, t) =>
      let t := { t with active := e.mask &&& t.live, pc := e.target }
      if t.active = 0 then Strand.resume fuel t else some t

/-- Entries of the divergence stack, one more. -/
def Strand.depth (t : Strand) : Nat := t.stack.length + 16 * t.spilled.length + 1

/-- DIV_DEPTH and DIV_UNDER (R246, R247). -/
def divDepth : Stop := .cause 0x10 0x03 0 0
/-- DIV_UNDER. -/
def divUnder : Stop := .cause 0x10 0x04 0 0

/-- An optional strand, or a cause. -/
def orStop (o : Option Strand) (e : Stop) : Except Stop Strand := match o with | some t => .ok t | none => .error e

/-- A control instruction: its encoding's fields, then its effect on the strand. -/
def ctl (u slot : Nat) (f : FmtB) (usesReg usesTarget : Bool) (regMax : Nat) (body : Ctx → Except Stop Strand) (s : State) :
    State :=
  s.issue u slot (fun c => do
    need (bLegal usesReg usesTarget false regMax f) illegal
    let t ← body c
    .ok (s.retire c t))

/-- NOP. -/
def execNop (u slot : Nat) (f : FmtB) (s : State) : Out State :=
  .next (ctl u slot f false false 64 (fun c => .ok c.t.advance) s)
/-- BRA: PC ← address + 8 × TARGET. -/
def execBra (u slot : Nat) (f : FmtB) (s : State) : Out State :=
  .next (ctl u slot f false true 64 (fun c => .ok { c.t with pc := branchTo c.t.pc f.target }) s)
/-- BRU: taken when u[REG] ≠ 0. -/
def execBru (u slot : Nat) (f : FmtB) (s : State) : Out State :=
  .next (ctl u slot f true true 64 (fun c =>
    .ok (if c.t.rdU f.reg ≠ 0 then { c.t with pc := branchTo c.t.pc f.target } else c.t.advance)) s)
/-- BRC: lanes with the mask set branch; both ways taken, the taken lanes wait (R246). -/
def execBrc (u slot : Nat) (f : FmtB) (s : State) : Out State :=
  .next (ctl u slot f true true 16 (fun c =>
    let p := c.t.rdP (f.reg % 8)
    let pm := if bit f.reg 3 then ~~~p else p
    let taken := c.t.active &&& pm
    let fall := c.t.active &&& ~~~pm
    let target := branchTo c.t.pc f.target
    if taken = 0 then .ok c.t.advance
    else if fall = 0 then .ok { c.t with pc := target }
    else do
      let t ← orStop (c.t.push c.l.desc.divSpill { pending := true, mask := taken, target := target }) divDepth
      .ok { t.advance with active := fall }) s)
/-- DIV.PUSH: a reconvergence entry for the active lanes (R246). -/
def execDivPush (u slot : Nat) (f : FmtB) (s : State) : Out State :=
  .next (ctl u slot f false true 64 (fun c => do
    let e : DivEntry := { pending := false, mask := c.t.active, target := branchTo c.t.pc f.target }
    let t ← orStop (c.t.push c.l.desc.divSpill e) divDepth
    .ok t.advance) s)
/-- RCV: resume (R246). -/
def execRcv (u slot : Nat) (f : FmtB) (s : State) : Out State :=
  .next (ctl u slot f false false 64 (fun c => orStop (c.t.resume c.t.depth) divUnder) s)
/-- CALL: u[REG] ← address + 8, PC ← target. -/
def execCall (u slot : Nat) (f : FmtB) (s : State) : Out State :=
  .next (ctl u slot f true true 64 (fun c =>
    .ok { (c.t.wrU f.reg c.t.advance.pc) with pc := branchTo c.t.pc f.target }) s)
/-- RET: to u[REG], which must be a multiple of 8 (R255). -/
def execRet (u slot : Nat) (f : FmtB) (s : State) : Out State :=
  .next (ctl u slot f true false 64 (fun c => do
    let a := c.t.rdU f.reg
    need (a % 8 == 0) (.cause 0x17 0x20 3 a)
    .ok { c.t with pc := a }) s)
/-- COLL.ENTER: with every lane live and active (R249). -/
def execCollEnter (u slot : Nat) (f : FmtB) (s : State) : Out State :=
  .next (ctl u slot f false false 64 (fun c => do
    need (c.t.active == BitVec.allOnes 32 && c.t.live == BitVec.allOnes 32) (.cause 0x13 0x10 0 0)
    need (decide (c.t.cd < 15)) (.cause 0x10 0x05 0 0)
    .ok { c.t.advance with cd := c.t.cd + 1 }) s)
/-- COLL.EXIT (R249). -/
def execCollExit (u slot : Nat) (f : FmtB) (s : State) : Out State :=
  .next (ctl u slot f false false 64 (fun c => do
    need (decide (0 < c.t.cd)) (.cause 0x13 0x12 0 0)
    .ok { c.t.advance with cd := c.t.cd - 1 }) s)

/-- The strand once lanes have exited: ended, on another path, or at the next instruction; none: no path is left (R246). -/
def Strand.leave (t : Strand) (e : W32) : Option Strand :=
  let t := { t with live := t.live &&& ~~~e, active := t.active &&& ~~~e }
  if t.live = 0 then some { t with wait := .ended }
  else if t.active = 0 then t.resume t.depth
  else some t.advance

/-- EXIT: the guarded lanes leave; the last one ends the strand, and a path left empty resumes another (R246, R251). -/
def execExit (u slot : Nat) (f : FmtB) (s : State) : Out State :=
  .next (s.issue u slot (fun c => do
    need (bLegal false false true 64 f) illegal
    let e := c.t.acting f.pg f.pn
    need (c.t.cd == 0 || e == 0) (.cause 0x13 0x13 0 0)
    let t ← orStop (c.t.leave e) divUnder
    let s := if t.wait.isEnded then s.setStrand c t else s.retire c t
    let s := s.onHank c (fun h =>
      { h with progress := if e = 0 then h.progress else s.ucyc c.u,
               wit := if t.wait.isEnded && h.wit.ownedBy slot then h.wit.abandon else h.wit })
    .ok (s.settleBelays c)))

end Sys2Proof.Machine
end

