-- ==== Sys2Proof/Machine/Tiles.lean ====
section
/-! DEFINITION. Tile registers, side-files and mask tiles of a hank: their rows and elements, what an instruction may name,
and the interlock with TMMAs that have not started (R142, R170, R177, R225, R250). -/

namespace Sys2Proof.Machine

open Sys2Proof

/-- Row r of a tile. -/
def Hank.tileRow (h : Hank) (t r : Nat) : BitVec 1024 := Tbl.get 0 h.tiles (32 * t + r)
/-- Write row r of a tile. -/
def Hank.setTileRow (h : Hank) (t r : Nat) (v : BitVec 1024) : Hank := { h with tiles := Tbl.set 0 h.tiles (32 * t + r) v }
/-- Row r of a side-file: 32 bytes. -/
def Hank.sideRow (h : Hank) (t r : Nat) : BitVec 256 := Tbl.get 0 h.sides (32 * t + r)
/-- Write row r of a side-file. -/
def Hank.setSideRow (h : Hank) (t r : Nat) (v : BitVec 256) : Hank := { h with sides := Tbl.set 0 h.sides (32 * t + r) v }
/-- Side-file byte k of row r. -/
def Hank.sideByte (h : Hank) (t r k : Nat) : Nat := ((h.sideRow t r).extractLsb' (8 * k) 8).toNat
/-- Row r of a mask tile: M0 is all ones (R177). -/
def Hank.maskRow (h : Hank) (m r : Nat) : BitVec 64 :=
  if m = 0 then BitVec.allOnes 64 else Tbl.get 0 h.masks (32 * m + r)
/-- Write row r of a mask tile other than M0. -/
def Hank.setMaskRow (h : Hank) (m r : Nat) (v : BitVec 64) : Hank :=
  if m = 0 then h else { h with masks := Tbl.set 0 h.masks (32 * m + r) v }

/-- Element j of a row of w-bit elements. -/
def rowElem (row : BitVec 1024) (w j : Nat) : Nat := (row.toNat / 2 ^ (w * j)) % 2 ^ w
/-- A row from its elements. -/
def rowOf' (w : Nat) (xs : List Nat) : BitVec 1024 := BitVec.ofNat 1024 (xs.foldr (fun x a => x % 2 ^ w + 2 ^ w * a) 0)

/-- Bytes of hank memory. -/
def Hank.hread (h : Hank) (a n : Nat) : List Byte := (List.range n).map (fun i => Tbl.get 0 h.hmem (a + i))
/-- Write bytes of hank memory. -/
def Hank.hwrite : Hank → Nat → List Byte → Hank
  | h, _, [] => h
  | h, a, b :: t => Hank.hwrite { h with hmem := Tbl.set 0 h.hmem a b } (a + 1) t

/-- A tile register, or a pair (R125). -/
def pairTiles (pair : Bool) (t : Nat) : List Nat := if pair then [t, t + 1] else [t]
/-- The elements of a TMMA operand: plain floating point, INT8, or a block-scaled format (R124). -/
inductive MmaElem where
  | fp (f : Fmt)
  | int8
  | blk (b : BlkFmt)
  deriving DecidableEq, Repr

/-- A TMMA format (R124): operand elements, K, accumulator, and the operands that lie in tile pairs (R125). -/
structure MmaFmt where
  a : MmaElem
  b : MmaElem
  k : Nat
  accFp64 : Bool := false
  accInt : Bool := false
  pairA : Bool := false
  pairB : Bool := false
  deriving DecidableEq, Repr

/-- The format codes of R124; none is a reserved code. -/
def mmaFmt : Nat → Option MmaFmt
  | 0x00 => some { a := .fp fp64, b := .fp fp64, k := 16, accFp64 := true }
  | 0x01 => some { a := .fp fp32, b := .fp fp32, k := 32 }
  | 0x02 => some { a := .fp bf16, b := .fp bf16, k := 64 }
  | 0x03 => some { a := .fp fp16, b := .fp fp16, k := 64 }
  | 0x04 => some { a := .fp e4m3, b := .fp e4m3, k := 128 }
  | 0x05 => some { a := .fp e4m3, b := .fp e5m2, k := 128 }
  | 0x06 => some { a := .fp e5m2, b := .fp e4m3, k := 128 }
  | 0x07 => some { a := .fp e5m2, b := .fp e5m2, k := 128 }
  | 0x08 => some { a := .blk (blkFmt 0), b := .blk (blkFmt 0), k := 128 }
  | 0x09 => some { a := .blk (blkFmt 0), b := .blk (blkFmt 1), k := 128 }
  | 0x0A => some { a := .blk (blkFmt 1), b := .blk (blkFmt 0), k := 128 }
  | 0x0B => some { a := .blk (blkFmt 1), b := .blk (blkFmt 1), k := 128 }
  | 0x0C => some { a := .blk (blkFmt 2), b := .blk (blkFmt 2), k := 128 }
  | 0x0D => some { a := .blk (blkFmt 2), b := .blk (blkFmt 3), k := 128 }
  | 0x0E => some { a := .blk (blkFmt 3), b := .blk (blkFmt 2), k := 128 }
  | 0x0F => some { a := .blk (blkFmt 3), b := .blk (blkFmt 3), k := 128 }
  | 0x10 => some { a := .blk (blkFmt 4), b := .blk (blkFmt 4), k := 256 }
  | 0x11 => some { a := .int8, b := .int8, k := 128, accInt := true }
  | 0x12 => some { a := .blk (blkFmt 5), b := .blk (blkFmt 5), k := 128 }
  | 0x13 => some { a := .blk (blkFmt 6), b := .blk (blkFmt 6), k := 512 }
  | 0x14 => some { a := .blk (blkFmt 6), b := .blk (blkFmt 4), k := 512, pairB := true }
  | 0x15 => some { a := .blk (blkFmt 4), b := .blk (blkFmt 6), k := 512, pairA := true }
  | _ => none

/-- Tiles a waiting TMMA writes and reads. -/
def Mma.acc (m : Mma) : List Nat := pairTiles ((mmaFmt m.fmt).any (·.accFp64)) m.tc
/-- Operand tiles. -/
def Mma.operands (m : Mma) : List Nat :=
  pairTiles ((mmaFmt m.fmt).any (·.pairA)) m.ta ++ pairTiles ((mmaFmt m.fmt).any (·.pairB)) m.tb

/-- A tile instruction of the hank must wait for a TMMA that has not started: it reads the accumulator, or writes one of
the TMMA's registers (R142). -/
def UnitSt.mmaBlocks (x : UnitSt) (h : Hank) (reads writes : List Nat) : Bool :=
  x.mmaQ.any (fun m => m.launch == h.launch && m.hank == h.index &&
    (reads.any (fun r => m.acc.contains r) || writes.any (fun r => m.acc.contains r || m.operands.contains r)))

/-- A write of a tile register by anything but the owner's TMMA abandons the active witnessed tile on it (R161). -/
def Hank.wroteTile (h : Hank) (t : Nat) : Hank :=
  match h.wit.active with
  | some (_, acc, _) => if acc = t then { h with wit := h.wit.abandon } else h
  | none => h

end Sys2Proof.Machine
end

