-- ==== Sys2Proof/Machine/UnitCopy.lean ====
section
/-! DEFINITION. What an asynchronous copy reads and writes, capture for witnessing, and what a reader of its destination sees
while it is in flight (R129, R144, R162, R266 to R278). -/

namespace Sys2Proof.Machine

open Sys2Proof

/-- A line with the unit's own stores that have not drained (R300). -/
def UnitSt.ownStores (x : UnitSt) (tag : Nat) (d : LineData) : LineData :=
  match x.wc.find? (fun e => e.addr == tag) with
  | some e => mergeLine d e.data e.mask
  | none => d

/-- Poison consumed by a strand ends its launch (R321). -/
def State.raisePoison (s : State) (c : Ctx) (k : Access) (va pa : Nat) : State :=
  (s.poisonUse 1 c.u (paLocal pa)).raise c 0x16 0 k.code va

/-- Read a PTE through a cluster's cache, as a device-scope coherent load (R331, R344). -/
def clusterReader (cl : Nat) (s : State) (a : Nat) : ReadBack Nat × State :=
  match s.lineAt a with
  | none => (.failed, s)
  | some l =>
    let s := s.obtain cl l false
    match s.agentData cl l with
    | some (_, true) => (.poisoned, s)
    | some (d, false) => (.ok (leNat (lineSlice d (a % 128) 8)), (s.modAgent cl (fun g => g.use l)).agentDone cl l)
    | none => (.failed, s)

/-! ### Reads on a strand's behalf -/

/-- The order of R725 among the causes met while an access is performed: those of R335, FEATURE, POISON. -/
def causeRank (status : Nat) : Nat := if status = 0x16 then 2 else if status = 0x10 then 1 else 0

/-- What one read of a copy comes to. -/
inductive VRead where
  | ok (bs : List Byte)
  | ends (status code va : Nat)
  | poisoned (va pa : Nat)
  /-- A remote line, a walk or a fill is still to come. -/
  | waits
  deriving DecidableEq, Repr

/-- A copy's translation of an address: it waits for a walk where no cache holds one (R270, R342). -/
def State.unitXlate (s : State) (c : Ctx) (k : Copy) (va : Nat) : Option Tlb × State :=
  match s.tlbLookup c.u (asAsid c.cmd.asroot) va with
  | (some t, s) => (some t, s)
  | (none, s) => (none, s.askWalk c.u c.slot va .copy k.pc)

/-- Read bytes that cross no line, through the cluster cache or from their home (R270). -/
def State.vreadSeg (s : State) (c : Ctx) (k : Copy) (va n : Nat) : VRead × State :=
  match s.unitXlate c k va with
  | (none, s) => (.waits, s)
  | (some t, s) =>
    match permCause t.flags .copy with
    | some cause => (.ends 0x17 cause va, s)
    | none =>
      let pa := t.pa va
      match s.route c pa with
      | .ends st cause => (.ends st cause va, s)
      | .remote peer =>
        match k.lines.find? (fun e => e.1 == lineOf pa) with
        | some (_, .ok d) => (.ok (lineSlice d (pa % 128) n), s)
        | some (_, .poisoned) => (.poisoned va (paLocal pa), s)
        | some _ => (.ends 0x17 0x25 va, s)
        | none =>
          let who : Requester := .copy c.u k.id
          let asked := s.hws.reqs.any (fun r => r.who == who && r.peer == peer && r.packet.addr == lineOf (paLocal pa))
          (.waits, if asked then s else s.remoteRequest who peer (rdPacket (paLocal pa)))
      | .here _ =>
        match s.l1Tag pa with
        | none => (.ends 0x17 0x25 va, s)
        | some tag =>
          let l := tag % 2 ^ 42
          let cl := clusterOf c.u
          if t.pbmt ≠ 0 then
            match s.cohRead cl l true with
            | (none, s) => (.waits, s)
            | (some (_, true), s) => (.poisoned va (paLocal pa), s)
            | (some (d, false), s) => (.ok (lineSlice ((s.unit c.u).ownStores tag d) (pa % 128) n), s)
          else
            let s := s.obtain cl l false
            match s.agentData cl l with
            | none => (.waits, s)
            | some (_, true) => (.poisoned va (paLocal pa), s)
            | some (d, false) =>
              (.ok (lineSlice ((s.unit c.u).ownStores tag d) (pa % 128) n), (s.modAgent cl (fun g => g.use l)).agentDone cl l)

/-- What two reads come to, the first at the lower addresses: nothing is settled while one waits; then the causes in the order of R725. -/
def VRead.both : VRead → VRead → VRead
  | .waits, _ => .waits
  | _, .waits => .waits
  | .ok a, .ok b => .ok (a ++ b)
  | .ok _, r => r
  | r, .ok _ => r
  | .ends a b v, .ends x y w => if causeRank x < causeRank a then .ends x y w else .ends a b v
  | .ends a b v, .poisoned _ _ => .ends a b v
  | .poisoned _ _, .ends x y w => .ends x y w
  | .poisoned a b, .poisoned _ _ => .poisoned a b

/-- Read a range in ascending address order. -/
def State.vread (s : State) (c : Ctx) (k : Copy) (va n : Nat) : VRead × State :=
  (segments va n).foldl (fun (acc : VRead × State) (g : Nat × Nat) =>
    match acc.2.vreadSeg c k (g.1 % 2 ^ 64) g.2 with
    | (r, s) => (acc.1.both r, s)) (.ok [], s)

/-! ### Quantization of rows (R129, R132, R199, R273) -/

/-- The i-th run of n entries of a list. -/
def chunk {α : Type} (n i : Nat) (l : List α) : List α := (l.drop (n * i)).take n

/-- Quantize successive blocks of codes: scale, element field and counts of each. -/
def quantRow (b : BlkFmt) (h rm : Nat) (bf : Bool) (codes : List Nat) : List (Nat × Nat) × RangeEv × Nat :=
  (List.range (codes.length / b.blockLen)).foldl (fun (acc : List (Nat × Nat) × RangeEv × Nat) i =>
    let (sc, es, ev, fl) := quantBlock b h rm bf (chunk b.blockLen i codes)
    (acc.1 ++ [(sc, packElems b.width es)], acc.2.1.add ev, acc.2.2 + fl)) ([], {}, 0)

/-- Put block fields from block number b0 into a row and its scales into a side-file row. -/
def putBlocks (b : BlkFmt) (b0 : Nat) (row : BitVec 1024) (side : BitVec 256) (blocks : List (Nat × Nat)) :
    BitVec 1024 × BitVec 256 :=
  let r := (blocks.zip (List.range blocks.length)).foldl (fun (acc : Nat × Nat) e =>
    (setBits acc.1 (8 * b.fieldBytes * (b0 + e.2)) (8 * b.fieldBytes) e.1.2, setBits acc.2 (8 * (b0 + e.2)) 8 e.1.1))
    (row.toNat, side.toNat)
  (BitVec.ofNat 1024 r.1, BitVec.ofNat 256 r.2)

/-- Element codes of n-bit elements in bytes. -/
def codesOf (n : Nat) (bs : List Byte) : List Nat := (List.range (8 * bs.length / n)).map (fun i => leNat (chunk (n / 8) i bs))

/-! ### A copy's effect -/

/-- Source elements in each row of ACPY.Q (R273). -/
def quantE (qf : Nat) : Nat := if qf = 4 then 256 else if qf = 6 then 512 else 128

/-- What a copy writes once its source is read. -/
structure CopyData where
  bytes : List Byte := []
  rows : List (BitVec 1024) := []
  sides : List (BitVec 256) := []
  /-- Source rows as BF16 codes, for capture (R162). -/
  bf16Rows : List (List Nat) := []
  range : RangeEv := {}
  flush : Nat := 0
  deriving DecidableEq, Repr

/-- Bytes in each source row, rows, and their distance (R266, R267). -/
def Copy.shape (k : Copy) : Nat × Nat × Nat :=
  match k.kind with
  | .h => (k.rowBytes, k.rows, k.stride)
  | .t => (128, 32, k.stride)
  | .sf => (1024, 1, 0)
  | .q => (quantE k.qf * (if k.bf then 2 else 4), 32, k.stride)

/-- What the copy writes, from its source bytes (R267, R273). -/
def Copy.data (k : Copy) (src : List Byte) : CopyData :=
  match k.kind with
  | .h => { bytes := src }
  | .t => { rows := (List.range 32).map (fun r => lineOfBytes (chunk 128 r src)) }
  | .sf => { sides := (List.range 32).map (fun r => BitVec.ofNat 256 (leNat (chunk 32 r src))) }
  | .q =>
    let b := blkFmt k.qf
    let w := if k.bf then 16 else 32
    let n := k.shape.1
    let codes := (List.range 32).map (fun r => codesOf w (chunk n r src))
    let qs := codes.map (fun cs => quantRow b k.h k.rm k.bf cs)
    let placed := qs.map (fun q => putBlocks b 0 0 0 q.1)
    { rows := placed.map (·.1), sides := placed.map (·.2),
      bf16Rows := codes.map (fun cs => if k.bf then cs else cs.map (fun c => (convert (.fp fp32) (.fp bf16) 0 false c).1)),
      range := qs.foldl (fun a q => a.add q.2.1) {}, flush := qs.foldl (fun a q => a + q.2.2) 0 }

/-- Read a copy's source, row by row in ascending row order. -/
def State.copyRead (s : State) (c : Ctx) (k : Copy) : (Except VRead CopyData) × State :=
  let (n, rows, stride) := k.shape
  let r := (List.range rows).foldl (fun (acc : VRead × State) i =>
    match acc.2.vread c k ((k.src + i * stride) % 2 ^ 64) n with
    | (r, s) => (acc.1.both r, s)) (.ok [], s)
  match r with
  | (.ok bs, s) => (.ok (k.data bs), s)
  | (e, s) => (.error e, s)

/-- Does the copy write this tile, its side-file aside? -/
def Copy.writesTile (k : Copy) (t : Nat) : Bool := (match k.kind with | .t | .q => true | _ => false) && k.dst == t
/-- Does it write this tile's side-file? -/
def Copy.writesSide (k : Copy) (t : Nat) : Bool := (match k.kind with | .sf | .q => true | _ => false) && k.dst == t
/-- Does it write this byte of hank memory? -/
def Copy.writesByte (k : Copy) (a : Nat) : Bool :=
  (match k.kind with | .h => true | _ => false) && decide (k.dst ≤ a) && decide (a < k.dst + k.rows * k.rowBytes)

/-- The copies of a hank that are in flight, in issue order. -/
def State.copiesOf (s : State) (c : Ctx) : List Copy :=
  (s.unit c.u).copies.filter (fun k => k.launch == c.hank.launch && k.hank == c.hank.index && !k.done)

/-- What a reader of tiles sees while copies into them are in flight: each row and each row's side-file bytes as before or
after the copy, a free choice row by row (R144, R215). A copy whose source cannot be read at that moment shows every row as before it
(DESIGN CHOICE, notes/assumptions/15.md). -/
def State.viewTiles (s : State) (c : Ctx) (ts : List Nat) : Hank × State :=
  ((s.copiesOf c).filter (fun k => ts.any (fun t => k.writesTile t || k.writesSide t))).foldl
    (fun (acc : Hank × State) k =>
      match acc.2.copyRead c k with
      | (.error _, s) => (acc.1, s)
      | (.ok d, s) => (List.range 32).foldl (fun (acc : Hank × State) r =>
          let (x, s) := acc.2.freeChoice
          let (y, s) := s.freeChoice
          let h := if x then (match d.rows[r]? with | some v => acc.1.setTileRow k.dst r v | none => acc.1) else acc.1
          let h := if y then (match d.sides[r]? with | some v => h.setSideRow k.dst r v | none => h) else h
          (h, s)) (acc.1, s))
    (c.hank, s)

/-- What a reader of hank memory sees: each aligned 16 bytes as before or after a copy in flight (R278), and as before a copy whose
source cannot be read at that moment (DESIGN CHOICE, notes/assumptions/15.md). -/
def State.viewHmem (s : State) (c : Ctx) (h : Hank) (a n : Nat) : Hank × State :=
  ((s.copiesOf c).filter (fun k => (List.range n).any (fun i => k.writesByte (a + i)))).foldl
    (fun (acc : Hank × State) k =>
      match acc.2.copyRead c k with
      | (.error _, s) => (acc.1, s)
      | (.ok d, s) => (List.range ((a % 16 + n + 15) / 16)).foldl (fun (acc : Hank × State) g =>
          let (x, s) := acc.2.freeChoice
          let base := a / 16 * 16 + 16 * g
          let bs := if k.writesByte base then (d.bytes.drop (base - k.dst)).take 16 else []
          (if x then acc.1.hwrite base bs else acc.1, s)) (acc.1, s))
    (h, s)

/-- An instruction writes bytes that copies in flight also write (R277). -/
def State.touchHmem (s : State) (c : Ctx) (a n : Nat) : State :=
  if (s.copiesOf c).any (fun k => (List.range n).any (fun i => k.writesByte (a + i))) then
    s.modUnit c.u (fun x => { x with copies := x.copies.map (fun k =>
      if k.launch == c.hank.launch && k.hank == c.hank.index && !k.done then
        { k with touched := k.touched ++ ((List.range n).map (a + ·)).filter k.writesByte } else k) })
  else s

/-- An instruction writes rows of a tile, or of its side-file, that copies in flight also write (R277). Side-file rows are
kept as 32 + row. -/
def State.touchTile (s : State) (c : Ctx) (t : Nat) (rows : List Nat) (side : Bool) : State :=
  if (s.copiesOf c).any (fun k => if side then k.writesSide t else k.writesTile t) then
    s.modUnit c.u (fun x => { x with copies := x.copies.map (fun k =>
      if k.launch == c.hank.launch && k.hank == c.hank.index && !k.done && (if side then k.writesSide t else k.writesTile t) then
        { k with touched := k.touched ++ rows.map (fun r => if side then 32 + r else r) } else k) })
  else s

end Sys2Proof.Machine
end

