-- ==== Sys2Proof/Machine/UnitMem.lean ====
section
/-! DEFINITION. Memory instructions of the units: loads, stores, atomics, fences and tile transfers, the L1, walks and the
write-combining drain (R242, R243, R299 to R317, R326 to R344). -/

namespace Sys2Proof.Machine

open Sys2Proof

/-! ### L1 (R310 to R314, R338, R339) -/

/-- A remote load of an address in the home's interleaved aperture bypasses L1 (R317). -/
def remoteAperture (pa : Nat) : Bool := decide (0x20000000000 ≤ paLocal pa) && decide (paLocal pa < 0x38000000000)

/-- Ways of an L1 set: 4 for each 64 KiB (R338). -/
def UnitSt.l1Ways (x : UnitSt) : Nat := 4 * x.l1Code
/-- Fill a line, replacing the least recently used of its set; an existing hank-local mark stays (R311, R339). -/
def UnitSt.l1Fill (x : UnitSt) (tag : Nat) (d : LineData) (hank : Option (Nat × Nat)) : UnitSt :=
  let mark := match x.l1Find tag with | some y => if y.hank.isSome then y.hank else hank | none => hank
  let rest := x.l1.filter (fun y => y.addr != tag)
  let inSet := rest.filter (fun y => bits y.addr 7 7 == bits tag 7 7)
  let rest := if inSet.length < x.l1Ways then rest
    else match inSet.getLast? with | some v => rest.filter (fun y => y.addr != v.addr) | none => rest
  { x with l1 := { addr := tag, data := d, hank := mark } :: rest }
/-- A store updates a present line, a hit of L1 that makes it the most recently used (R310, R339). -/
def UnitSt.l1Store (x : UnitSt) (tag : Nat) (d : LineData) (m : BitVec 128) : UnitSt :=
  UnitSt.l1Touch { x with l1 := x.l1.map (fun y => if y.addr == tag then { y with data := mergeLine y.data d m } else y) } tag

/-! ### A memory instruction in flight -/

/-- The access kind of a memory instruction (R336). -/
def MemKind.access : MemKind → Access
  | .ld | .uld | .tld | .tldSf | .fence => .load
  | .st | .tst | .tstSf => .store
  | .atom => .atomic

/-- Does it read memory into registers? -/
def MemKind.loads : MemKind → Bool
  | .ld | .uld | .tld | .tldSf => true
  | _ => false

/-- The scope it has: no access to hank memory reaches beyond its hank (R305). -/
def MemOp.reach (o : MemOp) : Nat := if o.hmem && o.kind != .fence then min o.scope 1 else o.scope
/-- The load bypasses L1: an acquire at device or system scope (R312). -/
def MemOp.bypassL1 (o : MemOp) : Bool := bit o.ord 0 && decide (2 ≤ o.reach)
/-- The hank-local mark its fills take (R311). -/
def MemOp.mark (o : MemOp) (h : Hank) : Option (Nat × Nat) :=
  match o.kind with
  | .ld | .uld => if o.scope < 2 then some (h.launch, h.index) else none
  | _ => none

/-- Replace the n-th piece. -/
def MemOp.setPiece (o : MemOp) (n : Nat) (p : Piece) : MemOp := { o with pieces := o.pieces.set n p }

/-- The strand waits with its memory instruction. -/
def State.memWait (s : State) (c : Ctx) (o : MemOp) : State := s.setStrand c { c.t with wait := .mem o }

/-- How a part of a memory instruction went on. -/
inductive Going (α : Type) where
  | ok (s : State) (x : α)
  /-- It waits: the state with what has been asked for. -/
  | waits (s : State) (x : α)
  /-- The launch has ended. -/
  | ended (s : State)

/-- Put a piece's number into a list in ascending address order, after those of its own address. -/
def MemOp.insertPiece (o : MemOp) (n : Nat) : List Nat → List Nat
  | [] => [n]
  | m :: rest =>
    let va (i : Nat) : Nat := ((o.pieces[i]?).map (·.va)).getD 0
    if va m ≤ va n then m :: MemOp.insertPiece o n rest else n :: m :: rest
/-- The pieces' numbers in ascending address order. -/
def MemOp.byAddress (o : MemOp) : List Nat := (List.range o.pieces.length).foldl (fun l n => o.insertPiece n l) []

/-- The piece whose cause the instruction ends with, and the cause: the first by R725, and among equals by address (R336). -/
def MemOp.worst (o : MemOp) : Option (Piece × Nat × Nat) :=
  o.byAddress.foldl (fun m n => match o.pieces[n]? with
    | some p => (match p.fail with
      | some f => if m.all (fun b => decide (causeRank f.1 < causeRank b.2.1)) then some (p, f) else m
      | none => m)
    | none => m) none
/-- A piece is over: performed, or found not to be. -/
def Piece.over (p : Piece) : Bool := p.got.isSome || p.fail.isSome

/-- An outstanding read of another package at a lower address may still be refused, and then gives the instruction's cause (R336). -/
def State.mayRefuse (s : State) (o : MemOp) (va : Nat) : Bool :=
  o.kind.loads && o.pieces.any (fun q => decide (q.va < va) && !q.over
    && q.pa.any (fun pa => match locality s.hws.indexValid s.hws.index pa with | .remote _ => true | _ => false))

/-- Translate the pieces in ascending address order; the first miss asks for a walk, the first fault ends the launch (R336, R337). A
remote access without its feature is found once no piece faults (R725). -/
def translatePieces (c : Ctx) (k : Access) : List Nat → MemOp → State → Going MemOp
  | [], o, s => .ok s o
  | n :: rest, o, s =>
    match o.pieces[n]? with
    | none => translatePieces c k rest o s
    | some p =>
      if p.pa.isSome || p.fail.isSome then translatePieces c k rest o s
      else
        let bad (s : State) (st cause : Nat) : Going MemOp :=
          if s.mayRefuse o p.va then .ok s (o.setPiece n { p with fail := some (st, cause) })
          else .ended (s.raise c st cause k.code p.va)
        match s.tlbLookup c.u (asAsid c.cmd.asroot) p.va with
        | (none, s) => .waits (s.askWalk c.u c.slot p.va k) o
        | (some t, s) =>
          match permCause t.flags k with
          | some cause => bad s 0x17 cause
          | none => match s.route c (t.pa p.va) with
            | .ends st cause =>
              if st = 0x10 then translatePieces c k rest (o.setPiece n { p with fail := some (st, cause) }) s else bad s st cause
            | _ => translatePieces c k rest (o.setPiece n { p with pa := some (t.pa p.va), pbmt := t.pbmt }) s

/-- One piece of a load (R310 to R312, R317, R329). -/
def State.loadPiece (s : State) (c : Ctx) (o : MemOp) (p : Piece) : Going Piece :=
  match p.pa with
  | none => .waits s p
  | some pa =>
    match s.l1Tag pa with
    | none => .waits s p
    | some tag =>
      let x := s.unit c.u
      match s.route c pa with
      | .remote peer =>
        match if o.bypassL1 || p.pbmt != 0 || remoteAperture pa then none else x.l1Find tag with
        | some y => .ok (s.modUnit c.u (fun x => x.l1Touch tag)) { p with got := some (lineSlice y.data (pa % 128) p.len) }
        | none =>
          let asked := s.hws.reqs.any (fun r => r.who == .unit c.u c.slot && r.peer == peer && r.packet.addr == lineOf (paLocal pa))
          .waits (if asked then s else s.remoteRequest (.unit c.u c.slot) peer (rdPacket (paLocal pa))) p
      | _ =>
        let l := tag % 2 ^ 42
        if p.pbmt ≠ 0 then
          match s.cohRead (clusterOf c.u) l true with
          | (none, s) => .waits s p
          | (some (_, true), s) => .ok (s.poisonUse 1 c.u (paLocal pa)) { p with fail := some (0x16, 0) }
          | (some (d, false), s) => .ok s { p with got := some (lineSlice (x.ownStores tag d) (pa % 128) p.len) }
        else
          match if o.bypassL1 then none else x.l1Find tag with
          | some y => .ok (s.modUnit c.u (fun x => x.l1Touch tag)) { p with got := some (lineSlice y.data (pa % 128) p.len) }
          | none =>
            let s := s.modUnit c.u (fun x => { x with misses := if x.misses.contains tag then x.misses else x.misses ++ [tag] })
            .waits (s.agentMiss (clusterOf c.u) l false) p

/-- One piece of a store (R310, R317, R329, R340). A store to a page of type NC or IO goes to its home past the write-combining
buffers, after the unit's own earlier store to the line (R300); one to a remote page of type IO is over once it is acknowledged, so
that the strand's next access to such a page comes after it (R329). -/
def State.storePiece (s : State) (c : Ctx) (p : Piece) : Going Piece :=
  match p.pa with
  | none => .waits s p
  | some pa =>
    match s.l1Tag pa with
    | none => .waits s p
    | some tag =>
      let d := linePlace (pa % 128) p.bytes
      let m := byteMask (pa % 128) p.len
      let done : Piece := { p with got := some [] }
      let site : StoreSite := { va := p.va, slot := c.slot, pc := c.t.pc }
      if p.pbmt = 0 then combine tag d m done site
      else match s.drainLine c.u tag with
        | none => .waits s p
        | some s =>
          let s := s.modUnit c.u (fun x => x.l1Store tag d m)
          match s.route c pa with
          | .remote peer =>
            let k := wrPacket (paLocal pa) d m
            let s := s.markStale c.u (fun r => r.peer == peer && r.packet.addr == k.addr && r.packet.ty == 0x01)
            if p.pbmt = 1 then
              let s := s.modUnit c.u (fun x => { x with remoteStores := x.remoteStores + 1 })
              .ok (s.remoteRequest (.unitStore c.u c.cmd.id) peer k site) done
            else if s.hws.reqs.any (fun r => r.who == .unit c.u c.slot) then .waits s p
            else .waits (s.remoteRequest (.unit c.u c.slot) peer k site) p
          | _ => match s.cohPut (clusterOf c.u) (tag % 2 ^ 42) d m true with
            | some s => .ok s done
            | none => .waits s p
where
  /-- Into a write-combining entry of the launch's own; with all 32 in use the store waits until the oldest drains. -/
  combine (tag : Nat) (d : LineData) (m : BitVec 128) (done : Piece) (site : StoreSite) : Going Piece :=
    let put (s : State) : State := s.modUnit c.u (fun x =>
      let x := x.l1Store tag d m
      match x.wc.find? (fun e => e.addr == tag) with
      | some e =>
        let e' : WcEntry := { e with data := mergeLine e.data d m, mask := e.mask ||| m,
                                     site := if site.va < e.site.va then site else e.site }
        { x with wc := x.wc.map (fun y => if y.addr == tag then e' else y) }
      | none => { x with wc := x.wc ++ [{ addr := tag, data := d, mask := m, launch := c.cmd.id, site := site }] })
    let foreign := (s.unit c.u).wc.any (fun e => e.addr == tag && e.launch != c.cmd.id)
    match if foreign then s.drainLine c.u tag else some s with
    | none => .waits s { done with got := none }
    | some s =>
      let x := s.unit c.u
      if x.wc.any (fun e => e.addr == tag) || decide (x.wc.length < 32) then .ok (put s) done
      else match x.wc.head? with
        | none => .waits s { done with got := none }
        | some e =>
          let s := s.drainEntry c.u e
          if (s.unit c.u).wc.length < 32 then .ok (put s) done else .waits s { done with got := none }

/-- An atomic has been performed at a home: the unit's L1 copy takes what it wrote, and reads of the line in flight fill no L1, for
they may be older (R298). -/
def State.atomicSeen (s : State) (u tag pa : Nat) (o : MemOp) (p : Piece) (old : Nat) : State :=
  let s := s.markStale u (fun r => r.peer * 2 ^ 42 + r.packet.addr == lineOf pa && r.packet.ty == 0x01)
  match atomicOp (8 * p.len) o.op old (leNat (p.bytes.take p.len)) (leNat ((p.bytes.drop p.len).take p.len)) with
  | some v => s.modUnit u (fun x => x.l1Store tag (linePlace (pa % 128) (leBytes p.len v)) (byteMask (pa % 128) p.len))
  | none => s

/-- One piece of an atomic on global memory, at its point of coherence, after the unit's own earlier store to the line (R300, R306). -/
def State.atomPiece (s : State) (c : Ctx) (o : MemOp) (p : Piece) : Going Piece :=
  match p.pa with
  | none => .waits s p
  | some pa =>
    match s.l1Tag pa with
    | none => .waits s p
    | some tag =>
      let src := leNat (p.bytes.take p.len)
      let cmp := leNat ((p.bytes.drop p.len).take p.len)
      match s.drainLine c.u tag with
      | none => .waits s p
      | some s =>
        match s.route c pa with
        | .remote peer =>
          let asked := s.hws.reqs.any (fun r => r.who == .unit c.u c.slot)
          .waits (if asked then s else s.remoteRequest (.unit c.u c.slot) peer (atPacket (paLocal pa) o.op p.len src cmp)) p
        | _ =>
          let l := tag % 2 ^ 42
          let a := clusterOf c.u
          if p.pbmt ≠ 0 then
            match s.cohAtomic a l (pa % 128) p.len o.op src cmp true with
            | (none, s) => .waits s p
            | (some (_, true), s) => .ended (s.raisePoison c .atomic p.va pa)
            | (some (old, false), s) => .ok (s.atomicSeen c.u tag pa o p old) { p with got := some (leBytes p.len old) }
          else
            match (s.agent a).find l with
            | some x =>
              if x.st = .M ∨ x.st = .E then
                if x.poison then .ended ((s.agentDone a l).raisePoison c .atomic p.va pa)
                else
                  let (old, new) := lineAtomic x.data (pa % 128) p.len o.op src cmp
                  let s := match new with
                    | some d => (s.agentWrite a l d false).modUnit c.u (fun x => x.l1Store tag d (byteMask (pa % 128) p.len))
                    | none => (s.modAgent a (fun g => g.use l)).agentDone a l
                  .ok s { p with got := some (leBytes p.len old) }
              else .waits (s.agentMiss a l true) p
            | none => .waits (s.agentMiss a l true) p

/-- One piece in hank memory (R308): the piece, and the bytes it writes; none: it writes nothing (R309). -/
def Hank.piece (h : Hank) (o : MemOp) (p : Piece) : Piece × Option (List Byte) :=
  match o.kind with
  | .st | .tst | .tstSf => ({ p with got := some [] }, some p.bytes)
  | .atom =>
    let old := leNat (h.hread p.va p.len)
    let new := atomicOp (8 * p.len) o.op old (leNat (p.bytes.take p.len)) (leNat ((p.bytes.drop p.len).take p.len))
    ({ p with got := some (leBytes p.len old) }, new.map (fun v => leBytes p.len v))
  | _ => ({ p with got := some (h.hread p.va p.len) }, none)

/-- Perform the pieces in order: loads each on its own; a store, an atomic, or an access to a page of type IO only after those before
it (R243, R329). -/
def performPieces (c : Ctx) : List Nat → MemOp → State → Bool → Going MemOp
  | [], o, s, wait => if wait then .waits s o else .ok s o
  | n :: rest, o, s, wait =>
    match o.pieces[n]? with
    | none => performPieces c rest o s wait
    | some p =>
      if p.over then performPieces c rest o s wait
      else if o.hmem then
        match s.hankAt c.u c.slot with
        | none => .ended s
        | some h =>
          let (hv, s) := if o.kind.loads then s.viewHmem c h p.va p.len else (h, s)
          let (p', w) := hv.piece o p
          let s := match w with
            | some bs => (s.onHank c (fun _ => h.hwrite p.va bs)).touchHmem c p.va p.len
            | none => s
          performPieces c rest (o.setPiece n p') s wait
      else
        let r := if o.kind.loads then s.loadPiece c o p
          else if o.kind = .atom then s.atomPiece c o p else s.storePiece c p
        match r with
        | .ok s p' => performPieces c rest (o.setPiece n p') s wait
        | .ended s => .ended s
        | .waits s _ => if o.kind.loads && p.pbmt != 2 then performPieces c rest o s true else .waits s o

/-- The bytes read for a lane or row, in address order. -/
def MemOp.laneBytes (o : MemOp) (lane : Nat) : List Byte :=
  (o.pieces.filter (fun p => p.lane == lane)).flatMap (fun p => p.got.getD [])

/-- Lanes of a memory instruction, without repeats, in order. -/
def MemOp.lanes (o : MemOp) : List Nat := (o.pieces.map (·.lane)).eraseDups

/-- Registers written when a memory instruction completes (R234, R242). -/
def MemOp.writeback (o : MemOp) (t : Strand) (h : Hank) : Strand × Hank :=
  let ext (w : Nat) (bs : List Byte) : Nat := if o.sign && decide (bs.length < 4) then ofS w (toS (8 * bs.length) (leNat bs)) else leNat bs
  match o.kind with
  | .ld =>
    (o.lanes.foldl (fun t l =>
      let bs := o.laneBytes l
      if bs.length ≤ 4 then t.wrW l o.dst (ext 32 bs)
      else if bs.length = 8 then t.wrWX true l o.dst (leNat bs)
      else (t.wrWX true l o.dst (leNat (bs.take 8))).wrWX true l (o.dst + 2) (leNat (bs.drop 8))) t, h)
  | .atom => (o.lanes.foldl (fun t l => let bs := o.laneBytes l; t.wrWX (bs.length == 8) l o.dst (leNat bs)) t, h)
  | .uld => (t.wrU o.dst (ext 64 (o.laneBytes 0)), h)
  | .tld =>
    (t, ((List.range 32).foldl (fun h r => h.setTileRow o.dst r (lineOfBytes (o.laneBytes r))) h).wroteTile o.dst)
  | .tldSf =>
    let bs := o.laneBytes 0
    (t, (List.range 32).foldl (fun h r => h.setSideRow o.dst r (BitVec.ofNat 256 (leNat ((bs.drop (32 * r)).take 32)))) h)
  | _ => (t, h)

/-- A memory instruction completes: registers, then its acquire, then the next instruction (R301, R313). -/
def State.memFinish (s : State) (c : Ctx) (o : MemOp) : State :=
  match s.hankAt c.u c.slot with
  | none => s
  | some h =>
    let (t, h') := o.writeback c.t h
    let s := s.onHank c (fun _ => h')
    let s := match o.kind with
      | .tld => s.touchTile c o.dst (List.range 32) false
      | .tldSf => s.touchTile c o.dst (List.range 32) true
      | _ => s
    let s := if bit o.ord 0 && decide (2 ≤ o.reach) then s.l1Acquire c.u else s
    s.retire c { t.advance with wait := .ready }

/-- Remote stores of the package's units that are not acknowledged, by tag. -/
def State.storesOut (s : State) : List Nat :=
  (s.hws.reqs.filter (fun r => match r.who with | .unitStore _ _ => true | _ => false)).map (·.tag)

/-- A release begins, or goes on: the unit drains; once it has, a system-scope release takes note of every remote store of the
package that may happen before it (R303, R313). -/
def State.releasing (s : State) (c : Ctx) (o : MemOp) : MemOp × State :=
  let s := s.drainWc c.u
  (if (s.unit c.u).wc.isEmpty && decide (3 ≤ o.reach) && o.await.isNone then { o with await := some s.storesOut } else o, s)

/-- What a release waits for is over (R313). -/
def State.releaseOver (s : State) (c : Ctx) (o : MemOp) : Bool :=
  (s.unit c.u).wc.isEmpty && (decide (o.reach < 3)
    || ((s.unit c.u).remoteStores == 0 && (o.await.getD []).all (fun t => !s.storesOut.contains t)))

/-- The order in which a memory instruction's pieces are performed: an ATOM's by address and, for one address, by lane (R243, R336). -/
def MemOp.order (o : MemOp) : List Nat := if o.kind = .atom then o.byAddress else List.range o.pieces.length

/-- Carry a strand's memory instruction as far as it can go now: release, translation, accesses, completion (R301, R313). -/
def State.memGo (s : State) (c : Ctx) (o : MemOp) : State :=
  let rel := bit o.ord 1 && !o.released
  let (o, s) := if rel then s.releasing c o else (o, s)
  if rel && !s.releaseOver c o then s.memWait c o
  else
    let o := { o with released := true }
    let tr := if o.hmem then .ok s o else translatePieces c o.kind.access o.byAddress o s
    match tr with
    | .ended s => s
    | .waits s o => s.memWait c o
    | .ok s o =>
      match if o.kind.loads then none else o.worst with
      | some (p, st, cause) => s.raise c st cause o.kind.access.code p.va
      | none =>
        if o.pieces.any (fun p => p.fail.any (fun f => f.1 == 0x10)) then match o.worst with
          | some (p, st, cause) => s.raise c st cause o.kind.access.code p.va
          | none => s
        else match performPieces c o.order o s false with
          | .ended s => s
          | .waits s o => s.memWait c o
          | .ok s o => match o.worst with
            | some (p, st, cause) => s.raise c st cause o.kind.access.code p.va
            | none => s.memFinish c o

/-- Go on with a strand's memory instruction. -/
def State.memResume (s : State) (u slot : Nat) : State :=
  match s.ctxAny u slot with
  | some c => match c.t.wait with
    | .mem o => s.memGo c o
    | _ => s
  | none => s

/-- Strand slots of a unit whose memory instruction is outstanding, ascending. -/
def State.memSlots (s : State) (u : Nat) : List Nat :=
  (List.range 32).filter (fun k => match s.strandAt u k with
    | some t => (match t.wait with | .mem _ => true | _ => false)
    | none => false)
/-- Go on with every outstanding memory instruction of a unit. -/
def State.pumpUnit (s : State) (u : Nat) : State := (s.memSlots u).foldl (fun s k => s.memResume u k) s
/-- Go on with those of a cluster's units. -/
def State.pumpCluster (s : State) (cl : Nat) : State := (unitsOfCluster cl).foldl (fun s u => s.pumpUnit u) s

/-! ### Issue -/

/-- Lines and rows: split an access into pieces that cross no line. -/
def piecesOf (lane va n : Nat) (bytes : List Byte) : List Piece :=
  (segments va n).map (fun g => { lane := lane, va := g.1 % 2 ^ 64, len := g.2, bytes := (bytes.drop (g.1 - va)).take g.2 })

/-- The first address, in ascending order, that breaks a rule. -/
def firstBad (bad : Nat → Bool) (as : List Nat) : Option Nat := (as.filter bad).foldl (fun m a => some (m.elim a (min a))) none

/-- Alignment and hank-range checks of R242 over addresses of n bytes each. -/
def addrCheck (align n : Nat) (hmem : Bool) (limit : Nat) (k : Access) (as : List Nat) : Except Stop Unit :=
  match firstBad (fun a => a % align != 0) as with
  | some a => .error (.cause 0x17 0x20 k.code a)
  | none => match if hmem then firstBad (fun a => decide (limit < a + n)) as else none with
    | some a => .error (.cause 0x17 0x21 k.code a)
    | none => .ok ()

/-- Issue a memory instruction that has passed its checks. -/
def State.memStart (s : State) (c : Ctx) (o : MemOp) : State := s.memGo c o

/-- Bytes named by a SIZE code (R230). -/
def sizeBytes (k : Nat) : Nat := 2 ^ k

/-- The address of a lane (R242). -/
def mAddress (f : FmtM) (t : Strand) (off : Int) (lane : Nat) : Nat :=
  let base := if f.baseU then t.rdU f.base else t.rdWX true lane f.base
  let a := ofS 64 ((base : Int) + off)
  if f.space then a % 2 ^ 32 else a

/-- Checks of a format M access common to LD, ST, ATOM and ULD (R223, R230, R235). -/
def mHead (uniform : Bool) (f : FmtM) : Bool :=
  headOk uniform f.pg f.pn && decide (f.size < 5) && (if f.baseU then decide (f.base < 64) else f.base % 2 == 0)
/-- The base pair lies within the allocation. -/
def mBaseFits (f : FmtM) (regs : Nat) : Bool := f.baseU || decide (f.base + 1 < regs)
/-- Registers that a SIZE takes. -/
def sizeRegs (k : Nat) : Nat := if k ≤ 2 then 1 else if k = 3 then 2 else 4

/-- LD and ST of the acting lanes. -/
def ldst (store : Bool) (u slot : Nat) (f : FmtM) (s : State) : State :=
  s.issue u slot (fun c => do
    need (mHead false f && f.data % sizeRegs f.size == 0 && (if store then f.ord == 0 || f.ord == 2 else decide (f.ord < 2))) illegal
    need (mBaseFits f c.l.desc.regs && decide (f.data + sizeRegs f.size ≤ c.l.desc.regs)) resource
    let n := sizeBytes f.size
    let ls := lanesOf (c.t.acting f.pg f.pn)
    let addr := mAddress f c.t f.off.toInt
    addrCheck n n f.space (1024 * c.l.desc.hmem) (if store then .store else .load) (ls.map addr)
    let data (l : Nat) : List Byte := if !store then [] else
      ((List.range (sizeRegs f.size)).flatMap (fun i => leBytes 4 (c.t.rdW l (f.data + i)))).take n
    let o : MemOp :=
      { kind := if store then .st else .ld, ord := f.ord, scope := f.scope, dst := f.data, sign := f.sign, hmem := f.space,
        pieces := ls.flatMap (fun l => piecesOf l (addr l) n (data l)) }
    .ok (s.memStart c o))

/-- LD. -/
def execLd (u slot : Nat) (f : FmtM) (s : State) : Out State := .next (ldst false u slot f s)
/-- ST. -/
def execSt (u slot : Nat) (f : FmtM) (s : State) : Out State := .next (ldst true u slot f s)

/-- ULD: one load for the strand; BASE_U = 1, SPACE = 0, SIZE 0 to 3 (R234). -/
def execUld (u slot : Nat) (f : FmtM) (s : State) : Out State :=
  .next (s.issue u slot (fun c => do
    need (mHead true f && f.baseU && !f.space && decide (f.size < 4) && decide (f.data < 64) && decide (f.ord < 2)) illegal
    let n := sizeBytes f.size
    let a := mAddress f c.t f.off.toInt 0
    addrCheck n n false 0 .load [a]
    let o : MemOp := { kind := .uld, ord := f.ord, scope := f.scope, dst := f.data, sign := f.sign, pieces := piecesOf 0 a n [] }
    .ok (s.memStart c o)))

/-- ATOM: lanes in ascending order; OFF holds the SRC and CMP registers (R230, R243, R309). CMP of an operation other than CAS and
SIGN are ignored, as SIGN is in ST and in a load of 4 bytes or more (DESIGN CHOICE, notes/assumptions/13.md). -/
def atom (op : Nat) (u slot : Nat) (f : FmtM) (s : State) : State :=
  s.issue u slot (fun c => do
    let srcR := f.off.toNat % 256
    let cmpR := f.off.toNat / 256 % 256
    let cas := op == 0x11
    let wide := f.size == 3
    need (mHead false f && f.off.toNat / 65536 == 0 && (f.size == 2 || (wide && op != 0x12)) && decide (f.ord < 4)
      && (!wide || (f.data % 2 == 0 && srcR % 2 == 0 && (!cas || cmpR % 2 == 0)))) illegal
    let r := c.l.desc.regs
    need (mBaseFits f r && decide (f.data + b2n wide < r) && decide (srcR + b2n wide < r)
      && (!cas || decide (cmpR + b2n wide < r))) resource
    let n := sizeBytes f.size
    let ls := lanesOf (c.t.acting f.pg f.pn)
    let addr := mAddress f c.t 0
    addrCheck n n f.space (1024 * c.l.desc.hmem) .atomic (ls.map addr)
    let o : MemOp :=
      { kind := .atom, ord := f.ord, scope := f.scope, op := op, dst := f.data, hmem := f.space,
        pieces := ls.map (fun l => { lane := l, va := addr l, len := n,
                                     bytes := leBytes n (c.t.rdWX wide l srcR) ++ leBytes n (c.t.rdWX wide l cmpR) }) }
    .ok (s.memStart c o))

/-- ATOM.ADD. -/
def execAtomAdd (u slot : Nat) (f : FmtM) (s : State) : Out State := .next (atom 0x08 u slot f s)
/-- ATOM.SMIN. -/
def execAtomSmin (u slot : Nat) (f : FmtM) (s : State) : Out State := .next (atom 0x09 u slot f s)
/-- ATOM.SMAX. -/
def execAtomSmax (u slot : Nat) (f : FmtM) (s : State) : Out State := .next (atom 0x0A u slot f s)
/-- ATOM.UMIN. -/
def execAtomUmin (u slot : Nat) (f : FmtM) (s : State) : Out State := .next (atom 0x0B u slot f s)
/-- ATOM.UMAX. -/
def execAtomUmax (u slot : Nat) (f : FmtM) (s : State) : Out State := .next (atom 0x0C u slot f s)
/-- ATOM.AND. -/
def execAtomAnd (u slot : Nat) (f : FmtM) (s : State) : Out State := .next (atom 0x0D u slot f s)
/-- ATOM.OR. -/
def execAtomOr (u slot : Nat) (f : FmtM) (s : State) : Out State := .next (atom 0x0E u slot f s)
/-- ATOM.XOR. -/
def execAtomXor (u slot : Nat) (f : FmtM) (s : State) : Out State := .next (atom 0x0F u slot f s)
/-- ATOM.EXCH. -/
def execAtomExch (u slot : Nat) (f : FmtM) (s : State) : Out State := .next (atom 0x10 u slot f s)
/-- ATOM.CAS: writes only where the old value equals CMP. -/
def execAtomCas (u slot : Nat) (f : FmtM) (s : State) : Out State := .next (atom 0x11 u slot f s)
/-- ATOM.FADD: FP32, one rounding by RNE (R307). -/
def execAtomFadd (u slot : Nat) (f : FmtM) (s : State) : Out State := .next (atom 0x12 u slot f s)

/-- FENCE: a uniform instruction that orders every live lane's accesses (R302, R304, R313). -/
def fence (ord : Nat) (u slot : Nat) (f : FmtM) (s : State) : State :=
  s.issue u slot (fun c => do
    need (headOk true f.pg f.pn && f.ord == 0 && f.data == 0 && f.base == 0 && f.size == 0 && !f.sign && !f.space && f.off == 0)
      illegal
    .ok (s.memStart c { kind := .fence, ord := ord, scope := f.scope, hmem := true }))

/-- FENCE.ACQ. -/
def execFenceAcq (u slot : Nat) (f : FmtM) (s : State) : Out State := .next (fence 1 u slot f s)
/-- FENCE.REL. -/
def execFenceRel (u slot : Nat) (f : FmtM) (s : State) : Out State := .next (fence 2 u slot f s)
/-- FENCE.AR. -/
def execFenceAr (u slot : Nat) (f : FmtM) (s : State) : Out State := .next (fence 3 u slot f s)

/-! ### Tile transfers (R233, R242) -/

/-- TLD and TST: 32 rows of 128 bytes at u[U] + r × u[SUB]. -/
def tileRows (store : Bool) (u slot : Nat) (f : FmtT) (s : State) : State :=
  s.issue u slot (fun c => do
    need (({ x := true, u := true, sub := 6, mode := 1 } : ShapeT).legal f) illegal
    need (decide (f.x < c.l.desc.tiles)) resource
    collCheck c.t
    if (s.unit u).mmaBlocks c.hank (if store then [f.x] else []) (if store then [] else [f.x]) then .error .notDue
    else do
      let hmem := bit f.mode 0
      let row (r : Nat) : Nat := (c.t.rdU f.u + r * c.t.rdU f.sub) % 2 ^ (if hmem then 32 else 64)
      addrCheck 16 128 hmem (1024 * c.l.desc.hmem) (if store then .store else .load) ((List.range 32).map row)
      let (hv, s) := if store then s.viewTiles c [f.x] else (c.hank, s)
      let data (r : Nat) : List Byte := if store then lineBytes (hv.tileRow f.x r) else []
      let o : MemOp := { kind := if store then .tst else .tld, scope := 2, dst := f.x, hmem := hmem,
                         pieces := (List.range 32).flatMap (fun r => piecesOf r (row r) 128 (data r)) }
      .ok (s.memStart c o))

/-- TLD. -/
def execTld (u slot : Nat) (f : FmtT) (s : State) : Out State := .next (tileRows false u slot f s)
/-- TST. -/
def execTst (u slot : Nat) (f : FmtT) (s : State) : Out State := .next (tileRows true u slot f s)

/-- TLD.SF and TST.SF: 1,024 contiguous bytes at u[U]. -/
def sideFile (store : Bool) (u slot : Nat) (f : FmtT) (s : State) : State :=
  s.issue u slot (fun c => do
    need (({ x := true, u := true, mode := 1 } : ShapeT).legal f) illegal
    need (decide (f.x < c.l.desc.tiles)) resource
    collCheck c.t
    if (s.unit u).mmaBlocks c.hank [] (if store then [] else [f.x]) then .error .notDue
    else do
      let hmem := bit f.mode 0
      let a := c.t.rdU f.u % 2 ^ (if hmem then 32 else 64)
      addrCheck 16 1024 hmem (1024 * c.l.desc.hmem) (if store then .store else .load) [a]
      let (hv, s) := if store then s.viewTiles c [f.x] else (c.hank, s)
      let data : List Byte := if store then (List.range 32).flatMap (fun r => leBytes 32 (hv.sideRow f.x r).toNat) else []
      let o : MemOp := { kind := if store then .tstSf else .tldSf, scope := 2, dst := f.x, hmem := hmem,
                         pieces := piecesOf 0 a 1024 data }
      .ok (s.memStart c o))

/-- TLD.SF. -/
def execTldSf (u slot : Nat) (f : FmtT) (s : State) : Out State := .next (sideFile false u slot f s)
/-- TST.SF. -/
def execTstSf (u slot : Nat) (f : FmtT) (s : State) : Out State := .next (sideFile true u slot f s)

/-! ### Events of the unit's memory -/

/-- A line reaches a unit for a slot's load: its bytes, with the unit's own stores, join the pieces that wait for them; poison fails
them (R321). -/
def MemOp.deliver (o : MemOp) (tagOf : Nat → Option Nat) (x : UnitSt) (tag : Nat) (d : LineData) (poison : Bool) : MemOp :=
  if !o.kind.loads then o
  else { o with pieces := o.pieces.map (fun p => match p.pa with
    | some pa => if !p.over && tagOf pa == some tag then
        (if poison then { p with fail := some (0x16, 0) } else { p with got := some (lineSlice (x.ownStores tag d) (pa % 128) p.len) })
      else p
    | none => p) }

/-- An outstanding load waits for a line. -/
def MemOp.awaits (o : MemOp) (tagOf : Nat → Option Nat) (tag : Nat) : Bool :=
  o.kind.loads && !o.hmem && o.pieces.any (fun p => !p.over && p.pa.any (fun pa => tagOf pa == some tag))

/-- A line that strands wait for as their next instruction has come: they may issue; poisoned, it ends their launches (R244, R321). -/
def State.fetched (s : State) (u tag : Nat) (poison : Bool) (only : Option Nat) : State :=
  let got (e : Nat × Nat) : Bool := e.2 == tag && only.all (fun o => o == e.1)
  let slots := ((s.unit u).fetchMiss.filter got).map (·.1)
  let s := s.modUnit u (fun x => { x with fetchMiss := x.fetchMiss.filter (fun e => !got e) })
  if !poison then s
  else slots.foldl (fun s k => match s.ctxAny u k with
    | some c => s.raisePoison c .fetch c.t.pc tag
    | none => s) s

/-- A filled line: it is kept in L1 where `alloc` and it is not poisoned, and the strands that wait for it go on (R311, R321). -/
def State.fillUnit (s : State) (u tag : Nat) (d : LineData) (poison alloc : Bool) (only : Option Nat) : State :=
  let slots := (s.memSlots u).filter (fun k => only.all (fun o => o == k))
  let waiting := slots.filterMap (fun k => (s.ctxAny u k).bind (fun c => match c.t.wait with
    | .mem o => if o.awaits s.l1Tag tag then some (c, o) else none
    | _ => none))
  let mark := (waiting.head?).bind (fun w => w.2.mark w.1.hank)
  let s := if alloc && !poison then s.modUnit u (fun x => x.l1Fill tag (x.ownStores tag d) mark) else s
  (waiting.foldl (fun s w => match s.ctxAny u w.1.slot with
    | some c => (match c.t.wait with
      | .mem o => (if poison then s.poisonUse 1 u (paLocal tag) else s).memGo c (o.deliver s.l1Tag (s.unit u) tag d poison)
      | _ => s)
    | none => s) s).fetched u tag poison only

/-- L1_FILL: a line that a unit's loads wait for arrives from the cluster cache (R339). -/
def execL1Fill (u line : Nat) (s : State) : Out State :=
  .next (
    if !s.alive || !(s.unit u).misses.contains line then s
    else
      let c := clusterOf u
      let l := line % 2 ^ 42
      match s.agentData c l with
      | none => s.agentMiss c l false
      | some (d, poison) =>
        let s := (s.modAgent c (fun g => g.use l)).agentDone c l
        let s := s.modUnit u (fun x => { x with misses := x.misses.erase line })
        s.fillUnit u line d poison true none)

/-- Pieces on the page of an address that are not translated fail: the walk read a poisoned PTE (R336). -/
def MemOp.failPage (o : MemOp) (va status cause : Nat) : MemOp :=
  { o with pieces := o.pieces.map (fun p =>
      if p.pa.isNone && !p.over && p.va / 4096 == va / 4096 then { p with fail := some (status, cause) } else p) }

/-- WALK_COMPLETE: a walk on one of a cluster's two walkers ends in a translation, a fault or poison (R326 to R328, R334 to
R336, R342). While an invalidation runs, walks wait. -/
def execWalkComplete (cl i : Nat) (s : State) : Out State :=
  .next (
    match (s.cluster cl).walks[i]? with
    | none => s
    | some w =>
      if !s.alive || decide (2 ≤ i) || s.xlt.busy then s
      else match s.ctxAny w.unit w.slot with
        | none => s.modCluster cl (fun x => { x with walks := x.walks.erase w })
        | some c =>
          let c := if w.kind = .copy then { c with t := { c.t with pc := w.pc } } else c
          match walk (clusterReader cl) c.cmd.coil c.cmd.asroot w.va (s.cluster cl).nonLeaf s with
          | (.unable, _, s) => s
          | (r, nl, s) =>
            let s := s.modCluster cl (fun x =>
              { x with walks := x.walks.erase w, nonLeaf := nl.foldl (fun a e => keepMru 128 e a) x.nonLeaf })
            match r with
            | .fault k => (match c.t.wait with
              | .mem o => if w.kind ≠ .fetch ∧ w.kind ≠ .copy ∧ s.mayRefuse o w.va then s.memGo c (o.failPage w.va 0x17 k)
                          else s.raise c 0x17 k w.kind.code w.va
              | _ => s.raise c 0x17 k w.kind.code w.va)
            | .poisoned a =>
              let s := s.poisonUse 1 w.unit a
              (match c.t.wait with
              | .mem o => if w.kind = .fetch ∨ w.kind = .copy then s.raise c 0x16 0 w.kind.code w.va
                          else s.memGo c (o.failPage w.va 0x16 0)
              | _ => s.raise c 0x16 0 w.kind.code w.va)
            | .unable => s
            | .leaf t =>
              let s := (s.modCluster cl (fun x => { x with tlb := keepLeaf t x.tlb })).modUnit w.unit
                (fun x => { x with tlb := keepMru 64 t x.tlb })
              match w.kind with
              | .fetch => s.fetchAhead c w.va
              | .copy => s
              | _ => s.memResume w.unit w.slot)

end Sys2Proof.Machine
end

