-- ==== Sys2Proof/Machine/UnitAsync.lean ====
section
/-! DEFINITION. The asynchronous instructions: copies, arrival counters and belays, with the events that complete a copy,
drain a write-combining entry and declare a stall (R142, R161 to R164, R264 to R294, R310, R340). -/

namespace Sys2Proof.Machine

open Sys2Proof

/-- WRITE_COMBINING_DRAIN: an entry's written bytes go to the cluster cache or the remote home (R310, R340). -/
def execWriteCombiningDrain (u line : Nat) (s : State) : Out State :=
  .next (match (s.unit u).wc.find? (fun e => e.addr == line) with
    | some e => if s.alive then (s.drainEntry u e).pumpUnit u else s
    | none => s)

/-! ### Issue of a copy (R265 to R272) -/

/-- COPY_SHAPE (R268). -/
def Copy.shapeOk (k : Copy) : Bool :=
  match k.kind with
  | .h => k.rowBytes != 0 && k.rows != 0 && k.rowBytes % 16 == 0 && k.stride % 16 == 0
  | .t | .q => k.stride % 16 == 0
  | .sf => true

/-- The copy writes a tile or a side-file. -/
def CopyKind.toTile : CopyKind → Bool
  | .h => false | _ => true

/-- Fields used by a copy (R265). -/
def CopyKind.fields : CopyKind → ShapeQ
  | .h => { us := true, ud := true, ug := true }
  | .t => { us := true, ug := true, td := true }
  | .sf => { us := true, td := true }
  | .q => { us := true, ug := true, td := true, q := true }

/-- An ACPY (R265 to R272). -/
def acpy (kind : CopyKind) (u slot : Nat) (f : FmtQ) (s : State) : State :=
  s.issue u slot (fun c => do
    need (kind.fields.legal f) illegal
    need (kind != .q || (c.cmd.features.getLsbD 4 && (f.qf != 6 || c.cmd.features.getLsbD 6))) noFeature
    need (decide (f.ac < c.l.desc.acs) && (!kind.toTile || decide (f.td < c.l.desc.tiles))) resource
    let g := c.t.rdU f.ug
    let h := decide (kind = .h)
    let k : Copy :=
      { kind := kind, launch := c.hank.launch, hank := c.hank.index, slot := slot, src := c.t.rdU f.us,
        rows := if h then bits g 16 16 else 0, rowBytes := if h then bits g 0 16 else 0,
        stride := if kind = .sf then 0 else bits g 32 32, dst := if h then c.t.rdU f.ud % 2 ^ 32 else f.td, ac := f.ac, qf := f.qf,
        h := f.h, rm := f.rm, bf := f.sf, cap := f.cap, ws := f.ws, pc := c.t.pc, id := (s.unit u).copySeq }
    need k.shapeOk (.cause 0x10 0x07 0 0)
    need (k.src % 16 == 0) (.cause 0x17 0x20 4 k.src)
    need (!h || k.dst % 16 == 0) (.cause 0x17 0x20 4 k.dst)
    need (!h || decide (k.dst + k.rows * k.rowBytes ≤ 1024 * c.l.desc.hmem)) (.cause 0x17 0x21 4 k.dst)
    let s := s.modUnit u (fun x => { x with copySeq := x.copySeq + 1 })
    .ok (if (s.unit u).inFlight < 64 then (s.copyIssue c k).retire c c.t.advance
      else s.setStrand c { c.t with wait := .copySlot k }))

/-- ACPY.H. -/
def execAcpyH (u slot : Nat) (f : FmtQ) (s : State) : Out State := .next (acpy .h u slot f s)
/-- ACPY.T. -/
def execAcpyT (u slot : Nat) (f : FmtQ) (s : State) : Out State := .next (acpy .t u slot f s)
/-- ACPY.SF. -/
def execAcpySf (u slot : Nat) (f : FmtQ) (s : State) : Out State := .next (acpy .sf u slot f s)
/-- ACPY.Q. -/
def execAcpyQ (u slot : Nat) (f : FmtQ) (s : State) : Out State := .next (acpy .q u slot f s)

/-! ### Completion of a copy (R162, R163, R274 to R280) -/

/-- A place that a copy writes and an instruction has written since its issue ends holding one of the two values (R277). -/
def State.takes (s : State) (touched : Bool) : Bool × State := if touched then s.freeChoice else (true, s)

/-- Write a copy's bytes into hank memory: not where a copy issued later has written (R276). -/
def copyBytes (k : Copy) (later : List Copy) : List Byte → Nat → Hank → State → Hank × State
  | [], _, h, s => (h, s)
  | b :: bs, a, h, s =>
    let (x, s) := s.takes (k.touched.contains a)
    copyBytes k later bs (a + 1) (if x && !later.any (fun j => j.writesByte a) then h.hwrite a [b] else h) s

/-- Write a copy's tile rows and side-file rows, from row r. -/
def copyRows (k : Copy) (tile : Bool) (rows : List Nat) (v : Hank → Nat → Hank) : Hank → State → Hank × State :=
  fun h s => rows.foldl (fun (acc : Hank × State) r =>
    let (x, s) := acc.2.takes (k.touched.contains (if tile then r else 32 + r))
    (if x then v acc.1 r else acc.1, s)) (h, s)

/-- The copy writes its destination. -/
def State.copyWrite (s : State) (k : Copy) (later : List Copy) (d : CopyData) (h : Hank) : Hank × State :=
  match k.kind with
  | .h => copyBytes k later d.bytes k.dst h s
  | _ =>
    let (h, s) := if later.any (fun j => j.writesTile k.dst) then (h, s)
      else copyRows k true (List.range d.rows.length) (fun h r => h.setTileRow k.dst r ((d.rows[r]?).getD 0)) h s
    if later.any (fun j => j.writesSide k.dst) then (h, s)
    else copyRows k false (List.range d.sides.length) (fun h r => h.setSideRow k.dst r ((d.sides[r]?).getD 0)) h s

/-- Witness K of a launch (R146). -/
def Desc.witnessK (d : Desc) : Nat := 128 * 2 ^ d.witK
/-- The launch does witnessing (R157). -/
def Ctx.witnesses (c : Ctx) : Bool := c.l.desc.witEn && c.cmd.features.getLsbD 5

/-- Capture into a half of a witness slot (R162, R275). -/
def Witness.capture (w : Witness) (c : Ctx) (k : Copy) (rows : List (List Nat)) : Witness :=
  let e := quantE k.qf
  let wk := c.l.desc.witnessK
  if k.cap = 0 || !c.witnesses || !w.ownedBy k.slot || decide (c.l.desc.witDepth ≤ k.ws) then w
  else if e != wk && !(e == 256 && wk == 512) then w
  else
    let half := k.cap - 1
    let key := 32 * (2 * k.ws + half)
    let whole := decide (e = wk)
    let part := k.dst % 2
    let put (old : Nat) (vals : List Nat) : Nat :=
      if whole then packElems 16 vals else setBits old (4096 * part) 4096 (packElems 16 vals)
    { w with rows := (rows.zip (List.range 32)).foldl (fun t e => Tbl.upd 0 t (key + e.2) (fun old => put old e.1)) w.rows,
             captured := w.captured ++ (if whole then [(k.ws, half, 0), (k.ws, half, 1)] else [(k.ws, half, part)]) }

/-- A half of a witness slot is captured (R162). -/
def Witness.has (w : Witness) (slot half : Nat) : Bool := w.captured.contains (slot, half, 0) && w.captured.contains (slot, half, 1)

/-- A hank's counters take the completed copies that follow those counted already (R280). -/
def countCopies (launch hank : Nat) : List Copy → List Nat → List Copy × List Nat
  | [], _ => ([], [])
  | k :: ks, blocked =>
    if k.launch == launch && k.hank == hank then
      if !k.done then
        let (r, n) := countCopies launch hank ks (k.ac :: blocked)
        (k :: r, n)
      else if !k.counted && !blocked.contains k.ac then
        let (r, n) := countCopies launch hank ks blocked
        ({ k with counted := true } :: r, k.ac :: n)
      else
        let (r, n) := countCopies launch hank ks blocked
        (k :: r, n)
    else
      let (r, n) := countCopies launch hank ks blocked
      (k :: r, n)

/-- A counter has reached a target (R281). -/
def Hank.reached (h : Hank) (ac t : Nat) : Bool := decide ((Tbl.get 0 h.acs ac + 2 ^ 32 - t % 2 ^ 32) % 2 ^ 32 < 2 ^ 31)

/-- Strands of a hank whose ACWAIT is over go on (R281). -/
def State.wakeCounters (s : State) (c : Ctx) : State :=
  match s.hankAt c.u c.slot with
  | none => s
  | some h =>
    (h.strands.filter (fun t => match t.wait with | .ac n k => h.reached n k | _ => false)).foldl
      (fun s t => s.retire { c with slot := t.slot, t := t } { t.advance with wait := .ready }) s

/-- The i-th copy of a unit goes on: once it has its source it writes its destination, its side-file bytes and any capture, and its
counter moves; a cause that it meets ends the launch (R162, R163, R269, R273 to R280, R725). -/
def State.copyGo (s : State) (u i : Nat) : State :=
  (match (s.unit u).copies[i]? with
    | none => s
    | some k => match s.ctxAny u k.slot with
      | none => s
      | some c0 =>
        let c := { c0 with t := { c0.t with pc := k.pc } }
        if !s.alive || k.done then s
        else match s.copyRead c k with
          | (.error (.ends st code va), s) => s.raise c st code 4 va
          | (.error (.poisoned va pa), s) => s.raisePoison c .copy va pa
          | (.error _, s) => s
          | (.ok d, s) => match s.hankAt u k.slot with
            | none => s
            | some h =>
              let later := (((s.unit u).copies.drop (i + 1)).filter (fun j => j.launch == k.launch && j.hank == k.hank && j.done))
              let (h, s) := s.copyWrite k later d h
              let h := { h with range := h.range.count d.range, wit := h.wit.capture c k d.bf16Rows }
              let h := if k.kind = .t || k.kind = .q then h.wroteTile k.dst else h
              let (cs, counts) := countCopies k.launch k.hank ((s.unit u).copies.set i { k with done := true }) []
              let h := counts.foldl (fun h n => { h with acs := Tbl.upd 0 h.acs n (wrapAdd 32 · 1), progress := s.ucyc u }) h
              let s := s.onHank c (fun _ => h)
              let s := s.modUnit u (fun x => { x with copies := cs.dropWhile (·.counted) })
              let s := s.countVts u { flushIn := d.flush }
              (s.wakeCounters c).startCopyWaiter u)

/-- COPY_COMPLETE: the i-th copy of a unit has its source. -/
def execCopyComplete (u i : Nat) (s : State) : Out State := .next (s.copyGo u i)

/-! ### Arrival counters (R281, R282) -/

/-- ACWAIT: the strand waits until the counter has reached u[US][31:0]. -/
def execAcwait (u slot : Nat) (f : FmtQ) (s : State) : Out State :=
  .next (s.issue u slot (fun c => do
    need (({ us := true } : ShapeQ).legal f) illegal
    need (decide (f.ac < c.l.desc.acs)) resource
    let t := c.t.rdU f.us % 2 ^ 32
    if c.hank.reached f.ac t then .ok (s.retire c c.t.advance)
    else .ok ((s.setStrand c { c.t with wait := .ac f.ac t }).onHank c (fun h => { h with progress := s.ucyc c.u }))))

/-- ACREAD: the counter, zero-extended. -/
def execAcread (u slot : Nat) (f : FmtQ) (s : State) : Out State :=
  .next (s.issue u slot (fun c => do
    need (({ ud := true } : ShapeQ).legal f) illegal
    need (decide (f.ac < c.l.desc.acs)) resource
    .ok (s.retire c (c.t.advance.wrU f.ud (Tbl.get 0 c.hank.acs f.ac)))))

/-! ### Belays (R283 to R289) -/

/-- Checks of a belay instruction: AC[3:0] names it. -/
def belayCheck (c : Ctx) (f : FmtQ) : Except Stop Unit := do
  need (({ ac := 16 } : ShapeQ).legal f) illegal
  need (decide (f.ac < c.l.desc.belays)) resource

/-- The strand's active lanes as threads of its hank. -/
def Strand.threads (t : Strand) : BitVec 1024 := BitVec.ofNat 1024 (t.active.toNat * 2 ^ (32 * t.index))

/-- BLY.ARRIVE and BLY.SYNC. The arrival is a hank-scope release (R289), and it is made once no TMMA of the strand still
has to read its operands (R284): until then the instruction is not due. -/
def blyArrive (sync : Bool) (u slot : Nat) (f : FmtQ) (s : State) : State :=
  s.issue u slot (fun c => do
    belayCheck c f
    let b := Tbl.get {} c.hank.belays f.ac
    need (b.arrived &&& c.t.threads == 0) (.cause 0x10 0x08 0 0)
    let s := s.drainWc u
    if (s.unit u).mmaQ.any (fun m => m.slot == slot) || !(s.unit u).wc.isEmpty then .ok s
    else
      let s := s.onHank c (fun h =>
        { h with progress := s.ucyc c.u, belays := Tbl.upd {} h.belays f.ac (fun b => { b with arrived := b.arrived ||| c.t.threads }) })
      let s := if sync then s.setStrand c { c.t with wait := .belay f.ac b.phase } else s.retire c c.t.advance
      .ok (s.settleBelays c))

/-- BLY.ARRIVE. -/
def execBlyArrive (u slot : Nat) (f : FmtQ) (s : State) : Out State := .next (blyArrive false u slot f s)
/-- BLY.SYNC. -/
def execBlySync (u slot : Nat) (f : FmtQ) (s : State) : Out State := .next (blyArrive true u slot f s)
/-- BLY.WAIT: waits while an active lane is arrived in the present phase (R288). -/
def execBlyWait (u slot : Nat) (f : FmtQ) (s : State) : Out State :=
  .next (s.issue u slot (fun c => do
    belayCheck c f
    let b := Tbl.get {} c.hank.belays f.ac
    if b.arrived &&& c.t.threads == 0 then .ok (s.retire c c.t.advance)
    else .ok ((s.setStrand c { c.t with wait := .belay f.ac b.phase }).onHank c (fun h => { h with progress := s.ucyc c.u }))))

/-! ### Stall (R290 to R293) -/

/-- What a blocked strand waits on: a belay, or a counter that the copies issued to it cannot move far enough (R290). -/
def Hank.blockedOn (h : Hank) (t : Strand) : Option (Bool × Nat) :=
  match t.wait with
  | .belay b _ => some (true, b)
  | .ac n k => if (Tbl.get 0 h.issued n + 2 ^ 32 - k % 2 ^ 32) % 2 ^ 32 < 2 ^ 31 then none else some (false, n)
  | _ => none

/-- The lowest of some strand slots. -/
def lowestSlot (ts : List Strand) : Option Strand :=
  ts.foldl (fun m t => match m with | some x => if x.slot ≤ t.slot then some x else some t | none => some t) none

/-- STALL: every live strand of a hank has been blocked with nothing outstanding for 4,096 ucyc; the launch ends with
BELAY_STALL (R292). -/
def execStall (u launch hank : Nat) (s : State) : Out State :=
  .next (match (s.unit u).hanks.find? (fun h => h.launch == launch && h.index == hank) with
    | none => s
    | some h =>
      let live := h.strands.filter (fun t => !t.wait.isEnded)
      let copies := (s.unit u).copies.any (fun k => k.launch == launch && k.hank == hank && !k.done)
      if !s.alive || copies || decide (s.ucyc u < h.progress + 4096) || live.any (fun t => (h.blockedOn t).isNone) then s
      else match lowestSlot live with
        | none => s
        | some t =>
          let (belay, n) := (h.blockedOn t).getD (false, 0)
          s.endLaunch launch
            { status := 0x12, cause := 0x30, dkind := 1, detail := u + 1024 * t.slot,
              fault := some { cause := 0x30, pc := t.pc, obj := n, objBelay := belay, unit := some (u, t.slot) } })

end Sys2Proof.Machine
end

