-- ==== Sys2Proof/Machine/HomeRows.lean ====
section
/-! DEFINITION. The coherence messages as they arrive, the events of the home, dead agents and their reclaim, and
invalidation of cached translations (R331 to R334, R352, R375 to R404). -/

namespace Sys2Proof.Machine

open Sys2Proof

/-! ### Messages (R375 to R385) -/

/-- The sender and the receiver that R372, R375 and R376 give a message. A cluster or a complex sends RNC, WNC and ANC for an access
that its cache does not hold, to a page of type NC or IO (DESIGN CHOICE, notes/assumptions/7.md). -/
def senderOk (m : Msg) : Bool :=
  let toHome := m.dst == homeId
  let fromCache := isCaching m.src && toHome
  match m.ty with
  | .rds | .rdo | .upg | .wbk | .evc | .datd => fromCache
  | .sth => isUncached m.src && toHome
  | .wnc | .rnc | .anc => (isUncached m.src || (m.nc && isCaching m.src)) && toHome
  | .sns | .sni | .sno => fromHome m && isCaching m.dst
  | .dat => fromCache || (fromHome m && (isCaching m.dst || isUncached m.dst))
  | .ack => fromCache || (fromHome m && isCaching m.dst)

/-- A message arrives: not before those sent ahead of it on its channel (R375); the accesses that wait for it in the
cluster's units then go on. -/
def State.deliver (s : State) (m : Msg) : State :=
  let ahead := (s.net.takeWhile (fun x => !(x == m)))
  if !s.alive || !senderOk m || (s.net.contains m && ahead.any (fun x => s.sameChannel x m)) then s
  else
    let s := s.arrive m
    if !isRequest m && decide (m.dst < 256) then s.pumpCluster m.dst else s

/-- RDS: read shared (R382). -/
def execRds (m : Msg) (s : State) : Out State := .next (s.deliver { m with ty := .rds })
/-- RDO: read for ownership (R382). -/
def execRdo (m : Msg) (s : State) : Out State := .next (s.deliver { m with ty := .rdo })
/-- UPG: upgrade (R382). -/
def execUpg (m : Msg) (s : State) : Out State := .next (s.deliver { m with ty := .upg })
/-- WBK: write-back (R382). -/
def execWbk (m : Msg) (s : State) : Out State := .next (s.deliver { m with ty := .wbk })
/-- EVC: clean eviction (R382). -/
def execEvc (m : Msg) (s : State) : Out State := .next (s.deliver { m with ty := .evc })
/-- STH: stash (R364, R382). -/
def execSth (m : Msg) (s : State) : Out State := .next (s.deliver { m with ty := .sth })
/-- WNC: write without a cache (R382). -/
def execWnc (m : Msg) (s : State) : Out State := .next (s.deliver { m with ty := .wnc })
/-- RNC: read without a cache (R382). -/
def execRnc (m : Msg) (s : State) : Out State := .next (s.deliver { m with ty := .rnc })
/-- ANC: atomic without a cache (R385). -/
def execAnc (m : Msg) (s : State) : Out State := .next (s.deliver { m with ty := .anc })
/-- SNS: snoop shared (R379). -/
def execSns (m : Msg) (s : State) : Out State := .next (s.deliver { m with ty := .sns })
/-- SNI: snoop invalidate (R379). -/
def execSni (m : Msg) (s : State) : Out State := .next (s.deliver { m with ty := .sni })
/-- SNO: snoop for ownership (R379). -/
def execSno (m : Msg) (s : State) : Out State := .next (s.deliver { m with ty := .sno })
/-- DAT: data, to a requester, a stash target or the home (R365, R379, R383). -/
def execDat (m : Msg) (s : State) : Out State := .next (s.deliver { m with ty := .dat })
/-- DATD: dirty data to the home (R383). -/
def execDatd (m : Msg) (s : State) : Out State := .next (s.deliver { m with ty := .datd })
/-- ACK: to a requester or to the home (R379, R383). -/
def execAck (m : Msg) (s : State) : Out State := .next (s.deliver { m with ty := .ack })

/-! ### Events of the home and of a cache -/

/-- FILL_COMPLETE: every byte of a line is in its way and its set unblocks (R352). -/
def execFillComplete (line : Nat) (s : State) : Out State := .next (if s.alive then s.fillComplete line else s)
/-- SPILL_READ: the spill set of a line in BP returns (R394). -/
def execSpillRead (line : Nat) (err : LineErr) (s : State) : Out State := .next (if s.alive then s.spillRead line err else s)

/-- CLEAT_EXPIRY: the cleat time has passed and the access has been performed; a snoop that waited is answered (R386). -/
def execCleatExpiry (agent line : Nat) (s : State) : Out State :=
  .next (match (s.agent agent).find line with
    | some x =>
      if !s.alive || x.held.isNone || s.cleatHolds x then s
      else if agent < 256 then (s.answerHeld agent line).pumpCluster agent else s.answerHeld agent line
    | none => s)

/-! ### Dead agents (R398 to R400, R728) -/

/-- A snoop to a dead agent is resolved: as DATD RETAIN = 0 with POISON for an owner, whose line is poisoned; as ACK for a
sharer; an offer as declined (R398). Every other copy is invalidated, that of an upgrading sharer too, which then takes the
poisoned line as an RDO does (R400). -/
def State.resolveDead (s : State) (d : Nat) (b : BusyLine) : State :=
  if b.why = .bo then
    if b.owed.contains (d, false) then
      ((s.clearBusy b.line).setDir b.line none).modSlice (s.homeOf b.line) (fun k =>
        { k with cnt := { k.cnt with sthDec := wrapAdd 64 k.cnt.sthDec 1 } })
    else s
  else if b.owed.contains (d, true) then
    let owed := b.owed.erase (d, true)
    let more := match b.was with
      | some e => e.holders.filter (fun a => a != d && !s.coh.dead.contains a && !owed.contains (a, false))
      | none => []
    let asks := match b.req.ty with | .rds | .rnc => more | .upg => more.filter (fun a => a == b.req.src) | _ => []
    let s := s.homeWrite b.line 0 true
    let s := { s with coh := { s.coh with poisoned := satAdd 32 s.coh.poisoned 1 } }
    (s.snoops b.line 0 .sni asks).progress
      { b with owed := owed ++ asks.map (fun a => (a, false)), ans := 3, asRdo := b.req.ty == .upg,
               data := if b.forced then none else some (0, true),
               was := match b.req.ty with | .rds | .rnc => b.was.map (fun e => { e with sharers := [] }) | _ => b.was }
  else if b.owed.contains (d, false) then s.progress { b with owed := b.owed.erase (d, false) }
  else s

/-- Declare reclaimable agents dead, in ascending agent ID (R398, R728): their caches are lost, outstanding snoops resolve,
their waiting requests go, and every slice starts to scan. -/
def State.declareDead (s : State) (ids : List Nat) : State :=
  let ids := ids.filter (fun d => isCaching d && !s.coh.dead.contains d)
  match ids.getLast? with
  | none => s
  | some last =>
    let s := { s with coh := { s.coh with dead := s.coh.dead ++ ids, reclaim := true, spill := false, agent := last,
                                          count := satAdd 16 s.coh.count ids.length } }
    let s := ids.foldl (fun s d => s.modAgent d (fun _ => {})) s
    (s.slices.map (·.1)).foldl (fun s n =>
      let s := s.modSlice n (fun k => { k with
        waiting := k.waiting.filter (fun m => !ids.contains m.src) })
      let s := ids.foldl (fun s d => (s.slice n).busy.foldl (fun s b => match (s.slice n).busyOf b.line with
        | some b => s.resolveDead d b
        | none => s) s) s
      s.pumpHome n) s

/-- A spilled or on-chip entry that a scan can scrub now: one that names a dead agent, whose line is not busy, with a busy entry free
for the answers it may wait for (R381, R398). -/
def State.scrubbable (s : State) (n : Nat) (e : DirEntry) : Bool :=
  s.namesDead e && ((s.slice n).busyOf e.line).isNone && decide ((s.slice n).busy.length < 256)

/-- Scrub the spilled entries of one spill set (R398). -/
def State.scrubSpill (s : State) (n k : Nat) : State :=
  match s.spillBase (n / 2) with
  | none => s
  | some b =>
    let a := b + 256 * k + 128 * (n % 2)
    match s.readSpill n k a {} with
    | .held => s
    | .lost s => s
    | .words ws s =>
      (List.range 8).foldl (fun (s : State) j =>
        match decodeSpill n (ws.getD j 0) with
        | none => s
        | some e =>
          if s.scrubbable n e then
            let (e', s) := s.scrub e
            let now := s.spillSeen n k a
            match e' with
            | some x => s.writeSpill n k a (now.set j x.encode) (Tbl.get [] (s.slice n).spillOrder k)
            | none => s.emptySpill n k a now j
          else s) s

/-- Scan one slice: its entries on chip, then its spill sets (R398, R399). -/
def State.scanSlice (s : State) (n : Nat) : State :=
  let s := (s.slice n).dir.foldl (fun s e =>
    if s.scrubbable n e then let (e', s) := s.scrub e; s.changeDir e.line e' else s) s
  (s.slice n).summary.foldl (fun s k => s.scrubSpill n k) s

/-- A slice holds nothing that still names a dead agent: no busy line, entry, or spilled entry. -/
def State.scanned (s : State) (n : Nat) : Bool :=
  let k := s.slice n
  k.busy.all (fun b => !s.coh.dead.contains b.req.src && b.owed.all (fun o => !s.coh.dead.contains o.1) && !b.was.any s.namesDead)
    && k.dir.all (fun e => !s.namesDead e)
    && k.summary.all (fun i => (s.spillBase (n / 2)).all (fun b =>
      (s.spillSeen n i (b + 256 * i + 128 * (n % 2))).all (fun w => !(decodeSpill n w).any s.namesDead)))

/-- The directory mode while neither a test nor a reclaim runs: SPILL once a MEMORY section is in force (R390). -/
def State.spillMode (s : State) : Bool := s.spillShift.isSome && !s.coh.test && !s.coh.reclaim

/-- RECLAIM_END: every slice scans its entries, and the reclaim is over once none names a dead agent (R398 to R400). -/
def execReclaimEnd (s : State) : Out State :=
  .next (
    if !s.alive || !s.coh.reclaim then s
    else
      let ns := s.slices.map (·.1)
      let s := ns.foldl (fun s n => s.scanSlice n) s
      let s : State := if s.coh.serving && ns.all (fun n => s.scanned n) then
          let s : State := { s with coh := { s.coh with reclaim := false } }
          { s with coh := { s.coh with spill := s.spillMode } }
        else s
      ns.foldl (fun s n => s.pumpHome n) s)

/-! ### Invalidation of cached translations (R332 to R334) -/

/-- A cached leaf entry is removed by an invalidation: VPN is the page number within the 57 bits of a virtual address (R332). -/
def XltInv.leaf (x : XltInv) (t : Tlb) : Bool :=
  let maps := x.vpn * 4096 / t.size == t.vpage % (2 ^ 57 / t.size)
  match x.kind with
  | 0 => true
  | 1 => t.asid == x.asid && !t.glob
  | 2 => (t.asid == x.asid || t.glob) && maps
  | _ => maps
/-- A cached non-leaf entry is removed. -/
def XltInv.table (x : XltInv) (e : NonLeaf) : Bool :=
  match x.kind with
  | 0 => true
  | 1 => e.asid == x.asid && !e.glob
  | 2 => e.asid == x.asid || e.glob
  | _ => true

/-- Remove the entries of an invalidation from every unit, cluster and DMA engine (R332, R499). -/
def State.removeXlt (s : State) : State :=
  let x := s.xlt
  let keep (l : List Tlb) : List Tlb := l.filter (fun t => !x.leaf t)
  let s := (s.units.map (·.1)).foldl (fun s u => s.modUnit u (fun k => { k with tlb := keep k.tlb })) s
  let s := (s.clusters.map (·.1)).foldl (fun s c => s.modCluster c (fun k =>
    { k with tlb := keep k.tlb, nonLeaf := k.nonLeaf.filter (fun e => !x.table e) })) s
  (s.dma.map (·.1)).foldl (fun s e => s.modDma e (fun k => { k with tlb := keep k.tlb })) s

/-- A memory instruction whose pieces were translated and are neither performed nor on their way to another package: they are
translated again (R333, R334). `sent`: the lines asked of other packages. -/
def MemOp.untranslate (o : MemOp) (sent : List Nat) : MemOp :=
  { o with pieces := o.pieces.map (fun p =>
      if p.over || p.pa.any (fun pa => sent.contains (lineOf pa)) then p else { p with pa := none }) }

/-- Forget the translations that no access has used yet, on every unit (R333). -/
def State.untranslate (s : State) : State :=
  (s.units.map (·.1)).foldl (fun s u =>
    let sent (slot : Nat) : List Nat := s.hws.reqs.filterMap (fun r => match r.who with
      | .unit v k => if v = u ∧ k = slot then some (r.peer * 2 ^ 42 + lineOf r.packet.addr) else none
      | _ => none)
    s.modUnit u (fun x => { x with hanks := x.hanks.map (fun h => { h with strands := h.strands.map (fun t => match t.wait with
      | .mem o => { t with wait := .mem (o.untranslate (sent t.slot)) }
      | _ => t) }) })) s

/-- XLT_INV_GO: ignored while BUSY; walks stop until the invalidation completes (R333, R334). -/
def execXltInvGo (s : State) : Out State :=
  .next (if !s.alive || s.xlt.busy then s else { s with xlt := { s.xlt with busy := true } }.removeXlt.untranslate)

/-- Accesses translated and not yet performed, of one unit: stores in its write-combining buffers, and reads, atomics, stores and
copies on their way to another package (R333). -/
def State.xltOutstanding (s : State) (u : Nat) : Bool :=
  let x := s.unit u
  !x.wc.isEmpty || x.remoteStores != 0 || s.hws.reqs.any (fun r => match r.who with
    | .unit v _ => v == u
    | .copy v _ => v == u
    | .unitStore v _ => v == u
    | _ => false)

/-- XLT_INV_DONE: no removed entry is in use, and every access that used one has been performed; BUSY clears and DONE
counts (R333). -/
def execXltInvDone (s : State) : Out State :=
  .next (
    if !s.alive || !s.xlt.busy then s
    else
      let us := s.units.map (·.1)
      let s := us.foldl (fun s u => s.drainWc u) s
      if us.any (fun u => s.xltOutstanding u) then s
      else { s.removeXlt with xlt := { s.xlt with busy := false, done := wrapAdd 32 s.xlt.done 1 } })

/-! ### Counter clears (R208, R209, R367, R368, R403, R404, R434, R435) -/

/-- UNI_VTS_CLEAR. -/
def execUniVtsClear (u value : Nat) (s : State) : Out State := .next (s.modUnit u (fun x => { x with vts := x.vts.clear value }))
/-- Zero where a bit is set. -/
def clr (value c x : Nat) : Nat := if bit value c then 0 else x
/-- LLM_CNT_CLEAR. -/
def execLlmCntClear (n value : Nat) (s : State) : Out State :=
  .next (s.modSlice n (fun k => { k with cnt :=
    { hit := clr value 0 k.cnt.hit, miss := clr value 1 k.cnt.miss, wb := clr value 2 k.cnt.wb, pfIssue := clr value 3 k.cnt.pfIssue,
      pfUsed := clr value 4 k.cnt.pfUsed, sthAcc := clr value 5 k.cnt.sthAcc, sthDec := clr value 6 k.cnt.sthDec,
      setWait := clr value 7 k.cnt.setWait } }))
/-- COH_CNT_CLEAR. -/
def execCohCntClear (n value : Nat) (s : State) : Out State :=
  .next (s.modSlice n (fun k => { k with ccnt :=
    { snoop := clr value 0 k.ccnt.snoop, spillWr := clr value 1 k.ccnt.spillWr, spillRd := clr value 2 k.ccnt.spillRd,
      forced := clr value 3 k.ccnt.forced, stale := clr value 4 k.ccnt.stale, upgRdo := clr value 5 k.ccnt.upgRdo } }))

end Sys2Proof.Machine
end

