-- ==== Sys2Proof/Machine/HbmRows.lean ====
section
/-! DEFINITION. Events of the stacked memory: controller and scrub reads, remapping, eye tracking, the traffic generators and
the clears (R405 to R435). -/

namespace Sys2Proof.Machine

open Sys2Proof

/-- HBM_READ: a controller read that a slice waits for returns and is decoded (R409 to R413). -/
def execHbmRead (line : Nat) (err : LineErr) (s : State) : Out State := .next (if s.alive then s.hbmRead line err else s)

/-! ### Scrubbing (R416, R417) -/

/-- The location of scrub position n of a channel: row, bank, line in row and pseudo-channel, in ascending order. -/
def scrubPlace (n : Nat) : Nat × Nat × Nat × Nat := (n / 1024 % 16384, n / 16 % 64, n / 2 % 8, n % 2)

/-- The row whose data a physical row holds: its own, the one remapped to it, or none when it has been remapped away. -/
def Channel.logical (k : Channel) (pch bank row : Nat) : Option (Nat × Nat) :=
  match k.remaps.find? (fun e => (if e.active then e.newBank == bank else e.moving == some bank) && e.pch == pch && e.newRow == row) with
  | some e => some (e.bank, e.row)
  | none => if k.remaps.any (fun e => (e.active || e.moving.isSome) && e.pch == pch && e.bank == bank && e.row == row) then none
            else some (bank, row)

/-- A channel's scrubber reads its next line; it waits for a row that is being copied (R412, R413, R416, R421). -/
def State.scrubChannel (s : State) (stack ch : Nat) (err : LineErr) : State :=
  let c := (s.stack stack).channel ch
  let (row, bank, ln, pch) := scrubPlace c.scrubAt
  let next := s.modStack stack (fun k => k.modChannel ch (fun c => { c with scrubAt := (c.scrubAt + 1) % 2 ^ 24 }))
  match c.logical pch bank row with
  | none => next
  | some (b, r) =>
    let l := addrOf stack ch pch b r ln
    if s.hbmHeld l then s else (next.readEvents l (next.readLine l err)).2

/-- The lines that a slice's data array holds at or above an address, the lowest: one of its cache ways, or one of its scratchpad ways
(R355, R416). -/
def State.arrayLine (s : State) (n a : Nat) : Option Nat :=
  let g := n / 2
  let first := scratchBase + (List.range g).foldl (fun a k => a + s.scrWays k * scrWayBytes) 0 + 128 * (n % 2)
  let scr := first + (a - first + 255) / 256 * 256
  ((s.slice n).lines.filter (fun x => decide (a ≤ x.line))).foldl (fun m x => some (m.elim x.line (min x.line)))
    (if scr < first + s.scrWays g * scrWayBytes then some scr else none)

/-- A slice's scrubber reads the next line of its data array, over the lines the array holds in ascending address: an uncorrectable
word poisons its line and is recorded (R415, R416; notes/assumptions/18.md). -/
def State.scrubSlice (s : State) (n : Nat) (err : LineErr) : State :=
  match (s.arrayLine n (s.slice n).scrubAt).orElse (fun _ => s.arrayLine n 0) with
  | none => s
  | some l => match s.homePeek l with
    | none => s
    | some (d, poison) =>
      let s := s.modSlice n (fun k => { k with scrubAt := l + 128 })
      let b := lineBytes d
      if isUncorrectable (decodeCw (b.take 64) poison err.cw0) || isUncorrectable (decodeCw (b.drop 64) poison err.cw1) then
        (if isScratch l then s.scratchPut (l - scratchBase) d true
         else s.modSlice n (fun k => { k with lines := k.lines.map (fun x => if x.line == l then { x with poison := true } else x) })).logErr
          .de 0x13 6 n 0 l
      else s

/-- SCRUB_READ: the scrubber of a channel, or for numbers 32 and 33 of one of the group's two slices, reads its next line and acts on
it by R412 or R413 (R415 to R417). -/
def execScrubRead (stack ch : Nat) (err : LineErr) (s : State) : Out State :=
  .next (
    let k := s.stack stack
    if !s.alive || s.scrubCode == 5 || k.hold || k.selfRefresh || decide (2 ≤ s.lhr.stage) then s
    else if ch < 32 then s.scrubChannel stack ch err
    else s.scrubSlice (2 * stack + (ch - 32)) err)

/-- A scrub period in ucyc: its length in hours does not scale with the frame (R5, R419). -/
def State.scrubTime (s : State) : Option Nat :=
  (match s.scrubCode with | 1 => some 6 | 2 => some 12 | 3 => some 24 | 4 => some 48 | _ => none).map (fun h => h * 12960000000000)

/-- TRACKER_FREE: a row has met no event for a whole scrub period (R418). -/
def execTrackerFree (stack ch pch bank row : Nat) (s : State) : Out State :=
  .next (match s.scrubTime with
    | none => s
    | some n => s.modStack stack (fun k => k.modChannel ch (fun c => { c with tracker := c.tracker.filter (fun e =>
        !(e.pch == pch && e.bank == bank && e.row == row && decide (e.at_ + n ≤ s.now))) })))

/-! ### Remapping (R421) -/

/-- One line of a row copy: read as any line is, corrected, and written poisoned where it is uncorrectable (R412, R413, R418, R421). -/
def State.copyLine (s : State) (l : Nat) (err : LineErr) : State := (s.readEvents l (s.readLine l err)).2

/-- REMAP_COMPLETE: the copy of a row's 8 lines ends, entry i is activated, recorded, and the row joins the repair list
(R421, R727); what the controller held for the row is then performed. -/
def execRemapComplete (stack ch i : Nat) (errs : List LineErr) (s : State) : Out State :=
  .next (
    let k := s.stack stack
    match (k.channel ch).remaps.find? (fun e => e.index == i && !e.active) with
    | none => s
    | some e =>
      if !s.alive || k.hold || k.selfRefresh then s
      else
        let at_ (n : Nat) : Nat := addrOf stack ch e.pch e.bank e.row n
        let s := (List.range 8).foldl (fun s n => s.copyLine (at_ n) ((errs[n]?).getD {})) s
        let s := s.modStack stack (fun k => (k.modChannel ch (fun c => { c with remaps := c.remaps.map (fun x =>
          if x.index == i then { x with active := true, moving := none } else x) })).addRepair (ch, e.pch, e.bank, e.row))
        (s.flushHeld stack).logErr .ce 0x11 7 (32 * stack + ch) (e.newRow + e.newBank * 2 ^ 14 + e.pch * 2 ^ 20 + (i % 8) * 2 ^ 21 + (i / 8) * 2 ^ 24) (at_ 0))

/-- EYE_TRACK: a channel tracks its read eye once every 64 frames (R425). -/
def execEyeTrack (stack ch : Nat) (s : State) : Out State :=
  .next (if !s.alive || decide (s.frm.ticks < ((s.stack stack).channel ch).eyeAt + 64) then s
    else s.modStack stack (fun k => k.modChannel ch (fun c => { c with eyeAt := s.frm.ticks })))

/-! ### Traffic generators (R428 to R432) -/

/-- Change a channel's generator. -/
def State.modTg (s : State) (stack ch : Nat) (f : Tg → Tg) : State :=
  s.modStack stack (fun k => k.modChannel ch (fun c => { c with tg := f c.tg }))

/-- A GO that R428 refuses. -/
def State.tgRefused (s : State) (stack : Nat) (g : Tg) : Bool :=
  let rows := 2 ^ g.rowsLog2
  let top := (g.rowLo + rows) * 2 ^ 22 + stack * stackBytes
  (!s.coh.test && !s.feature 15) || g.rowLo % rows != 0 || decide (14 < g.rowsLog2)
    || (match s.remapBase stack, s.spillBase stack with
        | some b, _ => decide (b < top)
        | none, some b => decide (b < top)
        | none, none => false)

/-- TG_GO: ignored while BUSY; refused by R428; else the run starts (R428, R434). -/
def execTgGo (stack ch : Nat) (s : State) : Out State :=
  .next (
    let g := ((s.stack stack).channel ch).tg
    if !s.alive || g.busy then s
    else if s.tgRefused stack g then s.modTg stack ch (fun g => { g with refused := true, done := false })
    else s.modTg stack ch (fun g => { g with busy := true, done := false, refused := false, pass := 0, mismatch := 0, ce := 0,
                                             first := 0, firstValid := false, stopping := false }))

/-- TG_STOP: stop at the next line (R434). -/
def execTgStop (stack ch : Nat) (s : State) : Out State :=
  .next (s.modTg stack ch (fun g => if g.busy then { g with stopping := true } else g))

/-- 512 output bits of the PRBS31 generator from a state: the polynomial's feedback bit is the output (R431). -/
def prbsBits : Nat → Nat → List Bool
  | 0, _ => []
  | n + 1, x =>
    let b := xor (bit x 30) (bit x 27)
    b :: prbsBits n ((2 * x + b2n b) % 2 ^ 31)

/-- A number from its bits, the lowest first. -/
def ofBits (l : List Bool) : Nat := l.foldr (fun b a => b2n b + 2 * a) 0

/-- The data of codeword h of line n, 64 bytes as a number (R431). -/
def Tg.codeword (g : Tg) (pass n h : Nat) : Nat :=
  let d := match g.data with
    | 0 => ofBits (prbsBits 512 (let x := Nat.xor (g.seed % 2 ^ 31) (2 * n + h) % 2 ^ 31; if x = 0 then 1 else x))
    | 1 => (List.range 8).foldl (fun a k => a + g.seed % 2 ^ 64 * 2 ^ (64 * k)) 0
    | _ => (List.range 8).foldl (fun a k => a + 2 ^ ((n + k) % 64) * 2 ^ (64 * k)) 0
  if g.invert && pass % 2 == 1 then 2 ^ 512 - 1 - d else d

/-- The line of a pass that visit i reaches (R430). -/
def Tg.visit (g : Tg) (i : Nat) : Nat := if g.scatter then i * 0x9E3779B1 % (1024 * 2 ^ g.rowsLog2) else i
/-- The address of line n of the window (R430). -/
def Tg.addr (g : Tg) (stack ch n : Nat) : Nat :=
  addrOf stack ch (bits n 0 1) (bits n 4 6) (g.rowLo + n / 1024) (bits n 1 3)

/-- Write one line of a pass (R429, R431). -/
def State.tgWrite (s : State) (stack ch pass n : Nat) : State :=
  let g := ((s.stack stack).channel ch).tg
  s.hbmPut (g.addr stack ch n) (BitVec.ofNat 1024 (g.codeword pass n 0 + g.codeword pass n 1 * 2 ^ 512)) false

/-- Read one line of a pass; `check`: compare it (R432). -/
def State.tgRead (s : State) (stack ch pass n : Nat) (check : Bool) (err : LineErr) : State :=
  let g := ((s.stack stack).channel ch).tg
  let l := g.addr stack ch n
  let r := s.readLine l err
  let stored := lineBytes (s.hbmLine l).1
  let differs (d : Decoded) (st : List Byte) (h : Nat) : Bool :=
    isPoisoned d || isUncorrectable d || leNat (d.bytes st) != g.codeword pass n h
  let bad := if check then b2n (differs r.cw0 (stored.take 64) 0) + b2n (differs r.cw1 (stored.drop 64) 1) else 0
  let s := if r.count isUncorrectable = 0 then s else s.hbmPut l (s.hbmLine l).1 true
  s.modTg stack ch (fun g =>
    let g := { g with ce := satAdd 32 g.ce (r.count isCorrected), mismatch := satAdd 32 g.mismatch bad }
    if bad ≠ 0 && !g.firstValid then { g with first := l % stackBytes / 128, firstValid := true } else g)

/-- Visits [from, from + k) of the phases of one pass: the writes, then the reads. -/
def State.tgPass (s : State) (stack ch pass k : Nat) (errs : List (Nat × LineErr)) : State :=
  let g := ((s.stack stack).channel ch).tg
  let n := 1024 * 2 ^ g.rowsLog2
  let writes := g.op == 0 || g.op == 2
  let wk := if writes then min k n else 0
  let rk := if g.op = 0 then 0 else if writes then k - n else min k n
  let s := (List.range wk).foldl (fun s i => s.tgWrite stack ch pass (g.visit i)) s
  (List.range (min rk n)).foldl (fun s i =>
    s.tgRead stack ch pass (g.visit i) (g.op != 3) (((errs.find? (fun e => e.1 == g.visit i)).map (·.2)).getD {})) s

/-- Line visits in one pass. -/
def Tg.perPass (g : Tg) : Nat := 1024 * 2 ^ g.rowsLog2 * (if g.op = 2 then 2 else 1)

/-- The controller holds an access of a run: its stack is held, or a row of its window is being copied (R421, R620). -/
def State.tgHeld (s : State) (stack ch : Nat) : Bool :=
  let k := s.stack stack
  let c := k.channel ch
  k.hold || k.selfRefresh || c.remaps.any (fun e => !e.active && decide (c.tg.rowLo ≤ e.row) && decide (e.row < c.tg.rowLo + 2 ^ c.tg.rowsLog2))

/-- TG_DONE: a run ends after its passes, or at a line after STOP: how many lines it had then visited is a free value
(R430 to R434). -/
def execTgDone (stack ch : Nat) (errs : List (Nat × LineErr)) (s : State) : Out State :=
  .next (
    let g := ((s.stack stack).channel ch).tg
    if !s.alive || !g.busy || (g.passes == 0 && !g.stopping) || s.tgHeld stack ch then s
    else
      let whole := g.passes
      let (visits, s) := if g.stopping then
          (let (v, s) := s.freeVal 64
           (if whole = 0 then v else v % (whole * g.perPass + 1), s))
        else (whole * g.perPass, s)
      let full := visits / g.perPass
      let s := (List.range full).foldl (fun s p => s.tgPass stack ch p g.perPass errs) s
      let s := s.tgPass stack ch full (visits % g.perPass) errs
      s.modTg stack ch (fun g => { g with busy := false, done := true, stopping := false, pass := full % 256 }))

/-! ### Clears (R433, R434) -/

/-- HBM_STK_CLEAR: bit 0 sets TEMP_MAX to TEMP. -/
def execHbmStkClear (stack value : Nat) (s : State) : Out State :=
  .next (if bit value 0 then s.modStack stack (fun k => { k with tempMax := k.temp }) else s)
/-- HBM_CH_CNT_CLEAR. -/
def execHbmChCntClear (stack ch value : Nat) (s : State) : Out State :=
  .next (s.modStack stack (fun k => k.modChannel ch (fun c =>
    { c with cntCe := clr value 0 c.cntCe, cntUe := clr value 1 c.cntUe, cntPoison := clr value 2 c.cntPoison })))

end Sys2Proof.Machine
end

