-- ==== Sys2Proof/Machine/CmdOps.lean ====
section
/-! DEFINITION. What the command engines share: reads and writes through a queue's address space, knots, fault registers,
watches, completion records and parking (R437 to R445, R469 to R482, R586 to R589). -/

namespace Sys2Proof.Machine

open Sys2Proof

/-! ### Engines (R370, R442) -/

/-- The agent ID of the engine that serves a queue of a KIND: launch engine r, DMA engine or bend engine. -/
def engineAgent (kind n : Nat) : Nat := if kind = 0 then 536 + n else if kind = 1 then 512 + n else 528 + n
/-- SRC_KIND and SRC_INDEX of a command engine (R645): a launch engine is its region's. -/
def engineSource (agent : Nat) : Nat × Nat :=
  if agent < 528 then (8, agent - 512) else if agent < 536 then (9, agent - 528) else (3, agent - 536)

/-! ### Memory through an address space -/

/-- How an access through a queue's address space ends. -/
inductive VmEnd where
  | ok (bs : List Byte)
  | fault (cause addr : Nat)
  | poisoned (addr pa : Nat)
  | remote (peer pa : Nat)
  /-- Memory of another package without REMOTE in the features (R542). -/
  | feature
  | noIndex (addr : Nat)
  /-- A home cannot serve now: nothing has happened (`State.attempt`). -/
  | unable
  deriving DecidableEq, Repr

/-- The pieces of [a, a + n) that cross no multiple of a block. -/
def blockPieces (block a n : Nat) : List (Nat × Nat) :=
  if n = 0 then []
  else (List.range ((a + n - 1) / block + 1 - a / block)).map (fun i =>
    let b := a / block * block
    let lo := max a (b + block * i)
    let hi := min (a + n) (b + block * (i + 1))
    (lo, hi - lo))

/-- Read n bytes through an address space as an engine acting for a coil; the first byte that cannot be read ends it. -/
def State.vmRead (s : State) (agent coil asroot va n : Nat) (k : Access) : VmEnd × State :=
  (blockPieces 4096 va n).foldl (fun (acc : VmEnd × State) (p : Nat × Nat) =>
    match acc.1 with
    | .ok bs =>
      match acc.2.xlate agent coil asroot p.1 k with
      | (.fault c, s) => (.fault c p.1, s)
      | (.poisoned a, s) => (.poisoned p.1 a, s)
      | (.noIndex, s) => (.noIndex p.1, s)
      | (.unable, s) => (.unable, s)
      | (.remote q a, s) => (.remote q a, s)
      | (.here a nc, s) =>
        match s.bytesRead agent a p.2 nc with
        | (.ok d, s) => (.ok (bs ++ d), s)
        | (.poisoned, s) => (.poisoned p.1 a, s)
        | (_, s) => (.unable, s)
    | r => (r, acc.2)) (.ok [], s)

/-- The ending that a failed access gives a command (R155, R321, R335, R482, R532): `kind` is the access kind. -/
def VmEnd.ending (e : VmEnd) (kind va : Nat) : Ending :=
  match e with
  | .fault c a => { status := 0x17, cause := c, fault := some { cause := c, kind := kind, addr := a } }
  | .poisoned a _ => { status := 0x16, fault := some { cause := 0, kind := kind, addr := a } }
  | .noIndex a => { status := 0x18, cause := 0x63, fault := some { cause := 0x63, kind := kind, addr := a } }
  | .remote _ _ => { status := 0x18, cause := 0x62, fault := some { cause := 0x62, kind := kind, addr := va } }
  | .feature => { status := 0x10, cause := 0x06 }
  | _ => { status := 0x16, fault := some { cause := 0, kind := kind, addr := va } }

/-- Poison met by an access is logged against its engine (R321). -/
def State.vmPoison (s : State) (agent : Nat) (e : VmEnd) : State :=
  match e with
  | .poisoned _ pa => s.poisonUse (engineSource agent).1 (engineSource agent).2 pa
  | _ => s

/-- Write bytes through an address space for a command; remote pieces go as WR and their acknowledgements are awaited (R467,
R543), where the command's features and the peer allow it (R532, R542). The write is whole or it ends before anything is written. -/
def State.vmWrite (s : State) (c : Cmd) (va : Nat) (bs : List Byte) (k : Access) : VmEnd × State :=
  let ps := blockPieces 128 va bs.length
  let (r, s) := ps.foldl (fun (acc : (VmEnd × List (Xlated × Nat × List Byte)) × State) (p : Nat × Nat) =>
    match acc.1.1 with
    | .ok _ =>
      let d := (bs.drop (p.1 - va)).take p.2
      (match acc.2.xlate c.engine c.coil c.asroot p.1 k with
      | (.fault x, s) => ((.fault x p.1, []), s)
      | (.poisoned a, s) => ((.poisoned p.1 a, []), s)
      | (.noIndex, s) => ((.noIndex p.1, []), s)
      | (.unable, s) => ((.unable, []), s)
      | (.remote q a, s) =>
        if !c.features.getLsbD 12 then ((.feature, []), s)
        else if s.peerGone q then ((.remote q a, []), s)
        else ((.ok [], acc.1.2 ++ [(.remote q a, p.1, d)]), s)
      | (x, s) => ((.ok [], acc.1.2 ++ [(x, p.1, d)]), s))
    | _ => acc) ((.ok [], []), s)
  match r.1 with
  | .ok _ => (.ok [], r.2.foldl (fun s e => match e.1 with
      | .here a nc => (s.bytesWrite c.engine a e.2.2 nc).2
      | .remote p a => s.remoteRequest (.cmd c.id) p
          (wrPacket a (linePlace (a % 128) e.2.2) (byteMask (a % 128) e.2.2.length)) { va := e.2.1 }
      | _ => s) s)
  | e => (e, s.vmPoison c.engine e)

/-! ### Fault registers, events and halting (R438, R445, R482) -/

/-- Write a queue's fault registers (R482): each write replaces the last. -/
def State.queueFault (s : State) (q seq : Nat) (f : FaultInfo) : State :=
  s.modQueue q (fun k => { k with fSeq := seq, fCause := f.cause, fKind := f.kind, fObj := f.obj, fObjBelay := f.objBelay,
                                  fValid := true, fAddr := f.addr, fPc := f.pc, faults := satAdd 16 k.faults 1 })
/-- A RUNNING queue becomes HALTED. -/
def State.halt (s : State) (q : Nat) : State :=
  s.modQueue q (fun k => if k.state = .running then { k with state := .halted } else k)

/-- Entries of a queue's ring (R437). -/
def Queue.entries (k : Queue) : Nat := 2 ^ (k.size + 6)
/-- Commands of a queue in flight (R438, R439, R456). -/
def State.inFlight (s : State) (q : Nat) : Nat := (s.cmds.filter (fun c => c.queue == q)).length
/-- A command of the queue's own ring, not a node of a cane. -/
def Cmd.own (c : Cmd) (q : Nat) : Bool := c.queue == q && c.node.isNone

/-- A queue that drains or cancels and has nothing in flight is DISABLED (R443, R444, R586). -/
def State.settleQueue (s : State) (q : Nat) : State :=
  let st := (s.queue q).state
  if (st = .draining ∨ st = .cancelling) ∧ s.inFlight q = 0 then
    (s.dropWatch 0 q).modQueue q (fun k => { k with state := .disabled, polling := false, tailDue := false, park := false })
  else s

/-! ### Knots (R469 to R473, R479) -/

/-- How one signal ends. -/
inductive SigEnd where
  /-- Performed here, or on its way to its home. -/
  | done
  /-- The address does not translate: left unsignalled (R479). -/
  | left
  /-- The knot is poisoned or its home is GONE: left unsignalled, and the command takes this status. -/
  | failed (status cause : Nat)
  deriving DecidableEq, Repr

/-- Atomics on a knot for a command, in order (R470, R543). -/
def State.knotOps (s : State) (c : Cmd) (va : Nat) (ops : List (Nat × Nat)) : SigEnd × State :=
  if va % 8 ≠ 0 || asMode c.asroot != 10 then (.left, s)
  else match s.xlate c.engine c.coil c.asroot va .atomic with
    | (.here a nc, s) => ops.foldl (fun (acc : SigEnd × State) (o : Nat × Nat) =>
        match acc.1 with
        | .done => (match acc.2.atomWord c.engine a o.1 o.2 0 nc with
          | (.ok _, s) => (.done, s)
          | (.poisoned, s) => (.failed 0x16 0, s.poisonUse (engineSource c.engine).1 (engineSource c.engine).2 a)
          | (_, s) => (.left, s))
        | _ => acc) (.done, s)
    | (.remote p a, s) =>
      if !(c.features.getLsbD 3 && c.features.getLsbD 12) then (.left, s)
      else if s.peerGone p then (.failed 0x18 0x62, s)
      else (.done, ops.foldl (fun s o => s.remoteRequest (.cmd c.id) p (atPacket a o.1 8 o.2 0) { va := va }) s)
    | (_, s) => (.left, s)

/-- Signal a knot with a value: an error signal ORs ERR first (R470). -/
def State.signalKnot (s : State) (c : Cmd) (va v : Nat) (err : Bool) : SigEnd × State :=
  s.knotOps c va ((if err then [(0x0E, 2 ^ 63)] else []) ++ [(0x08, v)])

/-- The check of a knot address at admission or at a node's start (R469, R460): how the command ends, if it fails. -/
def State.knotCheck (s : State) (c : Cmd) (va : Nat) : Option Ending × State :=
  match s.xlate c.engine c.coil c.asroot va .atomic with
  | (.here _ _, s) => (none, s)
  | (.remote _ _, s) =>
    (if c.features.getLsbD 3 && c.features.getLsbD 12 then none else some { status := 0x10, cause := 0x06 }, s)
  | (.fault k, s) => (some ((VmEnd.fault k va).ending 7 va), s)
  | (.poisoned a, s) => (some ((VmEnd.poisoned va a).ending 7 va), s.vmPoison c.engine (.poisoned va a))
  | (.noIndex, s) => (some ((VmEnd.noIndex va).ending 7 va), s)
  | (.unable, s) => (some (VmEnd.unable.ending 7 va), s)

/-- A signal failed when it was performed: a command below 0x10 takes the status; the fault registers take kind knot (R479). -/
def Cmd.sigFailed (c : Cmd) (status cause va : Nat) : Cmd :=
  let f : FaultInfo := { cause := cause, kind := 7, addr := va }
  match c.ending with
  | some e => { c with ending := some (if e.status < 0x10 then { status := status, cause := cause, fault := some f }
                                       else { e with fault := some f }) }
  | none => { c with ending := some { status := status, cause := cause, fault := some f } }

/-! ### Records (R475 to R477, R586 to R589) -/

/-- The 32 bytes of a record (R477). -/
def Completion.bytes (r : Completion) : List Byte :=
  leBytes 4 r.seq ++ leBytes 2 (r.queue % 2048 + 2048 * (r.dkind % 4) + 8192 * b2n r.errk + 16384 * b2n r.parked)
    ++ leBytes 1 r.status ++ leBytes 1 r.cause ++ leBytes 8 r.startFrame ++ leBytes 4 r.endFrame
    ++ leBytes 2 (min r.rw.saturations 65535) ++ leBytes 2 (min r.rw.scaleClamps 65535)
    ++ leBytes 2 (min r.rw.nanInputs 65535) ++ leBytes 2 (min r.rw.underflows 65535)
    ++ leBytes 2 (min r.wit 65535) ++ leBytes 2 r.detail

/-- Set PARKED in the bytes of a record. -/
def setParked (bs : List Byte) : List Byte := bs.set 5 ((bs[5]?).getD 0 ||| 0x40)

/-- Park a record, or drop it: without PARK in its command's features, or while the area is full (R586 to R588). -/
def State.parkRecord (s : State) (park : Bool) (bs : List Byte) : State :=
  let h := s.hpt
  if !park || (h.parkTail + 2 ^ 32 - h.parkHead) % 2 ^ 32 == 4096 then
    { s with hpt := { h with parkOverflow := satAdd 16 h.parkOverflow 1 } }.logErr .event 0x51 11 0
  else
    { s with hpt := { h with park := Tbl.set [] h.park (h.parkTail % 4096) (setParked bs), parkTail := wrapAdd 32 h.parkTail 1 } }

/-- The place of record n of a queue. -/
def Queue.recordAt (k : Queue) (n : Nat) : Nat := k.cplBase * 4096 + 32 * (n % k.entries)

/-- Write a record where it goes: the completion ring, host memory, or the parking area (R476, R586, R589). -/
def State.putRecord (s : State) (c : Cmd) (r : Completion) : State :=
  let q := s.queue c.queue
  let bs := r.bytes
  if q.park then s.parkRecord (c.features.getLsbD 10) bs
  else if q.cplLoc then
    { s with hpt := { s.hpt with
        posted := s.hpt.posted ++ [{ addr := q.recordAt r.seq, bytes := bs, record := some c.queue, park := c.features.getLsbD 10 }],
        confirms := s.hpt.confirms ++
          (if q.confirm then [{ queue := c.queue, seq := r.seq, bytes := bs, park := c.features.getLsbD 10 }] else []) } }
  else (s.bytesWrite c.engine (q.recordAt r.seq) bs).2

end Sys2Proof.Machine
end

