-- ==== Sys2Proof/Machine/DmaOps.lean ====
section
/-! DEFINITION. The DMA engines: transfer images, channels, bursts, and how a transfer ends (R492 to R516). -/

namespace Sys2Proof.Machine

open Sys2Proof

/-! ### Transfer images (R497, R498, R500) -/

/-- A field of the image: n bytes from command byte b. -/
def Xfer.fld (x : Xfer) (b n : Nat) : Nat := fieldAt x.image (b - 16) n
/-- OP: 0 COPY, 1 FILL, 2 COMPARE. -/
def Xfer.op (x : Xfer) : Nat := bits (x.fld 17 1) 0 2
/-- DIMS. -/
def Xfer.dims (x : Xfer) : Nat := bits (x.fld 17 1) 2 2
/-- The fill constant's size in bytes. -/
def Xfer.fsize (x : Xfer) : Nat := 2 ^ bits (x.fld 17 1) 4 2
/-- PACE. -/
def Xfer.pace (x : Xfer) : Bool := bit (x.fld 17 1) 6
/-- SRC_HOST. -/
def Xfer.srcHost (x : Xfer) : Bool := bit (x.fld 18 1) 0
/-- DST_HOST. -/
def Xfer.dstHost (x : Xfer) : Bool := bit (x.fld 18 1) 1
/-- The transfer addresses host memory. -/
def Xfer.host (x : Xfer) : Bool := x.srcHost || x.dstHost
/-- STASH_EN. -/
def Xfer.stashEn (x : Xfer) : Bool := bit (x.fld 18 1) 2
/-- Bytes per row. -/
def Xfer.len0 (x : Xfer) : Nat := x.fld 40 4
/-- Rows per plane. -/
def Xfer.cnt1 (x : Xfer) : Nat := if x.dims = 0 then 1 else x.fld 44 2
/-- Planes. -/
def Xfer.cnt2 (x : Xfer) : Nat := if x.dims < 2 then 1 else x.fld 46 2
/-- Bytes of the transfer. -/
def Xfer.total (x : Xfer) : Nat := x.len0 * x.cnt1 * x.cnt2
/-- An address of the transfer: base + i2 × stride 2 + i1 × stride 1 + i0 (R498). -/
def Xfer.at_ (x : Xfer) (base s1 s2 n : Nat) : Nat :=
  let i0 := n % x.len0
  let i1 := n / x.len0 % x.cnt1
  let i2 := n / x.len0 / x.cnt1
  ofS 64 ((base : Int) + i2 * toS 32 s2 + i1 * toS 32 s1 + i0)
/-- Where byte n is read. -/
def Xfer.srcAt (x : Xfer) (n : Nat) : Nat := x.at_ (x.fld 24 8) (x.fld 48 4) (x.fld 56 4) n
/-- Where byte n is written. -/
def Xfer.dstAt (x : Xfer) (n : Nat) : Nat := x.at_ (x.fld 32 8) (x.fld 52 4) (x.fld 60 4) n

/-- The image is in rule (R500). -/
def Xfer.ok (x : Xfer) : Bool :=
  let opc := x.fld 17 1
  let mult (b n : Nat) : Bool := decide (toS 32 (x.fld b n) % (x.fsize : Int) = 0)
  x.op != 3 && x.dims != 3 && !bit opc 7 && decide (x.fld 18 1 < 8) && decide (x.fld 19 2 < 4096) && x.fld 21 3 == 0
    && (x.dims != 0 || (x.fld 44 2 == 0 && x.fld 48 8 == 0)) && (2 ≤ x.dims || (x.fld 46 2 == 0 && x.fld 56 8 == 0))
    && x.len0 != 0 && x.cnt1 != 0 && x.cnt2 != 0 && decide (x.total ≤ 2 ^ 42) && !(x.srcHost && x.dstHost)
    && (x.op != 1 || (!x.srcHost && decide (x.fld 24 8 < 2 ^ (8 * x.fsize)) && decide (x.fld 32 8 % x.fsize = 0)
          && decide (x.len0 % x.fsize = 0) && (x.dims == 0 || mult 52 4) && (x.dims != 2 || mult 60 4)))
    && !(x.op == 2 && x.stashEn)

/-- The rows of an area: first addresses. -/
def Xfer.rows (x : Xfer) (at_ : Nat → Nat) : List Nat := (List.range (x.cnt1 * x.cnt2)).map (fun i => at_ (i * x.len0))

/-- Source and destination bytes of a copy overlap (R504): by virtual address. -/
def Xfer.overlap (x : Xfer) : Bool :=
  x.op == 0 && !x.host &&
    (let a := x.rows x.srcAt
     let b := x.rows x.dstAt
     let lo (l : List Nat) := l.foldl min (2 ^ 64)
     let hi (l : List Nat) := l.foldl max 0
     overlaps (lo a) (hi a - lo a + x.len0) (lo b) (hi b - lo b + x.len0)
       && a.any (fun p => b.any (fun q => overlaps p x.len0 q x.len0)))

/-- The burst that begins at byte n: at most 4 KiB of one row, inside 4 KiB of source address (R493). -/
def Xfer.burstLen (x : Xfer) (n : Nat) : Nat :=
  min (x.len0 - n % x.len0) (if x.op = 1 then 4096 else 4096 - x.srcAt n % 4096)

/-! ### Translation of an engine (R499, R510, R511, R542) -/

/-- Where an engine's access goes, or how it ends. -/
inductive DmaAt where
  | to_ (d : DmaSrc)
  | ends (e : Ending)
  | bus (a : Nat)
  | poisoned (a : Nat)
  /-- Not now: an invalidation is in progress (R333), or the home of a page table cannot serve. -/
  | waits
  deriving DecidableEq, Repr

/-- A channel's ending, which names it (R477). -/
def dmaEnding (e c status cause : Nat) (fault : Option FaultInfo := none) : Ending :=
  { status := status, cause := cause, dkind := 3, detail := c + 16 * e, fault := fault }

/-- Where a translated access goes. -/
def State.dmaRoute (s : State) (e c : Nat) (x : Xfer) (va : Nat) (k : Access) (t : Tlb) : DmaAt :=
  match permCause t.flags k with
  | some q => .ends (dmaEnding e c 0x17 q (some { cause := q, kind := k.code, addr := va }))
  | none =>
    let pa := t.pa va
    match locality s.hws.indexValid s.hws.index pa with
    | .noIndex => .bus pa
    | .remote p =>
      if !x.features.getLsbD 12 then .ends (dmaEnding e c 0x10 0x06)
      else if s.peerGone p then .ends (dmaEnding e c 0x18 0x62) else .to_ (.remote p (paLocal pa))
    | .here => if (s.localCause x.coil (paLocal pa)).isSome then .bus (paLocal pa) else .to_ (.here (paLocal pa) (t.pbmt != 0))

/-- Translate through the engine's 256-entry cache, walking where it does not hit. -/
def State.dmaXlate (s : State) (e c : Nat) (x : Xfer) (va : Nat) (k : Access) : DmaAt × State :=
  let asid := asAsid x.asroot
  match (s.dmaEng e).tlb.find? (fun t => t.hits asid va) with
  | some t => (s.dmaRoute e c x va k t, s.modDma e (fun g => { g with tlb := keepMru 256 t g.tlb }))
  | none =>
    if s.xlt.busy then (.waits, { s with stuck := true })
    else match walk (pteReader (512 + e)) x.coil x.asroot va [] s with
      | (.fault q, _, s) => (.ends (dmaEnding e c 0x17 q (some { cause := q, kind := k.code, addr := va })), s)
      | (.poisoned a, _, s) => (.poisoned a, s)
      | (.unable, _, s) => (.waits, { s with stuck := true })
      | (.leaf t, _, s) => (s.dmaRoute e c x va k t, s.modDma e (fun g => { g with tlb := keepMru 256 t g.tlb }))

/-! ### Ending transfers (R495, R505, R508 to R511) -/

/-- A channel's reads that are outstanding at peers are given up. -/
def State.dmaUnread (s : State) (e c : Nat) : State :=
  { s with hws := { s.hws with reqs := s.hws.reqs.filter (fun r => !(r.who == .dma e c && r.packet.ty == 0x01)) } }

/-- Drop what a channel's active set holds: bursts, outstanding reads, the watch on its ring. Writes that have been sent are still
acknowledged, to the command, whose knots wait for them (R470). -/
def State.dmaDrop (s : State) (e c : Nat) : State :=
  let owner (s : State) : State := match (s.dmaCh e c).act with
    | some x => { s with hws := { s.hws with
        reqs := s.hws.reqs.map (fun r => if r.who = .dma e c then { r with who := .cmd x.cmd } else r) } }
    | none => s
  (owner ((s.dropWatch 3 (16 * e + c)).dmaUnread e c)).modDmaCh e c (fun k =>
    { k with act := none, bursts := [], issued := 0, mism := none, paused := false, starved := false, quiet := false,
             starveTicks := 0, paceDue := false })

/-- End a channel's active transfer. -/
def State.dmaEnd (s : State) (e c : Nat) (en : Ending) : State :=
  match (s.dmaCh e c).act with
  | none => s
  | some x => (s.dmaDrop e c).endCmd x.cmd en

/-- A bus error (R510): every channel drops its bursts and its active transfer ends; the shadow sets are kept. -/
def State.dmaBusError (s : State) (e a : Nat) : State :=
  let s := s.modDma e (fun k => { k with busErr := true, busErrCount := satAdd 16 k.busErrCount 1, errAddr := a })
  let s := s.logErr .event 0x30 8 e 0 a
  (List.range 16).foldl (fun s c => s.dmaEnd e c (dmaEnding e c 0x20 0)) s

/-- What an access that cannot go on does to its channel. -/
def State.dmaFail (s : State) (e c va : Nat) (k : Access) : DmaAt → State
  | .ends en => s.dmaEnd e c en
  | .bus a => s.dmaBusError e a
  | .poisoned a => (s.poisonUse 8 e a).dmaEnd e c (dmaEnding e c 0x16 0 (some { cause := 0, kind := k.code, addr := va }))
  | _ => s

/-! ### Bursts (R493 to R505) -/

/-- Translate the pieces of an area [va, va + len) of a burst that starts at byte n. -/
def State.dmaParts (s : State) (e c : Nat) (x : Xfer) (second hostArea : Bool) (n va len : Nat) :
    Except (Nat × DmaAt) (List DmaPart) × State :=
  (blockPieces 128 va len).foldl (fun (acc : Except (Nat × DmaAt) (List DmaPart) × State) (p : Nat × Nat) =>
    match acc.1 with
    | .error _ => acc
    | .ok l =>
      let part (d : DmaSrc) : DmaPart := { n := n + (p.1 - va), len := p.2, second := second, src := d }
      if hostArea then (.ok (l ++ [part (.host p.1)]), acc.2)
      else match acc.2.dmaXlate e c x p.1 .load with
        | (.to_ d, s) => (.ok (l ++ [part d]), s)
        | (r, s) => (.error (p.1, r), s)) (.ok [], s)

/-- Send the reads of a burst's remote pieces (R543). -/
def State.dmaAsk (s : State) (e c : Nat) (ps : List DmaPart) : State :=
  ps.foldl (fun s p => match p.src with
    | .remote q a => s.remoteRequest (.dma e c) q (rdPacket a true)
    | _ => s) s

/-- Issue one burst of the active transfer, or end the transfer where an address fails; none: nothing to issue now. -/
def State.dmaIssue (s : State) (e c : Nat) (x : Xfer) : Option State :=
  let k := s.dmaCh e c
  if k.paused || decide (32 ≤ k.bursts.length) || decide (x.total ≤ k.issued) then none
  else
    let n := k.issued
    let len := x.burstLen n
    let put (ps : List DmaPart) (s : State) : State := (s.dmaAsk e c ps).modDmaCh e c (fun k =>
      { k with bursts := k.bursts ++ [{ from_ := n, len := len, parts := ps }], issued := n + len })
    if x.op = 1 then some (put [] s)
    else match s.dmaParts e c x false x.srcHost n (x.srcAt n) len with
      | (.error (_, .waits), _) => none
      | (.error (va, r), s) => some (s.dmaFail e c va .load r)
      | (.ok ps, s) =>
        if x.op = 2 then
          match s.dmaParts e c x true x.dstHost n (x.dstAt n) len with
          | (.error (_, .waits), _) => none
          | (.error (va, r), s) => some (s.dmaFail e c va .load r)
          | (.ok qs, s) => some (put (ps ++ qs) s)
        else some (put ps s)

/-- Pacing marks with hysteresis (R507). -/
def paceStep (mode low high fill : Nat) (paused : Bool) : Bool :=
  if high ≤ low then false
  else if mode = 1 then (if high ≤ fill then true else if fill ≤ low then false else paused)
  else if mode = 2 then (if fill ≤ low then true else if high ≤ fill then false else paused)
  else false

/-- Read a channel's ring and update PAUSED (R506, R507). -/
def State.dmaPace (s : State) (e c : Nat) : State :=
  let k := s.dmaCh e c
  let a := k.paceAddr * 16
  match k.act with
  | none => s
  | some x =>
    let s := s.modDmaCh e c (fun k => { k with paceDue := false })
    if (s.localCause x.coil a).isSome then s.dmaBusError e a
    else match s.bytesRead (512 + e) a 16 with
      | (.ok bs, s) =>
        let fill := (fieldAt bs 8 8 + 2 ^ 64 - fieldAt bs 0 8) % 2 ^ 64
        s.modDmaCh e c (fun k => { k with paused := paceStep k.paceMode k.paceLow k.paceHigh fill k.paused })
      | (.poisoned, s) => (s.poisonUse 8 e a).dmaEnd e c (dmaEnding e c 0x16 0)
      | (_, s) => s

/-- A transfer enters the active set: its host link must be up (R511), and its ring is watched (R506). -/
def State.dmaActivate (s : State) (e c : Nat) (x : Xfer) : State :=
  let s := s.modDmaCh e c (fun k => { k with act := some x, shd := none, done := 0, issued := 0, bursts := [], mism := none })
  if x.host && !s.hpt.linkUp then s.dmaEnd e c (dmaEnding e c 0x19 0x70)
  else if x.pace && (s.dmaCh e c).paceMode != 0 then
    let s := match s.lineAt ((s.dmaCh e c).paceAddr * 16) with
      | some l => (s.addWatch l 3 (16 * e + c)).2
      | none => s
    s.dmaPace e c
  else s

/-- One thing a channel can do now: accept a command into the shadow set, move it up, or issue a burst (R495, R496). -/
def State.dmaStep (s : State) (e c : Nat) : Option State :=
  let k := s.dmaCh e c
  match k.shd, k.queueing, k.act with
  | none, x :: t, _ => if k.disable then none else some (s.modDmaCh e c (fun k => { k with shd := some x, queueing := t }))
  | some x, _, none => if k.disable || (s.dmaEng e).busErr then none else some (s.dmaActivate e c x)
  | _, _, some x => if (s.dmaEng e).busErr then none else s.dmaIssue e c x
  | none, [], none => none

/-- A channel does everything it can now. -/
def State.dmaRunGo (e c : Nat) : Nat → State → State
  | 0, s => s
  | n + 1, s => match s.dmaStep e c with
    | some s' => if s'.stuck then s else State.dmaRunGo e c n s'
    | none => s

/-- Steps enough for a channel's 32 blocks and the transfers that wait for it. -/
def State.dmaRun (s : State) (e c : Nat) : State :=
  State.dmaRunGo e c (40 * ((s.dmaCh e c).queueing.length + 3)) s

/-! ### Writing and comparing (R494, R501 to R505) -/

/-- n free bytes. -/
def State.freeBytes : Nat → State → List Byte × State
  | 0, s => ([], s)
  | n + 1, s =>
    let (b, s) := s.freeVal 8
    let (t, s) := State.freeBytes n s
    (BitVec.ofNat 8 b :: t, s)

/-- Write a line or part of one: STH for a whole line that stashes, WNC otherwise (R364, R494). -/
def State.dmaLine (s : State) (e : Nat) (x : Xfer) (a : Nat) (nc : Bool) (bs : List Byte) : State :=
  match s.lineAt a with
  | none => s
  | some l =>
    if x.stashEn && x.features.getLsbD 7 && bs.length = 128 then
      let t := (s.transact { ty := .sth, src := 512 + e, line := l, data := lineOfBytes bs, target := x.fld 19 2,
                             coil := some x.coil, admitted := true }).2
      if t.waitsAt (512 + e) l then { s with stuck := true } else t
    else (s.bytesWrite (512 + e) a bs nc).2

/-- How a write of the active transfer's bytes ends. -/
inductive DmaWrote where
  | yes | waits | ended
  deriving DecidableEq, Repr

/-- Write bytes of the active transfer from its byte n. -/
def State.dmaWrite (s : State) (e c : Nat) (x : Xfer) (n : Nat) (bs : List Byte) : DmaWrote × State :=
  if x.dstHost then
    (.yes, { s with hpt := { s.hpt with posted := s.hpt.posted ++ [{ addr := x.dstAt n, bytes := bs }] } })
  else (blockPieces 512 (x.dstAt n) bs.length).foldl (fun (acc : DmaWrote × State) (p : Nat × Nat) =>
    if acc.1 ≠ .yes then acc
    else
      let d := (bs.drop (p.1 - x.dstAt n)).take p.2
      match acc.2.dmaXlate e c x p.1 .store with
      | (.to_ (.here a nc), s) => (.yes, (blockPieces 128 a d.length).foldl (fun s g =>
          s.dmaLine e x g.1 nc ((d.drop (g.1 - a)).take g.2)) s)
      | (.to_ (.remote q a), s) => (.yes, s.remoteRequest (.dma e c) q { ty := 0x10, cls := 3, addr := a, payload := d })
      | (.to_ (.host _), s) => (.yes, s)
      | (.waits, s) => (.waits, s)
      | (r, s) => (.ended, s.dmaFail e c p.1 .store r)) (.yes, s)

/-- The constant of a FILL at byte n for len bytes (R502). -/
def Xfer.fill (x : Xfer) (n len : Nat) : List Byte :=
  let pat := leBytes x.fsize (x.fld 24 8)
  (List.range len).map (fun i => (pat[(n + i) % x.len0 % x.fsize]?).getD 0)

/-- The bytes of one area of a burst, from its start up to the first piece that has not arrived or is poisoned: the bytes,
whether it is whole, and the place of the poison. -/
def gather (second : Bool) (ps : List DmaPart) : List Byte × Bool × Option DmaPart :=
  (ps.filter (fun p => p.second == second)).foldl (fun acc p =>
    if !acc.2.1 || acc.2.2.isSome then acc
    else match p.got with
      | none => (acc.1, false, none)
      | some (_, true) => (acc.1, true, some p)
      | some (bs, false) => (acc.1 ++ bs, true, none)) ([], true, none)

/-- The first place at which two lists differ. -/
def firstDiff (a b : List Byte) : Option Nat := (List.range (min a.length b.length)).find? (fun i => a[i]? != b[i]?)

/-- Poison reached by a transfer (R505). -/
def State.dmaPoison (s : State) (e c : Nat) (x : Xfer) (p : DmaPart) : State :=
  let a := match p.src with | .here a _ => a | .remote _ a => a | .host a => a
  let va := if p.second then x.dstAt p.n else x.srcAt p.n
  s.dmaFail e c va .load (.poisoned a)

/-- The oldest burst is written or compared as far as its data lets it; false: it still waits (R493, R503, R505). -/
def State.dmaLand (s : State) (e c : Nat) (x : Xfer) (b : Burst) : Bool × State :=
  let more (s : State) (n : Nat) : State := s.modDmaCh e c (fun k => { k with done := k.done + n, bursts := k.bursts.drop 1 })
  if x.op = 1 then
    match s.dmaWrite e c x b.from_ (x.fill b.from_ b.len) with
    | (.yes, s) => (true, more s b.len)
    | (_, s) => (false, s)
  else if x.op = 0 then
    match gather false b.parts with
    | (_, false, _) => (false, s)
    | (bs, true, p) =>
      let (bs, s) := if x.overlap then s.freeBytes bs.length else (bs, s)
      match s.dmaWrite e c x b.from_ bs, p with
      | (.yes, s), some p => (false, s.dmaPoison e c x p)
      | (.yes, s), none => (true, more s b.len)
      | (_, s), _ => (false, s)
  else
    match gather false b.parts, gather true b.parts with
    | (u, wu, pu), (v, wv, pv) =>
      if !wu || !wv then (false, s)
      else match firstDiff u v with
        | some i => (false, (s.dmaUnread e c).modDmaCh e c (fun k =>
            { k with done := k.done + i, bursts := [], issued := x.total, mism := some (b.from_ + i) }))
        | none => match pu, pv with
          | some p, some q => (false, s.dmaPoison e c x (if p.n ≤ q.n then p else q))
          | some p, none => (false, s.dmaPoison e c x p)
          | none, some q => (false, s.dmaPoison e c x q)
          | none, none => (true, more s b.len)

/-- Bursts are written in transfer order; one that meets a home that cannot serve now is written later, whole. -/
def State.dmaDrain (e c : Nat) : Nat → State → State
  | 0, s => s
  | n + 1, s => match (s.dmaCh e c).act, (s.dmaCh e c).bursts with
    | some x, b :: _ => (match s.dmaLand e c x b with
      | (done, s') => if s'.stuck then s else if done then State.dmaDrain e c n s' else s')
    | _, _ => s

/-! ### Commands (R496, R500, R508, R509) -/

/-- A DMA command is admitted: its checks, then it waits for the shadow set (R496, R500); the caller has checked COIL. -/
def State.dmaSubmit (s : State) (e c : Nat) (x : Xfer) : State :=
  if !x.ok then s.endCmd x.cmd (dmaEnding e c 0x10 0x40)
  else if x.op = 2 && !x.features.getLsbD 8 then s.endCmd x.cmd (dmaEnding e c 0x10 0x06)
  else if (s.dmaCh e c).disable then s.endCmd x.cmd (dmaEnding e c 0x10 0x50)
  else (s.modDmaCh e c (fun k => { k with queueing := k.queueing ++ [x] })).dmaRun e c

/-- A DMA command is stopped by a cancel or a timeout: only that command (R509). -/
def State.dmaStop (s : State) (e c id : Nat) : State :=
  let k := s.dmaCh e c
  let s := if k.act.any (fun x => x.cmd == id) then s.dmaDrop e c else s
  (s.modDmaCh e c (fun k => { k with shd := k.shd.filter (fun x => x.cmd != id),
                                     queueing := k.queueing.filter (fun x => x.cmd != id) })).dmaRun e c

/-- The command waits for its channel to accept it into the shadow set (R457). -/
def State.dmaWaiting (s : State) (e c id : Nat) : Bool := (s.dmaCh e c).queueing.any (fun x => x.cmd == id)

/-- The active transfer has ended: every write performed or every comparison made (R495). -/
def State.dmaOver (s : State) (e c : Nat) : Bool :=
  let k := s.dmaCh e c
  match k.act with
  | none => false
  | some x => k.bursts.isEmpty && decide (x.total ≤ k.issued) && !s.hws.reqs.any (fun r => r.who == .dma e c)

/-- A FILL reads nothing: its bursts are written as they are issued (R502). -/
def State.dmaFill (e c : Nat) : Nat → State → State
  | 0, s => s
  | n + 1, s =>
    let s' := (State.dmaDrain e c 32 s).dmaRun e c
    if s'.dmaCh e c = s.dmaCh e c then s' else State.dmaFill e c n s'

/-- The end of the active transfer (R495, R503). -/
def State.dmaFinish (s : State) (e c : Nat) : State :=
  let k := s.dmaCh e c
  match k.act with
  | none => s
  | some x =>
    let s := if x.op ≠ 2 then s else s.modDmaCh e c (fun k =>
      { k with resOffset := k.mism.getD k.resOffset, resMismatch := k.mism.isSome, resValid := true, resSeq := x.seq,
               resQueue := x.queue })
    s.dmaEnd e c (dmaEnding e c (if k.mism.isSome then 0x03 else 0) 0)

end Sys2Proof.Machine
end

