-- ==== Sys2Proof/Machine/DmaRows.lean ====
section
/-! DEFINITION. Events of the DMA engines (R493 to R513). -/

namespace Sys2Proof.Machine

open Sys2Proof

/-- Take n bytes off what came from outside: the piece's bytes and POISON, and the rest; none: it has not come. -/
def takeExt (ext : ReadBack (List Byte)) (n : Nat) : Option (List Byte × Bool) × ReadBack (List Byte) :=
  match ext with
  | .ok bs => if n ≤ bs.length then (some (bs.take n, false), .ok (bs.drop n)) else (none, .ok [])
  | .poisoned => (some ([], true), .ok [])
  | .failed => (none, .failed)
  | .held => (none, .held)

/-- One piece of a burst arrives: local memory is read now, a remote line or host memory comes from outside (R494, R543). -/
def State.dmaPart (s : State) (e c : Nat) (ext : ReadBack (List Byte)) (p : DmaPart) :
    DmaPart × ReadBack (List Byte) × State :=
  match p.got, p.src with
  | some _, _ => (p, ext, s)
  | none, .here a nc =>
    (match s.bytesRead (512 + e) a p.len nc with
    | (.ok bs, s) => ({ p with got := some (bs, false) }, ext, s)
    | (.poisoned, s) => ({ p with got := some ([], true) }, ext, s)
    | _ => (p, ext, s))
  | none, src =>
    match takeExt ext p.len with
    | (none, x) => (p, x, s)
    | (some d, x) =>
      let answered (r : RemoteReq) : Bool := match src with
        | .remote q a => r.who == .dma e c && r.peer == q && r.packet.ty == 0x01 && r.packet.addr == lineOf a
        | _ => false
      let s := match s.hws.reqs.find? answered with
        | some r => { s with hws := { s.hws with reqs := s.hws.reqs.erase r } }
        | none => s
      ({ p with got := some d }, x, s)

/-- A burst that waits for data from outside. -/
def Burst.external (b : Burst) : Bool :=
  b.parts.any (fun p => p.got.isNone && (match p.src with | .here _ _ => false | _ => true))

/-- Data has arrived for a channel: STARVED clears, whole bursts are written in order, and more are issued (R493, R513). -/
def State.dmaArrived (s : State) (e c : Nat) : State :=
  let s := s.modDmaCh e c (fun k => { k with quiet := false, starved := false, starveTicks := 0 })
  (State.dmaDrain e c 33 s).dmaRun e c

/-- DMA_BURST_DATA: read data arrives for burst i of a channel; `ext` is what comes from the host or another package. An
error completion of the host is a bus error (R493, R494, R501 to R505, R510, R513). -/
def execDmaBurstData (e c i : Nat) (ext : ReadBack (List Byte)) (s : State) : Out State :=
  .next (match (s.dmaCh e c).act, (s.dmaCh e c).bursts[i]? with
    | some x, some b =>
      if !s.alive || (s.dmaEng e).busErr then s
      else if ext = .failed && b.external then s.dmaBusError e (x.srcAt b.from_)
      else
        let (ps, _, s) := b.parts.foldl (fun (acc : List DmaPart × ReadBack (List Byte) × State) p =>
          match acc.2.2.dmaPart e c acc.2.1 p with
          | (p, x, s) => (acc.1 ++ [p], x, s)) ([], ext, s)
        let came := ps != b.parts || b.parts.isEmpty
        let s := s.modDmaCh e c (fun k => { k with bursts := k.bursts.set i { b with parts := ps } })
        if came || !b.external then s.dmaArrived e c else s
    | _, _ => s)

/-- DMA_TRANSFER_COMPLETE: every write of the active transfer has been performed, or every comparison made; the shadow set
moves up; or the channel goes on with it (R495, R502, R503). -/
def execDmaTransferComplete (e c : Nat) (s : State) : Out State :=
  .next (
    let s := match (s.dmaCh e c).act with
      | some x => if x.op = 1 && s.alive && !(s.dmaEng e).busErr then State.dmaFill e c x.total s else s
      | none => s
    if !s.alive then s else (if s.dmaOver e c then s.dmaFinish e c else s).dmaRun e c)

/-- DMA_BUS_ERROR: an error response to an access of the engine arrives (R510). -/
def execDmaBusError (e addr : Nat) (s : State) : Out State :=
  .next (if !s.alive || (s.dmaEng e).busErr || (List.range 16).all (fun c => (s.dmaCh e c).act.isNone) then s
         else s.dmaBusError e addr)

/-- DMA_BUS_ERR_DRAIN: every response awaited has come or been discarded; BUS_ERR clears and the shadow sets move up (R510). -/
def execDmaBusErrDrain (e : Nat) (s : State) : Out State :=
  .next (if !s.alive || !(s.dmaEng e).busErr then s
         else (List.range 16).foldl (fun s c => s.dmaRun e c) (s.modDma e (fun k => { k with busErr := false })))

/-- A channel is starving (R512). -/
def DmaCh.starving (k : DmaCh) : Bool :=
  k.act.isSome && k.quiet && k.bursts.any (fun b => b.parts.any (fun p => p.got.isNone) && b.parts.any (fun p => p.got.isSome))

/-- STARVED: the channel has starved at STALL_LIMIT consecutive ticks (R513). -/
def execStarved (e c : Nat) (s : State) : Out State :=
  .next (
    let k := s.dmaCh e c
    if !s.alive || k.stallLimit = 0 || k.starved || !k.starving || decide (k.starveTicks < k.stallLimit) then s
    else (s.modDmaCh e c (fun k => { k with starved := true, event := 0x21, starveCount := satAdd 16 k.starveCount 1 })).logErr
      .event 0x31 8 e c)

/-- PACE_READ: a woken channel reads its ring again (R506, R507). -/
def execPaceRead (e c : Nat) (s : State) : Out State :=
  .next (
    let k := s.dmaCh e c
    if !s.alive || !k.paceDue || k.act.isNone then s else (s.attempt (s.dmaPace e c)).dmaRun e c)

/-- DMA_CH_DISABLE: everything in the channel is dropped; a transfer that is already over completes; DONE becomes a free
value (R508). -/
def execDmaChDisable (e c : Nat) (s : State) : Out State :=
  .next (
    let s := if s.dmaOver e c then s.dmaFinish e c else s
    let k := s.dmaCh e c
    let s := s.modDmaCh e c (fun k => { k with disable := true })
    if k.act.isNone && k.shd.isNone then s
    else
      let s := s.dmaEnd e c (dmaEnding e c 0x1B 0x51)
      let s := match k.shd with
        | some x => s.endCmd x.cmd (dmaEnding e c 0x1B 0x51)
        | none => s
      let (d, s) := s.freeVal 64
      s.modDmaCh e c (fun k => { k with shd := none, done := d }))

/-- DMA_CH_ENABLE: DISABLE is written to 0; the channel accepts again (R508). -/
def execDmaChEnable (e c : Nat) (s : State) : Out State :=
  .next ((s.modDmaCh e c (fun k => { k with disable := false })).dmaRun e c)

end Sys2Proof.Machine
end

