-- ==== Sys2Proof/Machine/BendOps.lean ====
section
/-! DEFINITION. The bend engines: collectives, their contributions, results and aborts (R547 to R561). -/

namespace Sys2Proof.Machine

open Sys2Proof

/-! ### Operations and types (R550 to R554) -/

/-- A reduction: ALLREDUCE or REDUCE_SCATTER. -/
def Collective.reduces (k : Collective) : Bool := decide (k.op ≤ 1)
/-- Bytes of one element of an input. -/
def bendBytes : Nat → Nat
  | 0 => 8 | 1 => 4 | 2 => 2 | 3 => 4 | 4 => 8 | _ => 1
/-- MXFP8. -/
def bendMx (dtype : Nat) : Bool := decide (5 ≤ dtype)
/-- Bytes of an array of n elements. -/
def bendLen (dtype n : Nat) : Nat := n * bendBytes dtype + (if bendMx dtype then n / 32 else 0)
/-- Block q of an array of m blocks of n elements: its elements, then its scales (R551). -/
def bendBlock (dtype m n q : Nat) (bs : List Byte) : List Byte :=
  let w := n * bendBytes dtype
  (bs.drop (q * w)).take w ++ (if bendMx dtype then (bs.drop (m * n + q * (n / 32))).take (n / 32) else [])
/-- Members of a group. -/
def Collective.m (k : Collective) : Nat := k.members.length

/-- Element e of a contribution, widened to the tree's format (R552). -/
def bendWiden (dtype n e : Nat) (bs : List Byte) : Nat :=
  let c := fieldAt bs (e * bendBytes dtype) (bendBytes dtype)
  match dtype with
  | 0 => (redWiden 0 c).1
  | 1 => (redWiden 1 c).1
  | 2 => (redWiden 2 c).1
  | 3 => c
  | 4 => c
  | d => (dequant (blkFmt (d - 5)) false 0 (fieldAt bs (n + e / 32) 1) c).1

/-- The identity of a reduction (R192, R554). -/
def bendIdentity (dtype red : Nat) : Nat :=
  match dtype with
  | 0 => redIdentity 0 red
  | 3 => redIdentity 4 red
  | 4 => (match red with | 0 => 0 | 1 => 2 ^ 63 - 1 | _ => 2 ^ 63)
  | _ => redIdentity 1 red

/-- Combine two values of the tree (R554). -/
def bendCombine (dtype red a b : Nat) : Nat :=
  let int (w : Nat) : Nat := match red with
    | 0 => (a + b) % 2 ^ w
    | 1 => if toS w a ≤ toS w b then a else b
    | _ => if toS w a ≤ toS w b then b else a
  match dtype with
  | 0 => (redCombine fp64 red a b).1
  | 3 => int 32
  | 4 => int 64
  | _ => (redCombine fp32 red a b).1

/-- The smallest power of two at or above m. -/
def pow2Above (m : Nat) : Nat := 2 ^ bitLen (m - 1)

/-- One element of a reduction over contributions in rank order (R553). -/
def bendReduce (dtype red : Nat) (xs : List Nat) : Nat :=
  let id := bendIdentity dtype red
  tree (bendCombine dtype red) id (xs ++ List.replicate (pow2Above xs.length - xs.length) id)

/-- A result's bytes as written (R552). -/
def bendNarrow (dtype : Nat) (out32 : Bool) (c : Nat) : List Byte :=
  match dtype with
  | 0 => leBytes 8 c
  | 4 => leBytes 8 c
  | 2 => if out32 then leBytes 4 c else leBytes 2 (convert (.fp fp32) (.fp bf16) 0 false c).1
  | _ => leBytes 4 c

/-- What a member writes to DST once it holds every contribution it needs (R551, R553). -/
def Collective.result (k : Collective) : List Byte :=
  let got (r : Nat) : List Byte := Tbl.get [] k.got r
  match k.op with
  | 2 =>
    let w := k.count * bendBytes k.dtype
    (List.range k.m).flatMap (fun r => (got r).take w) ++ (List.range k.m).flatMap (fun r => (got r).drop w)
  | 3 => got k.root
  | 4 => []
  | _ => (List.range k.count).flatMap (fun e =>
      bendNarrow k.dtype k.out32 (bendReduce k.dtype k.red ((List.range k.m).map (fun r => bendWiden k.dtype k.count e (got r)))))

/-- The bytes that a member reads from SRC. -/
def Collective.srcLen (k : Collective) : Nat :=
  match k.op with
  | 1 => bendLen k.dtype (k.m * k.count)
  | 3 => if k.rank = k.root then bendLen k.dtype k.count else 0
  | 4 => 0
  | _ => bendLen k.dtype k.count
/-- The bytes that a member writes to DST. -/
def Collective.dstLen (k : Collective) : Nat :=
  match k.op with
  | 2 => bendLen k.dtype (k.m * k.count)
  | 3 => bendLen k.dtype k.count
  | 4 => 0
  | _ => k.count * (match k.dtype with | 0 => 8 | 4 => 8 | 2 => if k.out32 then 4 else 2 | _ => 4)

/-- What a member owes to rank q from its input; none: nothing (R551). -/
def Collective.owes (k : Collective) (q : Nat) (input : List Byte) : Option (List Byte) :=
  match k.op with
  | 1 => some (bendBlock k.dtype k.m k.count q input)
  | 3 => if k.rank = k.root then some input else none
  | _ => some input
/-- Ranks whose contributions a member needs. -/
def Collective.needs (k : Collective) : List Nat := if k.op = 3 then [k.root] else List.range k.m

/-- The signature of a collective: command bytes 16, 17, 20, 21 and 40 to 43 with BE zero, then table bytes 2 to 7 (R555). -/
def bendSignature (body table : List Byte) : Nat :=
  crc32 (((body.take 1).map (fun b => b &&& 0xF8)) ++ (body.drop 1).take 1 ++ (body.drop 4).take 2 ++ (body.drop 24).take 4
    ++ (table.drop 2).take 6)

/-! ### Packets of a collective (R537, R557, R558) -/

/-- The packets of one contribution: chunks of at most 488 bytes, each behind 24 bytes that name its collective, the sender's
rank and the whole length (notes/assumptions/22.md). -/
def bendPackets (b : Nat) (k : Collective) (dst : Nat) (bs : List Byte) : List Packet :=
  let head := leBytes 2 k.group ++ leBytes 2 k.rank ++ leBytes 4 k.tag ++ leBytes 4 k.number ++ leBytes 4 k.signature
    ++ leBytes 8 bs.length
  let n := max 1 ((bs.length + 487) / 488)
  (List.range n).map (fun i =>
    { ty := 0x18, cls := 3, dst := dst, tag := k.cmd % 4096, aux := b, payload := head ++ (bs.drop (488 * i)).take 488 })

/-- A peer that packets can be sent to now. -/
def State.peerUp (s : State) (p : Nat) : Bool := (s.peer p).state == .up

/-- A peer that the transport keeps packets for: UP, or DRAINING and not yet GONE. -/
def State.peerThere (s : State) (p : Nat) : Bool := s.peerUp p || (s.peer p).state == .draining

/-- A contribution of a collective to a member is still unacknowledged (R557): kept by the transport. -/
def State.bendOwed (s : State) (b : Nat) (k : Collective) (p : Nat) : Bool :=
  ((s.peer p).transport 3).kept.any (fun e => e.1.ty == 0x18 && e.1.aux == b && e.1.tag == k.cmd % 4096)

/-- Send ABORT to every other member (R558). -/
def State.bendAbort (s : State) (b : Nat) (k : Collective) (status : Nat) : State :=
  (k.members.filter (fun p => p != s.hws.index)).foldl (fun s p =>
    let body := leBytes 2 k.group ++ leBytes 4 k.tag ++ leBytes 4 k.number ++ leBytes 1 status
    let s := if s.hws.indexValid && s.peerThere p then s.sendPacket { ty := 0x25, cls := 0, dst := p, aux := b, payload := body } else s
    s.modBend b (fun x => { x with aborts := wrapAdd 64 x.aborts 1 })) s

/-- Remove a collective from its engine. -/
def Bend.remove (x : Bend) (cmd : Nat) : Bend :=
  { x with cols := x.cols.filter (fun k => k.cmd != cmd), queueing := x.queueing.filter (fun k => k.cmd != cmd) }

/-- A collective's command. -/
def Bend.col (x : Bend) (cmd : Nat) : Option Collective := (x.cols ++ x.queueing).find? (fun k => k.cmd == cmd)

/-- End a collective on this member with an error: ABORT to the others (R558). -/
def State.bendFail (s : State) (b : Nat) (k : Collective) (e : Ending) : State :=
  ((s.modBend b (fun x => x.remove k.cmd)).bendAbort b k e.status).endCmd k.cmd e

/-! ### Running a collective (R547, R556, R557) -/

/-- A contribution is taken in: a differing signature ends the collective (R555). -/
def State.bendTake (s : State) (b : Nat) (k : Collective) (x : Contribution) : State :=
  if x.signature ≠ k.signature then s.bendFail b k { status := 0x10, cause := 0x61 }
  else s.modBend b (fun e => { e with cols := e.cols.map (fun c =>
    if c.cmd = k.cmd then { c with got := Tbl.set [] c.got x.rank x.bytes, came := x.rank :: c.came } else c) })

/-- Does a contribution belong to a collective? -/
def isFor (x : Contribution) (k : Collective) : Bool := x.group == k.group && x.number == k.number

/-- Start a collective whose members are all reachable: read SRC, send what is owed, take what has come early. -/
def State.bendStart (s : State) (b : Nat) (k : Collective) : State :=
  match s.vmRead (528 + b) k.coil k.asroot k.src k.srcLen .load with
  | (.ok input, s) =>
    let s := k.members.zipIdx.foldl (fun s e =>
      if e.2 = k.rank then s
      else match k.owes e.2 input with
        | some bs => (bendPackets b k e.1 bs).foldl (fun s p => s.sendPacket p) s
        | none => s) s
    let own := (k.owes k.rank input).getD []
    let mark (c : Collective) : Collective :=
      if k.needs.contains k.rank then { c with started := true, got := Tbl.set [] c.got k.rank own, came := k.rank :: c.came }
      else { c with started := true }
    let s := s.modBend b (fun e => { e with cols := e.cols.map (fun c => if c.cmd = k.cmd then mark c else c) })
    let early := (s.bend b).earlyData.filter (fun x => isFor x k)
    let s := s.modBend b (fun e => { e with earlyData := e.earlyData.filter (fun x => !isFor x k) })
    early.foldl (fun s x => match (s.bend b).cols.find? (fun c => c.cmd == k.cmd) with
      | some c => s.bendTake b c x
      | none => s) s
  | (e, s) => (s.vmPoison (528 + b) e).bendFail b k (e.ending 0 k.src)

/-- Every other member of a collective is UP: none makes it wait (R533, R556). Until the package's own index is valid, nothing of a
collective is sent (R35, R528). -/
def State.bendReady (s : State) (k : Collective) : Bool :=
  k.members.all (fun p => p == s.hws.index || (s.hws.indexValid && s.peerUp p))

/-- One thing an engine can do: give a waiting collective a slot, or start one whose members are all UP and whose SRC its homes
serve now. -/
def State.bendStep (s : State) (b : Nat) : Option State :=
  let e := s.bend b
  let used := e.cols.length + (if b = 0 && s.lhr.jobRunning then 1 else 0)
  let free (k : Collective) : Bool := !e.cols.any (fun c => c.group == k.group && c.tag == k.tag)
  let first (k : Collective) : Bool := (e.queueing.find? (fun c => c.group == k.group && c.tag == k.tag)).any (fun c => c.cmd == k.cmd)
  match (if used < 16 then e.queueing.find? (fun k => free k && first k) else none) with
  | some k => some (s.modBend b (fun x => { x with cols := x.cols ++ [k], queueing := x.queueing.filter (fun c => c.cmd != k.cmd) }))
  | none => (e.cols.filter (fun k => !k.started && s.bendReady k)).findSome? (fun k =>
      let t := s.bendStart b k
      if t.stuck then none else some t)

/-- An engine does everything it can now. -/
def State.bendRunGo (b : Nat) : Nat → State → State
  | 0, s => s
  | n + 1, s => match s.bendStep b with
    | some s' => State.bendRunGo b n s'
    | none => s

/-- Every waiting collective may take a slot and start. -/
def State.bendRun (s : State) (b : Nat) : State :=
  State.bendRunGo b (2 * ((s.bend b).queueing.length + (s.bend b).cols.length) + 2) s

/-- The bodies' static checks (R550, R556): bytes 16 to 63. -/
def bendBodyOk (body : List Byte) : Bool :=
  let f (b n : Nat) := fieldAt body (b - 16) n
  let op := f 16 1 / 8
  let dtype := f 17 1 % 16
  let red := bits (f 17 1) 4 2
  let out32 := bit (f 17 1) 6
  decide (op ≤ 4) && decide (dtype ≤ 6) && red != 3 && !bit (f 17 1) 7 && f 18 2 == 0 && f 22 2 == 0 && f 44 4 == 0
    && f 56 8 == 0 && (decide (op ≤ 1) || (red == 0 && !out32)) && (!out32 || dtype == 2)
    && (!bendMx dtype || decide (f 40 4 % 32 = 0))
    && (if op = 4 then f 40 4 == 0 && f 24 8 == 0 && f 32 8 == 0 else f 40 4 != 0)
    && decide (f 48 8 % 64 = 0)

/-- An address range must lie in this package's memory (R556): how the command ends, if it does not. -/
def State.bendRange (s : State) (c : Cmd) (va n : Nat) (k : Access) : Option Ending × State :=
  (blockPieces 4096 va n).foldl (fun (acc : Option Ending × State) p =>
    match acc.1 with
    | some e => (some e, acc.2)
    | none => match acc.2.xlate c.engine c.coil c.asroot p.1 k with
      | (.here _ _, s) => (none, s)
      | (.remote _ _, s) => (some { status := 0x10, cause := 0x65 }, s)
      | (.noIndex, s) => (some { status := 0x10, cause := 0x65 }, s)
      | (.fault q, s) => (some ((VmEnd.fault q p.1).ending k.code p.1), s)
      | (.poisoned a, s) => (some ((VmEnd.poisoned p.1 a).ending k.code p.1), s.vmPoison c.engine (.poisoned p.1 a))
      | (.unable, s) => (some (VmEnd.unable.ending k.code p.1), s)) (none, s)

/-- A number of a group has been admitted already (R549). -/
def Bend.admitted (x : Bend) (group tag number : Nat) : Bool :=
  x.nexts.any (fun e => e.1 == (group, tag) && decide ((e.2 + 2 ^ 32 - 1 - number) % 2 ^ 32 < 2 ^ 31))

/-- The next number of a group after one that is admitted. -/
def Bend.sawNumber (x : Bend) (group tag number : Nat) : Bend :=
  { x with nexts := ((group, tag), (number + 1) % 2 ^ 32) :: x.nexts.filter (fun e => e.1 != (group, tag)) }

/-- A BEND command is admitted on an engine (R549, R555, R556). The group table is read once, whole. -/
def State.bendSubmit (s : State) (b : Nat) (c : Cmd) (body : List Byte) : State :=
  let f (x n : Nat) := fieldAt body (x - 16) n
  let fail (s : State) (cause : Nat) : State := s.endCmd c.id { status := 0x10, cause := cause }
  let gtab := f 48 8
  if !bendBodyOk body then fail s 0x40
  else match s.xlate c.engine c.coil c.asroot gtab .load with
    | (.remote _ _, s) => fail s 0x60
    | (.noIndex, s) => fail s 0x60
    | (_, s) =>
      match s.vmRead c.engine c.coil c.asroot gtab 16 .load with
      | (.ok head, s) =>
        let m := fieldAt head 2 2
        if m = 0 || decide (16384 < m) then fail s 0x60
        else match s.vmRead c.engine c.coil c.asroot (gtab + 16) (2 * m) .load with
          | (.ok tab, s) =>
            let members := (List.range m).map (fun i => fieldAt tab (2 * i) 2 % 16384)
            let k : Collective := {
              cmd := c.id, group := fieldAt head 0 2, tag := fieldAt head 4 4, number := 0, members := members
              rank := members.idxOf s.hws.index, op := f 16 1 / 8, dtype := f 17 1 % 16, red := bits (f 17 1) 4 2
              out32 := bit (f 17 1) 6, root := f 20 2, src := f 24 8, dst := f 32 8, count := f 40 4
              asroot := c.asroot, coil := c.coil, signature := bendSignature body head }
            if m ≤ k.root then fail s 0x40
            else if members.count s.hws.index ≠ 1 then fail s 0x60
            else match s.bendRange c k.src k.srcLen .load with
              | (some e, s) => s.endCmd c.id e
              | (none, s) => match s.bendRange c k.dst k.dstLen .store with
                | (some e, s) => s.endCmd c.id e
                | (none, s) => match s.xlate c.engine c.coil c.asroot (gtab + 8) .atomic with
                  | (.here a nc, s) =>
                    (match s.atomWord c.engine a 0x08 1 0 nc 4 with
                    | (.poisoned, s) =>
                      (s.vmPoison c.engine (.poisoned (gtab + 8) a)).endCmd c.id ((VmEnd.poisoned (gtab + 8) a).ending 2 (gtab + 8))
                    | (.failed, s) | (.held, s) => s.endCmd c.id (VmEnd.unable.ending 2 (gtab + 8))
                    | (.ok n, s) =>
                      let k := { k with number := n }
                      let s := s.modBend b (fun x => x.sawNumber k.group k.tag n)
                      if (s.bend b).early.contains (k.group, k.tag, k.number) then
                        (s.modBend b (fun x => { x with early := x.early.erase (k.group, k.tag, k.number) })).bendFail b k
                          { status := 0x18, cause := 0x64 }
                      else if members.any (fun p => p != s.hws.index && s.peerGone p) then
                        s.bendFail b k { status := 0x18, cause := 0x62 }
                      else (s.modBend b (fun x => { x with queueing := x.queueing ++ [k] })).bendRun b)
                  | (.fault q, s) => s.endCmd c.id ((VmEnd.fault q (gtab + 8)).ending 2 gtab)
                  | (_, s) => fail s 0x60
          | (e, s) => (s.vmPoison c.engine e).endCmd c.id (e.ending 0 gtab)
      | (e, s) => (s.vmPoison c.engine e).endCmd c.id (e.ending 0 gtab)

/-- A collective is stopped by a cancel or a timeout: ABORT with its status (R559); the caller ends the command. -/
def State.bendStop (s : State) (b cmd status : Nat) : State :=
  match (s.bend b).col cmd with
  | some k => ((s.modBend b (fun x => x.remove cmd)).bendAbort b k status).bendRun b
  | none => s

/-- A peer is GONE: every collective with it as a member ends with PARTNER_LOST (R532). -/
def State.bendPeerGone (s : State) (p : Nat) : State :=
  (List.range 8).foldl (fun s b =>
    (((s.bend b).cols ++ (s.bend b).queueing).filter (fun k => k.members.contains p)).foldl (fun s k =>
      s.bendFail b k { status := 0x18, cause := 0x62 }) s |>.bendRun b) s

/-- An ABORT arrives (R558): it ends its collective, or is kept for a number not yet admitted, 256 at most. -/
def State.bendAborted (s : State) (b group tag number : Nat) : State :=
  match ((s.bend b).cols ++ (s.bend b).queueing).find? (fun k => k.group == group && k.tag == tag && k.number == number) with
  | some k => (s.bendFail b k { status := 0x18, cause := 0x64 }).bendRun b
  | none => s.modBend b (fun x => if x.admitted group tag number then x else
      let l := x.early ++ [(group, tag, number)]
      { x with early := l.drop (l.length - 256) })

/-- A contribution arrives: it is taken into its collective, or kept until the collective starts (R549, R551 to R555). -/
def State.bendArrive (s : State) (b : Nat) (x : Contribution) : State :=
  match (s.bend b).cols.find? (fun k => isFor x k && k.started) with
  | some k => if x.rank < k.m then (s.bendTake b k x).bendRun b else s
  | none => s.modBend b (fun e => { e with earlyData := e.earlyData ++ [x] })

/-- A packet of a contribution arrives; the last one completes it (notes/assumptions/22.md). -/
def State.bendPart (s : State) (b : Nat) (payload : List Byte) : State :=
  let f (off n : Nat) : Nat := fieldAt payload off n
  let same (e : Contribution × Nat) : Bool := e.1.group == f 0 2 && e.1.rank == f 2 2 && e.1.tag == f 4 4 && e.1.number == f 8 4
  let old := ((s.bend b).coming.find? same).elim [] (fun e => e.1.bytes)
  let x : Contribution := { group := f 0 2, rank := f 2 2, tag := f 4 4, number := f 8 4, signature := f 12 4,
                            bytes := old ++ payload.drop 24 }
  let s := s.modBend b (fun e => { e with coming := e.coming.filter (fun y => !same y) })
  if f 16 8 ≤ x.bytes.length then s.bendArrive b x
  else s.modBend b (fun e => { e with coming := e.coming ++ [(x, f 16 8)] })

/-- A collective has everything it needs, and everything it owes has been acknowledged (R557). -/
def State.bendDone (s : State) (b : Nat) (k : Collective) : Bool :=
  k.started && k.needs.all (fun r => k.came.contains r)
    && k.members.all (fun p => !s.bendOwed b k p)

end Sys2Proof.Machine
end

