-- ==== Sys2Proof/Machine/BendRows.lean ====
section
/-! DEFINITION. Events of the bend engines (R551 to R558, R565, R566). -/

namespace Sys2Proof.Machine

open Sys2Proof

/-- BEND_PACKET: a contribution arrives: it is taken into its collective, or kept until the collective starts (R549, R551 to
R555). -/
def execBendPacket (b : Nat) (x : Contribution) (s : State) : Out State :=
  .next (if s.alive then s.bendArrive b x else s)

/-- ABORT: the named collective ends with PARTNER_LOST, now or when its number is admitted (R558). -/
def execAbort (b group tag number status : Nat) (s : State) : Out State :=
  .next (if !s.alive || decide (status < 0x10) then s else s.bendAborted b group tag number)

/-- COLLECTIVE_COMPLETE: every contribution is there and everything owed is acknowledged; the result is written to DST and the
collective completes; or the engine goes on with what waits (R551 to R554, R557). -/
def execCollectiveComplete (b cmd : Nat) (s : State) : Out State :=
  .next (s.attempt (match (s.bend b).cols.find? (fun k => k.cmd == cmd), s.cmd? cmd with
    | some k, some c =>
      if !s.alive then s
      else if !s.bendDone b k then s.bendRun b
      else match s.vmWrite c k.dst k.result .store with
        | (.ok _, s) =>
          let n := k.result.length
          ((s.modBend b (fun x => { x.remove cmd with ops := wrapAdd 64 x.ops 1, bytes := wrapAdd 64 x.bytes n })).endCmd cmd
            { status := 0 }).bendRun b
        | (e, s) => (s.bendFail b k (e.ending 1 k.dst)).bendRun b
    | _, _ => s))

/-- BND_CNT_CLEAR (R565, R566). -/
def execBndCntClear (b value : Nat) (s : State) : Out State :=
  .next (s.modBend b (fun x => { x with ops := clr value 0 x.ops, bytes := clr value 1 x.bytes, aborts := clr value 2 x.aborts }))

end Sys2Proof.Machine
end

