-- ==== Sys2Proof/Machine/UnitHank.lean ====
section
/-! DEFINITION. Hanks coming and going: room on a unit, the L1 split, dispatch, and the end of a hank and of its launch (R149
to R151, R217 to R222, R252, R253, R257 to R261, R314, R315, R458, R465, R626). -/

namespace Sys2Proof.Machine

open Sys2Proof

/-- Strands of a hank (R217). -/
def Desc.strands (d : Desc) : Nat := (d.threads + 31) / 32
/-- Bytes of the witness area (R158). -/
def Desc.witnessBytes (d : Desc) : Nat := if d.witEn then 4096 + 128 * d.witDepth * (128 * 2 ^ d.witK) else 0
/-- Hank-memory demand in bytes (R260). -/
def Desc.hmemBytes (d : Desc) : Nat := 1024 * d.hmem + 256 * d.divSpill * d.strands + d.witnessBytes
/-- Hank memory under a split code in bytes (R257). -/
def splitHmem (code : Nat) : Nat := (384 - 64 * code) * 1024

/-- The descriptor of a resident hank. -/
def State.descOf (s : State) (h : Hank) : Desc :=
  match s.cmd? h.launch with
  | some c => (match c.work with | .launch l => l.desc | _ => {})
  | none => {}

/-- A resource of R217 in use on a unit. -/
def State.inUse (s : State) (u : Nat) (f : Desc → Nat) : Nat := ((s.unit u).hanks.map (fun h => f (s.descOf h))).foldl (· + ·) 0

/-- The split a unit would take for a hank (R258, R259); none: it cannot. -/
def State.splitFor (s : State) (u : Nat) (d : Desc) : Option Nat :=
  let x := s.unit u
  if x.hanks.isEmpty then
    if d.l1Cfg ≠ 0 then some d.l1Cfg
    else if d.hmemBytes ≤ splitHmem x.l1Code then some x.l1Code else some 1
  else if d.l1Cfg = 0 || d.l1Cfg == x.l1Code then some x.l1Code else none

/-- Every demand of R217 fits in a unit's free resources (R221). -/
def State.hasRoom (s : State) (u : Nat) (d : Desc) : Bool :=
  match s.splitFor u d with
  | none => false
  | some code =>
    let fits (f : Desc → Nat) (limit : Nat) : Bool := decide (s.inUse u f + f d ≤ limit)
    fits Desc.strands 32 && fits (fun d => d.strands * 32 * d.regs) 65536 && fits Desc.tiles 32 && fits Desc.masks 7
      && fits Desc.acs 32 && fits Desc.belays 16 && fits Desc.hmemBytes (splitHmem code)

/-- A launch engine's units, from the one after that which last took a hank (R465). -/
def State.unitOrder (s : State) (c : Cmd) : List Nat :=
  let us := (s.unitsOfCoil c.coil).filter (fun u => !s.unitFenced u)
  let last := Tbl.get 0 s.lastUnit c.engine
  us.filter (fun u => decide (last ≤ u)) ++ us.filter (fun u => decide (u < last))

/-- The launch still has a hank to give. -/
def Launch.toGive (l : Launch) : Bool := !l.again.isEmpty || decide (l.nextHank < l.hankCount)
/-- The hank it gives next, and the launch after giving it. -/
def Launch.give (l : Launch) : Nat × Launch :=
  match l.again with
  | h :: t => (h, { l with again := t })
  | [] => (l.nextHank, { l with nextHank := l.nextHank + 1 })

/-- No launch admitted earlier on the same engine still has a hank to give, or waits for its descriptor (R458). -/
def State.firstToGive (s : State) (c : Cmd) : Bool :=
  s.cmds.all (fun x => x.engine != c.engine || decide (c.id ≤ x.id) || x.ending.isSome
    || (match x.work with | .launch l => !l.toGive | .descRead _ _ _ _ => false | _ => true))

/-- Free strand slots of a unit, ascending. -/
def State.freeSlots (s : State) (u : Nat) : List Nat := (List.range 32).filter (fun k => (s.strandAt u k).isNone)

/-- A strand as a hank becomes resident (R252). -/
def newStrand (d : Desc) (args hank slot i : Nat) : Strand :=
  let live := BitVec.ofNat 32 (2 ^ (min 32 (d.threads - 32 * i)) - 1)
  let t : Strand := { slot := slot, index := i, pc := d.entry, live := live, active := live }
  ((t.wrU 0 args).wrU 1 hank).wrU 2 i

/-- Change the split: drain, invalidate L1 (R259, R341). The unit must have drained. -/
def State.changeSplit (s : State) (u code : Nat) : State :=
  if (s.unit u).l1Code = code then s else s.modUnit u (fun x => { x with l1Code := code, l1 := [], misses := [] })

/-- HANK_DISPATCH: the launch engine gives the next hank of a launch to a unit (R221, R222, R252, R259, R261, R315, R465,
R626). -/
def execHankDispatch (cmd : Nat) (s : State) : Out State :=
  .next (match s.cmd? cmd with
    | none => s
    | some c => match c.work with
      | .launch l =>
        if !s.alive || s.lhr.stage != 0 || c.ending.isSome || !l.toGive || !s.firstToGive c then s
        else match (s.unitOrder c).find? (fun u => s.hasRoom u l.desc) with
          | none => s
          | some u =>
            let code := (s.splitFor u l.desc).getD 3
            let s := if (s.unit u).l1Code = code then s else s.drainWc u
            if (s.unit u).l1Code ≠ code && !(s.unit u).wc.isEmpty then s
            else
              let s := s.changeSplit u code
              let (n, l') := l.give
              let slots := s.freeSlots u
              let ts := (List.range l.desc.strands).map (fun i => newStrand l.desc l.args n ((slots[i]?).getD 0) i)
              let h : Hank := { launch := cmd, index := n, strands := ts, progress := s.ucyc u }
              let s := (s.modUnit u (fun x => { x with hanks := x.hanks ++ [h] })).l1Acquire u
              let s := s.modLaunch cmd (fun _ => { l' with used := if l'.used.contains u then l'.used else l'.used ++ [u] })
              let s := { s with lastUnit := Tbl.set 0 s.lastUnit c.engine (u + 1) }
              let s := s.modDom (regionOf u) (fun d => { d with gated := false, idleFrames := 0 })
              ts.foldl (fun s t => match s.ctxAny u t.slot with
                | some x => s.fetchAhead x t.pc
                | none => s) s
      | _ => s)

/-- Range-watch totals that exceed their thresholds: a bit of each count (R150). -/
def Launch.exceeded (l : Launch) : Nat :=
  let ex (c n : Nat) : Nat := if bit l.desc.rwMask c && decide ((l.desc.thresh[c]?).getD 0 < n) then 2 ^ c else 0
  ex 0 l.totals.saturations + ex 1 l.totals.scaleClamps + ex 2 l.totals.nanInputs + ex 3 l.totals.underflows

/-- The status of a launch that has run to its end (R151, R169). -/
def Launch.status (l : Launch) : Nat := if l.witExc ≠ 0 then 2 else if l.exceeded ≠ 0 then 1 else 0

/-- HANK_END: all its strands have ended and its copies and TMMAs are over; its writes are released, its counts join the
launch's totals and its resources are free; the last hank completes the launch (R149 to R151, R253, R279, R314, R315, R465). -/
def execHankEnd (u launch hank : Nat) (s : State) : Out State :=
  .next (match (s.unit u).hanks.find? (fun h => h.launch == launch && h.index == hank) with
    | none => s
    | some h =>
      let busy := (s.unit u).copies.any (fun k => k.launch == launch && k.hank == hank && !k.done)
        || (s.unit u).mmaQ.any (fun m => m.launch == launch && m.hank == hank)
      if !s.alive || busy || !h.strands.all (·.wait.isEnded) then s
      else
        let s := s.drainWc u
        if !(s.unit u).wc.isEmpty then s
        else
          let s := s.modLaunch launch (fun l => { l.addHank h with hanksDone := l.hanksDone + 1 })
          let s := s.freeHank u h
          match s.cmd? launch with
          | some c => (match c.work with
            | .launch l => if l.hanksDone = l.hankCount then s.endCmd launch { status := l.status } else s
            | _ => s)
          | none => s)

end Sys2Proof.Machine
end

