-- ==== Sys2Proof/Machine/CmdAdmit.lean ====
section
/-! DEFINITION. Admission of commands: their images, the checks of R480, and what each does when it is admitted (R325, R455 to
R480, R484 to R491). -/

namespace Sys2Proof.Machine

open Sys2Proof

/-! ### Images (R459 to R462) -/

/-- Split 64 bytes into opcode and image. -/
def parseCmd (l : List Byte) : Nat × CmdImg :=
  (fieldAt l 0 1, { flags := fieldAt l 1 1, sigInc := fieldAt l 2 2, rsvd := fieldAt l 4 4, sigKnot := fieldAt l 8 8
                    body := (l.drop 16).take 48 })

/-- A field of a command by its byte in the 64. -/
def cmdFld (c : CmdImg) (b n : Nat) : Nat := fieldAt c.body (b - 16) n
/-- Command bytes from b on are zero. -/
def cmdTail (c : CmdImg) (b : Nat) : Bool := fieldAt c.body (b - 16) (64 - b) == 0

/-- SIG and INTR. -/
def cmdSig (c : CmdImg) : Bool := bit c.flags 0
/-- INTR. -/
def cmdIntr (c : CmdImg) : Bool := bit c.flags 1

/-- The opcodes of R460. -/
def opcodes : List Nat := [0, 1, 2, 3, 4, 5, 8, 9, 0x0A, 0x0C, 0x0D, 0x0E]

/-- The header is in rule (R459, R469). -/
def headOk' (c : CmdImg) : Bool :=
  decide (c.flags < 4) && c.rsvd == 0
    && (if cmdSig c then c.sigInc != 0 && decide (c.sigKnot % 8 = 0) else c.sigInc == 0 && c.sigKnot == 0)

/-- The body is in rule (R461, R462, R469); DMA and BEND bodies are checked by their engines. -/
def cmdBodyOk (op : Nat) (c : CmdImg) : Bool :=
  let f := cmdFld c
  match op with
  | 0x01 => decide (f 16 8 % 64 = 0) && decide (f 36 1 < 2) && cmdTail c 37
  | 0x02 => decide (f 16 8 % 128 = 0) && decide (f 24 8 % 8 = 0) && cmdTail c 32
  | 0x03 => decide (f 16 8 % 128 = 0) && decide (f 24 1 < 4) && cmdTail c 25
  | 0x04 => true
  | 0x05 => true
  | 0x08 => decide (f 16 8 % 8 = 0) && f 24 8 != 0 && decide (f 24 8 < 2 ^ 63) && cmdTail c 32
  | 0x09 => decide (f 16 8 % 8 = 0) && decide (f 24 8 < 2 ^ 63) && cmdTail c 32
  | 0x0A => decide (f 16 1 < 2) && cmdTail c 17
  | 0x0C => cmdTail c 24
  | 0x0D => cmdTail c 24
  | 0x0E => decide (f 16 8 % 16 = 0) && decide (f 24 1 < 2) && cmdTail c 25
  | _ => cmdTail c 16

/-- The queue KINDs that accept an opcode (R460). -/
def kindAccepts (op kind : Nat) : Bool :=
  match op with
  | 0x01 => kind == 0 | 0x02 => kind == 0 | 0x03 => kind == 0 | 0x04 => kind == 1 | 0x05 => kind == 2
  | 0x0C => kind == 0 | 0x0D => kind == 0 | _ => true
/-- Allowed in a cane node (R460). -/
def nodeAccepts (op : Nat) : Bool := op != 2 && op != 3 && op != 0x0A
/-- The feature an opcode needs (R460). -/
def opFeature : Nat → Option Nat
  | 0x02 => some 2 | 0x03 => some 2 | 0x05 => some 13 | 0x0C => some 11 | 0x0D => some 11 | _ => none
/-- The knot an opcode's body names. -/
def bodyKnot (op : Nat) (c : CmdImg) : Option Nat := if op = 8 ∨ op = 9 then some (cmdFld c 16 8) else none
/-- The command translates an address through ASROOT (R325). -/
def opTranslates (op : Nat) (c : CmdImg) : Bool := [1, 2, 3, 4, 5, 8, 9, 0x0E].contains op || cmdSig c

/-- How a command ends at admission with STATE. -/
def stateEnd (cause : Nat) : Ending := { status := 0x10, cause := cause }

/-- The checks of R480 that every command goes through, in the order of its table, then ASROOT and the knots (R325, R464,
R469): none where it may execute. -/
def State.admitCheck (s : State) (op : Nat) (c : CmdImg) (k : Cmd) (kind : Nat) : Option Ending × State :=
  if !opcodes.contains op || !headOk' c || !cmdBodyOk op c then (some (stateEnd 0x40), s)
  else if !(if k.node.isSome then nodeAccepts op else kindAccepts op kind) then (some (stateEnd 0x41), s)
  else if (opFeature op).any (fun b => !k.features.getLsbD b) then (some (stateEnd 0x06), s)
  else if opTranslates op c && asMode k.asroot != 10 then (some (stateEnd 0x43), s)
  else ((bodyKnot op c).toList ++ (if cmdSig c then [c.sigKnot] else [])).foldl
    (fun (acc : Option Ending × State) va => match acc.1 with
      | some _ => acc
      | none => acc.2.knotCheck k va) (none, s)

/-! ### Launches (R147, R156, R219, R220, R258, R462 to R464) -/

/-- A descriptor's fields, and whether a bit that R463 does not name is set. -/
def parseDesc (l : List Byte) : Desc :=
  let f := fieldAt l
  { entry := f 0 8, rwReport := f 8 8, threads := bits (f 16 2) 0 11, regs := bits (f 18 2) 0 9, tiles := bits (f 20 1) 0 6
    masks := bits (f 21 1) 0 3, l1Cfg := bits (f 21 1) 3 3, acs := bits (f 22 1) 0 6, belays := bits (f 23 1) 0 5
    hmem := bits (f 24 2) 0 9, divSpill := bits (f 26 1) 0 4, rwMask := bits (f 26 1) 4 4, witEn := bit (f 27 1) 0
    witDepth := bits (f 27 1) 1 3, witK := bits (f 27 1) 4 2, witLog2N := bits (f 28 1) 0 4, witTau := bits (f 29 1) 0 5
    thresh := [f 32 4, f 36 4, f 40 4, f 44 4], witSeed := f 48 4
    rsvdSet := bits (f 16 2) 11 5 != 0 || bits (f 18 2) 9 7 != 0 || bits (f 20 1) 6 2 != 0 || bits (f 21 1) 6 2 != 0
      || bits (f 22 1) 6 2 != 0 || bits (f 23 1) 5 3 != 0 || bits (f 24 2) 9 7 != 0 || bits (f 27 1) 6 2 != 0
      || bits (f 28 1) 4 4 != 0 || bits (f 29 1) 5 3 != 0 || f 30 2 != 0 || f 52 12 != 0 }

/-- RW_REPORT passes R146. -/
def Desc.reportOk (d : Desc) : Bool := decide (d.rwReport % 64 = 0)

/-- Every field is valid, and a hank fits an empty unit (R146, R147, R156, R219, R220, R258). -/
def Desc.ok (d : Desc) (features : BitVec 128) : Bool :=
  decide (d.entry % 8 = 0) && decide (1 ≤ d.threads) && decide (d.threads ≤ 1024) && decide (8 ≤ d.regs) && decide (d.regs ≤ 256)
    && decide (d.regs % 8 = 0) && decide (d.tiles ≤ 32) && decide (d.acs ≤ 32) && decide (d.belays ≤ 16)
    && decide (d.hmem ≤ 320) && decide (d.l1Cfg ≤ 5) && d.reportOk
    && (!d.witEn || (decide (6 ≤ d.witLog2N) && decide (d.witLog2N ≤ 12) && decide (1 ≤ d.witTau) && decide (d.witTau ≤ 23)
          && decide (1 ≤ d.witDepth) && decide (d.witDepth ≤ 4) && decide (d.witK ≤ 2)
          && features.getLsbD 5 && features.getLsbD 4 && d.rwReport != 0))
    && decide (d.strands * 32 * d.regs ≤ 65536) && decide (d.hmemBytes ≤ splitHmem (if d.l1Cfg = 0 then 1 else d.l1Cfg))

/-- The descriptor has been read: the launch begins, or completes without executing (R464, R466). -/
def State.launchWith (s : State) (id : Nat) (bytes : List Byte) (args hankCount : Nat) (rerun : Bool) : State :=
  match s.cmd? id with
  | none => s
  | some c =>
    let d := parseDesc bytes
    let s := s.modCmd id (fun c => { c with work := .launch { desc := d, args := args, hankCount := hankCount, rerun := rerun } })
    if hankCount = 0 || d.rsvdSet || !d.ok c.features then s.endCmd id (stateEnd 0x42)
    else if (s.unitsOfCoil c.coil).all (fun u => s.unitFenced u) then s.endCmd id { status := 0x14 }
    else s

/-- A LAUNCH is admitted: its descriptor is read (R464). -/
def State.launchAdmit (s : State) (k : Cmd) (c : CmdImg) : State :=
  let va := cmdFld c 16 8
  let args := cmdFld c 24 8
  let count := cmdFld c 32 4
  let rerun := bit (cmdFld c 36 1) 0
  match s.vmRead k.engine k.coil k.asroot va 64 .load with
  | (.ok bs, s) => s.launchWith k.id bs args count rerun
  | (.remote p a, s) =>
    if !k.features.getLsbD 12 then s.endCmd k.id (stateEnd 0x06)
    else if s.peerGone p then s.endCmd k.id ((VmEnd.remote p a).ending 6 va)
    else (s.modCmd k.id (fun c => { c with work := .descRead (a % 128) args count rerun })).remoteRequest (.cmd k.id) p (rdPacket a) { va := va }
  | (e, s) => (s.vmPoison k.engine e).endCmd k.id (e.ending 6 va)

/-! ### Marks and hints (R467, R468) -/

/-- The 16 bytes that a MARK writes. -/
def State.markBytes (s : State) (seq : Nat) : List Byte := leBytes 8 s.frm.count ++ leBytes 4 s.phase ++ leBytes 4 seq

/-- A MARK writes and its work ends. -/
def State.markGo (s : State) (k : Cmd) (va : Nat) : State :=
  match s.vmWrite k va (s.markBytes k.seq) .store with
  | (.ok _, s) => s.endCmd k.id { status := 0 }
  | (e, s) => s.endCmd k.id (e.ending 9 va)

/-- A hint is handed to the Lehr; a FRAME already past applies from the next frame (R468, R612). -/
def State.hintGo (s : State) (k : Cmd) (c : CmdImg) (heavy : Bool) : State :=
  let f := cmdFld c 16 8
  let frame := if f ≤ s.frm.count then s.frm.count + 1 else f
  let h : Hint := { coil := k.coil, frame := frame, heavy := heavy }
  ({ s with lhr := { s.lhr with hints := s.lhr.hints ++ [h] } } : State).endCmd k.id { status := 0 }

/-! ### Canes (R484 to R491) -/

/-- Count of slot s in CTRL, as a weight. -/
def caneWeight (slot : Nat) : Nat := 2 ^ (14 * slot + 6)
/-- The launch count of a slot. -/
def caneCount (ctrl slot : Nat) : Nat := bits ctrl (14 * slot + 6) 14
/-- Field offsets of a slot in the header (R484). -/
def caneSlot (slot : Nat) : Nat := 16 + 16 * slot

/-- Where a cane structure lies: its local address and whether its page is of type NC or IO, or how the command ends (R480, R487): CANE_SLOT where it is not local,
COIL in another coil's scratchpad, PAGE_FAULT kind cane otherwise. -/
def State.caneAt (s : State) (k : Cmd) (va : Nat) (acc : Access) : Except Ending (Nat × Bool) × State :=
  match s.xlate k.engine k.coil k.asroot va acc with
  | (.here a nc, s) => (.ok (a, nc), s)
  | (.remote _ _, s) => (.error (stateEnd 0x44), s)
  | (.noIndex, s) => (.error (stateEnd 0x44), s)
  | (.poisoned a, s) => (.error ((VmEnd.poisoned va a).ending 8 va), s.vmPoison k.engine (.poisoned va a))
  | (.unable, s) => (.error (VmEnd.unable.ending 8 va), s)
  | (.fault q, s) =>
    match walk (pteReader k.engine) k.coil k.asroot va [] s with
    | (.leaf t, _, s) =>
      (.error (if s.foreignScratch k.coil (paLocal (t.pa va)) && (permCause t.flags acc).isNone then stateEnd 0x45
               else (VmEnd.fault q va).ending 8 va), s)
    | (_, _, s) => (.error ((VmEnd.fault q va).ending 8 va), s)

/-- A node record as read (R485). -/
def parseNode (nodes : Nat) (l : List Byte) : CaneNode :=
  let f := fieldAt l
  let n := f 66 1
  let succ := (List.range n).map (fun i => f (72 + 2 * i) 2)
  let ok := decide (f 64 2 ≤ 4095) && decide (n ≤ 24) && f 67 5 == 0 && f 120 8 == 0 && succ.all (fun x => decide (x < nodes))
  { command := l.take 64, npred := f 64 2, succ := if n ≤ 24 then succ else [], bad := if ok then none else some (stateEnd 0x44)
    st := if f 64 2 = 0 || decide (4095 < f 64 2) then .ready else .waiting }

/-- A node whose record cannot be read completes at once. -/
def badNode (e : Ending) : CaneNode := { bad := some e, st := .ready }

/-- Read one node record (R485, R488). -/
def State.readNode (s : State) (k : Cmd) (nodes va : Nat) : CaneNode × State :=
  if va % 128 ≠ 0 then (badNode (stateEnd 0x44), s)
  else match s.vmRead k.engine k.coil k.asroot va 128 .load with
    | (.ok bs, s) => (parseNode nodes bs, s)
    | (.remote _ _, s) => (badNode (stateEnd 0x44), s)
    | (.noIndex _, s) => (badNode (stateEnd 0x44), s)
    | (e, s) => (badNode (e.ending 8 va), s.vmPoison k.engine e)

/-- Zero the node knots (R487). -/
def State.zeroKnots (s : State) (k : Cmd) (va nodes : Nat) : VmEnd × State :=
  s.vmWrite k va (List.replicate (8 * nodes) 0) .store

/-- Every page of the node knots is local (R487). -/
def State.scratchAt (s : State) (k : Cmd) (va nodes : Nat) : Option Ending × State :=
  (blockPieces 4096 va (8 * nodes)).foldl (fun (acc : Option Ending × State) p => match acc.1 with
    | some _ => acc
    | none => match acc.2.caneAt k p.1 .atomic with
      | (.error e, s) => (some e, s)
      | (.ok _, s) => (none, s)) (none, s)

/-- Retire a slot: RETIRED, then RETIRE_KNOT (R490). -/
def State.caneRetire (s : State) (k : Cmd) (header : Nat) (nc : Bool) (slot : Nat) : State :=
  let s := (s.bytesWrite k.engine (header + caneSlot slot + 4) [2] nc).2
  match s.bytesRead k.engine (header + 8) 8 nc with
  | (.ok bs, s) => if leNat bs = 0 then s else (s.signalKnot k (leNat bs) 1 false).2
  | (_, s) => s

/-- Take back the count of a slot; the slot retires when its count reaches zero while it is not current (R487, R490).
`retire`: false for the CANE that found its slot out of rule. -/
def State.caneRelease (s : State) (k : Cmd) (header : Nat) (nc : Bool) (slot : Nat) (retire : Bool) : State :=
  match s.atomWord k.engine header 0x08 (2 ^ 64 - caneWeight slot) 0 nc with
  | (.ok old, s) =>
    if retire && caneCount old slot = 1 && bits old 0 2 ≠ slot then s.caneRetire k header nc slot else s
  | (_, s) => s

/-- CANE at admission: one atomic takes the current slot, the node knots are zeroed and the node records read (R487). -/
def State.caneAdmit (s : State) (k : Cmd) (c : CmdImg) : State :=
  let scratch := cmdFld c 24 8
  match s.caneAt k (cmdFld c 16 8) .atomic with
  | (.error e, s) => s.endCmd k.id e
  | (.ok (header, nc), s) =>
    match s.bytesRead k.engine header 128 nc with
    | (.ok h, s) =>
      let slot := bits (fieldAt h 0 8) 0 2
      let nodes := fieldAt h (caneSlot slot + 6) 2
      let table := fieldAt h (caneSlot slot + 8) 8
      let s := (s.atomWord k.engine header 0x08 (caneWeight slot) 0 nc).2
      let fail (s : State) (e : Ending) : State := (s.caneRelease k header nc slot false).endCmd k.id e
      if fieldAt h (caneSlot slot + 4) 1 ≠ 1 || nodes = 0 || decide (4096 < nodes) then fail s (stateEnd 0x44)
      else match s.scratchAt k scratch nodes with
        | (some e, s) => fail s e
        | (none, s) =>
          match s.vmRead k.engine k.coil k.asroot table (8 * nodes) .load with
          | (.ok t, s) =>
            match s.zeroKnots k scratch nodes with
            | (.ok _, s) =>
              let (ns, s) := (List.range nodes).foldl (fun (acc : List CaneNode × State) i =>
                let (n, s) := acc.2.readNode k nodes (fieldAt t (8 * i) 8)
                (acc.1 ++ [n], s)) ([], s)
              s.modCmd k.id (fun c => { c with work := .cane { header := header, nc := nc, scratch := scratch, slot := slot, nodes := ns } })
            | (e, s) => fail s (e.ending 8 scratch)
          | (.remote _ _, s) => fail s (stateEnd 0x45)
          | (.noIndex _, s) => fail s (stateEnd 0x45)
          | (e, s) => fail (s.vmPoison k.engine e) (e.ending 8 table)
    | (_, s) =>
      (s.vmPoison k.engine (.poisoned 0 header)).endCmd k.id ((VmEnd.poisoned (cmdFld c 16 8) header).ending 8 (cmdFld c 16 8))

/-- CANE.PUBLISH (R491). -/
def State.canePublish (s : State) (k : Cmd) (c : CmdImg) : State :=
  let slot := cmdFld c 24 1
  match s.caneAt k (cmdFld c 16 8) .atomic with
  | (.error e, s) => s.endCmd k.id (if e.cause = 0x44 then stateEnd 0x45 else e)
  | (.ok (header, nc), s) =>
    match s.bytesRead k.engine header 128 nc with
    | (.ok h, s) =>
      let ctrl := fieldAt h 0 8
      let old := bits ctrl 0 2
      let nodes := fieldAt h (caneSlot slot + 6) 2
      if fieldAt h (caneSlot slot + 4) 1 ≠ 1 || slot = old || nodes = 0 || decide (4096 < nodes) then s.endCmd k.id (stateEnd 0x44)
      else
        let s := (s.atomWord k.engine header 0x10 (setBits ctrl 0 2 slot) 0 nc).2
        let s := if caneCount ctrl old = 0 then s.caneRetire k header nc old else s
        s.endCmd k.id { status := 0 }
    | (_, s) =>
      (s.vmPoison k.engine (.poisoned 0 header)).endCmd k.id ((VmEnd.poisoned (cmdFld c 16 8) header).ending 8 (cmdFld c 16 8))

/-! ### Acting at admission (R457) -/

/-- A QFENCE or KNOT.SIGNAL of a queue closes its window: whether a command of it has failed already (R471). -/
def State.closeWindow (s : State) (q : Nat) : Bool × State :=
  ((s.queue q).winErr, s.modQueue q (fun k => { k with win := k.win + 1, winErr := false }))

/-- The engine that a DMA or BEND command names: a node's own, or its queue's; none outside the bindings that the queue's enable
fixed (R79, R442, R460, R480, R488). -/
def State.namedEngine (s : State) (k : Cmd) (dma : Bool) (c : CmdImg) : Option Nat :=
  if k.node.isNone then some (s.queue k.queue).engine
  else
    let n := if dma then bits (cmdFld c 16 1) 4 4 else bits (cmdFld c 16 1) 0 3
    let q := s.queue k.queue
    if bit (if dma then q.dmaMask else q.bendMask) n then some n else none

/-- What a command does when it has passed its checks. -/
def State.admitAct (s : State) (op : Nat) (c : CmdImg) (k : Cmd) : State :=
  let work (s : State) (w : Work) : State := s.modCmd k.id (fun c => { c with work := w })
  match op with
  | 0x01 => s.launchAdmit k c
  | 0x02 => s.caneAdmit k c
  | 0x03 => s.canePublish k c
  | 0x04 => match s.namedEngine k true c with
    | none => s.endCmd k.id (stateEnd 0x45)
    | some e =>
      let ch := bits (cmdFld c 16 1) 0 4
      let s := s.modCmd k.id (fun c => { c with work := .dma e ch, engine := 512 + e })
      s.dmaSubmit e ch { cmd := k.id, queue := k.queue, seq := k.seq, coil := k.coil, asroot := k.asroot
                         features := k.features, image := c.body }
  | 0x05 => match s.namedEngine k false c with
    | none => s.endCmd k.id (stateEnd 0x45)
    | some b =>
      let s := s.modCmd k.id (fun c => { c with work := .bend b, engine := 528 + b })
      s.bendSubmit b { k with engine := 528 + b } c.body
  | 0x08 =>
    if k.node.isSome then (work s (.signal (cmdFld c 16 8) (cmdFld c 24 8) false)).endCmd k.id { status := 0 }
    else
      let (e, s) := s.closeWindow k.queue
      work s (.signal (cmdFld c 16 8) (cmdFld c 24 8) e)
  | 0x09 => work s (.knotWait (cmdFld c 16 8) (cmdFld c 24 8) true)
  | 0x0A =>
    let (e, s) := s.closeWindow k.queue
    work s (.qfence (bit (cmdFld c 16 1) 0) e)
  | 0x0C => s.hintGo k c true
  | 0x0D => s.hintGo k c false
  | 0x0E =>
    if bit (cmdFld c 24 1) 0 && k.node.isNone then work s (.mark (cmdFld c 16 8) true)
    else (work s (.mark (cmdFld c 16 8) false)).markGo k (cmdFld c 16 8)
  | _ => s.endCmd k.id { status := 0 }

/-- A command that has been counted in flight is checked, and completes with STATE or acts (R455, R480). A KNOT.SIGNAL out of
rule still names its knot (R479). -/
def State.admitGo (s : State) (op : Nat) (c : CmdImg) (k : Cmd) (kind : Nat) : State :=
  match s.admitCheck op c k kind with
  | (some e, s) =>
    let s := if op = 8 then s.modCmd k.id (fun k => { k with work := .signal (cmdFld c 16 8) (cmdFld c 24 8 % 2 ^ 63) false }) else s
    s.endCmd k.id e
  | (none, s) => s.admitAct op c k

/-- The command of a queue that is admitted next, before its checks (R79, R91, R455, R481). -/
def State.nextCommand (s : State) (q : Nat) (c : CmdImg) : Cmd :=
  let k := s.queue q
  let t := if k.timeout = 0 then s.defTimeout k.kind else k.timeout
  { id := s.nextCmd, queue := q, seq := k.headSeq, engine := k.served, coil := k.coil, asroot := k.asroot
    features := s.fea.active, startFrame := s.frm.count, ticksLeft := t + 1
    sigKnot := if cmdSig c then some (c.sigKnot, c.sigInc) else none, intr := cmdIntr c, work := .nop, win := k.win }

/-- Count a command in flight. -/
def State.addCmd (s : State) (k : Cmd) : State := { s with cmds := s.cmds ++ [k], nextCmd := s.nextCmd + 1 }

/-- A command of the queue's ring holds later ones back: a KNOT.WAIT or QFENCE that has not completed, or a DMA command that
its channel has not accepted (R457). -/
def State.holdsBack (s : State) (k : Cmd) : Bool :=
  match k.work with
  | .knotWait _ _ _ => k.record.isNone
  | .qfence _ _ => k.record.isNone
  | .dma e c => s.dmaWaiting e c k.id
  | _ => false

/-- At most 8,192 commands are in flight (R456). -/
def maxInFlight : Nat := 8192

/-- A queue has a command ready (R448, R457); a fetch waits for the exit from a Lehr stage (R624). -/
def State.cmdReady (s : State) (q : Nat) : Bool :=
  let k := s.queue q
  s.alive && s.lhr.stage == 0 && decide (k.state = .running) && k.headSeq != k.tail
    && !s.cmds.any (fun c => c.own q && s.holdsBack c)

/-- How far a queue is from the head of its engine's round-robin, by queue number (R455). -/
def State.queueDist (s : State) (engine q : Nat) : Nat := (q + 2048 - Tbl.get 0 s.nextQueue engine) % 2048

/-- It is a queue's turn: no other ready queue of its engine comes before it (R455). -/
def State.queueTurn (s : State) (q : Nat) : Bool :=
  let e := (s.queue q).served
  s.queues.all (fun x => x.2.served != e || !s.cmdReady x.1 || decide (s.queueDist e q ≤ s.queueDist e x.1))

/-- The turn goes to the queues after one, whose command is taken or has not come yet (R455, notes/assumptions/20.md). -/
def State.passTurn (s : State) (q : Nat) : State :=
  { s with nextQueue := Tbl.set 0 s.nextQueue (s.queue q).served ((q + 1) % 2048) }

/-- The next command of a queue can be admitted (R455 to R457). -/
def State.canAdmit (s : State) (q : Nat) : Bool :=
  s.cmdReady q && s.queueTurn q && decide (s.cmds.length < maxInFlight)

/-! ### Nodes (R488) -/

/-- Change the cane part of a command. -/
def State.modCane (s : State) (id : Nat) (f : Cane → Cane) : State :=
  s.modCmd id (fun c => match c.work with | .cane k => { c with work := .cane (f k) } | _ => c)
/-- Change one node of a cane. -/
def State.modNode (s : State) (id i : Nat) (f : CaneNode → CaneNode) : State :=
  s.modCane id (fun k => { k with nodes := k.nodes.modify i f })

/-- The command that a node runs, before its checks. -/
def State.nodeCommand (s : State) (k : Cmd) (i : Nat) (c : CmdImg) : Cmd :=
  { id := s.nextCmd, queue := k.queue, seq := k.seq, node := some (k.id, i), engine := (s.queue k.queue).served, coil := k.coil
    asroot := k.asroot, features := s.fea.active, startFrame := s.frm.count
    sigKnot := if cmdSig c then some (c.sigKnot, c.sigInc) else none, work := .nop, win := k.win }

/-- Start a ready node, as if admitted from the cane's queue; it waits while 8,192 commands are in flight, or a home that it needs
cannot serve (R456, R488). -/
def State.startNode (s : State) (id i : Nat) : State :=
  match s.cmd? id with
  | none => s
  | some k => match k.work with
    | .cane cn => match cn.nodes[i]? with
      | some n =>
        if n.st ≠ .ready || decide (maxInFlight ≤ s.cmds.length) then s
        else
          let (op, c) := parseCmd n.command
          let x := s.nodeCommand k i c
          let t := (s.addCmd x).modNode id i (fun n => { n with st := .running })
          s.attempt (match n.bad with
          | some e => t.endCmd x.id e
          | none => t.admitGo op c x 0)
      | none => s
    | _ => s

/-- Start every ready node of a cane. -/
def State.startNodes (s : State) (id : Nat) : State :=
  match s.cmd? id with
  | some k => (match k.work with
    | .cane cn => (List.range cn.nodes.length).foldl (fun s i => s.startNode id i) s
    | _ => s)
  | none => s

/-- Admit the next command of a queue with an image, and the turn passes; a cane's first nodes start (R455, R487). While a home that
the admission needs cannot serve, the command is admitted later. -/
def State.admitCmd (s : State) (q op : Nat) (c : CmdImg) : State :=
  if !s.canAdmit q then s
  else
    let k := s.nextCommand q c
    let s := s.passTurn q
    let t := (s.addCmd k).modQueue q (fun x => { x with headSeq := (x.headSeq + 1) % 2 ^ 32 })
    (s.attempt (t.admitGo op c k (s.queue q).kind)).startNodes k.id

end Sys2Proof.Machine
end

