-- ==== Sys2Proof/Machine/CmdFinish.lean ====
section
/-! DEFINITION. How commands end: reports, knot signals, records, nodes of canes, stops and waits (R150 to R155, R443 to R445,
R465 to R482, R488 to R490). -/

namespace Sys2Proof.Machine

open Sys2Proof

/-! ### Reports (R154, R155) -/

/-- The 64 bytes of a launch report. FIRST_UNIT, FIRST_COORD, FIRST_ERR and FIRST_MAG of a launch without an excursion (FLAGS bit 0 is
0) are zero: R154 gives them no value (DESIGN CHOICE, notes/assumptions/15.md). -/
def Launch.report (l : Launch) : List Byte :=
  let x := l.witFirst.getD { coord := 0, unit := 0, e := 0, m := 0 }
  leBytes 4 l.totals.saturations ++ leBytes 4 l.totals.scaleClamps ++ leBytes 4 l.totals.nanInputs
    ++ leBytes 4 l.totals.underflows ++ leBytes 4 l.witTiles ++ leBytes 4 l.witExc ++ leBytes 4 l.witSkipped
    ++ leBytes 2 (x.unit % 1024) ++ leBytes 2 (b2n l.witFirst.isSome + 2 * l.exceeded) ++ leBytes 8 x.coord
    ++ leBytes 4 x.e ++ leBytes 4 x.m ++ List.replicate 16 0

/-- Write a launch's report, where it has one (R154); what cannot be written ends the launch with PAGE_FAULT or as R155 says, and one
for another package without REMOTE with STATE (R542). -/
def State.writeReport (s : State) (c : Cmd) (l : Launch) : State :=
  let va := l.desc.rwReport
  if va = 0 || !l.desc.reportOk then s
  else match s.vmWrite c va l.report .report with
    | (.ok _, s) => s
    | (e, s) => s.modCmd c.id (fun c => { c with ending := some (e.ending 5 va) })

/-! ### Nodes (R488, R489) -/

/-- A node's SIG_KNOT, from its command bytes. -/
def CaneNode.sig (n : CaneNode) : Option (Nat × Nat) :=
  let (_, c) := parseCmd n.command
  if n.command.isEmpty || !cmdSig c then none else some (c.sigKnot, c.sigInc)

/-- A node that is not started counts as CANCELLED and signals its SIG_KNOT with error (R489). -/
def State.cancelNode (s : State) (k : Cmd) (i : Nat) (n : CaneNode) : State :=
  let s := match n.sig with
    | some (va, v) => (s.signalKnot k va v true).2
    | none => s
  s.modNode k.id i (fun n => { n with st := .cancelled, ending := some { status := 0x1B } })

/-- Nodes reached from a list through successors, in at most n hops. -/
def reach (nodes : List CaneNode) : Nat → List Nat → List Nat
  | 0, l => l
  | n + 1, l =>
    let l' := (l ++ l.flatMap (fun i => ((nodes[i]?).map (·.succ)).getD [])).eraseDups
    if l'.length = l.length then l else reach nodes n l'

/-- Add 1 to the knot of a successor; it is ready when the knot equals NPRED (R488). A knot that cannot be reached leaves the
successor waiting. -/
def State.feedNode (s : State) (k : Cmd) (scratch j : Nat) : State :=
  match s.xlate k.engine k.coil k.asroot (scratch + 8 * j) .atomic with
  | (.here a nc, s) =>
    (match s.atomWord k.engine a 0x08 1 0 nc with
    | (.ok old, s) => s.modNode k.id j (fun n =>
        if n.st = .waiting && old + 1 = n.npred then { n with st := .ready } else n)
    | (_, s) => s)
  | (_, s) => s

/-- The status a cane ends with (R489). -/
def Cane.ending (c : Cane) : Ending :=
  match c.nodes.zipIdx.find? (fun p => p.1.st == .failed && p.1.ending.any (fun e => e.status != 0x1B)) with
  | some (n, i) =>
    let e := n.ending.getD { status := 0xFF }
    { e with dkind := 2, detail := i }
  | none =>
    if c.wit ≠ 0 then { status := 2 }
    else if c.nodes.any (fun n => n.ending.any (fun e => e.status == 1)) then { status := 1 } else { status := 0 }

/-- A cane ends when every node has completed or been cancelled. -/
def State.caneCheck (s : State) (id : Nat) : State :=
  match s.cmd? id with
  | some c => (match c.work with
    | .cane k => if k.nodes.all (fun n => n.st == .done || n.st == .failed || n.st == .cancelled) then s.endCmd id k.ending else s
    | _ => s)
  | none => s

/-- A node has completed: it feeds its successors, or everything that it reaches is cancelled (R488, R489). -/
def State.nodeDone (s : State) (x : Cmd) (id i : Nat) (e : Ending) (rw : RangeEv) (wit : Nat) : State :=
  let s := { s with cmds := s.cmds.filter (fun c => c.id != x.id) }
  let ok := decide (e.status < 0x10)
  let s := s.modCane id (fun k => { k with rw := k.rw.count rw, wit := satAdd 32 k.wit wit })
  let s := s.modNode id i (fun n => { n with st := if ok then .done else .failed, ending := some e })
  match s.cmd? id with
  | some k => (match k.work with
    | .cane cn =>
      let s := if ok then (((cn.nodes[i]?).map (·.succ)).getD []).foldl (fun s j => s.feedNode k cn.scratch j) s
        else ((reach cn.nodes cn.nodes.length [i]).filter (fun j => j != i)).foldl (fun s j => match cn.nodes[j]? with
          | some n => if n.st = .waiting || n.st = .ready then s.cancelNode k j n else s
          | none => s) s
      (s.startNodes id).caneCheck id
    | _ => s)
  | none => s

/-! ### Records in order (R475, R476) -/

/-- The next record of a queue, where its command has completed. -/
def State.nextDone (s : State) (q : Nat) : Option (Cmd × Completion) :=
  match s.cmds.find? (fun c => c.own q && c.seq == (s.queue q).nextRecord) with
  | some c => c.record.map (fun r => (c, r))
  | none => none

/-- Write the records of a queue that are due: each is written, LAST_SEQ follows, and the interrupt (R475, R476, R587). One whose home
cannot take it now is written later. -/
def State.flushGo (q : Nat) : Nat → State → State
  | 0, s => s
  | n + 1, s => match s.nextDone q with
    | none => s
    | some (c, r) =>
      let t := s.putRecord c r
      if t.stuck then s
      else
        let s := { t with cmds := t.cmds.filter (fun x => x.id != c.id) }
        let s := s.modQueue q (fun k => { k with lastSeq := r.seq, lastValid := true, nextRecord := (k.nextRecord + 1) % 2 ^ 32 })
        let s := if c.intr then s.raiseIrq (s.queue q).irqDest (s.queue q).irqNum else s
        State.flushGo q n s

/-- Write every record of a queue that is due; nodes that waited for room may start. -/
def State.flushRecords (s : State) (q : Nat) : State :=
  let s := (State.flushGo q s.cmds.length s).settleQueue q
  (s.cmds.map (·.id)).foldl (fun s id => s.startNodes id) s

/-! ### Completion (R471, R475, R479, R482) -/

/-- A remote request of a command, or a store of its strands, is not acknowledged or not even drained (R316, R470, R475). What is
held for a DRAINING peer keeps a stopped command from nothing (R444, R481, R533). -/
def State.owes (s : State) (id : Nat) : Bool :=
  let stopped := (s.cmd? id).any (fun c => c.ending.any (fun e => e.status == 0x11 || e.status == 0x1B))
  s.hws.reqs.any (fun r => !(stopped && r.held) && (match r.who with | .cmd i => i == id | .unitStore _ i => i == id | _ => false))
    || s.units.any (fun u => u.2.wc.any (fun e => e.launch == id))

/-- Every earlier command of the queue has completed (R457). -/
def State.earlierDone (s : State) (c : Cmd) : Bool :=
  s.cmds.all (fun x => !x.own c.queue || decide (c.id ≤ x.id) || x.record.isSome)

/-- Work that waits for earlier commands: KNOT.SIGNAL, QFENCE, MARK with AFTER (R457, R471). -/
def State.orderedWork (s : State) (id : Nat) : State :=
  match s.cmd? id with
  | none => s
  | some c =>
    if c.ending.isSome || !s.earlierDone c then s
    else match c.work with
      | .signal _ _ _ => s.endCmd c.id { status := 0 }
      | .qfence p e => s.endCmd c.id (if p && e then stateEnd 0x47 else { status := 0 })
      | .mark va true => s.markGo c va
      | _ => s

/-- A cane that ends has no node that still runs: one that was stopped waits for them (R481, R489). -/
def Cmd.nodesRun (c : Cmd) : Bool := match c.work with | .cane k => k.nodes.any (fun n => n.st == .running) | _ => false

/-- Step 1 of R475: the report of a launch; a cane gives its slot back first (R490). -/
def State.stageReport (s : State) (id : Nat) : State :=
  match s.cmd? id with
  | none => s
  | some c =>
    if c.reported || c.ending.isNone || c.nodesRun || s.owes id then s
    else
      let s := match c.work with
        | .launch l => s.writeReport c l
        | .cane k => s.caneRelease c k.header k.nc k.slot true
        | _ => s
      s.modCmd id (fun c => { c with reported := true })

/-- Signal one knot of a command; a failure is the command's (R479). -/
def State.signalOne (s : State) (id va v : Nat) (err : Bool) : State :=
  match s.cmd? id with
  | none => s
  | some c => match s.signalKnot c va v err with
    | (.failed st cause, s) => s.modCmd id (fun c => c.sigFailed st cause va)
    | (.done, s) => s.modCmd id (fun c => { c with errk := c.errk || err })
    | (.left, s) => s

/-- Step 2 of R475: KNOT.SIGNAL's knot, then SIG_KNOT; with error where the status is 0x10 or above (R471, R479). -/
def State.stageSignal (s : State) (id : Nat) : State :=
  match s.cmd? id with
  | none => s
  | some c =>
    if c.signalled || !c.reported || s.owes id then s
    else
      let bad := c.ending.any (fun e => decide (0x10 ≤ e.status))
      let s := match c.work with
        | .signal knot v e => s.signalOne id knot v (e || bad)
        | _ => s
      let s := match c.sigKnot with
        | some (va, v) => s.signalOne id va v bad
        | none => s
      s.modCmd id (fun c => { c with signalled := true })

/-- A failed command in the windows of R471. -/
def State.windowFail (s : State) (c : Cmd) : State :=
  let s := s.modQueue c.queue (fun k => if k.win = c.win then { k with winErr := true } else k)
  { s with cmds := s.cmds.map (fun x =>
      if x.own c.queue && decide (c.id < x.id) && x.record.isNone then
        match x.work with
        | .signal a v _ => { x with work := .signal a v true }
        | .qfence p e => { x with work := .qfence p (e || x.win == c.win) }
        | _ => x
      else x) }

/-- The sums a record carries (R153, R477). -/
def Work.sums : Work → RangeEv × Nat
  | .launch l => (l.totals, l.witExc)
  | .cane k => (k.rw, k.wit)
  | _ => ({}, 0)

/-- The command has completed: its record is made, and an error counts, is recorded and may halt the queue (R445, R477 to R482).
A node's completion goes to its cane. -/
def State.stageDone (s : State) (id : Nat) : State :=
  match s.cmd? id with
  | none => s
  | some c =>
    match c.ending with
    | none => s
    | some e =>
      if !c.signalled || s.owes id || c.record.isSome then s
      else match c.node with
        | some (cane, i) => s.nodeDone c cane i e (Work.sums c.work).1 (Work.sums c.work).2
        | none =>
          let bad := decide (0x10 ≤ e.status)
          let r : Completion := {
            seq := c.seq, queue := c.queue, dkind := e.dkind, errk := c.errk || bad, status := e.status, cause := e.cause
            startFrame := c.startFrame, endFrame := s.frm.count, rw := (Work.sums c.work).1, wit := (Work.sums c.work).2
            detail := e.detail }
          let s := s.modCmd id (fun c => { c with record := some r })
          if !bad then s
          else
            let s := s.modQueue c.queue (fun k => { k with errors := satAdd 16 k.errors 1,
                                                           timeouts := satAdd 16 k.timeouts (b2n (e.status == 0x11)) })
            let s := match e.fault with
              | some f => s.queueFault c.queue c.seq f
              | none => if e.cause ≠ 0 then s.queueFault c.queue c.seq { cause := e.cause } else s
            let s := s.windowFail c
            if (s.queue c.queue).halt then s.halt c.queue else s

/-! ### Stopping (R443, R444, R481) -/

/-- Stop what a command is doing, but for a cane's nodes: a launch's hanks, a transfer, a collective, a wait. Reads that it awaits and
requests held for a DRAINING peer are given up; writes that have been sent are still acknowledged (R313, R533). -/
def State.stopWork (s : State) (c : Cmd) (status : Nat) : State :=
  let drops (r : RemoteReq) : Bool := match r.who with
    | .cmd i => i == c.id && (r.held || r.packet.ty == 0x01)
    | .knot (.cmd i) => i == c.id
    | _ => false
  let s := { s with hws := { s.hws with reqs := s.hws.reqs.filter (fun r => !drops r) } }
  match c.work with
  | .launch _ => if c.ending.isSome then s else s.stopHanks c.id
  | .dma e ch => s.dmaStop e ch c.id
  | .bend b => s.bendStop b c.id status
  | .knotWait _ _ _ => s.dropWatch 1 c.id
  | _ => s

/-- A command ends with the status of its stop. -/
def State.stopOne (s : State) (c : Cmd) (status : Nat) : State :=
  (s.stopWork c status).modCmd c.id (fun c => { c with ending := some { status := status } })

/-- Stop a cane: its running nodes stop as CANCELLED and complete so, report and signals included; the rest is cancelled (R154, R481,
R489). -/
def State.stopCane (s : State) (k : Cmd) : State :=
  match k.work with
  | .cane cn =>
    cn.nodes.zipIdx.foldl (fun s p =>
      match s.cmds.find? (fun x => x.node == some (k.id, p.2)) with
      | some x => s.stopOne x 0x1B
      | none => if p.1.st = .waiting || p.1.st = .ready then s.cancelNode k p.2 p.1 else s) s
  | _ => s

/-- Stop a command that has not completed, with a status: it then completes with it (R443, R444, R481). -/
def State.stopCmd (s : State) (id status : Nat) : State :=
  match s.cmd? id with
  | none => s
  | some c => if c.record.isSome then s else (s.stopCane c).stopOne c status

/-- A command of a cancelled queue whose stop waited for a home (R444). -/
def State.stopAgain (s : State) (id : Nat) : State :=
  match s.cmd? id with
  | none => s
  | some c => if c.own c.queue && c.ending.isNone && (s.queue c.queue).state == .cancelling then s.stopCmd id 0x1B else s

/-- A command goes on towards its record as far as it can now: each part takes effect whole, or later. -/
def State.finishCmd (s : State) (id : Nat) : State :=
  match s.cmd? id with
  | none => s
  | some c =>
    let s := s.attempt (s.stopAgain id)
    let s := s.attempt (s.orderedWork id)
    let s := s.attempt (s.stageReport id)
    let s := s.attempt (s.stageSignal id)
    (s.attempt (s.stageDone id)).flushRecords c.queue

/-! ### Waits (R472, R473, R702) -/

/-- What a read of a waited knot comes to for a command (R472). -/
def State.knotCmd (s : State) (id knot target : Nat) (v : ReadBack Nat) : State :=
  let done (s : State) (e : Ending) : State := (s.dropWatch 1 id).endCmd id e
  match v with
  | .ok w => if bit w 63 then done s (stateEnd 0x46) else if target ≤ w then done s { status := 0 } else s
  | .poisoned => done s { status := 0x16, fault := some { cause := 0, kind := 7, addr := knot } }
  | .failed => done s { status := 0x18, cause := 0x62, fault := some { cause := 0x62, kind := 7, addr := knot } }
  | .held => s

/-- A node-core wait slot fires (R702). -/
def State.fireSlot (s : State) (k result : Nat) : State :=
  let w := s.kwait k
  ((s.dropWatch 2 k).modKwait k (fun x => { x with state := .fired, result := result, frame := s.frm.count, due := false })).raiseRoute
    w.irq

/-- What a read of a waited knot comes to for a slot. -/
def State.knotSlot (s : State) (k : Nat) (v : ReadBack Nat) : State :=
  match v with
  | .ok w => if bit w 63 then s.fireSlot k 0x10 else if (s.kwait k).target ≤ w then s.fireSlot k 0 else s
  | .poisoned => s.fireSlot k 0x16
  | .failed => s.fireSlot k 0x18
  | .held => s

/-- The agent that serves node-core waits (notes/assumptions/23.md). -/
def slotAgent : Nat := 640

/-- Read a local knot for a waiter that is due, watching its line (R473). -/
def State.knotLocal (s : State) (w : KnotWaiter) (agent a : Nat) (nc : Bool) : ReadBack Nat × State :=
  let (kind, ix) : Nat × Nat := match w with | .cmd id => (1, id) | .slot k => (2, k)
  let s := match s.lineAt a with
    | some l => (s.addWatch l kind ix).2
    | none => s
  match s.bytesRead agent a 8 nc with
  | (.ok bs, s) => (.ok (leNat bs), s)
  | (.poisoned, s) =>
    let src := if kind = 1 then engineSource agent else (0, 0)
    (.poisoned, s.poisonUse src.1 src.2 a)
  | (.failed, s) => (.failed, s)
  | (.held, s) => (.held, s)

/-- Take the answer to a waiter's remote read, where one is outstanding. -/
def State.takeKnotReq (s : State) (w : KnotWaiter) : Option State :=
  (s.hws.reqs.find? (fun r => r.who == .knot w)).map (fun r => { s with hws := { s.hws with reqs := s.hws.reqs.erase r } })

/-- A waited knot's read returns: a local one is read now, a remote one answers with `remote` (R472, R473). -/
def State.knotReadGo (s : State) (w : KnotWaiter) (remote : ReadBack Nat) : State :=
  match s.takeKnotReq w with
  | some s => (match w with
    | .cmd id => (match s.cmd? id with
      | some c => (match c.work with | .knotWait k t _ => if c.ending.isSome then s else s.knotCmd id k t remote | _ => s)
      | none => s)
    | .slot k => if (s.kwait k).state = .armed then s.knotSlot k remote else s)
  | none => match w with
    | .cmd id => (match s.cmd? id with
      | some c => (match c.work with
        | .knotWait k t true =>
          if c.ending.isSome then s
          else match s.xlate c.engine c.coil c.asroot k .atomic with
            | (.here a nc, s) =>
              let s := s.modCmd id (fun c => { c with work := .knotWait k t false })
              (match s.knotLocal w c.engine a nc with
              | (.failed, s) => s
              | (v, s) => s.knotCmd id k t v)
            | (.remote _ _, s) => s
            | (.fault q, s) => s.endCmd id ((VmEnd.fault q k).ending 7 k)
            | (.poisoned a, s) => (s.vmPoison c.engine (.poisoned k a)).endCmd id ((VmEnd.poisoned k a).ending 7 k)
            | (.noIndex, s) => s.endCmd id ((VmEnd.noIndex k).ending 7 k)
            | (.unable, s) => s
        | _ => s)
      | none => s)
    | .slot k =>
      let x := s.kwait k
      if x.state ≠ .armed || !x.due then s
      else match locality s.hws.indexValid s.hws.index x.addr with
        | .here =>
          if (s.lineAt (paLocal x.addr)).isNone then s.fireSlot k 0x17
          else
            let s := s.modKwait k (fun x => { x with due := false })
            (match s.knotLocal w slotAgent (paLocal x.addr) false with
            | (.failed, s) => s
            | (v, s) => s.knotSlot k v)
        | .remote _ => s
        | .noIndex => s.fireSlot k 0x18

/-- A waited knot's read returns, or has not yet where a home cannot serve it. -/
def State.knotRead (s : State) (w : KnotWaiter) (remote : ReadBack Nat) : State :=
  if remote = .held then s else s.attempt (s.knotReadGo w remote)

/-- The once-a-frame poll of a waiter: a remote knot is asked for, a local one without a watch falls due (R452, R473). -/
def State.knotPollGo (s : State) (w : KnotWaiter) : State :=
  if s.hws.reqs.any (fun r => r.who == .knot w) then s
  else match w with
    | .cmd id => (match s.cmd? id with
      | some c => (match c.work with
        | .knotWait k t _ =>
          if c.ending.isSome then s
          else match s.xlate c.engine c.coil c.asroot k .atomic with
            | (.remote p a, s) =>
              if !(c.features.getLsbD 3 && c.features.getLsbD 12) then s.endCmd id (stateEnd 0x06)
              else if s.peerGone p then s.knotCmd id k t .failed
              else s.remoteRequest (.knot w) p (rdPacket a)
            | (_, s) =>
              if s.slices.any (fun e => e.2.watches.any (fun x => x.kind == 1 && x.index == id)) then s
              else s.modCmd id (fun c => { c with work := .knotWait k t true })
        | _ => s)
      | none => s)
    | .slot k =>
      let x := s.kwait k
      if x.state ≠ .armed then s
      else match locality s.hws.indexValid s.hws.index x.addr with
        | .remote p => if s.peerGone p then s.fireSlot k 0x18 else s.remoteRequest (.knot w) p (rdPacket (paLocal x.addr))
        | _ => if s.slices.any (fun e => e.2.watches.any (fun y => y.kind == 2 && y.index == k)) then s
               else s.modKwait k (fun x => { x with due := true })

/-- The poll, where the homes it needs serve. -/
def State.knotPoll (s : State) (w : KnotWaiter) : State := s.attempt (s.knotPollGo w)

end Sys2Proof.Machine
end

