-- ==== Sys2Proof/Machine/CmdRows.lean ====
section
/-! DEFINITION. The queues' rows: enable, disable, cancel, resume, tail reads, command fetches, the commands as they are
admitted, waits, completion and timeouts (R436 to R491). -/

namespace Sys2Proof.Machine

open Sys2Proof

/-! ### Enable (R440 to R442) -/

/-- A local range of a queue is backed for its coil, clear of spill and remap areas (R441). -/
def State.queueRange (s : State) (coil a n : Nat) : Bool := rangeOk ((s.sec 2).getD []) coil a n

/-- The queue's shape is in rule (R437, R440, R441 code 4). -/
def State.queueDesc (s : State) (k : Queue) : Bool :=
  let e := k.entries
  let ring := k.base * 4096
  let tail := k.tailAddr * 8
  let cpl := k.cplBase * 4096
  decide (k.size ≤ 10) && decide (ring % (64 * e) = 0) && decide (cpl % (max 4096 (32 * e)) = 0) && k.kind != 3
    && (if k.kind = 0 then k.engine == 0 else if k.kind = 2 then decide (k.engine < 8) else true)
    && (k.ringLoc || (decide (ring < 2 ^ 42) && decide (tail < 2 ^ 42))) && (k.cplLoc || decide (cpl < 2 ^ 42))
    && decide (k.timeout ≤ 2 ^ 24) && (!k.confirm || k.cplLoc)
    && (k.ringLoc || (s.queueRange k.coil ring (64 * e) && s.queueRange k.coil tail 8))
    && (k.cplLoc || s.queueRange k.coil cpl (32 * e))

/-- The engine that would serve a queue, as an agent (R442). -/
def State.servedBy (s : State) (k : Queue) : Nat :=
  if k.kind = 0 then engineAgent 0 ((s.leadRegion k.coil).getD 0) else engineAgent k.kind k.engine

/-- A queue of KIND 0 needs a coil with regions; others an engine of the binding's mask (R441 code 3). -/
def State.queueBinding (s : State) (q : Nat) (k : Queue) : Bool :=
  match s.binding q with
  | none => false
  | some b => b.coil == k.coil &&
    (match k.kind with
     | 0 => (s.leadRegion k.coil).isSome
     | 1 => bit b.dmaMask k.engine
     | 2 => bit b.bendMask k.engine
     | _ => true)

/-- The features a queue needs (R441 code 5). -/
def State.queueFeatures (s : State) (k : Queue) : Bool :=
  (!(k.ringLoc || k.cplLoc) || s.feature 0) && (!k.confirm || s.feature 1) && (k.kind != 2 || s.feature 13)

/-- Enabled queues that an engine serves (R441 code 6). -/
def State.slotsUsed (s : State) (agent : Nat) : Nat :=
  (s.queues.filter (fun e => e.2.state != .disabled && e.2.served == agent)).length

/-- ENABLE_ERR of an enable (R441): the first check that fails. -/
def State.enableErr (s : State) (q : Nat) : Nat :=
  let k := s.queue q
  if !s.fea.locked then 1
  else if s.frt.active.isNone || s.pendingCoils.contains k.coil then 2
  else if !s.queueBinding q k then 3
  else if !s.queueDesc k then 4
  else if !s.queueFeatures k then 5
  else if 32 ≤ s.slotsUsed (s.servedBy k) then 6
  else 0

/-- Register a queue's watch on its tail word, or poll it (R451, R452). -/
def State.watchTail (s : State) (q : Nat) : State :=
  let k := s.queue q
  if k.ringLoc then s
  else match s.lineAt (k.tailAddr * 8) with
    | none => s
    | some l =>
      let (got, s) := s.addWatch l 0 q
      s.modQueue q (fun k => { k with polling := !got })

/-- QDT_ENABLE: 1 is written to ENABLE (R441, R442). -/
def execQdtEnable (q : Nat) (s : State) : Out State :=
  .next (
    let k := s.queue q
    if !s.alive || decide (k.state ≠ .disabled) then s
    else
      let e := s.enableErr q
      if e ≠ 0 then s.modQueue q (fun k => { k with enableErr := e })
      else
        (s.modQueue q (fun k => { k with
          enableErr := 0, state := .running, headSeq := 0, lastValid := false, fValid := false, served := s.servedBy k
          dmaMask := ((s.binding q).map (·.dmaMask)).getD 0, bendMask := ((s.binding q).map (·.bendMask)).getD 0, tail := 0
          tailDue := !k.ringLoc, win := k.win + 1, winErr := false, nextRecord := 0, park := false })).watchTail q)

/-- QDT_DISABLE: 0 is written to ENABLE: admission stops, and waits and fences end, a cane's among them (R443, R445, R456). -/
def execQdtDisable (q : Nat) (s : State) : Out State :=
  .next (
    let st := (s.queue q).state
    if !s.alive || !(st == .running || st == .halted) then s
    else
      let s := s.modQueue q (fun k => { k with state := .draining })
      let ws := s.cmds.filter (fun c => c.queue == q && c.ending.isNone &&
        (match c.work with | .knotWait _ _ _ => true | .qfence _ _ => true | _ => false))
      (ws.foldl (fun s c => s.stopCmd c.id 0x1B) s).settleQueue q)

/-- QDT_CANCEL: 1 is written to CANCEL: every command of the queue ends with CANCELLED (R444); one whose stop needs a home that cannot
serve now ends later (`State.stopAgain`). -/
def execQdtCancel (q : Nat) (s : State) : Out State :=
  .next (
    let st := (s.queue q).state
    if !s.alive || st == .disabled || st == .cancelling then s
    else
      let s := s.modQueue q (fun k => { k with state := .cancelling })
      ((s.cmds.filter (fun c => c.own q)).foldl (fun s c => s.attempt (s.stopCmd c.id 0x1B)) s).settleQueue q)

/-- QDT_RESUME: 1 is written to RESUME (R445). -/
def execQdtResume (q : Nat) (s : State) : Out State :=
  .next (if s.alive && (s.queue q).state == .halted then s.modQueue q (fun k => { k with state := .running, tailDue := !k.ringLoc })
         else s)

/-! ### Fetching (R448 to R454) -/

/-- The queue halts on a failed read of its tail word, or a tail out of range (R450, R454). -/
def State.tailFault (s : State) (q cause : Nat) : State :=
  let k := s.queue q
  (s.queueFault q k.headSeq { cause := cause, kind := 3, addr := k.tailAddr * 8 }).halt q

/-- TAIL_READ: a read of the tail word returns: from local memory, or `host` (R448 to R454); it has not yet where it is held. -/
def execTailRead (q : Nat) (host : ReadBack Nat) (s : State) : Out State :=
  .next (
    let k := s.queue q
    if !s.alive || decide (k.state ≠ .running) || !k.tailDue then s
    else
      let s₀ := s
      let s := s.modQueue q (fun k => { k with tailDue := false })
      let (r, s) : ReadBack Nat × State :=
        if k.ringLoc then ((if s.hpt.linkUp then host else .failed), s)
        else match s.bytesRead k.served (k.tailAddr * 8) 8 with
          | (.ok bs, s) => (.ok (leNat bs), s)
          | (.poisoned, s) => (.poisoned, s)
          | (.failed, s) => (.failed, s)
          | (.held, s) => (.held, s)
      match r with
      | .held => s₀
      | .ok w =>
        let tail := w % 2 ^ 32
        if 2 ^ 32 ≤ w || decide (k.entries < (tail + 2 ^ 32 - k.headSeq) % 2 ^ 32) then s.tailFault q 0x48
        else
          let s := s.modQueue q (fun k => { k with tail := tail })
          if s.lhr.stage ≠ 0 && tail != k.headSeq then { s with lhr := { s.lhr with waking := true } } else s
      | _ => s.tailFault q 0x49)

/-- The ring slot of the next command. -/
def Queue.slotAt (k : Queue) : Nat := k.base * 4096 + 64 * (k.headSeq % k.entries)

/-- A read of the next command fails: it completes with FETCH_FAULT and the queue halts (R454). -/
def State.fetchFault (s : State) (q : Nat) : State :=
  let k := s.queue q
  let c := s.nextCommand q {}
  let f : FaultInfo := { cause := 0x49, kind := 3, addr := k.slotAt }
  let s := ((s.passTurn q).addCmd c).modQueue q (fun x => { x with headSeq := (x.headSeq + 1) % 2 ^ 32 })
  (s.endCmd c.id { status := 0x15, cause := 0x49, fault := some f }).halt q

/-- COMMAND_FETCH: a read of the next command returns: from local memory, or `host`; it is admitted (R454, R455, R457). Where it is
held, the turn passes. -/
def execCommandFetch (q : Nat) (host : ReadBack (List Byte)) (s : State) : Out State :=
  .next (
    if !s.canAdmit q then s
    else
      let k := s.queue q
      let s₀ := s
      let (r, s) : ReadBack (List Byte) × State :=
        if k.ringLoc then ((if s.hpt.linkUp then host else .failed), s) else s.bytesRead k.served k.slotAt 64
      match r with
      | .ok bs => let (op, c) := parseCmd bs; s.admitCmd q op c
      | .held => s₀.passTurn q
      | _ => s.fetchFault q)

/-! ### The commands (R457 to R472) -/

/-- NOP is admitted and does nothing (R457). -/
def execCmdNop (q : Nat) (c : CmdImg) (s : State) : Out State := .next (s.admitCmd q 0x00 c)
/-- LAUNCH is admitted (R462 to R464). -/
def execLaunch (q : Nat) (c : CmdImg) (s : State) : Out State := .next (s.admitCmd q 0x01 c)
/-- CANE is admitted, and its first nodes start (R487, R488). -/
def execCane (q : Nat) (c : CmdImg) (s : State) : Out State := .next (s.admitCmd q 0x02 c)
/-- CANE.PUBLISH is admitted (R491). -/
def execCanePublish (q : Nat) (c : CmdImg) (s : State) : Out State := .next (s.admitCmd q 0x03 c)
/-- DMA is admitted (R496, R500). -/
def execDma (q : Nat) (c : CmdImg) (s : State) : Out State := .next (s.admitCmd q 0x04 c)
/-- BEND is admitted (R549, R556). -/
def execBend (q : Nat) (c : CmdImg) (s : State) : Out State := .next (s.admitCmd q 0x05 c)
/-- KNOT.SIGNAL is admitted; it acts when every earlier command has completed (R457, R471). -/
def execKnotSignal (q : Nat) (c : CmdImg) (s : State) : Out State := .next (s.admitCmd q 0x08 c)
/-- KNOT.WAIT is admitted (R472). -/
def execKnotWait (q : Nat) (c : CmdImg) (s : State) : Out State := .next (s.admitCmd q 0x09 c)
/-- QFENCE is admitted (R457, R471). -/
def execQfence (q : Nat) (c : CmdImg) (s : State) : Out State := .next (s.admitCmd q 0x0A c)
/-- HINT.HEAVY is admitted (R468). -/
def execHintHeavy (q : Nat) (c : CmdImg) (s : State) : Out State := .next (s.admitCmd q 0x0C c)
/-- HINT.LIGHT is admitted (R468). -/
def execHintLight (q : Nat) (c : CmdImg) (s : State) : Out State := .next (s.admitCmd q 0x0D c)
/-- MARK is admitted (R467). -/
def execMark (q : Nat) (c : CmdImg) (s : State) : Out State := .next (s.admitCmd q 0x0E c)

/-! ### Waits, completion, timeouts -/

/-- KNOT_READ: a read of a waited knot returns (R472, R473, R702). -/
def execKnotRead (w : KnotWaiter) (remote : ReadBack Nat) (s : State) : Out State :=
  .next (if s.alive then s.knotRead w remote else s)

/-- COMMAND_COMPLETE: a command's work has ended: report, signals, record in order, LAST_SEQ, interrupt (R475 to R482). -/
def execCommandComplete (cmd : Nat) (s : State) : Out State := .next (if s.alive then s.finishCmd cmd else s)

/-- TIMEOUT: T + 1 ticks have passed since a command's admission and it has not completed (R481). -/
def execTimeout (cmd : Nat) (s : State) : Out State :=
  .next (match s.cmd? cmd with
    | some c => if !s.alive || c.node.isSome || c.ticksLeft ≠ 0 then s else s.attempt (s.stopCmd cmd 0x11)
    | none => s)

end Sys2Proof.Machine
end

