-- ==== Sys2Proof/Machine/HwsOps.lean ====
section
/-! DEFINITION. The Hawser fabric: port states, the transport, requests that end, peers and the package index (R517 to
R545). -/

namespace Sys2Proof.Machine

open Sys2Proof

/-! ### Sending again (R538 to R540) -/

/-- Send the packets of one peer and class that have not been sent and are inside the window (R538, R539). -/
def State.sendKept (s : State) (i cls : Nat) : State :=
  let idx := List.range (min keepLimit ((s.peer i).transport cls).kept.length)
  idx.foldl (fun s n => match ((s.peer i).transport cls).kept[n]? with
    | some (k, 48) => (match s.portFor k with
      | (some p, s) => (s.modPeer i (fun x => x.modTransport cls (fun t => { t with kept := t.kept.set n (k, p) }))).portSend p k
      | (none, s) => s)
    | _ => s) s

/-- The same for every peer and class. -/
def State.sendAllKept (s : State) : State :=
  (s.hws.peers.map (·.1)).foldl (fun s i => [0, 1, 2, 3].foldl (fun s c => s.sendKept i c) s) s

/-- A port has left UP for good: everything kept that went through it goes through the ports still UP, and is counted
(R540). -/
def State.resend (s : State) (p : Nat) : State :=
  let n := (s.hws.peers.map (fun e => (e.2.tr.map (fun t => (t.2.kept.filter (fun k => k.2 == p)).length)).foldl (· + ·) 0)).foldl
    (· + ·) 0
  let s := (s.hws.peers.map (·.1)).foldl (fun s i => [0, 1, 2, 3].foldl (fun s c =>
    s.modPeer i (fun x => x.modTransport c (fun t => { t with kept := t.kept.map (fun k => if k.2 == p then (k.1, 48) else k) }))) s) s
  (s.modPort p (fun x => { x with resent := wrapAdd 64 x.resent n })).sendAllKept

/-! ### Ports (R518, R519, R522, R535) -/

/-- A port changes state: the event of R535, and the record of a port that leaves UP, is refused, or fails its retrain
(R646). -/
def State.setPort (s : State) (p : Nat) (st : PortState) (cause : Nat) : State :=
  let x := s.port p
  if x.state = st then s
  else
    let s := s.modPort p (fun x => { x with state := st, cause := if st = .down ∨ st = .refused then cause else x.cause })
    let s := if x.state = .up || st = .refused || (st = .down && x.retraining) then s.logErr .event 0x40 10 p cause else s
    s.hwsEvent 1 st.code x.state.code (if st = .down ∨ st = .refused then cause else x.cause) p 0

/-- The link of a port starts afresh: sequences from zero, nothing kept (R522). -/
def Port.fresh (x : Port) : Port :=
  { x with txSeq := 0, replayBuf := [], txWait := [], rxSeq := 0, rxUnacked := 0, rxNak := false, nakSeq := none
           failedReplays := 0, rxPart := [], lockLost := none, retraining := false }

/-- Fill the replay buffer from the packets that wait for room (R522). -/
def Port.refill : Nat → Port → Port
  | 0, x => x
  | n + 1, x => match x.txWait with
    | k :: t =>
      if x.replayBuf.length + flitsOf k ≤ replayLimit then
        Port.refill n { x with txWait := t, replayBuf := x.replayBuf ++ [k] :: List.replicate (flitsOf k - 1) []
                               txSeq := (x.txSeq + flitsOf k) % 4096
                               credits := x.credits.mapIdx (fun i c => if i = k.cls then c - 1 else c) }
      else x
    | [] => x

/-- Sequence of the oldest flit not acknowledged. -/
def Port.base (x : Port) : Nat := (x.txSeq + 4096 - x.replayBuf.length % 4096) % 4096

/-- Flits before a sequence are acknowledged (R522). -/
def Port.acked (x : Port) (seq : Nat) : Port :=
  let n := (seq + 4096 - x.base) % 4096
  if x.replayBuf.length < n then x
  else
    let y := { x with replayBuf := x.replayBuf.drop n, failedReplays := if n = 0 then x.failedReplays else 0
                      nakSeq := if n = 0 then x.nakSeq else none }
    Port.refill y.txWait.length y

/-- Send the kept flits of a port again, from the first (R519, R522). -/
def State.replay (s : State) (p : Nat) : State :=
  let s := s.modPort p (fun x => { x with replay := wrapAdd 64 x.replay 1 })
  { s with hws := { s.hws with sent := s.hws.sent ++ (s.port p).replayBuf.flatten } }

/-! ### Requests that end (R22, R532, R543, R544) -/

/-- A remote request is no longer outstanding. -/
def State.dropReq (s : State) (r : RemoteReq) : State := { s with hws := { s.hws with reqs := s.hws.reqs.erase r } }

/-- A piece lies on the line of a remote request, and waits for its answer. -/
def Piece.on (p : Piece) (r : RemoteReq) : Bool :=
  !p.over && p.pa.any (fun pa => paIndex pa == r.peer && lineOf (paLocal pa) == lineOf r.packet.addr)
/-- The piece of a memory instruction that waits for a remote line, atomic or store: the first in the order of performance. -/
def MemOp.pieceFor (o : MemOp) (r : RemoteReq) : Option Piece := (o.order.filterMap (fun n => o.pieces[n]?)).find? (fun p => p.on r)
/-- The pieces of a memory instruction on the line of a request that is refused, or whose peer is lost. -/
def MemOp.failLine (o : MemOp) (r : RemoteReq) (status cause : Nat) : MemOp :=
  { o with pieces := o.pieces.map (fun p => if p.on r then { p with fail := some (status, cause) } else p) }

/-- End a launch that owes a store: at once, or in place of the ending it had (R336, R532). -/
def State.endStored (s : State) (id u : Nat) (site : StoreSite) (status cause : Nat) : State :=
  let e : Ending := { status := status, cause := cause, dkind := 1, detail := u + 1024 * site.slot
                      fault := some { cause := cause, kind := 1, addr := site.va, pc := site.pc, unit := some (u, site.slot) } }
  match s.cmd? id with
  | none => s
  | some c =>
    if c.ending.isNone then s.endLaunch id e
    else s.modCmd id (fun c => { c with ending := if c.ending.any (fun x => decide (x.status < 0x10)) then some e else c.ending })

/-- The access kind and the virtual address of what a command writes itself: a launch's report, a MARK (R154, R467). -/
def Cmd.writes (c : Cmd) : Option (Nat × Nat) :=
  match c.work with
  | .launch l => some (5, l.desc.rwReport)
  | .mark va _ => some (9, va)
  | _ => none

/-- A command's own remote request fails: its descriptor, bytes that it writes, whose failure is the command's, or a knot (R155, R467,
R479, R532). A write of a DMA transfer that has ended changes its status no more. -/
def State.endOwn (s : State) (id : Nat) (r : RemoteReq) (status cause : Nat) : State :=
  let a := r.site.va
  match s.cmd? id with
  | none => s
  | some c =>
    let signal (s : State) : State := (s.modCmd id (fun c => c.sigFailed status cause a)).finishCmd id
    match c.work with
    | .descRead _ _ _ _ => s.endCmd id { status := status, cause := cause, fault := some { cause := cause, kind := 6, addr := a } }
    | .dma _ _ => if r.packet.ty = 0x10 then s.finishCmd id else signal s
    | _ => match if r.packet.ty = 0x02 then c.writes else none with
      | some (k, va) =>
        let e : Ending := { status := status, cause := cause, fault := some { cause := cause, kind := k, addr := va } }
        (s.modCmd id (fun c => { c with ending := some e })).finishCmd id
      | none => signal s

/-- A remote request ends with a status and cause; without a fabric answer it changes nothing else (R532, R544). `unbacked`:
as R22 states, otherwise as R532 states. -/
def State.endRequest (s : State) (r : RemoteReq) (unbacked : Bool) : State :=
  let s := s.dropReq r
  let status := if unbacked then 0x17 else 0x18
  let cause := if unbacked then 0x25 else 0x62
  match r.who with
  | .unit u slot =>
    (match s.ctxAny u slot with
    | some c => (match c.t.wait with
      | .mem o => if (o.pieceFor r).isSome then s.memGo c (o.failLine r status cause) else s
      | _ => if (s.unit u).fetchMiss.any (fun e => e.1 == slot) then s.raise c status cause 3 c.t.pc else s)
    | none => s)
  | .unitStore u launch =>
    ((s.modUnit u (fun x => { x with remoteStores := x.remoteStores - 1 })).endStored launch u r.site status cause).pumpUnit u
  | .copy u id =>
    let tag := r.peer * 2 ^ 42 + r.packet.addr
    let s := s.modUnit u (fun x => { x with copies := x.copies.map (fun y =>
      if y.id = id then { y with lines := y.lines ++ [(tag, .failed)] } else y) })
    (match (s.unit u).copies.findIdx? (fun k => k.id == id) with
    | some i => s.copyGo u i
    | none => s)
  | .dma e c =>
    if unbacked then s.dmaBusError e r.packet.addr else (s.dmaEnd e c (dmaEnding e c 0x18 0x62)).dmaRun e c
  | .hart h => s.hartFault h
  | .cmd id => s.endOwn id r status cause
  | .knot (.cmd id) =>
    (match s.cmd? id with
    | some c => (match c.work with
      | .knotWait k _ _ => (s.dropWatch 1 id).endCmd id
          { status := status, cause := cause, fault := some { cause := cause, kind := 7, addr := k } }
      | _ => s)
    | none => s)
  | .knot (.slot k) => s.fireSlot k status

/-! ### Peers (R530 to R533) -/

/-- A peer changes state, with its event (R535). -/
def State.setPeer (s : State) (i : Nat) (st : PeerState) : State :=
  let x := s.peer i
  if x.state = st then s
  else (s.modPeer i (fun x => { x with state := st, absentFrames := 0 })).hwsEvent 0 st.code x.state.code 0 i x.incarnation

/-- A peer becomes GONE: its requests end, collectives with it end, and its transport state is reset (R532, R536). -/
def State.peerLost (s : State) (i : Nat) : State :=
  let s := (s.setPeer i .gone).modPeer i (fun x => { x with planes := 0, drained := false, tr := [] })
  let rs := s.hws.reqs.filter (fun r => r.peer == i)
  let s := rs.foldl (fun s r => if s.hws.reqs.contains r then s.endRequest r false else s) s
  { (s.bendPeerGone i) with hws := { (s.bendPeerGone i).hws with
      homeReqs := (s.bendPeerGone i).hws.homeReqs.filter (fun r => r.packet.src != i) } }

/-- A peer is UP: what was held for it is sent, and collectives that waited for it may start (R533). -/
def State.peerBack (s : State) (i : Nat) : State :=
  let s := (s.setPeer i .up).modPeer i (fun x => { x with drained := false })
  let hs := s.hws.reqs.filter (fun r => r.peer == i && r.held)
  let s := { s with hws := { s.hws with reqs := s.hws.reqs.map (fun r => if r.peer == i then { r with held := false } else r) } }
  let s := hs.foldl (fun s r => s.sendPacket r.packet) s
  (List.range 8).foldl (fun s b => s.bendRun b) s

/-- A plane no longer reaches a peer: DRAINING when none does (R531). -/
def State.planeLost (s : State) (i p : Nat) : State :=
  let x := s.peer i
  let m := if bit x.planes p then x.planes - 2 ^ p else x.planes
  let s := s.modPeer i (fun x => { x with planes := m })
  if x.state = .up && m = 0 then s.setPeer i .draining else s

/-- A port is DOWN or REFUSED: no peer is reached through it, and what it carried goes elsewhere (R531, R540). -/
def State.portLost (s : State) (p : Nat) (st : PortState) (cause : Nat) : State :=
  let s := (s.setPort p st cause).modPort p (fun x => x.fresh)
  let s := (s.hws.peers.map (·.1)).foldl (fun s i => s.planeLost i p) s
  s.resend p

/-! ### The package index (R527 to R529) -/

/-- The JOIN, or JOIN reply, that the package sends through a port: SRC is its index (notes/assumptions/22.md). -/
def State.joinPacket (s : State) (p : Nat) (reply : Bool) : Packet :=
  { ty := 0x20, cls := 0, src := s.hws.index, aux := b2n reply + 2 * b2n s.hws.indexValid
    payload := leBytes 8 s.hws.uid ++ leBytes 2 s.hws.incarnation ++ leBytes 8 s.hws.nonce ++ leBytes 2 (s.port p).halfTrip }
/-- Broadcast a JOIN on one port. -/
def State.sendJoin (s : State) (p : Nat) : State := s.portSend p { (s.joinPacket p false) with bcast := true }

/-- A change of INDEX_VALID or INDEX_CONFLICT, with its event (R535): bit 0 valid, bit 1 conflict. -/
def State.setIndex (s : State) (valid conflict : Bool) : State :=
  let old := b2n s.hws.indexValid + 2 * b2n s.hws.indexConflict
  let new := b2n valid + 2 * b2n conflict
  if old = new then s
  else { s with hws := { s.hws with indexValid := valid, indexConflict := conflict } }.hwsEvent 2 new old 0 0 0

/-- Training of every enabled port has ended (R527). -/
def State.trainingOver (s : State) : Bool :=
  (List.range 48).all (fun p => !s.portEn p || ((s.port p).state != .disabled && (s.port p).state != .training))

/-- The index, where it can be chosen now (R527). -/
def State.indexChoice (s : State) : Option Nat :=
  if !s.trainingOver then none
  else if s.fabricField 0 1 1 = 0 then some (s.fabricField 2 2 0)
  else
    let ref := s.fabricField 1 1 0
    if (s.port ref).state = .up then some (s.port ref).leaf else (s.upPorts.head?).map (fun p => (s.port p).leaf)

/-- Choose the index once training has ended: ports at another leaf are refused, and JOIN goes out on every UP port (R527,
R528). -/
def State.chooseIndex (s : State) : State :=
  if s.hws.indexChosen then s
  else match s.indexChoice with
    | none => s
    | some i =>
      let s := { s with hws := { s.hws with index := i, indexChosen := true, joinTicks := some 0 } }
      let s := (s.upPorts.filter (fun p => (s.port p).leaf != i)).foldl (fun s p => s.portLost p .refused 5) s
      s.upPorts.foldl (fun s p => s.sendJoin p) s

/-- A port that has trained: REFUSED by its plane or leaf, or UP (R518, R524, R527). -/
def State.portTrained (s : State) (p : Nat) : State :=
  let x := s.port p
  let used (q : Nat) : Bool := decide (q < p) && (s.port q).plane == x.plane
    && ((s.port q).state == .up || ((s.port q).state == .training && (s.port q).retraining))
  if s.planeMap p ≠ 0xFF && s.planeMap p ≠ x.plane then s.portLost p .refused 4
  else if (List.range 48).any used then s.portLost p .refused 6
  else if s.hws.indexChosen && x.leaf ≠ s.hws.index then s.portLost p .refused 5
  else
    let s := (s.modPort p (fun x => x.fresh)).setPort p .up 0
    let s := if s.hws.indexChosen then s.sendJoin p else s
    s.sendAllKept

/-- A JOIN or JOIN reply from another index updates its entry (R531); one through a plane that already reached the peer counts
by the table's first row, one through a further plane by its last. -/
def State.joined (s : State) (p : Nat) (j : Join) : State :=
  let i := j.index
  let x := s.peer i
  let same := x.incarnation == j.incarnation && x.nonce == j.nonce
  let put (s : State) : State := s.modPeer i (fun x =>
    { x with planes := if bit x.planes p then x.planes else x.planes + 2 ^ p, incarnation := j.incarnation, nonce := j.nonce
             uid := j.uid, halfTrips := Tbl.set 0 x.halfTrips p j.halfTrip })
  match x.state with
  | .absent => (put s).peerBack i
  | .gone => (put s).peerBack i
  | _ =>
    if !same then (put (s.peerLost i)).peerBack i
    else if !bit x.planes p && x.drained then put s
    else (put s).peerBack i

/-! ### The master (R49, R51 to R54) -/

/-- The index of the master changes (R59). -/
def Frm.setMaster (f : Frm) (i : Nat) : Frm :=
  { f with masterValid := true, masterIndex := i
           masterChanges := if f.masterIndex = i then f.masterChanges else satAdd 16 f.masterChanges 1 }

/-- The frame leaves LOCKED or stays (R59). -/
def Frm.leaves (f : Frm) (st : FrmState) : Frm :=
  { f with state := st, inTol := 0, lockLosses := if f.state = .locked then satAdd 16 f.lockLosses 1 else f.lockLosses }

/-- The package becomes master: LOCKED, its own tick the reference (R49, R52). It names itself once its index is valid.
ROLE_CONFLICT clears here, and when a FRAME change takes effect: when it clears is in no rule (DESIGN CHOICE,
notes/assumptions/33.md). -/
def State.becomeMaster (s : State) : State :=
  let f := if s.hws.indexValid then s.frm.setMaster s.hws.index else { s.frm with masterValid := false }
  { s with frm := { f with
      state := .locked, isMaster := true, mismatch := false, roleConflict := false, offset := 0, pathDelay := 0, adjust := 0, nextAdjust := 0
      pendingCount := none, missed := 0, heard := false, heldFrames := 0, election := none, inTol := 0 } }

/-- The package is alone on its fabric: no peer is UP, or, before its index is valid, training has ended with no port UP (R54). -/
def State.aloneOnFabric (s : State) : Bool :=
  if s.hws.indexValid then s.hws.peers.all (fun e => e.2.state != .up)
  else s.frt.active.isSome && s.trainingOver && s.upPorts.isEmpty

/-- A package alone, or with neither a master nor a candidate in reach, acts as its own master; one set to MASTER does once its
index is valid (R51, R53, R54). -/
def State.claimMaster (s : State) : State :=
  let f := s.frm
  if f.isMaster || !s.alive then s
  else if s.role = 2 && s.hws.indexValid && !(f.roleConflict && f.state != .holdover && (s.peer f.masterIndex).state == .up) then s.becomeMaster
  else if s.aloneOnFabric && (f.state = .free || f.state = .holdover) then s.becomeMaster
  else if s.hws.indexValid && s.role != 2 && decide (32 ≤ f.alone) && (f.state = .free || f.state = .holdover) then s.becomeMaster
  else s

end Sys2Proof.Machine
end

