-- ==== Sys2Proof/Machine/HwsRows.lean ====
section
/-! DEFINITION. Events of the Hawser fabric: link control, acknowledgements, requests of other packages, answers, peers, ports
and training (R519 to R545, R562). -/

namespace Sys2Proof.Machine

open Sys2Proof

/-! ### Link control (R522) -/

/-- The receiver has every flit before a sequence. -/
def State.lackIn (s : State) (p seq : Nat) : State := s.modPort p (fun x => x.acked seq)
/-- LACK: flits are acknowledged. -/
def execLack (p seq : Nat) (s : State) : Out State := .next (if s.pins.rails then s.lackIn p seq else s)

/-- The flits from a sequence on are sent again; a second NAK for the same flit is a failed replay of it (R519). -/
def State.lnakIn (s : State) (p seq : Nat) : State :=
  let n := (seq + 4096 - (s.port p).base) % 4096
  if (s.port p).state ≠ .up ∨ (s.port p).replayBuf.length ≤ n then s
  else
    (s.modPort p (fun x =>
      let again := x.nakSeq == some seq
      { (x.acked seq) with nakSeq := some seq, failedReplays := if again then x.failedReplays + 1 else 0 })).replay p
/-- LNAK: flits are asked for again. -/
def execLnak (p seq : Nat) (s : State) : Out State := .next (if s.pins.rails then s.lnakIn p seq else s)

/-- Link credits of a class return. -/
def State.lcredIn (s : State) (p cls n : Nat) : State :=
  s.modPort p (fun x => { x with credits := x.credits.mapIdx (fun i c => if i = cls then c + n else c) })
/-- LCRED: link credits of a class return. -/
def execLcred (p cls n : Nat) (s : State) : Out State := .next (if s.pins.rails then s.lcredIn p cls n else s)

/-- LINK_ACK_DUE: 64 flits, or 256 hcyc since the first, are not acknowledged. -/
def execLinkAckDue (p : Nat) (s : State) : Out State :=
  .next (
    let x := s.port p
    if !s.pins.rails || decide (x.state ≠ .up) || x.rxUnacked = 0 || (decide (x.rxUnacked < 64) && decide (s.now < x.rxSince + 512)) then s
    else (s.modPort p (fun x => { x with rxUnacked := 0 })).portSend p { ty := 0x30, cls := 0, addr := x.rxSeq })

/-! ### End-to-end acknowledgement (R538) -/

/-- ucyc in 1 µs. -/
def microsecond : Nat := 3600

/-- E2EACK_DUE: 64 packets, or 1 µs since the first, of a source and class are not acknowledged. -/
def execE2eackDue (peer cls : Nat) (s : State) : Out State :=
  .next (
    let t := (s.peer peer).transport cls
    if !s.pins.rails || t.rxUnacked = 0 || (decide (t.rxUnacked < 64) && decide (s.now < t.rxSince + microsecond)) then s
    else (s.modPeer peer (fun x => x.modTransport cls (fun t => { t with rxUnacked := 0 }))).sendPacket
      { ty := 0x26, cls := 0, dst := peer, aux := cls, addr := t.rxNext })

/-- The peer has every packet of a class before a TSEQ; packets that waited for the window go out. -/
def State.e2eackIn (s : State) (peer cls tseq : Nat) : State :=
  let t := (s.peer peer).transport cls
  let n := match t.kept.head? with
    | some k => (tseq + 65536 - k.1.tseq) % 65536
    | none => 0
  if min t.kept.length keepLimit < n then s
  else (s.modPeer peer (fun x => x.modTransport cls (fun t => { t with kept := t.kept.drop n }))).sendKept peer cls
/-- E2EACK: packets are acknowledged end to end. -/
def execE2eack (peer cls tseq : Nat) (s : State) : Out State := .next (if s.pins.rails then s.e2eackIn peer cls tseq else s)

/-! ### Requests of other packages (R33, R358, R544, R545) -/

/-- An address that other packages reach: HBM, either aperture, and scratchpad with REMOTE (R33, R358). -/
def State.remoteServed (s : State) (a : Nat) : Bool :=
  match s.placeOf a with
  | .hbm _ => true
  | .scratch o => (s.scrGroup o).any (fun g => s.scrRemote g.1)
  | _ => false

/-- Every byte of a request lies where other packages reach. -/
def State.requestServed (s : State) (k : Packet) : Bool :=
  if k.ty = 0x10 then (segments k.addr (max 1 k.payload.length)).all (fun g => s.remoteServed g.1) else s.remoteServed k.addr

/-- Answer a request. -/
def State.answer (s : State) (k : Packet) (ty aux : Nat) (payload : List Byte) (poison : Bool) : State :=
  s.sendPacket { ty := ty, cls := if ty = 0x08 && k.ty = 0x01 && bit k.aux 0 then 3 else 2, dst := k.src, tag := k.tag
                 aux := aux, payload := payload, poison := poison }

/-- Perform a request at the home slice as agent 576 + p; none: the home cannot perform it now (R544). -/
def State.perform (s : State) (p : Nat) (k : Packet) : Option State :=
  let agent := 576 + p
  match s.lineAt k.addr with
  | none => some s
  | some l =>
    if k.ty = 0x01 then
      match s.cohRead agent l with
      | (some (d, poison), s) => some (s.answer k 0x08 0 (lineBytes d) poison)
      | (none, _) => none
    else if k.ty = 0x03 then
      match s.cohAtomic agent l (k.addr % 128) (if bit k.aux 5 then 8 else 4) (k.aux % 32) (fieldAt k.payload 0 8) (fieldAt k.payload 8 8) with
      | (some (old, poison), s) => some (s.answer k 0x08 0 (leBytes 8 old) poison)
      | (none, _) => none
    else
      let put : Option State := if k.ty = 0x02 then
          s.cohPut agent l (lineOfBytes (k.payload.take 128)) (BitVec.ofNat 128 (fieldAt k.payload 128 16)) false k.poison
        else (segments k.addr k.payload.length).foldl (fun (acc : Option State) g => acc.bind (fun s => match s.lineAt g.1 with
          | some l => s.cohPut agent l (linePlace (g.1 % 128) ((k.payload.drop (g.1 - k.addr)).take g.2)) (byteMask (g.1 % 128) g.2)
              false k.poison
          | none => some s)) (some s)
      put.map (fun s => s.answer k 0x09 0 [] false)

/-- An earlier request of the same source for the same line has not been performed (R545). -/
def State.behindHome (s : State) (r : HomeReq) : Bool :=
  (s.hws.homeReqs.takeWhile (fun x => !(x == r))).any (fun x =>
    x.packet.src == r.packet.src && lineOf x.packet.addr == lineOf r.packet.addr)

/-- Answer a request that has arrived, where its home performs it now. -/
def State.answerHome (s : State) (r : HomeReq) : Option State :=
  if s.behindHome r then none
  else if r.refusal ≠ 0 then some (s.answer r.packet 0x0A r.refusal [] false) else s.perform r.port r.packet

/-- Requests not yet answered are tried again, oldest first; answers go out only under a valid index (R35, R528). -/
def State.retryHome (s : State) : State :=
  if !s.hws.indexValid then s else s.hws.homeReqs.foldl (fun s r => match s.answerHome r with
    | some s => { s with hws := { s.hws with homeReqs := s.hws.homeReqs.erase r } }
    | none => s) s

/-- A request arrives in its turn: refused, performed, or held while the package wakes, while its home cannot serve, or until its own
index is valid (R35, R534, R544, R624). -/
def State.homeRequestIn (s : State) (p : Nat) (k : Packet) : State :=
  let r : HomeReq := { port := p, packet := k
                       refusal := if s.hws.departing then 2 else if !s.feature 12 || !s.requestServed k then 1 else 0 }
  let wait (s : State) : State := { s with hws := { s.hws with homeReqs := s.hws.homeReqs ++ [r] } }
  let s := if r.refusal = 0 && s.lhr.stage != 0 then { s with lhr := { s.lhr with waking := true } } else s
  if !s.hws.indexValid || (r.refusal = 0 && s.lhr.stage != 0) then wait s
  else match s.answerHome r with
    | some s => s
    | none => wait s

/-! ### Answers (R543, R544) -/

/-- A piece of a memory instruction has its answer, and the instruction goes on. -/
def State.pieceDone (s : State) (c : Ctx) (o : MemOp) (p : Piece) (bs : List Byte) : State :=
  s.memGo c { o with pieces := o.pieces.map (fun q => if q = p then { q with got := some bs } else q) }

/-- Data arrives for a unit's load, fetch or atomic (R244, R298, R317, R321). -/
def State.unitData (s : State) (r : RemoteReq) (u slot : Nat) (k : Packet) : State :=
  match s.ctxAny u slot with
  | none => s
  | some c =>
    let piece : Option (MemOp × Piece) := match c.t.wait with
      | .mem o => (o.pieceFor r).map (fun p => (o, p))
      | _ => none
    let tag := r.peer * 2 ^ 42 + lineOf r.packet.addr
    if r.packet.ty = 0x03 then match piece with
      | none => s
      | some (o, p) =>
        if k.poison then s.raisePoison c .atomic p.va (p.pa.getD 0)
        else
          let old := k.payload.take p.len
          (s.atomicSeen u tag (p.pa.getD 0) o p (leNat old)).pieceDone c o p old
    else
      let alloc := !r.stale && !remoteAperture tag && piece.all (fun x => !x.1.bypassL1 && x.2.pbmt == 0)
      s.fillUnit u tag (lineOfBytes k.payload) k.poison alloc (some slot)

/-- Data arrives for a DMA channel: the first piece that waits for the line takes it. -/
def State.dmaData (s : State) (r : RemoteReq) (e c : Nat) (k : Packet) : State :=
  let here (p : DmaPart) : Bool := p.got.isNone && (match p.src with
    | .remote q a => q == r.peer && lineOf a == r.packet.addr
    | _ => false)
  let bs := (s.dmaCh e c).bursts
  match bs.findIdx? (fun b => b.parts.any here) with
  | none => s
  | some i =>
    let b := (bs[i]?).getD { from_ := 0, len := 0 }
    let n := (b.parts.findIdx? here).getD 0
    let set (p : DmaPart) : DmaPart := match p.src with
      | .remote _ a => { p with got := some (if k.poison then [] else (k.payload.drop (a % 128)).take p.len, k.poison) }
      | _ => p
    (s.modDmaCh e c (fun x => { x with bursts := bs.set i { b with parts := b.parts.modify n set } })).dmaArrived e c

/-- Data arrives for a hart's load or AMO (R321, R691). -/
def State.hartData (s : State) (h : Nat) (k : Packet) : State :=
  match (s.hart h).wait with
  | some (o, pa) =>
    if k.poison then (s.poisonUse 4 (ccOfHart h) (paLocal pa)).nodeFault h o
    else match o with
      | .load rd _ size sg => (s.hartPut h rd (regLoaded rd size sg (k.payload.drop (paLocal pa % 128)))).hartNext h
      | .amo rd _ size _ _ => (s.hartSet h rd (loadValue size true k.payload)).hartNext h
      | _ => s.modHart h (fun x => { x with wait := none })
  | none => s

/-- Data arrives for a command: its descriptor, or the old value of a knot it signalled (R464, R479). -/
def State.cmdData (s : State) (r : RemoteReq) (id : Nat) (k : Packet) : State :=
  let a := r.site.va
  match s.cmd? id with
  | none => s
  | some c => match c.work with
    | .descRead off args count rerun =>
      if k.poison then
        let src := engineSource c.engine
        (s.poisonUse src.1 src.2 r.packet.addr).endCmd id { status := 0x16, fault := some { cause := 0, kind := 6, addr := a } }
      else s.launchWith id ((k.payload.drop off).take 64) args count rerun
    | _ =>
      if k.poison then
        let src := engineSource c.engine
        ((s.poisonUse src.1 src.2 r.packet.addr).modCmd id (fun c => c.sigFailed 0x16 0 a)).finishCmd id
      else s.finishCmd id

/-- The answer DATA reaches whoever asked. -/
def State.dataIn (s : State) (k : Packet) : State :=
  match s.hws.reqs.find? (fun r => r.tag == k.tag && r.peer == k.src && !r.held && (r.packet.ty == 0x01 || r.packet.ty == 0x03)) with
  | none => s
  | some r => match r.who with
    | .unit u slot => (s.dropReq r).unitData r u slot k
    | .unitStore _ _ => s.dropReq r
    | .copy u id => (s.dropReq r).modUnit u (fun x => { x with copies := x.copies.map (fun y =>
        if y.id = id then { y with lines := y.lines ++ [(r.peer * 2 ^ 42 + r.packet.addr, if k.poison then .poisoned else .ok (lineOfBytes k.payload))] } else y) })
    | .dma e c => (s.dropReq r).dmaData r e c k
    | .hart h => (s.dropReq r).hartData h k
    | .cmd id => (s.dropReq r).cmdData r id k
    | .knot w =>
      let off := match w with
        | .slot i => paLocal (s.kwait i).addr % 128
        | .cmd id => (s.cmd? id).elim 0 (fun c => match c.work with | .knotWait kn _ _ => kn % 128 | _ => 0)
      s.knotRead w (if k.poison then .poisoned else .ok (fieldAt k.payload off 8))

/-- The answer ACK reaches whoever wrote (R313, R495, R543). -/
def State.ackIn (s : State) (k : Packet) : State :=
  match s.hws.reqs.find? (fun r => r.tag == k.tag && r.peer == k.src && !r.held && (r.packet.ty == 0x02 || r.packet.ty == 0x10)) with
  | none => s
  | some r =>
    let s := s.dropReq r
    match r.who with
    | .unit u slot => (match s.ctxAny u slot with
      | some c => (match c.t.wait with
        | .mem o => (match o.pieceFor r with
          | some p => s.pieceDone c o p []
          | none => s)
        | _ => s)
      | none => s)
    | .unitStore u _ => (s.modUnit u (fun x => { x with remoteStores := x.remoteStores - 1 })).pumpUnit u
    | .hart h => (s.modHart h (fun x => { x with wait := none })).hartNext h
    | .cmd id => s.finishCmd id
    | _ => s

/-- A refusal reaches whoever asked (R544). -/
def State.refuseIn (s : State) (k : Packet) : State :=
  match s.hws.reqs.find? (fun r => r.tag == k.tag && r.peer == k.src && !r.held) with
  | none => s
  | some r => if k.aux = 1 ∨ k.aux = 2 then s.endRequest r (k.aux == 1) else s

/-! ### The transport's receiver (R538) -/

/-- The request, response and bulk packets, once in their turn. -/
def State.packetIn (s : State) (p : Nat) (k : Packet) : State :=
  if k.ty = 0x01 ∨ k.ty = 0x02 ∨ k.ty = 0x03 ∨ k.ty = 0x10 then
    (if s.lhr.stage = 0 then s.retryHome else s).homeRequestIn p k
  else if k.ty = 0x08 then s.dataIn k
  else if k.ty = 0x09 then s.ackIn k
  else if k.ty = 0x0A then s.refuseIn k
  else if k.ty = 0x18 then (if s.alive && decide (k.aux < 8) then s.bendPart k.aux k.payload else s)
  else s

/-- Count a packet that is to be acknowledged. -/
def State.oweAck (s : State) (i cls : Nat) : State :=
  s.modPeer i (fun x => x.modTransport cls (fun t =>
    { t with rxUnacked := t.rxUnacked + 1, rxSince := if t.rxUnacked = 0 then s.now else t.rxSince }))

/-- Deliver the packets that follow in order of those that came early. -/
def State.deliverNext (act : State → Nat → Packet → State) (i cls : Nat) : Nat → State → State
  | 0, s => s
  | n + 1, s =>
    let t := (s.peer i).transport cls
    match t.early.find? (fun e => e.2.tseq == t.rxNext) with
    | none => s
    | some e =>
      let s := s.modPeer i (fun x => x.modTransport cls (fun t =>
        { t with early := t.early.erase e, rxNext := (t.rxNext + 1) % 65536 }))
      State.deliverNext act i cls n (act (s.oweAck i cls) e.1 e.2)

/-- A unicast packet arrives: delivered once, in TSEQ order; a duplicate is discarded (R538). -/
def State.unicastIn (act : State → Nat → Packet → State) (s : State) (p : Nat) (k : Packet) : State :=
  let t := (s.peer k.src).transport k.cls
  let ahead := (k.tseq + 65536 - t.rxNext) % 65536
  if k.dst ≠ s.hws.index ∨ 4 ≤ k.cls then s
  else if 32768 ≤ ahead then s.oweAck k.src k.cls
  else if t.early.any (fun e => e.2.tseq == k.tseq) then s
  else
    let s := s.modPeer k.src (fun x => x.modTransport k.cls (fun t => { t with early := t.early ++ [(p, k)] }))
    State.deliverNext act k.src k.cls (t.early.length + 1) s

/-- A packet row: the packet arrives at a port that is UP. -/
def State.packetRow (s : State) (p ty cls : Nat) (k : Packet) : State :=
  if !s.pins.rails || decide ((s.port p).state ≠ .up) then s
  else State.unicastIn State.packetIn s p { k with ty := ty, cls := cls, bcast := false }

/-- RD: a line read of another package. -/
def execRd (p : Nat) (k : Packet) (s : State) : Out State := .next (s.packetRow p 0x01 1 k)
/-- WR: a masked write of another package. -/
def execWr (p : Nat) (k : Packet) (s : State) : Out State := .next (s.packetRow p 0x02 1 k)
/-- AT: an atomic of another package. -/
def execAtomicPacket (p : Nat) (k : Packet) (s : State) : Out State := .next (s.packetRow p 0x03 1 k)
/-- BWR: a bulk write of another package. -/
def execBwr (p : Nat) (k : Packet) (s : State) : Out State := .next (s.packetRow p 0x10 3 k)
/-- DATA: a response, or bulk to a DMA or bend engine. -/
def execData (p : Nat) (k : Packet) (s : State) : Out State := .next (s.packetRow p 0x08 (if k.cls = 3 then 3 else 2) k)
/-- ACK: a remote write has been performed at its home. -/
def execAckPacket (p : Nat) (k : Packet) (s : State) : Out State := .next (s.packetRow p 0x09 2 k)
/-- REFUSE: a remote request ends as unbacked, or as its home departs. -/
def execRefuse (p : Nat) (k : Packet) (s : State) : Out State := .next (s.packetRow p 0x0A 2 k)

/-! ### Peers and the index (R527 to R534) -/

/-- A JOIN or JOIN reply arrives through a port. A joiner with this package's own valid index learns of the conflict by the reply, on the
port that its JOIN came through, outside the transport (R528, R530; notes/assumptions/22.md). -/
def State.joinIn (s : State) (p : Nat) (j : Join) : State :=
  if s.hws.indexChosen && j.index = s.hws.index then
    (if j.uid = s.hws.uid || s.hws.indexConflict then s
     else if s.hws.indexValid then (if j.reply then s else s.portSend p { (s.joinPacket p true) with dst := j.index })
     else if j.senderUp || decide (j.uid < s.hws.uid) then (s.setIndex false true).logErr .event 0x41 0 0 else s)
  else
    let s := s.joined p j
    if j.reply || !s.hws.indexChosen then s else s.sendPacket { (s.joinPacket p true) with dst := j.index }

/-- JOIN: the package learns of a peer, or of a conflict over its index (R528, R530, R531). -/
def execJoin (p : Nat) (j : Join) (s : State) : Out State :=
  .next (if !s.pins.rails || decide ((s.port p).state ≠ .up) then s else s.joinIn p j)

/-- A DRAIN from a peer (R531). -/
def State.drainIn (s : State) (src : Nat) : State :=
  if (s.peer src).state = .up then (s.setPeer src .draining).modPeer src (fun x => { x with drained := true }) else s
/-- DRAIN: a peer announces its departure. -/
def execDrain (src : Nat) (s : State) : Out State := .next (if s.pins.rails then s.drainIn src else s)

/-- A LEAVE from a peer (R531). -/
def State.leaveIn (s : State) (src : Nat) : State :=
  if (s.peer src).state = .up ∨ (s.peer src).state = .draining then s.peerLost src else s
/-- LEAVE: a peer has departed. -/
def execLeave (src : Nat) (s : State) : Out State := .next (if s.pins.rails then s.leaveIn src else s)

/-- ABSENCE_LIMIT: a peer has been DRAINING with a zero mask for ABSENCE_LIMIT frames (R531). -/
def execAbsenceLimit (peer : Nat) (s : State) : Out State :=
  .next (
    let x := s.peer peer
    if s.pins.rails && x.state = .draining && x.planes = 0 && decide (s.absenceLimit ≤ x.absentFrames) then s.peerLost peer else s)

/-- LEAF_REPORT: a switch plane reports that a leaf joined or left; a peer that left is no longer reached through it (R523,
R531). -/
def execLeafReport (p leaf : Nat) (joined : Bool) (s : State) : Out State :=
  .next (if !s.pins.rails || joined || decide ((s.port p).state ≠ .up) then s else s.planeLost leaf p)

/-- INDEX_VALID: the second tick after the first JOIN, without a conflict (R528); the package may become master, and one that
is master names itself (R51, R54). -/
def execIndexValid (s : State) : Out State :=
  .next (if s.pins.rails && s.hws.indexChosen && !s.hws.indexValid && !s.hws.indexConflict
            && s.hws.joinTicks.any (fun t => decide (2 ≤ t)) then
            (let s := (s.setIndex true false).retryHome
             if s.frm.isMaster then { s with frm := s.frm.setMaster s.hws.index } else s.claimMaster)
          else s)

/-! ### Ports (R517 to R524, R722) -/

/-- LANE_LOCK_LOSS: a lane of an UP port loses lock: the port stops sending (R519). -/
def execLaneLockLoss (p : Nat) (s : State) : Out State :=
  .next (if !s.pins.rails || decide ((s.port p).state ≠ .up) then s
         else (s.setPort p .training 0).modPort p (fun x => { x with lockLost := some s.now }))

/-- LASER_LOSS: an UP port goes DOWN, and training cannot succeed (R518, R722). -/
def execLaserLoss (p : Nat) (s : State) : Out State :=
  .next (
    let st := (s.port p).state
    let s := s.modPort p (fun x => { x with laserOk := false })
    if s.pins.rails && (st = .up || st = .training) then (s.portLost p .down 1).chooseIndex else s)

/-- Begin a retrain: what the port keeps is kept (R519). -/
def State.startRetrain (s : State) (p : Nat) : State :=
  (s.setPort p .training 0).modPort p (fun x =>
    { x with retraining := true, lockLost := none, failedReplays := 0, nakSeq := none, retrain := wrapAdd 64 x.retrain 1 })

/-- RETRAIN_START: lock lost for 1 µs, or 8 failed replays of one flit (R519). -/
def execRetrainStart (p : Nat) (s : State) : Out State :=
  .next (
    let x := s.port p
    let lost := x.lockLost.any (fun t => decide (t + microsecond ≤ s.now))
    if s.pins.rails && !x.retraining && ((x.state = .training && lost) || (x.state = .up && decide (8 ≤ x.failedReplays))) then
      s.startRetrain p else s)

/-- RETRAIN_END: a retrain succeeds and the port replays, or training fails and the port is DOWN (R518, R519, R540). -/
def execRetrainEnd (p : Nat) (ok : Bool) (s : State) : Out State :=
  .next (
    let x := s.port p
    if !s.pins.rails || decide (x.state ≠ .training) then s
    else if x.retraining then
      (if ok then ((s.setPort p .up 0).modPort p (fun x => { x with retraining := false, rxNak := false })).replay p |>.sendAllKept
       else s.portLost p .down 3)
    else if ok then s
    else (s.portLost p .down 2).chooseIndex)

/-- PORT_TRAINED: training ends; once every port's has, the index is chosen (R518, R524, R527). -/
def execPortTrained (p plane leaf transit halfTrip : Nat) (s : State) : Out State :=
  .next (if !s.pins.rails || decide ((s.port p).state ≠ .training) || (s.port p).retraining || (s.port p).lockLost.isSome then s
    else ((s.modPort p (fun x => { x with laserOk := true, plane := plane, leaf := leaf, transit := transit
                                          halfTrip := halfTrip })).portTrained p).chooseIndex)

/-- PORT_RETRY: a DOWN port trains again at a tick with FRM_COUNT mod 1,024 = 0 (R519). -/
def execPortRetry (p : Nat) (s : State) : Out State :=
  .next (if s.pins.rails && (s.port p).state = .down && s.frm.count % 1024 = 0 then s.setPort p .training 0 else s)

/-- RETRAIN: software retrains a port: an UP port keeps what it holds; a REFUSED or DOWN port trains afresh (R519, R562). -/
def execRetrain (p : Nat) (s : State) : Out State :=
  .next (if !s.pins.rails then s else match (s.port p).state with
    | .up => s.startRetrain p
    | .refused => s.setPort p .training 0
    | .down => s.setPort p .training 0
    | _ => s)

/-- HWS_PORT_CNT_CLEAR (R562, R566). -/
def execHwsPortCntClear (p value : Nat) (s : State) : Out State :=
  .next (s.modPort p (fun x =>
    { x with fecCorr := clr value 0 x.fecCorr, fecUnc := clr value 1 x.fecUnc, crc := clr value 2 x.crc
             replay := clr value 3 x.replay, retrain := clr value 4 x.retrain, resent := clr value 5 x.resent }))

/-- LEAVE_BROADCAST: a departing package has completed the requests it accepted: it broadcasts LEAVE (R534). What it departed
for follows (`depart`). -/
def State.leaveNow (s : State) : State := (s.broadcast { ty := 0x22, cls := 0 })

end Sys2Proof.Machine
end

