-- ==== Sys2Proof/Machine/FenceOps.lean ====
section
/-! DEFINITION. Fencing: units, clusters, regions, core complexes and dies leave service (R466, R651 to R658). -/

namespace Sys2Proof.Machine

open Sys2Proof

/-- The clusters of a region. -/
def clustersOfRegion (r : Nat) : List Nat := (List.range 8).map (fun i => 8 * r + i)
/-- The complexes of core die d (8 or 9). -/
def ccsOfDie (d : Nat) : List Nat := (List.range 6).map (fun i => 6 * (d - 8) + i)

/-- What a fence covers (R652): units, clusters, regions, complexes and dies. -/
structure Fenced where
  units : List Nat := []
  clusters : List Nat := []
  regions : List Nat := []
  ccs : List Nat := []
  dies : List Nat := []
  deriving DecidableEq, Repr

/-- The pieces of a fence by KIND and INDEX (R652, R663); none: KIND 0, 6 and 7, and an index that names nothing. -/
def fencePieces (kind index : Nat) : Option Fenced :=
  let region (r : Nat) : Fenced :=
    { units := unitsOfRegion r, clusters := clustersOfRegion r, regions := [r] }
  match kind with
  | 1 => if index < 1024 then some { units := [index] } else none
  | 2 => if index < 256 then some { units := unitsOfCluster index, clusters := [index] } else none
  | 3 => if index < 32 then some (region index) else none
  | 4 => if index < 12 then some { ccs := [index] } else none
  | 5 =>
    if index < 8 then
      let rs := (List.range 4).map (fun i => 4 * index + i)
      some { units := rs.flatMap unitsOfRegion, clusters := rs.flatMap clustersOfRegion, regions := rs, dies := [index] }
    else if index < 10 then some { ccs := ccsOfDie index, dies := [index] } else none
  | _ => none

/-- Set bits of a map. -/
def setAll {w : Nat} (m : BitVec w) (l : List Nat) : BitVec w := l.foldl (fun m i => m ||| BitVec.ofNat w (2 ^ i)) m

/-- The piece itself is fenced already, or lies inside a fenced piece (R652). -/
def Err.fencedPiece (e : Err) (kind index : Nat) : Bool :=
  match kind with
  | 1 => e.fmUnit.getLsbD index
  | 2 => e.fmCluster.getLsbD index
  | 3 => e.fmRegion.getLsbD index
  | 4 => e.fmCc.getLsbD index
  | 5 => e.fmDie.getLsbD index
  | _ => true

/-- The words of the fence map, 0x004_0200 to 0x004_02A7, in address order (R658, R677). -/
def Err.fmapBytes (e : Err) : List Byte :=
  leBytes 128 e.fmUnit.toNat ++ leBytes 32 e.fmCluster.toNat
    ++ leBytes 8 (e.fmRegion.toNat + e.fmCc.toNat * 2 ^ 32 + e.fmDie.toNat * 2 ^ 44)

/-- Extend a measurement register and log it (R676, R678): MEAS0 is not logged. -/
def State.measure (s : State) (i digest : Nat) : State :=
  let b := s.boot
  let m := Tbl.set 0 b.meas i (sha256N (beBytes 32 (Tbl.get 0 b.meas i) ++ beBytes 32 digest))
  if i = 0 then { s with boot := { b with meas := m } }
  else if b.log.length < 1024 then
    { s with boot := { b with meas := m, log := b.log ++ [{ index := i, frame := s.frm.count, digest := digest }] } }
  else { s with boot := { b with meas := m, logOverflow := satAdd 32 b.logOverflow 1 } }

/-- A launch that cannot run on any unit any more (R466): DETAIL names the first fenced unit it ran on. -/
def Launch.lost (l : Launch) : Ending :=
  match l.firstFenced with
  | some u => { status := 0x14, dkind := 1, detail := u }
  | none => { status := 0x14 }

/-- A fenced unit's hanks stop at once: with RERUN each is given again, else its launch ends with UNIT_LOST (R466, R654). Their
unwritten stores and their copies are discarded. -/
def State.fenceUnit (s : State) (u : Nat) : State :=
  let hs := (s.unit u).hanks
  let s := hs.foldl (fun s h => s.freeHank u h) s
  let s : State := { s with cmds := s.cmds.map (fun (c : Cmd) => match c.work with
    | .launch l => if l.firstFenced.isNone && l.used.contains u then { c with work := .launch { l with firstFenced := some u } } else c
    | _ => c) }
  let s := s.modUnit u (fun x => { x with wc := [], l1 := [], misses := [], copies := [], mmaQ := [] })
  hs.foldl (fun s h => match s.cmd? h.launch with
    | some c => (match c.work with
      | .launch l =>
        if c.ending.isSome then s
        else if l.rerun then s.modLaunch c.id (fun l => { l with again := l.again ++ [h.index] })
        else s.endLaunch c.id (if (s.unitsOfCoil c.coil).all (fun u => s.unitFenced u) then l.lost
                               else { status := 0x14, dkind := 1, detail := u })
      | _ => s)
    | none => s) s

/-- Launches whose coil has no unfenced unit left complete with UNIT_LOST (R654). -/
def State.endStranded (s : State) : State :=
  s.cmds.foldl (fun (s : State) (c : Cmd) => match c.work with
    | .launch l => if c.ending.isNone && (s.unitsOfCoil c.coil).all (fun u => s.unitFenced u) then s.endLaunch c.id l.lost else s
    | _ => s) s

/-- A complex's harts stop, and what their interrupt files hold is discarded (R656, R700). -/
def State.fenceCc (s : State) (k : Nat) : State :=
  let hs := (List.range 8).map (fun i => 8 * k + i)
  let s := hs.foldl (fun s h => s.modHart h (fun x => { x with state := .fenced, wait := none, resv := none, l1i := [], l1d := [], l2 := [] })) s
  { s with ncc := { s.ncc with imsic := s.ncc.imsic.filter (fun e => !hs.contains (e.1 / 4096 / 8)) }
           hws := { s.hws with reqs := s.hws.reqs.filter (fun r => match r.who with | .hart h => !hs.contains h | _ => true) } }

/-- Fence a piece: the UC record, the fence map, the work on its units, and the reclaim of its caches (R651 to R658,
R664). After an FE the record and the map alone: no work ends and nothing is reclaimed (R660, R661). -/
def State.fence (s : State) (kind index code : Nat) : State :=
  match fencePieces kind index with
  | none => s
  | some f =>
    if s.err.fencedPiece kind index then s
    else
      let units := f.units.filter (fun u => !s.unitFenced u)
      let s : State := { s with err := { s.err with
        fmUnit := setAll s.err.fmUnit f.units, fmCluster := setAll s.err.fmCluster f.clusters
        fmRegion := setAll s.err.fmRegion f.regions, fmCc := setAll s.err.fmCc f.ccs, fmDie := setAll s.err.fmDie f.dies
        fenceCount := satAdd 16 s.err.fenceCount 1 } }
      let s := s.logErr .uc code kind index
      let s := if s.alive then
          f.ccs.foldl (fun s k => s.fenceCc k) (units.foldl (fun s u => s.fenceUnit u) s).endStranded
            |>.declareDead (f.clusters ++ f.ccs.map (256 + ·))
        else s
      if s.boot.stage = .released then s.measure 3 (sha256N s.err.fmapBytes) else s

/-- ERR_FENCE_STATUS.BUSY: a fence or its reclaim is running. -/
def State.fenceRunning (s : State) : Bool := s.coh.reclaim

end Sys2Proof.Machine
end

