-- ==== Sys2Proof/Machine/Time.lean ====
section
/-! DEFINITION. What the passing of time does on its own (notes/assumptions/5.md). -/

namespace Sys2Proof.Machine

open Sys2Proof

/-- The pulses a region skips: the deeper of droop and over-power (R610). -/
def Dom.skipping (d : Dom) : Nat := if d.overSkip then 3 else d.skip

/-- Pulses out of eight that a region's clock keeps (R609). -/
def Dom.pulses (d : Dom) : Nat :=
  match d.skipping with | 0 => 8 | 1 => 7 | 2 => 6 | _ => 4

/-- The rate of a region's unit clock, in 288ths of a level-15 clock: level n runs at (21 + n) / 36 of it (R613), without the skipped
pulses (R609), and not at all in L2 and deeper, while the region is gated, or without power (R622, R626). -/
def State.clockRate (s : State) (r : Nat) : Nat :=
  if s.pins.rails && decide (s.lhr.stage < 2) && !(s.dom r).gated then (21 + s.lhr.jobLevel) * (s.dom r).pulses else 0

/-- A region's clock n level-15 clocks on. -/
def State.clkAfter (s : State) (n r : Nat) : Nat := (s.dom r).clk + n * s.clockRate r

/-- Tokens that a unit's bucket gains in each ucyc: min(L, 8 × K) (R605). -/
def State.tokenGain (s : State) (u : Nat) : Int :=
  let d := s.dom (regionOf u)
  (min d.limit (8 * d.rampK) : Nat)

/-- A bucket after a gain: at most 8,192 tokens (R605). -/
def bucketStep (balance gain : Int) : Int := min 8192 (balance + gain)

/-- The balance of a unit's bucket n level-15 clocks on: it gains in each ucyc of its region's clock. -/
def State.tokensAfter (s : State) (n u : Nat) (balance : Int) : Int :=
  let r := regionOf u
  bucketStep balance (((s.clkAfter n r / 288 - (s.dom r).ucyc : Nat) : Int) * s.tokenGain u)

/-- n level-15 clocks pass: buckets fill (R605), unit clocks run (R613), and requests wait on blocked sets (R367). -/
def State.pass (s : State) (n : Nat) : State :=
  let t := (s.units.map (·.1)).foldl (fun t u => t.modUnit u (fun x => { x with tokens := s.tokensAfter n u x.tokens })) s
  let t := (List.range 32).foldl (fun t r => t.modDom r (fun d => { d with clk := s.clkAfter n r })) t
  let t := (s.slices.map (·.1)).foldl (fun t k => t.modSlice k (fun x => { x with
    cnt := { x.cnt with setWait := wrapAdd 64 x.cnt.setWait (((s.now + n) / 2 - s.now / 2) * s.setWaiters k) } })) t
  { t with now := t.now + n }

/-- One level-15 clock passes. -/
def State.idle (s : State) : State := s.pass 1

/-- The machine timer and the time CSR: 100 MHz since power-up or warm reset, 36 level-15 clocks a count (R692). -/
def State.mtime (s : State) : Nat := s.now / 36

end Sys2Proof.Machine
end

