-- ==== Sys2Proof/Machine/PowerOps.lean ====
section
/-! DEFINITION. Resets, departure, the emergency stop, Lehr stages, and a frit image that takes effect (R42, R74 to R85,
R348, R527, R529, R534, R621 to R625, R665 to R670, R711 to R719). -/

namespace Sys2Proof.Machine

open Sys2Proof

/-- Change every entry of a sparse array. -/
def Tbl.each {α : Type} [DecidableEq α] (d : α) (f : α → α) (t : Tbl α) : Tbl α :=
  (t.map (fun e => (e.1, f e.2))).filter (fun e => decide (e.2 ≠ d))

/-! ### Resets (R529, R665 to R667, R713, R718) -/

/-- What remains when the standby island is unpowered (R713): fuses, the board's flash and straps, and the model's queue. -/
def State.unpowered (s : State) : State :=
  { pending := s.pending, free := s.free, fuses := s.fuses, flash := s.flash
    pins := { s.pins with pwrGood := false, thermtrip := false, rails := false } }

/-- What the standby island keeps (R665): bank 0 with its counter, fences, repair lists, the last applied frit image, BOOT_REQ
and HWS_INCARNATION, beside what lies outside the package. -/
def State.island (s : State) : State :=
  let e := s.err
  { pending := s.pending, free := s.free, fuses := s.fuses, flash := s.flash, pins := s.pins
    err := { bank0 := e.bank0, occFe := e.occFe, fenceCount := e.fenceCount, fmUnit := e.fmUnit, fmCluster := e.fmCluster
             fmRegion := e.fmRegion, fmCc := e.fmCc, fmDie := e.fmDie }
    boot := { memtest := s.boot.memtest, keptFrit := s.boot.keptFrit }
    hbm := Tbl.each {} (fun k => { repair := k.repair }) s.hbm
    hws := { uid := s.hws.uid, incarnation := s.hws.incarnation } }

/-- Event P: the boot ROM starts; MEAS0 and MEAS2 are extended, and BOOT_NONCE is drawn (R529, R667 step 2). -/
def State.eventP (s : State) (warm : Bool) : State :=
  let (n, s) := s.freeVal 64
  let s : State := { s with
    now := 0, hws := { s.hws with nonce := n, uid := s.fuses.uid }
    boot := { s.boot with stage := .rom, warm := warm, cold := false }
    pins := { s.pins with pwrGood := true, rails := true } }
  (s.measure 0 (sha256N s.fuses.rom)).measure 2 (sha256N s.fuses.words)

/-- HWS_INCARNATION advances (R529). -/
def State.advance (s : State) : State := { s with hws := { s.hws with incarnation := wrapAdd 16 s.hws.incarnation 1 } }

/-- A warm reset: the boot sequence from step 2 (R665, R666). -/
def State.restart (s : State) : State := s.island.advance.eventP true

/-- The start of a cold restart: THERMTRIP_N is released, and the main rails are to be raised (R665, R666, R714). -/
def State.coldRestart (s : State) : State :=
  let s := s.island
  { s with boot := { s.boot with cold := true }, pins := { s.pins with thermtrip := false } }

/-- An emergency stop: the FE record, then power is removed from everything but the standby island; nothing is announced
(R621, R712, R719). -/
def State.emergencyStop (s : State) (kind index detail : Nat) : State :=
  let s := (s.logErr .fe 0x71 kind index detail).island
  { s with pins := { s.pins with rails := false, pwrGood := false, thermtrip := true } }

/-! ### Departure (R534) -/

/-- The package announces its departure: DRAIN, and every new remote request is refused. -/
def State.announce (s : State) (d : Departure) : State :=
  ({ s with depart := some d, hws := { s.hws with departing := true } } : State).broadcast { ty := 0x21, cls := 0 }

/-- The package has left the fabric: its own peer entries are over as well. -/
def State.forgetPeers (s : State) : State :=
  (s.hws.peers.map (·.1)).foldl (fun s i =>
    if (s.peer i).state = .up ∨ (s.peer i).state = .draining then s.peerLost i else s) s

/-! ### Lehr stages (R622 to R625) -/

/-- L4 and L5: memory, caches, translations and remap entries are lost, links and the host port are down, frame counting stops,
PWR_GOOD deasserts (R622, R623, R625, R719). -/
def State.powerDown (s : State) : State :=
  { s with
    mem := [], memPoison := [], scratch := [], scratchPoison := [], net := [], agents := [], clusters := []
    slices := Tbl.each {} (fun k => { cnt := k.cnt, ccnt := k.ccnt }) s.slices
    units := Tbl.each {} (fun k => { k with l1 := [], wc := [], tlb := [], misses := [] }) s.units
    dma := Tbl.each {} (fun k => { k with tlb := [] }) s.dma
    hbm := Tbl.each {} (fun k =>
      { k with hold := false, selfRefresh := false, deferred := [], held := []
               channels := Tbl.each {} (fun c => { c with tracker := [], remaps := [] }) k.channels }) s.hbm
    ncc := { s.ncc with harts := Tbl.each {} (fun k => { k with l1i := [], l1d := [], l2 := [], resv := none }) s.ncc.harts }
    hws := { s.hws with ports := Tbl.each {} (fun k => { k.fresh with state := .disabled }) s.hws.ports }
    frm :=
      { (s.frm.leaves .free) with
        isMaster := false, loadDue := true, pendingCount := none, adjust := 0, nextAdjust := 0, election := none, heard := false, missed := 0 }
    lhr := { s.lhr with memReady := false }
    hpt := { s.hpt with linkUp := false }
    pins := { s.pins with rails := false, pwrGood := false } }

/-- The package enters a stage (R622). -/
def State.enterStage (s : State) (t : Nat) : State :=
  let s : State := { s with lhr := { s.lhr with stage := t } }
  if t < 3 then s
  else if t = 3 then (List.range 24).foldl (fun s k => s.modStack k (fun x => { x with selfRefresh := true })) s
  else s.powerDown

/-- A wake: from a stage, or once the entry under way is complete (R624). -/
def State.wakeUp (s : State) : State :=
  let entering := match s.depart with | some (.stage _) => true | _ => false
  if s.lhr.stage ≠ 0 || entering then { s with lhr := { s.lhr with waking := true } } else s

/-! ### Reloading the frit image (R66, R67, R74 to R85, R348, R669) -/

/-- A verified image: MEAS4 is extended, and it waits for the next tick (R67, R78). BUSY belongs to a reload and stands as it
was: the image Marver takes at boot is none (R82). -/
def State.accept (s : State) (f : Frit) : State :=
  let s := s.measure 4 f.digest
  { s with frt := { s.frt with pending := some f } }

/-- The end of verification of the image in hand (R66, R77, R78): a FABRIC change is announced first (R534). -/
def State.verifyEnd (s : State) (announced : Bool) : State :=
  match s.frt.checking with
  | none => s
  | some img =>
    let reload := s.frt.active.isSome
    match s.fritCheck reload img with
    | (_, some f) =>
      let fabric := (changed ((s.frt.active.map (·.bodies)).getD []) f.bodies).contains 5
      if reload && fabric && !announced && s.alive && !s.upPorts.isEmpty then s.announce .fabric
      else
        let s := if reload then s else { s with boot := { s.boot with fritSrc := 2 } }
        let s := (if reload && fabric then s.forgetPeers else s).accept f
        { s with frt := { s.frt with checking := none } }
    | (r, none) =>
      { s with frt := { s.frt with busy := false, checking := none, lastResult := r }
               hws := { s.hws with departing := s.hws.departing && !announced } }

/-- What the package departed for, once LEAVE has gone out (R534). -/
def State.departed (s : State) : State :=
  let s' : State := { s.leaveNow with depart := none }
  match s.depart with
  | none => s
  | some .warmReset => s'.restart
  | some (.stage t) => s'.forgetPeers.enterStage t
  | some .fabric => s'.verifyEnd true

/-- No request that the package has accepted is still to be completed; without a valid index it completes none (R35, R534). -/
def State.homeIdle (s : State) : Bool := s.hws.homeReqs.isEmpty || !s.hws.indexValid

/-- Depart: announced to the fabric, or at once where no port is UP. -/
def State.departFor (s : State) (d : Departure) : State :=
  let s := s.announce d
  if s.upPorts.isEmpty && s.homeIdle then s.departed else s

/-- LEAVE_BROADCAST: the requests the package accepted are complete: LEAVE, then what it departs for (R534). -/
def execLeaveBroadcast (s : State) : Out State :=
  .next (if !s.alive || s.depart.isNone || !s.homeIdle then s else s.departed)

/-- A warm reset is started: announced, unless the coherent domain is lost or the package has left the fabric already (R666). -/
def State.warmReset (s : State) : State := if s.alive then s.departFor .warmReset else s.restart

/-- WARM_RESET: 1 is written to ERR_CTRL.WARM_RESET. -/
def execWarmReset (s : State) : Out State := .next (if s.pins.rails then s.warmReset else s)

/-! ### An image takes effect (R42 step 2, R78) -/

/-- The spill areas begin to exist: what their bytes held is not kept (R392). -/
def State.beginSpill (s t : State) : State :=
  let inside (a : Nat) : Bool := (s.spillBase (stackOf a)).isNone && (t.spillBase (stackOf a)).any (fun b => decide (b ≤ a))
  { t with mem := t.mem.filter (fun c => !inside c.1), memPoison := t.memPoison.filter (fun l => !inside l) }

/-- Every slice writes its dirty lines back; the ways of changed groups are zeroed and hold nothing; scratchpad of unchanged
groups keeps its contents, at the offsets the new map gives it; the directory's mode follows (R348, R355, R390, R392). -/
def State.applyMemory (s t : State) : State :=
  let same (g : Nat) : Bool := (s.sec 2).map (fun b => (b.drop (8 + 8 * g)).take 8) == (t.sec 2).map (fun b => (b.drop (8 + 8 * g)).take 8)
  let dirty := s.slices.flatMap (fun k => k.2.lines.filter (·.dirty))
  let t := dirty.foldl (fun t x => t.hbmStore x.line x.data x.poison) t
  let base (u : State) (g : Nat) : Nat := (List.range g).foldl (fun a i => a + u.scrWays i * scrWayBytes) 0
  let move (o : Nat) : Option Nat := match s.scrGroup o with
    | some (g, r) => if same g then some (base t g + r) else none
    | none => none
  let t : State := { t with scratch := t.scratch.foldl (fun m e => match move e.1 with | some o => Tbl.set 0 m o e.2 | none => m) []
                            scratchPoison := t.scratchPoison.filterMap move
                            coh := { t.coh with spill := t.spillShift.isSome && !t.coh.test && !t.coh.reclaim } }
  let t := s.beginSpill t
  (t.slices.map (·.1)).foldl (fun t n => t.modSlice n (fun k =>
    { k with lines := if same (n / 2) then k.lines.map (fun x => { x with dirty := false }) else [] })) t

/-- The listed rows that training tried and could not repair are remapped as REMAP_EN takes effect (R423). -/
def State.remapListed (s : State) : State :=
  if !s.remapEn then s
  else s.hbm.foldl (fun s k => k.2.unrepaired.foldl (fun s r => s.remapStart k.1 r.1 r.2.1 r.2.2.1 r.2.2.2) s) s

/-- Ports follow FABRIC: enabled ones train, others are DISABLED, and one at another plane is REFUSED (R518, R524, R525). -/
def State.applyPorts (s : State) : State :=
  (List.range 48).foldl (fun s p =>
    let st := (s.port p).state
    if !s.portEn p then (if st = .disabled then s else s.portLost p .disabled 0)
    else if st = .disabled then s.setPort p .training 0
    else if st = .up && s.planeMap p ≠ 0xFF && s.planeMap p ≠ (s.port p).plane then s.portLost p .refused 4
    else s) s

/-- A FABRIC change: the departure is over. A valid index holds, and is announced again; else it is chosen again (R34, R527,
R528, R534). -/
def State.applyFabric (s : State) : State :=
  let s := s.applyPorts
  let s : State := { s with hws := { s.hws with departing := false } }
  if s.hws.indexValid then s.upPorts.foldl (fun s p => s.sendJoin p) s
  else (({ s with hws := { s.hws with indexChosen := false, joinTicks := none } } : State).setIndex false false).chooseIndex

/-- A region that joins a coil leaves L2 (R70). -/
def State.applyStruct (s t : State) : State :=
  (List.range 32).foldl (fun t r =>
    if (s.coilOfRegion r).isNone && (t.coilOfRegion r).isSome then t.modDom r (fun d => { d with gated := false, idleFrames := 0 })
    else t) t

/-- The pending image takes effect with all its sections (R42 step 2, R74, R78, R81, R82, R348, R667 step 6). -/
def State.applyFrit (s : State) : State :=
  match s.frt.pending with
  | none => s
  | some f =>
    let first := s.frt.active.isNone
    let ch := changed ((s.frt.active.map (·.bodies)).getD []) f.bodies
    let t : State := { s with frt := { s.frt with active := some f, pending := none, busy := s.frt.checking.isSome, lastResult := 0 }
                              boot := { s.boot with keptFrit := some f.raw, releaseDue := first } }
    let t := s.applyStruct t
    let t := if ch.contains 2 then s.applyMemory t else t
    let t := if s.remapEn then t else t.remapListed
    let t : State := if ch.contains 3 && !first then
        { t with frm := { (t.frm.leaves .free) with isMaster := false, mismatch := false, roleConflict := false, loadDue := true
                                                    pendingCount := none, adjust := 0, nextAdjust := 0, election := none, missed := 0 } }
      else t
    if first then t.applyPorts.chooseIndex else if ch.contains 5 then t.applyFabric else t

/-- The frit image that Marver takes at boot: the one kept, after a warm reset, or the flash's; the first that passes its checks.
With neither, it waits for the mailbox (R667 step 6, R669). -/
def State.takeFrit (s : State) : State :=
  let flash := (List.range s.flash.fritA.size).map (fun i => Tbl.get 0 s.flash.fritA.bytes i)
  let cands := (if s.boot.warm then (s.boot.keptFrit.map (fun b => (0, b))).toList else [])
    ++ (if s.flash.fritA.size = 0 then [] else [(1, flash)])
  cands.foldl (fun s c =>
    if s.frt.pending.isSome then s
    else match s.fritCheck false c.2 with
      | (_, some f) => ({ s with boot := { s.boot with fritSrc := c.1 } } : State).accept f
      | (r, none) => { s with frt := { s.frt with lastResult := r } })
    { s with boot := { s.boot with stage := .waitFrit } }

/-- The words BOOT_STATUS, BOOT_SVN and BOOT_REQ (R687). -/
def State.bootWords (s : State) : Nat × Nat × Nat :=
  let b := s.boot
  let f := s.fuses
  (b.stage.code + b.result * 2 ^ 8 + b2n b.marverSlot * 2 ^ 16 + b2n b.nodeSlot * 2 ^ 17 + b.nodeState * 2 ^ 18
     + b.fritSrc * 2 ^ 20 + b2n b.warm * 2 ^ 22,
   f.countMarver + f.countNode * 2 ^ 8 + f.ownerRevoked.toNat * 2 ^ 16 + f.ownerSet.toNat * 2 ^ 20, b2n b.memtest)

/-- The tick after the image took effect: fences are applied, MEAS3 and MEAS6 extended, and the host port is released (R657, R667
step 7). -/
def State.hostRelease (s : State) : State :=
  let e := s.err
  let ccs := (List.range 12).filter (fun k => e.fmCc.getLsbD k)
  let s := ccs.foldl (fun s k => s.fenceCc k) s
  let dead := (List.range 256).filter (fun c => e.fmCluster.getLsbD c) ++ ccs.map (256 + ·)
  let s : State := { s with coh := { s.coh with dead := dead ++ s.coh.dead.filter (fun a => !dead.contains a) } }
  let s := s.measure 3 (sha256N e.fmapBytes)
  let w := s.bootWords
  let s := s.measure 6 (sha256N (leBytes 8 w.1 ++ leBytes 8 w.2.1 ++ leBytes 8 w.2.2))
  { s with boot := { s.boot with stage := .released, releaseDue := false } }

end Sys2Proof.Machine
end

