-- ==== Sys2Proof/Machine/LehrOps.lean ====
section
/-! DEFINITION. What the Lehr does at a frame tick: thermal actions, hints, demand, grants, limits, rails and the job frequency
(R595 to R621, R626). -/

namespace Sys2Proof.Machine

open Sys2Proof

/-! ### Domains (R595, R597) -/

/-- Design peak of a rationed domain in mW (R595, R599). -/
def peakOf (d : Nat) : Nat := if d < 32 then 75000 else if d < 34 then 180000 else 58333

/-- Weight of a rationed domain (R597, R601). -/
def State.weightOf (s : State) (d : Nat) : Nat :=
  if d < 32 then (s.coilOfRegion d).elim 0 s.coilW else if d < 34 then s.powerField 2 1 4 else s.powerField 3 1 8

/-- Is domain d rationed in this frame: a region of a coil, not in L2 and not fenced, a core die or a stack (R595, R626, R655)? -/
def State.rationed (s : State) (d : Nat) : Bool :=
  decide (32 ≤ d) || ((s.coilOfRegion d).isSome && !(s.dom d).gated && !s.err.fmRegion.getLsbD d)

/-- HINT.HEAVY is in force for a region (R612). -/
def Dom.heavy (d : Dom) : Bool := d.armed && d.hintLeft != 0

/-- The die of a domain whose clock or regions DIE_HOT holds (R17, R619). -/
def dieOfDomain (d : Nat) : Nat := if d < 32 then d / 4 else d - 24

/-! ### Thermal control (R426, R619 to R621) -/

/-- A die's reading (R619). -/
def State.dieReading (s : State) (n temp : Nat) : State :=
  let warn := s.powerField 10 1 95
  let hot := s.powerField 11 1 105
  let d := s.die n
  let now := if hot ≤ temp then true else if temp + 5 < hot then false else d.hot
  let s := s.modDie n (fun d => { temp := min temp 255, tempMax := max d.tempMax (min temp 255), warn := decide (warn ≤ temp), hot := now })
  { s with lhr := { s.lhr with
      dieHot := if now && !d.hot then satAdd 16 s.lhr.dieHot 1 else s.lhr.dieHot
      epHot := s.lhr.epHot || decide (hot ≤ temp)
      epWarn := s.lhr.epWarn || decide (warn ≤ temp)
      epAllCool := s.lhr.epAllCool && decide (temp + 5 ≤ warn) } }

/-- Thermal hold begins or ends: its record, the writes and the row copies that waited (R421, R620). -/
def State.setHold (s : State) (k : Nat) (on : Bool) : State :=
  let x := s.stack k
  if x.hold = on then s
  else
    let s := (s.modStack k (fun x => { x with hold := on, deferred := [] })).logErr .event 0x15 7 (32 * k)
    if on then { (s.modStack k (fun y => { y with deferred := x.deferred })) with lhr := { s.lhr with holds := satAdd 16 s.lhr.holds 1 } }
    else x.deferred.foldl (fun s r => s.remapStart k r.1 r.2.1 r.2.2.1 r.2.2.2) (s.flushHeld k)

/-- A stack's reading: refresh, throttle step and thermal hold (R426, R606, R619). -/
def State.stackReading (s : State) (k temp : Nat) : State :=
  let throttle := s.powerField 12 1 95
  let hold := s.powerField 13 1 105
  let s := s.modStack k (fun x => { x with
    temp := min temp 255, tempMax := max x.tempMax (min temp 255)
    refresh2x := if 85 ≤ temp then true else if temp < 83 then false else x.refresh2x
    throttle := if throttle ≤ temp then min 7 (x.throttle + 1) else if temp + 2 < throttle then x.throttle - 1 else x.throttle })
  if hold ≤ temp then s.setHold k true else if temp + 5 < hold then s.setHold k false else s

/-- The first reading that calls for an emergency stop: SRC_KIND and SRC_INDEX (R619, R621). -/
def emergencyOf (t : TickIn) : Option (Nat × Nat) :=
  match (List.range 10).find? (fun n => decide (115 ≤ t.die.getD n 0)) with
  | some n => some (5, n)
  | none => ((List.range 24).find? (fun k => decide (110 ≤ t.stack.getD k 0))).map (fun k => (7, 32 * k))

/-- The readings of a tick; a sensor that reports nothing keeps its last reading. -/
def State.readings (s : State) (t : TickIn) : State :=
  let s := (List.range 10).foldl (fun s n => s.dieReading n (t.die.getD n (s.die n).temp)) s
  (List.range 24).foldl (fun s k => s.stackReading k (t.stack.getD k (s.stack k).temp)) s

/-! ### Hints (R612) -/

/-- A hint applies to every region of its coil. -/
def State.applyHint (s : State) (h : Hint) : State :=
  (s.regionsOfCoil h.coil).foldl (fun s r => s.modDom r (fun d =>
    { d with armed := h.heavy, hintLeft := if h.heavy then s.powerField 8 1 64 else 0 })) s

/-- Hints at a tick: those in force count a frame, and those due apply in order of admission. -/
def State.hints (s : State) : State :=
  let s := (List.range 32).foldl (fun s r => s.modDom r (fun d => { d with hintLeft := d.hintLeft - 1 })) s
  let due := s.lhr.hints.filter (fun h => decide (h.frame ≤ s.frm.count))
  let s : State := { s with lhr := { s.lhr with hints := s.lhr.hints.filter (fun h => decide (s.frm.count < h.frame)) } }
  due.foldl (fun s h => s.applyHint h) s

/-! ### Demand, grant and limit (R600 to R602, R608) -/

/-- Demand of a domain from the power it drew and its limit in the frame before (R600). -/
def State.demandOf (s : State) (t : TickIn) (d : Nat) : Nat :=
  let p := t.dom.getD d 0
  let x := s.dom d
  if d < 32 && x.heavy then peakOf d
  else if x.limit = 0 then p
  else min (p * 64 / x.limit) (peakOf d)

/-- A domain's part in the sharing of R601: weight, demand and grant so far. -/
structure Share where
  dom : Nat
  w : Nat
  want : Nat
  got : Nat
  deriving DecidableEq, Repr

/-- One round of R601 with quotient q over the open domains, ascending. -/
def shareRound (q : Nat) (l : List Share) (b : Nat) : List Share × Nat :=
  l.foldl (fun (a : List Share × Nat) e =>
    let x := if e.got < e.want then min (q * e.w) (e.want - e.got) else 0
    (a.1 ++ [{ e with got := e.got + x }], a.2 - x)) ([], b)

/-- The rounds of R601. -/
def shareOut : Nat → List Share → Nat → List Share
  | 0, l, _ => l
  | n + 1, l, b =>
    let sum := (l.filter (fun e => decide (e.got < e.want))).foldl (fun a e => a + e.w) 0
    let q := b / sum
    if sum = 0 ∨ q = 0 then l
    else
      let (l', b') := shareRound q l b
      shareOut n l' b'

/-- Limit of a domain from grant and demand (R602). -/
def limitOf (g d : Nat) : Nat := if d ≤ g ∨ d = 0 then 64 else max 1 (64 * g / d)

/-- The grants of a tick, and the limits they give (R595, R600 to R602, R619, R655). -/
def State.grants (s : State) (t : TickIn) : State :=
  let cap := 1000 * s.cap
  let carry := min 1000000 (s.lhr.carry + t.pin - cap)
  let doms := (List.range 58).filter s.rationed
  let off := (List.range 58).filter (fun d => !s.rationed d)
  let unrationed := t.punty + t.hawser + off.foldl (fun a d => a + t.dom.getD d 0) 0
  let floors := doms.map (fun d => let w := s.demandOf t d; ({ dom := d, w := s.weightOf d, want := w, got := w / 64 } : Share))
  let b : Int := (cap : Int) - carry - unrationed - ((floors.foldl (fun a e => a + e.got) 0 : Nat) : Int)
  let shares := shareOut 64 floors b.toNat
  let s := shares.foldl (fun s e => s.modDom e.dom (fun x =>
    let l := limitOf e.got e.want
    let l := if e.dom < 34 && (s.die (dieOfDomain e.dom)).hot then min l 16 else l
    let l := if (e.dom = 32 || e.dom = 33) && s.err.fmDie.getLsbD (dieOfDomain e.dom) then 0 else l
    { x with limit := l, grant := e.got, demand := e.want })) s
  let s := off.foldl (fun s d => s.modDom d (fun x => { x with limit := 0, grant := 0, demand := 0 })) s
  { s with lhr := { s.lhr with carry := carry, input := t.pin, unrationed := unrationed
                               granted := shares.foldl (fun a e => a + e.got) 0, onlyFloors := decide (b < 0) } }

/-- Guard bands, and over-power skipping ends (R604, R608). -/
def State.rails (s : State) : State :=
  (List.range 34).foldl (fun s d => s.modDom d (fun x =>
    { x with guard := if d < 32 && (x.heavy || decide (48 ≤ x.limit)) then 30 else 10, overSkip := false })) s

/-! ### Job frequency (R613 to R617) -/

/-- The frame that ends joins the epoch's statistics (R614): a busy region is one that started a TMMA in it. -/
def State.epochFrame (s : State) : State :=
  let ds := (List.range 32).map s.dom
  let busy := ds.filter (·.busy)
  let skipped := s.lhr.epSkipped || ds.any (fun d => d.skip != 0)
  let s : State := { s with lhr := { s.lhr with
    epBusySum := s.lhr.epBusySum + busy.foldl (fun a d => a + d.limit) 0
    epBusyCount := s.lhr.epBusyCount + busy.length
    epAllFull := s.lhr.epAllFull && busy.all (fun d => d.limit == 64)
    epSkipFrames := s.lhr.epSkipFrames + b2n skipped
    epSkipped := false } }
  (List.range 32).foldl (fun s r => s.modDom r (fun d => { d with busy := false })) s

/-- The sustainable level S (R614). -/
def Lhr.sustainable (l : Lhr) : Nat :=
  let busy := l.epBusyCount != 0
  if l.epHot then l.jobLevel - 4
  else if l.epWarn || (busy && (decide (4 < l.epSkipFrames) || decide (l.epBusySum < 48 * l.epBusyCount))) then l.jobLevel - 1
  else if l.epAllFull && l.epAllCool then min 15 (l.jobLevel + 1)
  else l.jobLevel

/-- The package is a member of a job (R615, R617). -/
def State.inJob (s : State) : Bool := s.feature 14 && s.jobEn

/-- An epoch starts: S is computed, posted where the package is a LOCKED member, and an unfinished reduction is abandoned (R614
to R617). -/
def State.epochStart (s : State) : State :=
  let posts := s.inJob && s.frm.state == .locked && s.alive
  { s with lhr := { s.lhr with
      posted := s.lhr.sustainable, result := none, postedNow := posts, jobRunning := posts
      epHot := false, epWarn := false, epSkipFrames := 0, epBusySum := 0, epBusyCount := 0, epAllFull := true, epAllCool := true } }

/-- The job level is applied in the third frame of an epoch (R615 to R617). -/
def State.jobApply (s : State) : State :=
  let l := s.lhr
  let low := min l.jobLevel l.posted
  let l := if !s.inJob then { l with jobLevel := l.posted }
    else if s.frm.state ≠ .locked || !l.postedNow then { l with jobLevel := low }
    else match l.result with
      | some r => { l with jobLevel := r }
      | none => { l with jobLevel := low, jobfLate := satAdd 16 l.jobfLate 1 }
  { s with lhr := l }

/-! ### Idle regions (R70, R626) -/

/-- A region has a resident hank. -/
def State.regionBusy (s : State) (r : Nat) : Bool := (unitsOfRegion r).any (fun u => !(s.unit u).hanks.isEmpty)

/-- A region of no coil is held in L2; one idle for IDLE_GATE whole frames enters it (R70, R626). -/
def State.idleGate (s : State) : State :=
  let gate := s.powerField 9 1 16
  (List.range 32).foldl (fun s r => s.modDom r (fun d =>
    if (s.coilOfRegion r).isNone then { d with gated := true }
    else if s.regionBusy r then { d with idleFrames := 0 }
    else if gate ≠ 0 && decide (gate ≤ d.idleFrames) then { d with gated := true }
    else { d with idleFrames := d.idleFrames + 1 })) s

end Sys2Proof.Machine
end

