-- ==== Sys2Proof/Machine/FrameRows.lean ====
section
/-! DEFINITION. The frame tick, the beacon discipline, elections, reloading the frit image, and feature negotiation (R39 to R59,
R74 to R92, R453, R512, R541, R546, R637 to R639, R716). -/

namespace Sys2Proof.Machine

open Sys2Proof

/-! ### The parts of a tick (R42) -/

/-- Step 1: the frame before ends, and FRM_COUNT increments, is loaded, or is corrected (R40, R47, R50). -/
def State.tickCount (s : State) : State :=
  let f := s.frm
  let due := f.tickAt + (frameUcyc s.period + 2 * f.adjust).toNat
  let s := s.pass (due - s.now)
  let adjust := if f.state = .holdover then f.adjust else f.nextAdjust
  let s : State := { s with
    frm := { f with count := f.pendingCount.getD ((f.count + 1) % 2 ^ 64), pendingCount := none, tickAt := s.now, ticks := f.ticks + 1, adjust := adjust
                    nextAdjust := 0, steps := if f.pendingCount.isSome then satAdd 16 f.steps 1 else f.steps }
    err := { s.err with thisFrame := [] } }
  if f.pendingCount.isSome then s.logErr .event 0x02 0 0 else s

/-- The counts of beacons, holdover and the time reference (R48, R52, R54, R716). MISMATCH ends once the master with the other
period has sent no beacon for 4 frames: the package has then no master in reach (DESIGN CHOICE, notes/assumptions/33.md). -/
def State.tickBeacon (s : State) : State :=
  let f := s.frm
  let alone := if s.hws.indexValid && !f.isMaster && (f.state == .free || f.state == .holdover) && f.election.isNone then f.alone + 1 else 0
  let follows := !f.isMaster && (f.state == .acquiring || f.state == .locked)
  { s with frm := { f with
      missed := if follows && !f.heard then f.missed + 1 else 0
      heard := false
      heldFrames := if f.state = .holdover then f.heldFrames + 1 else 0
      alone := alone
      mismatch := f.mismatch && decide (alone < 4)
      onRefclk := if !f.ftrefPresent then true else if 64 ≤ f.ftrefFrames then false else f.onRefclk
      ftrefFrames := if f.ftrefPresent then min 64 (f.ftrefFrames + 1) else 0 } }

/-- A second failure of a bundle: its die is fenced, or a stitch is fatal (R639). -/
def State.bundleDown (s : State) (n : Nat) : State :=
  let s := s.modBundle n (fun x => { x with state := .down, goNarrow := none })
  if n < 32 then s.fence 5 (n / 4) 0x83
  else if n < 40 then s.fence 5 (8 + (n - 32) / 4) 0x83
  else s.fatal 0x61 12 n

/-- The retry threshold in force: 0 selects 1 (R642). -/
def Bundle.limit (x : Bundle) : Nat := if x.thresh = 0 then 1 else x.thresh

/-- The monitor of a bundle: narrow mode decided at the tick before is entered, and the counts of the frame that ended are
compared (R637 to R639). -/
def State.dlkMonitor (s : State) (n : Nat) : State :=
  let x := s.bundle n
  let s := s.modBundle n (fun x => { x with
    state := x.goNarrow.getD x.state, goNarrow := none, thresh := x.threshNext, last0 := x.frame0, last1 := x.frame1
    frame0 := 0, frame1 := 0, failedReplays := if x.goNarrow.isSome then 0 else x.failedReplays })
  let s := match x.goNarrow with
    | some .narrow0 => s.logErr .ce 0x60 12 n 1
    | some .narrow1 => s.logErr .ce 0x60 12 n 0
    | _ => s
  let y := s.bundle n
  let bad0 := decide (y.limit < y.last0)
  let bad1 := decide (y.limit < y.last1)
  match y.state with
  | .full =>
    if bad0 && bad1 then s.bundleDown n
    else if bad1 then s.modBundle n (fun x => { x with goNarrow := some .narrow0 })
    else if bad0 then s.modBundle n (fun x => { x with goNarrow := some .narrow1 })
    else s
  | .narrow0 => if bad0 then s.bundleDown n else s
  | .narrow1 => if bad1 then s.bundleDown n else s
  | _ => s

/-- The bundles with anything to do at a tick. -/
def State.dlkTick (s : State) : State := (s.dlk.map (·.1)).foldl (fun s n => s.dlkMonitor n) s

/-- Why a stage is refused (R623). -/
def State.stageReason (s : State) (t : Nat) : Nat :=
  if 6 ≤ t then 3
  else if 3 ≤ t && (!s.cmds.isEmpty || s.queues.any (fun e => e.2.state != .disabled)) then 1
  else if 4 ≤ t && s.hpt.attached then 2
  else 0

/-- A requested stage is entered, or refused with its reason (R623). -/
def State.stageTick (s : State) : State :=
  match s.lhr.request with
  | none => s
  | some t =>
    let r := s.stageReason t
    let s : State := { s with lhr := { s.lhr with request := none, refused := decide (r ≠ 0), reason := r } }
    if r ≠ 0 then s
    else if t < 4 then s.enterStage t
    else s.departFor (.stage t)

/-- Step 7: the queues whose tail is polled in this frame, and knots and rings without a watch (R452, R453, R473, R506). -/
def State.polls (s : State) : State :=
  let s := s.queues.foldl (fun s e =>
    if e.2.state != .running then s
    else if e.2.ringLoc then
      (if (s.frm.count + e.1) % max 1 e.2.pollF = 0 then s.modQueue e.1 (fun k => { k with tailDue := true }) else s)
    else if e.2.polling then (s.watchTail e.1).modQueue e.1 (fun k => { k with tailDue := true })
    else s) s
  let ids := s.cmds.filterMap (fun (c : Cmd) => match c.work with | .knotWait _ _ _ => some c.id | _ => none)
  let s := ids.foldl (fun s i => s.knotPoll (.cmd i)) s
  let s := (s.ncc.kwait.map (·.1)).foldl (fun s k => s.knotPoll (.slot k)) s
  s.dma.foldl (fun s e => e.2.channels.foldl (fun s c =>
    let w := 16 * e.1 + c.1
    if c.2.act.isNone || c.2.paceMode = 0 || s.slices.any (fun k => k.2.watches.any (fun x => x.kind == 3 && x.index == w)) then s
    else s.modDmaCh e.1 c.1 (fun k => { k with paceDue := true })) s) s

/-- A tick passes for commands, DMA channels and peers (R481, R512, R513, R528, R531). -/
def State.tickWork (s : State) : State :=
  let s : State := { s with
    cmds := s.cmds.map (fun (c : Cmd) => { c with ticksLeft := c.ticksLeft - 1 })
    hws := { s.hws with joinTicks := s.hws.joinTicks.map (· + 1) } }
  let s := s.dma.foldl (fun s e => e.2.channels.foldl (fun s c => s.modDmaCh e.1 c.1 (fun k =>
    { k with starveTicks := if k.starving then k.starveTicks + 1 else 0, quiet := k.act.isSome })) s) s
  s.hws.peers.foldl (fun s e => if e.2.state == .draining && e.2.planes == 0 then
    s.modPeer e.1 (fun x => { x with absentFrames := x.absentFrames + 1 }) else s) s

/-- Step 6: credit epochs (R541). -/
def State.creditEpoch (s : State) : State :=
  if s.frm.count % 2 ^ (s.fabricField 4 1 0) ≠ 0 then s
  else (s.hws.ports.map (·.1)).foldl (fun s p => s.modPort p (fun x => { x with deficits := [0, 0, 0] })) s

/-- The master broadcasts its beacon (R546); byte 9 says whether its role is MASTER (DESIGN CHOICE, notes/assumptions/33.md). -/
def State.beaconSend (s : State) : State :=
  if !s.frm.isMaster || !s.alive then s
  else s.broadcast { ty := 0x23, cls := 0, payload := leBytes 8 s.frm.count ++ leBytes 1 s.period ++ leBytes 3 (b2n (s.role == 2)) ++ leBytes 4 0 }

/-- FRAME_TICK: the actions of R42 in their order, in L0 to L3 (R39 to R43, R453, R541, R600 to R626, R637). -/
def execFrameTick (t : TickIn) (s : State) : Out State :=
  .next (
    if !s.pins.rails || decide (4 ≤ s.lhr.stage) then s
    else
      let s := s.tickCount
      let release := s.boot.releaseDue
      let s := if s.alive then s.applyFrit else s
      let s := if release && s.alive then s.hostRelease else s
      match emergencyOf t with
      | some (kind, index) => s.emergencyStop kind index 0
      | none =>
        let s := s.epochFrame
        let s := if s.frm.count % 16 = 0 then s.epochStart else s
        let s := ((s.readings t).hints.idleGate.grants t).rails
        let s := if s.frm.count % 16 = 2 then s.jobApply else s
        let s := s.tickBeacon.claimMaster.creditEpoch
        let s : State := { s with coh := { s.coh with cleat := s.coh.cleatNext } }
        let s := s.dlkTick
        let s := if s.alive then s.tickWork.polls else s
        if s.alive then s.stageTick.beaconSend else s)

/-! ### Beacons (R45 to R50, R546) -/

/-- The port whose beacon is used: the lowest-numbered UP port through which the master is reached (R45). -/
def State.beaconPort (s : State) (m : Nat) : Option Nat :=
  s.upPorts.find? (fun p => bit (s.peer m).planes p)

/-- A length in ns as ucyc: 3.6 for each. -/
def nsUcyc (n : Nat) : Nat := n * 18 / 5

/-- A beacon that is used: the offset it shows, and the correction, load or step it calls for (R46 to R50, R58). -/
def State.takeBeacon (s : State) (p m count send : Nat) : State :=
  let delay := (s.port p).halfTrip + (s.port p).transit + Tbl.get 0 (s.peer m).halfTrips p
  let len : Int := frameUcyc s.period
  let at_ : Int := (s.now : Int) - nsUcyc delay - 2 * send
  -- the master's tick lies d before the package's tick number j from the present frame's
  let j : Int := (2 * (at_ - s.frm.tickAt) + len) / (2 * len)
  let d : Int := s.frm.tickAt + j * len - at_
  let inside := decide (5 * d.natAbs ≤ 40 * 18)
  let f := (s.frm.setMaster m)
  let ahead : Int := d + 2 * f.adjust
  let size := min 8 (ahead.natAbs / 2)
  let step : Int := if ahead < 0 then size else -(size : Int)
  let step := if (0 < f.adjust && step < 0) || (f.adjust < 0 && 0 < step) then 0 else step
  let next : Nat := ((count : Int) + 1 - j).toNat % 2 ^ 64
  let enters := f.state == .free || f.state == .holdover || f.isMaster
  let load := enters && f.loadDue
  let g := if enters || (f.state == .locked && !inside) then f.leaves .acquiring else f
  { s with frm := { g with
      isMaster := false, mismatch := false, heard := true, missed := 0, alone := 0, election := none
      offset := d * 5 / 18, pathDelay := delay, port := p, nextAdjust := step
      inTol := if inside then g.inTol + 1 else 0
      loadDue := g.loadDue && !load
      pendingCount := if load || next ≠ (g.count + 1) % 2 ^ 64 then some next else none } }

/-- The beacon of a master with another frame period: FREE, with MISMATCH set (R48, R49). -/
def State.mismatched (s : State) (m : Nat) : State :=
  { s with frm := { ((s.frm.setMaster m).leaves .free) with
      isMaster := false, mismatch := true, heard := true, missed := 0, alone := 0, election := none, nextAdjust := 0 } }

/-- This package stays master, or becomes it, against a beacon of package m: one set to MASTER yields only to a lower index that
is set to MASTER too; another yields to one set to MASTER, and to a lower index; one that is master by being alone yields to
any (R51, R53, R54; what two masters of other roles do is the model's, notes/assumptions/33.md). -/
def State.outranks (s : State) (m : Nat) (byRole : Bool) : Bool :=
  let lower := !s.hws.indexValid || decide (m < s.hws.index)
  if s.role = 2 then s.hws.indexValid && !(byRole && lower)
  else s.frm.isMaster && s.role == 1 && !byRole && !lower

/-- A beacon of a package, and whether its sender is set to MASTER: followed, unless this package is master and stays so (R45,
R48, R49, R51, R53). -/
def State.beaconIn (s : State) (port master count : Nat) (b : BeaconBody) (send : Nat) : State :=
  if !s.alive || (s.hws.indexValid && master == s.hws.index) || s.beaconPort master ≠ some port then s
  else
    if s.outranks master b.byRole then s
    else
      let s : State := if s.role = 2 && s.hws.indexValid then { s with frm := { s.frm with roleConflict := true } } else s
      if b.period ≠ s.period then s.mismatched master else s.takeBeacon port master count send

/-- BEACON: a beacon arrives (R46, R48 to R50, R53, R546). -/
def execBeacon (port master count : Nat) (body : BeaconBody) (sendDelay : Nat) (s : State) : Out State :=
  .next (s.beaconIn port master count body sendDelay)

/-- BEACON_MISS: 4 frames in succession have ended without a beacon in ACQUIRING or LOCKED: HOLDOVER (R48). -/
def execBeaconMiss (s : State) : Out State :=
  .next (
    let f := s.frm
    if !s.alive || f.isMaster || decide (f.missed < 4) || !(f.state == .acquiring || f.state == .locked) then s
    else { s with frm := { (f.leaves .holdover) with heldFrames := 0 } })

/-- FRAME_LOCK: the offset has stayed within 40 ns for 16 consecutive frames: LOCKED (R48). -/
def execFrameLock (s : State) : Out State :=
  .next (if !s.alive || s.frm.isMaster || decide (s.frm.state ≠ .acquiring) || decide (s.frm.inTol < 16) then s
         else { s with frm := { s.frm with state := .locked } })

/-! ### Elections (R52) -/

/-- An offer is better: a higher priority, then a lower index. -/
def betterOffer (a b : Nat × Nat) : Bool := decide (b.1 < a.1) || (a.1 == b.1 && decide (a.2 < b.2))

/-- A candidate may take part: it has no master in sight. -/
def State.electable (s : State) : Bool :=
  s.alive && s.hws.indexValid && s.role == 1 && !s.frm.isMaster
    && (s.frm.state == .holdover || (s.frm.state == .free && !s.frm.mismatch))

/-- A candidate offers itself to all. -/
def State.startElection (s : State) : State :=
  ({ s with frm := { s.frm with election := some (s.prio, s.hws.index) } } : State).broadcast
    { ty := 0x24, cls := 0, aux := s.prio }

/-- ELECTION_START: a candidate has been in HOLDOVER for 16 frames, or has no master once its index is valid. -/
def execElectionStart (s : State) : Out State :=
  .next (if !s.electable || s.frm.election.isSome || (s.frm.state == .holdover && decide (s.frm.heldFrames < 16)) then s
         else s.startElection)

/-- An offer of another candidate. -/
def State.electIn (s : State) (src prio : Nat) : State :=
  let s : State := { s with frm := { s.frm with alone := 0 } }
  if !s.electable then s
  else
    let s := if s.frm.election.isNone then s.startElection else s
    { s with frm := { s.frm with election := s.frm.election.map (fun b => if betterOffer (prio, src) b then (prio, src) else b) } }

/-- ELECT: an offer of another candidate arrives. -/
def execElect (src prio : Nat) (s : State) : Out State := .next (s.electIn src prio)

/-- ELECTION_END: the best candidate becomes master with its own FRM_COUNT and phase; the others await its beacon. -/
def execElectionEnd (s : State) : Out State :=
  .next (match s.frm.election with
    | none => s
    | some b =>
      if !s.alive then s
      else if b.2 = s.hws.index then s.becomeMaster
      else { s with frm := { s.frm with election := none, heldFrames := 0 } })

/-! ### Time reference (R716) -/

/-- FTREF_LOSS: frames count from REFCLK from the next tick. -/
def execFtrefLoss (s : State) : Out State := .next { s with frm := { s.frm with ftrefPresent := false, ftrefFrames := 0 } }
/-- FTREF_RETURN: FTREF is present again; frames count from it at the first tick after 64 frames. -/
def execFtrefReturn (s : State) : Out State :=
  .next (if s.frm.ftrefPresent then s else { s with frm := { s.frm with ftrefPresent := true, ftrefFrames := 0 } })

/-! ### Reloading the frit image (R78, R80) -/

/-- The image in a mailbox buffer: as its header measures it, or the header alone where that is out of range (R60, R63). -/
def Mbx.image (m : Mbx) : List Byte :=
  let read (n : Nat) : List Byte := (List.range n).map (fun i => Tbl.get 0 m.buf i)
  let len := fieldAt (read 12) 8 4
  if len ≤ 65536 then read (len + 96) else read 64

/-- The mailbox channel that a master reaches (R684). -/
def chanOf : Master → Chan
  | .host => .ch0 | .hart _ => .ch1

/-- RELOAD: 1 is written to FRT_CTRL.RELOAD: the image is copied and checked, or the request is refused with BUSY; after an FE too
(R660), when a verified image is not applied (DESIGN CHOICE, notes/assumptions/34.md). -/
def execReload (m : Master) (s : State) : Out State :=
  .next (
    if !s.pins.rails then s
    else if s.frt.busy then { s with frt := { s.frt with refused := true } }
    else { s with frt := { s.frt with busy := true, refused := false, checking := some (s.mbx (chanOf m)).image } })

/-- FRIT_VERIFY_END: the checks of R66 end (R67, R78). At boot, only once Marver waits for the image (R669); while an image waits
for its tick, not before that tick (notes/assumptions/34.md). -/
def execFritVerifyEnd (s : State) : Out State :=
  .next (if !s.pins.rails || s.depart.isSome || s.frt.pending.isSome || !(s.boot.stage == .waitFrit || s.boot.stage == .released) then s
         else s.verifyEnd false)

/-! ### Features (R87, R88) -/

/-- COMMIT: 1 is written to FEA_CTRL.COMMIT; ignored while the lock is held. The block is written after an FE too (R660). -/
def execCommit (s : State) : Out State :=
  .next (if !s.pins.rails || s.fea.locked then s
         else { s with fea := { s.fea with active := s.fea.accept &&& s.feaOffer, locked := true } })

end Sys2Proof.Machine
end

