-- ==== Sys2Proof/Machine/UnitMma.lean ====
section
/-! DEFINITION. The matrix engine: TMMA, its start, and witness tiles (R123 to R169, R206, R605, R611). -/

namespace Sys2Proof.Machine

open Sys2Proof

/-! ### Operands (R128 to R138) -/

/-- The elements of row i of an operand, with R138 applied to the long formats. INT8 elements are exact integers. -/
def mmaRow (e : MmaElem) (k : Nat) (h : Hank) (t i : Nat) : List FVal :=
  match e with
  | .fp f => (List.range k).map (fun n => f.input (rowElem (h.tileRow t i) f.width n))
  | .int8 => (List.range k).map (fun n => let x := toS 8 (rowElem (h.tileRow t i) 8 n); .fin (decide (x < 0)) x.natAbs 0)
  | .blk b => (List.range k).map (fun n =>
      let blk := n / b.blockLen
      let reg := t + blk / b.blocksPerRow
      let at_ := blk % b.blocksPerRow
      let code := bits (h.tileRow reg i).toNat (8 * b.fieldBytes * at_ + b.width * (n % b.blockLen)) b.width
      b.scaled (h.sideByte reg i at_) code)

/-- Long-format operand elements of row i taken as zero (R138, R206). -/
def mmaFlush (e : MmaElem) (k : Nat) (h : Hank) (t i : Nat) : Nat :=
  match e with
  | .fp f => ((List.range k).filter (fun n => f.flush && f.isSub (rowElem (h.tileRow t i) f.width n))).length
  | _ => 0

/-- The accumulator of a format. -/
def MmaFmt.acc (k : MmaFmt) : Fmt := if k.accFp64 then fp64 else fp32

/-- Where C[i][j] lies (R133): register offset, tile row, element width and element. -/
def MmaFmt.place (k : MmaFmt) (i j : Nat) : Nat × Nat × Nat × Nat :=
  if k.accFp64 then (i / 16, 2 * (i % 16) + j / 16, 64, j % 16) else (0, i, 32, j)

/-! ### Products and the summation tree (R135 to R137) -/

/-- The sum of one element's products in the fixed tree, and whether its top addition delivered zero by R99. -/
def mmaSum (f : Fmt) (a b : List FVal) : Nat × Bool :=
  tree (fun p q => redCombine f 0 p.1 q.1) (0, false) ((a.zip b).map (fun e => ((deliver f 0 false 0 (mulV e.1 e.2)).1, false)))

/-- The exact sum of integer products, modulo 2^32 (R137). -/
def mmaIntSum (a b : List FVal) : Nat :=
  let val : FVal → Int := fun v => match v with | .fin s m _ => if s then -(m : Int) else m | _ => 0
  ofS 32 ((a.zip b).foldl (fun t e => t + val e.1 * val e.2) 0)

/-- One element: the sum p[0], and the new C with its counts (R135, R206). `c`: the prior C, none under Z. -/
def mmaCell (k : MmaFmt) (a b : List FVal) (c : Option Nat) : Nat × Nat × Ev :=
  if k.accInt then
    let p := mmaIntSum a b
    (p, (match c with | some x => (x + p) % 2 ^ 32 | none => p), {})
  else
    let f := k.acc
    let p := mmaSum f a b
    let r := match c with | some x => redCombine f 0 x p.1 | none => p
    let ins := a ++ b ++ (c.map f.value).toList
    let isInf : FVal → Bool := fun v => match v with | .inf _ => true | _ => false
    let nan := decide (f.value r.1 = .nan)
    let nanIn := ins.any (fun v => decide (v = .nan))
    (p.1, r.1, { flushIn := (match c with | some x => flushCount f x | none => 0), nanIn := b2n (nan && nanIn),
                 invalid := b2n (nan && !nanIn), overflow := b2n (isInf (f.value r.1) && !ins.any isInf), flushOut := b2n r.2 })

/-- Row i of a witness half as BF16 values (R166). -/
def Witness.half (w : Witness) (k slot half i : Nat) : List FVal :=
  let row := Tbl.get 0 w.rows (32 * (2 * slot + half) + i)
  (List.range k).map (fun n => bf16.input (bits row (16 * n) 16))

/-- Every cell of C. -/
def mmaCells : List (Nat × Nat) := (List.range 32).flatMap (fun i => (List.range 32).map (fun j => (i, j)))

/-- What a TMMA computes on the tiles it reads: each cell with p[0], new C and counts. -/
def mmaCompute (k : MmaFmt) (m : Mma) (v : Hank) : List ((Nat × Nat) × (Nat × Nat × Ev)) :=
  let as := (List.range 32).map (mmaRow k.a k.k v m.ta)
  let bs := (List.range 32).map (mmaRow k.b k.k v m.tb)
  mmaCells.map (fun (i, j) =>
    let (reg, row, w, n) := k.place i j
    let c := if m.z then none else some (rowElem (v.tileRow (m.tc + reg) row) w n)
    ((i, j), mmaCell k ((as[i]?).getD []) ((bs[j]?).getD []) c))

/-- Write one w-bit element of a tile row. -/
def Hank.setElem (h : Hank) (t row w n v : Nat) : Hank :=
  h.setTileRow t row (BitVec.ofNat 1024 (setBits (h.tileRow t row).toNat (w * n) w v))

/-- The TMMA uses the reference sum (R165). -/
def Mma.refers (m : Mma) (k : MmaFmt) (d : Desc) (w : Witness) : Bool :=
  m.w && k.k == d.witnessK && w.has m.ws 0 && w.has m.ws 1

/-- The TMMA updates the shadow of the active tile: it is the owner's, and the tile is its accumulator or one of its pair (R165). -/
def Mma.shadows (m : Mma) (w : Witness) : Bool :=
  match w.active with | some (slot, tc, _) => slot == m.slot && m.acc.contains tc | none => false

/-- The shadow accumulator after a TMMA: the reference sum, or the TMMA's own narrow sum (R165, R166). What an FP64 or INT8 TMMA
does to a shadow of FP32 codes is in no rule: of an FP64 pair the half that lies in the active tile is updated, as FP64 codes in
the shadow's rows, and an INT8 sum is added as an INT32, or its reference sum as an FP32 (DESIGN CHOICE,
notes/assumptions/15.md). -/
def shadowAfter (k : MmaFmt) (m : Mma) (d : Desc) (w : Witness) (cells : List ((Nat × Nat) × (Nat × Nat × Ev))) :
    Tbl (BitVec 1024) :=
  let put (t : Tbl (BitVec 1024)) (row w n v : Nat) : Tbl (BitVec 1024) :=
    Tbl.upd 0 t row (fun x => BitVec.ofNat 1024 (setBits x.toNat (w * n) w v))
  if m.refers k d w then
    let as := (List.range 32).map (w.half d.witnessK m.ws 0)
    let bs := (List.range 32).map (w.half d.witnessK m.ws 1)
    mmaCells.foldl (fun t (i, j) =>
      let p := (mmaSum fp32 ((as[i]?).getD []) ((bs[j]?).getD [])).1
      let old := rowElem (Tbl.get 0 w.shadow i) 32 j
      put t i 32 j (if m.z then p else (redCombine fp32 0 old p).1)) w.shadow
  else
    cells.foldl (fun t e =>
      let (reg, row, wd, n) := k.place e.1.1 e.1.2
      if some (m.tc + reg) ≠ w.active.map (·.2.1) then t
      else
        let old := rowElem (Tbl.get 0 w.shadow row) wd n
        let p := e.2.1
        put t row wd n (if m.z then p else if k.accInt then (old + p) % 2 ^ 32 else (redCombine k.acc 0 old p).1)) w.shadow

/-! ### TMMA (R123 to R127, R140 to R145) -/

/-- A quiet region asks for a ramp start (R611): in arrival order, together in ascending region number. -/
def State.askRamp (s : State) (r : Nat) : State :=
  if s.lhr.rampQ.any (fun e => e.1 == r) then s
  else
    let early := s.lhr.rampQ.filter (fun e => decide (e.2 < s.now) || decide (e.1 < r))
    let late := s.lhr.rampQ.filter (fun e => !(decide (e.2 < s.now) || decide (e.1 < r)))
    { s with lhr := { s.lhr with rampQ := early ++ [(r, s.now)] ++ late } }

/-- TMMA issues: it joins the unit's waiting TMMAs, and a quiet region asks for a ramp start (R142, R143, R611). -/
def execTmma (u slot : Nat) (f : FmtT) (s : State) : Out State :=
  .next (s.issue u slot (fun c => do
    need (({ x := true, y := true, z := true, sub := 5, zf := true, w := true } : ShapeT).legal f) illegal
    let m : Mma := { launch := c.hank.launch, hank := c.hank.index, slot := slot, fmt := f.sub, tc := f.x, ta := f.y, tb := f.z,
                     z := f.zf, w := f.w, ws := f.ws }
    match mmaFmt f.sub with
    | none => .error illegal
    | some k => do
      need ((!k.accFp64 || f.x % 2 == 0) && (!k.pairA || f.y % 2 == 0) && (!k.pairB || f.z % 2 == 0)
        && !m.acc.any (fun t => m.operands.contains t)) illegal
      need (decide (f.sub < 0x13) || c.cmd.features.getLsbD 6) noFeature
      need ((m.acc ++ m.operands).all (fun t => decide (t < c.l.desc.tiles))) resource
      collCheck c.t
      if (s.unit u).mmaBlocks c.hank m.operands []
          || (s.unit u).mmaQ.any (fun q => q.launch == m.launch && q.hank == m.hank && m.acc.any (fun t => q.operands.contains t)) then
        .error .notDue
      else
        let s := s.modUnit u (fun x => { x with mmaQ := x.mmaQ ++ [m] })
        let r := regionOf u
        let s := if (s.dom r).quiet then s.askRamp r else s
        .ok (s.retire c c.t.advance)))

/-- The waiting TMMAs that may start: the first of each strand, unless an earlier one has the same accumulator (R143). -/
def UnitSt.mmaReady (x : UnitSt) : List Mma :=
  (x.mmaQ.zip (List.range x.mmaQ.length)).filterMap (fun e =>
    let before := x.mmaQ.take e.2
    if before.any (fun q => q.slot == e.1.slot
        || (q.launch == e.1.launch && q.hank == e.1.hank && q.acc.any (fun t => e.1.acc.contains t))) then none else some e.1)

/-- The next TMMA: round-robin by strand number after the strand last served (R143). -/
def UnitSt.mmaNext (x : UnitSt) : Option Mma :=
  let key (m : Mma) : Nat := (m.slot + 31 - x.mmaSlot) % 32
  x.mmaReady.foldl (fun b m => match b with | some q => if key m < key q then some m else some q | none => some m) none

/-- Occupancy in ucyc (R140, R167). -/
def mmaOccupancy (m : Mma) (refK : Option Nat) : Nat := (if m.fmt < 2 then 128 else 64) + refK.getD 0

/-- TMMA_START: the next TMMA starts once the engine is free and its token balance is at least 4,096; it reads its operands
and its result is written (R135 to R145, R165, R167, R206, R605). -/
def execTmmaStart (u : Nat) (s : State) : Out State :=
  .next (
    if !s.alive || s.unitFenced u || s.lhr.stage != 0 || decide (s.ucyc u < (s.unit u).mmaFree) || decide ((s.unit u).tokens < 4096) then s
    else match (s.unit u).mmaNext with
      | none => s
      | some m => match s.ctxAny u m.slot, mmaFmt m.fmt with
        | some c, some k =>
          let (v, s) := s.viewTiles c (m.operands ++ m.acc)
          let cells := mmaCompute k m v
          let w := c.hank.wit
          let shadow := if c.witnesses && m.shadows w then shadowAfter k m c.l.desc w cells else w.shadow
          let refK := if c.witnesses && m.shadows w && m.refers k c.l.desc w then some k.k else none
          let fl := ((List.range 32).map (fun i => mmaFlush k.a k.k v m.ta i + mmaFlush k.b k.k v m.tb i)).foldl (· + ·) 0
          let occ := mmaOccupancy m refK
          let s := s.onHank c (fun h =>
            let h := cells.foldl (fun h e =>
              let (reg, row, wd, n) := k.place e.1.1 e.1.2
              h.setElem (m.tc + reg) row wd n e.2.2.1) h
            let lost := match h.wit.active with | some (o, t, _) => m.acc.contains t && o != m.slot | none => false
            if lost then { h with wit := h.wit.abandon } else { h with wit := { h.wit with shadow := shadow } })
          let s := m.acc.foldl (fun s t => s.touchTile c t (List.range 32) false) s
          let s := s.countVts u ((cells.foldl (fun a e => a.add e.2.2.2) ({} : Ev)).add { flushIn := fl })
          let s := s.modUnit u (fun x => { x with
            mmaQ := x.mmaQ.erase m, mmaFree := s.ucyc u + occ, mmaSlot := m.slot,
            tokens := x.tokens - (64 * occ : Nat) })
          s.modDom (regionOf u) (fun d => { d with lastMma := d.ucyc, quiet := false, busy := true })
        | _, _ => s)

/-! ### Witness tiles (R159 to R161, R168, R169) -/

/-- Is a coordinate sampled (R159)? -/
def sampled (seed log2N coord : Nat) : Bool :=
  let x := Nat.xor coord (seed * 0x0000000100000001)
  x * 0x9E3779B97F4A7C15 % 2 ^ 64 / 2 ^ (64 - log2N) == 0

/-- WTILE: a sampled tile becomes active, or counts as skipped (R159 to R161, R167). -/
def execWtile (u slot : Nat) (f : FmtT) (s : State) : Out State :=
  .next (s.issue u slot (fun c => do
    need (({ x := true, u := true } : ShapeT).legal f) illegal
    need (decide (f.x < c.l.desc.tiles)) resource
    if !c.witnesses then .ok (s.retire c c.t.advance)
    else if (s.unit u).mmaBlocks c.hank [f.x] [] then .error .notDue
    else
      let coord := c.t.rdU f.u
      let w := if c.hank.wit.ownedBy slot then c.hank.wit.abandon else c.hank.wit
      let hit := sampled c.l.desc.witSeed c.l.desc.witLog2N coord
      if hit && w.active.isNone then
        let (v, s) := s.viewTiles c [f.x]
        let shadow := (List.range 32).foldl (fun t r => Tbl.set 0 t r (v.tileRow f.x r)) ([] : Tbl (BitVec 1024))
        let s := s.onHank c (fun h =>
          { h with wit := { w with active := some (slot, f.x, coord), shadow := shadow, captured := [], rows := [] } })
        let s := s.modUnit u (fun x => { x with mmaFree := max (s.ucyc c.u) x.mmaFree + 32 })
        .ok (s.retire c c.t.advance)
      else
        let w := if hit then { w with skipped := satAdd 32 w.skipped 1 } else w
        .ok ((s.onHank c (fun h => { h with wit := w })).retire c c.t.advance)))

/-- The comparison of R168 over pairs of FP32 codes (C, S): e and m in units of 2^−149, and whether a nonfinite element is
unequal. An accumulator that an INT8 or FP64 TMMA wrote is compared as the FP32 codes its 32-bit columns spell: R168 gives no
other comparison for it (DESIGN CHOICE, notes/assumptions/15.md). -/
def witCompare (ps : List (Nat × Nat)) : Nat × Nat × Bool :=
  let scale : FVal → Option Int := fun v => match v with
    | .fin s m e => some ((if s then -1 else 1) * (m : Int) * 2 ^ (e + 149).toNat)
    | _ => none
  ps.foldl (fun a p => match scale (fp32.value p.1), scale (fp32.value p.2) with
    | some x, some y => (max a.1 (x - y).natAbs, max a.2.1 y.natAbs, a.2.2)
    | _, _ => (a.1, a.2.1, a.2.2 || p.1 != p.2)) (0, 0, false)

/-- A magnitude in units of 2^−149 as an FP32 code, RNE (R154). -/
def witCode (x : Nat) : Nat := (fp32.round 0 false ⟨false, x, -149, false⟩).1

/-- WCHK: the owner of the active tile compares C with the shadow and frees the area (R167 to R169). -/
def execWchk (u slot : Nat) (f : FmtT) (s : State) : Out State :=
  .next (s.issue u slot (fun c => do
    need (({ x := true } : ShapeT).legal f) illegal
    need (decide (f.x < c.l.desc.tiles)) resource
    match c.hank.wit.active with
    | some (o, t, coord) =>
      if !c.witnesses || o != slot || t != f.x then .ok (s.retire c c.t.advance)
      else if (s.unit u).mmaBlocks c.hank [f.x] [] then .error .notDue
      else
        let (v, s) := s.viewTiles c [f.x]
        let w := c.hank.wit
        let (e, m, bad) := witCompare (mmaCells.map (fun (i, j) => (rowElem (v.tileRow f.x i) 32 j, rowElem (Tbl.get 0 w.shadow i) 32 j)))
        let exc := bad || decide (m < e * 2 ^ c.l.desc.witTau)
        let first : Excursion := { coord := coord, unit := u, e := witCode e, m := witCode m }
        let w := { w with active := none, shadow := [], captured := [], rows := [], tiles := satAdd 32 w.tiles 1,
                          excursions := if exc then satAdd 32 w.excursions 1 else w.excursions,
                          first := if exc then firstExc w.first (some first) else w.first }
        let s := s.onHank c (fun h => { h with wit := w })
        let s := s.modUnit u (fun x => { x with mmaFree := max (s.ucyc c.u) x.mmaFree + 64 })
        .ok (s.retire c c.t.advance)
    | none => .ok (s.retire c c.t.advance)))

end Sys2Proof.Machine
end

