-- ==== Sys2Proof/Machine/LehrRows.lean ====
section
/-! DEFINITION. Events of the Lehr between ticks: hints, droop, over-power, the ramp governor, stages and memory after a wake
(R604, R609 to R612, R615, R616, R622 to R625). -/

namespace Sys2Proof.Machine

open Sys2Proof

/-- HINT_EXPIRY: a HINT.HEAVY of a coil has lasted HINT_HOLD frames (R612). -/
def execHintExpiry (coil : Nat) (s : State) : Out State :=
  .next ((s.regionsOfCoil coil).foldl (fun s r => s.modDom r (fun d => { d with armed := d.armed && d.hintLeft != 0 })) s)

/-- JOBFREQ_RESULT: the min-reduction of an epoch ends; its result is held for the third frame, and one that comes later is
discarded (R560, R615, R616). -/
def execJobfreqResult (epoch level : Nat) (s : State) : Out State :=
  .next (
    if !s.alive || !s.lhr.jobRunning || s.frm.count / 16 ≠ epoch then s
    else if s.frm.count % 16 < 2 then
      { s with lhr := { s.lhr with jobRunning := false, result := some (min level s.lhr.posted) } }
    else { s with lhr := { s.lhr with jobRunning := false } })

/-- OVERPOWER: input power over 1 µs exceeds 5,200 W: every region skips one pulse in two until the tick (R604). -/
def execOverpower (s : State) : Out State :=
  .next (
    if !s.pins.rails then s
    else
      let s := (List.range 32).foldl (fun s r => s.modDom r (fun d => { d with overSkip := true })) s
      ({ s with lhr := { s.lhr with overpower := satAdd 16 s.lhr.overpower 1 } } : State).logErr .event 0x70 0 0)

/-- DROOP: a region's rail droops: beyond 3, 5 or 7 % it skips at level 1, 2 or 3, and a deeper droop deepens the skip; level 0
is a droop beyond 2 % (R609). -/
def execDroop (region level : Nat) (s : State) : Out State :=
  .next (
    if !s.pins.rails || decide (3 < level) then s
    else
      let deeper := decide ((s.dom region).skip < level)
      let s := s.modDom region (fun d => { d with
        droopAt := d.ucyc, skip := max d.skip level, skips := if deeper then satAdd 16 d.skips 1 else d.skips })
      if level = 0 then s else { s with lhr := { s.lhr with epSkipped := true } })

/-- DROOP_RELAX: the rail has stayed within 2 % for 256 ucyc: the skip becomes one level shallower (R609). -/
def execDroopRelax (region : Nat) (s : State) : Out State :=
  .next (
    let d := s.dom region
    if !s.pins.rails || d.skip = 0 || decide (d.ucyc < d.droopAt + 256) then s
    else s.modDom region (fun d => { d with skip := d.skip - 1, droopAt := d.ucyc }))

/-! ### The ramp governor (R611) -/

/-- RAMP_GRANT: the next region in line is granted its ramp start, a stagger after the last. -/
def execRampGrant (region : Nat) (s : State) : Out State :=
  .next (
    let heavy := (s.dom region).heavy
    let gap := if heavy then s.powerField 6 1 4 else s.powerField 5 1 16
    let waits := s.lhr.lastGrant.any (fun t => decide (5 * s.now < 5 * t + 18 * gap))
    if !s.alive || waits || (s.lhr.rampQ.head?).all (fun e => e.1 != region) then s
    else
      let s : State := { s with lhr := { s.lhr with rampQ := s.lhr.rampQ.drop 1, lastGrant := some s.now } }
      s.modDom region (fun d => { d with rampK := if heavy then s.powerField 7 1 4 else 0, rampAt := d.ucyc, quiet := false }))

/-- RAMP_STEP: RAMP_STEP ucyc after the last: the level rises by one, up to 8. -/
def execRampStep (region : Nat) (s : State) : Out State :=
  .next (
    let d := s.dom region
    let n := s.powerField 4 1 64
    if !s.alive || d.quiet || decide (8 ≤ d.rampK) || s.lhr.rampQ.any (fun e => e.1 == region) || decide (d.ucyc < d.rampAt + n) then s
    else s.modDom region (fun d => { d with rampK := d.rampK + 1, rampAt := d.rampAt + n }))

/-- REGION_QUIET: no TMMA has started in a region for 1,024 ucyc: level 0; a TMMA that waits asks for a ramp start. -/
def execRegionQuiet (region : Nat) (s : State) : Out State :=
  .next (
    let d := s.dom region
    if !s.alive || d.quiet || decide (d.ucyc < max d.lastMma d.rampAt + 1024) then s
    else
      let s := s.modDom region (fun d => { d with quiet := true, rampK := 0 })
      if (unitsOfRegion region).any (fun u => !(s.unit u).mmaQ.isEmpty) then s.askRamp region else s)

/-! ### Stages (R622 to R625) -/

/-- STAGE_REQUEST: a write of LHR_STAGE_CTRL.TARGET: 0 wakes, another value is a request for the next tick (R623, R624). After an FE
the register is written, and nothing acts on it (R6, R660). -/
def execStageRequest (target : Nat) (s : State) : Out State :=
  .next (
    if !s.pins.rails then s
    else
      let t := target % 8
      let s : State := { s with lhr := { s.lhr with ctrl := t, lastTarget := t, refused := false, reason := 0
                                                    request := if t = 0 then none else some t } }
      if t = 0 && s.alive then s.wakeUp else s)

/-- STAGE_EXIT: the wake is complete: L0 (R622 to R624, R719). After L4 or L5 the frame state is FREE, ports train, and memory has
been written with zero but is not yet ready (R625). -/
def execStageExit (s : State) : Out State :=
  .next (
    let t := s.lhr.stage
    if t = 0 || !s.lhr.waking || !s.pins.vinOk || !s.pins.sbRstN then s
    else
      let s : State := { s with lhr := { s.lhr with stage := 0, waking := false, request := none } }
      let s := (List.range 24).foldl (fun s k => (s.modStack k (fun x => { x with selfRefresh := false })).flushHeld k) s
      if t < 4 then s.retryHome
      else
        let s : State := { s with pins := { s.pins with rails := true, pwrGood := true }, hws := { s.hws with departing := false }
                                  frm := { s.frm with tickAt := s.now } }
        if s.frt.active.isSome then s.applyPorts.chooseIndex else s)

/-- MEM_READY: after an exit from L4 or L5 every line is zero: what waits for memory goes on (R625). -/
def execMemReady (s : State) : Out State :=
  .next (
    if !s.alive || s.lhr.memReady || s.lhr.stage ≠ 0 then s
    else
      let s := (List.range 24).foldl (fun s k => s.flushHeld k) ({ s with lhr := { s.lhr with memReady := true } } : State)
      ((s.slices.map (·.1)).foldl (fun s n => s.pumpHome n) s).retryHome)

end Sys2Proof.Machine
end

