-- ==== Sys2Proof/Machine/DlkRows.lean ====
section
/-! DEFINITION. Die links: flits, NAKs, steering and counters (R632 to R635, R639, R643). -/

namespace Sys2Proof.Machine

open Sys2Proof

/-- A whole flit of 64 bytes whose CRC is right (R632). -/
def dlkFlitOk (l : List Byte) : Bool := l.length == 64 && fieldAt l 62 2 == crc16 (l.take 62)
/-- Its sequence number. -/
def dlkSeq (l : List Byte) : Nat := fieldAt l 60 2 % 4096

/-- A bundle that is up. -/
def Bundle.up (x : Bundle) : Bool := x.state == .full || x.state == .narrow0 || x.state == .narrow1

/-- DLK_FLIT: a flit arrives on a half (true: H1): delivered in order, or discarded with a NAK and counted (R634). -/
def execDlkFlit (n : Nat) (half : Bool) (bytes : List Byte) (s : State) : Out State :=
  .next (
    if !s.pins.rails || !(s.bundle n).up then s
    else if !dlkFlitOk bytes then
      s.modBundle n (fun x =>
        if half then { x with rxNak := true, cnt1 := wrapAdd 64 x.cnt1 1, frame1 := x.frame1 + 1 }
        else { x with rxNak := true, cnt0 := wrapAdd 64 x.cnt0 1, frame0 := x.frame0 + 1 })
    else s.modBundle n (fun x =>
      if dlkSeq bytes = x.rxSeq then
        let kept := x.replayBuf ++ [bytes]
        { x with rxSeq := (x.rxSeq + 1) % 4096, rxNak := false, nakSeq := none, failedReplays := 0, delivered := x.delivered + 1
                 replayBuf := kept.drop (kept.length - 512) }
      else x))

/-- DLK_NAK: the transmitter replays from the flit that the receiver's NAK names. After 8 failed replays of one flit it is replayed
on the other half; in narrow mode that is a second failure (R634, R635, R639). -/
def execDlkNak (n seq : Nat) (s : State) : Out State :=
  .next (
    let x := s.bundle n
    let fails := if x.nakSeq = some seq then x.failedReplays + 1 else 0
    if !s.pins.rails || !x.up || !x.rxNak || seq ≠ x.rxSeq then s
    else if fails < 8 then s.modBundle n (fun x => { x with rxNak := false, failedReplays := fails, nakSeq := some seq })
    else if x.state = .full then
      s.modBundle n (fun x => { x with rxNak := false, failedReplays := 0, nakSeq := none, steer := wrapAdd 64 x.steer 1 })
    else s.bundleDown n)

/-- DLK_CNT_CLEAR (R642, R643): the monitor's own counts stay. -/
def execDlkCntClear (n value : Nat) (s : State) : Out State :=
  .next (s.modBundle n (fun x => { x with cnt0 := clr value 0 x.cnt0, cnt1 := clr value 1 x.cnt1, steer := clr value 2 x.steer }))

end Sys2Proof.Machine
end

