-- ==== Sys2Proof/Machine/ErrRows.lean ====
section
/-! DEFINITION. Errors that fence or are fatal, and writes of the ERR block (R401, R651 to R653, R659, R662, R663). -/

namespace Sys2Proof.Machine

open Sys2Proof

/-- UNIT_SRAM: a multi-bit error in a unit's SRAM fences the unit (R651). -/
def execUnitSram (u : Nat) (s : State) : Out State := .next (if s.alive then s.fence 1 u 0x80 else s)
/-- CLUSTER_CACHE: an uncorrectable tag or state entry of a cluster cache fences the cluster (R651). -/
def execClusterCache (cl : Nat) (s : State) : Out State := .next (if s.alive then s.fence 2 cl 0x81 else s)
/-- CC_CACHE: an uncorrectable tag or state entry of a complex cache fences the complex (R651). -/
def execCcCache (k : Nat) (s : State) : Out State := .next (if s.alive then s.fence 4 k 0x82 else s)

/-- SRC_KIND and SRC_INDEX of a vital agent (R370, R397, R645); IDs from 1,024 name slices, from 2,048 HBM channels
(notes/assumptions/24.md). -/
def vitalSource (a : Nat) : Option (Nat × Nat) :=
  if 512 ≤ a ∧ a < 528 then some (8, a - 512)
  else if 528 ≤ a ∧ a < 536 then some (9, a - 528)
  else if 536 ≤ a ∧ a < 568 then some (3, a - 536)
  else if a = 568 then some (11, 0)
  else if 576 ≤ a ∧ a < 624 then some (10, a - 576)
  else if a = 640 then some (0, 0)
  else if 1024 ≤ a ∧ a < 1072 then some (6, a - 1024)
  else if 2048 ≤ a ∧ a < 2816 then some (7, a - 2048)
  else none

/-- VITAL: a vital agent fails, or an on-chip directory entry is uncorrectable: the coherent domain is lost (R401, R646, R659). -/
def execVital (what : VitalFault) (s : State) : Out State :=
  .next (if !s.alive then s
    else match what with
      | .agent a => (match vitalSource a with
        | some (kind, index) => s.fatal 0x90 kind index
        | none => s)
      | .directory l => s.fatal 0x21 6 (s.homeOf (lineOf l)) 0 (lineOf l))

/-- FENCE_REQ: 1 is written to ERR_FENCE_REQ.GO; ignored while a fence or its reclaim runs (R653). The block serves after
an FE too (R660). -/
def execFenceReq (s : State) : Out State :=
  .next (if !s.pins.rails || s.fenceRunning then s else s.fence s.err.reqKind s.err.reqIndex 0x84)

/-- ERR_STATUS_CLEAR: a write of the W1C flags; a flag that hardware sets in the same cycle (`meets`) stays set (R662). -/
def execErrStatusClear (value meets : Nat) (s : State) : Out State :=
  .next (
    let keep (k : Nat) (f : Bool) : Bool := f && (!bit value k || bit meets k)
    { s with err := { s.err with fUc := keep 1 s.err.fUc, fDe := keep 2 s.err.fDe, fCe := keep 3 s.err.fCe, fEvent := keep 4 s.err.fEvent } })

/-- ERR_BANK_HEAD: HEAD moves, unless backwards or past TAIL (R663). -/
def execErrBankHead (b value : Nat) (s : State) : Out State :=
  .next (
    let k := s.err.bank b
    let by_ := (value + 2 ^ 32 - k.head) % 2 ^ 32
    let room := (k.tail + 2 ^ 32 - k.head) % 2 ^ 32
    if 2 ^ 32 ≤ value || 4 ≤ b || decide (room < by_) then s else { s with err := s.err.setBank b { k with head := value } })

end Sys2Proof.Machine
end

