-- ==== Sys2Proof/Machine/HostRows.lean ====
section
/-! DEFINITION. The host port: placement, path flush, link events, detach, attach, parking and confirmed records (R567 to R594). -/

namespace Sys2Proof.Machine

open Sys2Proof

/-! ### Placement (R571 to R578) -/

/-- What a placement record and a requester make of a BAR2 access of n bytes at offset x: the record and the local address it
names, or none where it is not admitted (R573). -/
def State.placed (s : State) (rid x n : Nat) (write : Bool) : Option (List Byte × Nat) :=
  let hit (r : List Byte) : Bool :=
    let off := fieldAt r 16 4 * 65536
    decide (off ≤ x) && decide (x + n ≤ off + fieldAt r 20 4 * 65536)
      && (List.range s.rids.length).any (fun k => bit (fieldAt r 8 8) k && s.rids.getD k 0 == rid)
      && bit (fieldAt r 2 1) (if write then 1 else 0)
  if !s.feature 9 || n = 0 then none
  else (s.placeRecs.find? hit).map (fun r => (r, fieldAt r 24 8 + x - fieldAt r 16 4 * 65536))

/-- A BAR2 request that is not admitted (R574). -/
def State.placeRefused (s : State) (rid x : Nat) (write : Bool) : State :=
  { s with hpt := { s.hpt with refused := satAdd 32 s.hpt.refused 1, errRid := rid % 65536, errWrite := write, errOffset := x % 2 ^ 36 } }

/-- Perform a piece at its home slice, as the host port (R575); false, with nothing done, where it cannot be performed now. -/
def State.performInbound (s : State) (w : Inbound) : Bool × State :=
  match s.lineAt w.addr with
  | none => (true, s)
  | some l =>
    if !s.coh.serving then (false, s)
    else
      let t := match w.stash with
        | some (t, coil) => (s.transact { ty := .sth, src := 568, line := l, data := lineOfBytes w.bytes, target := t
                                          coil := some coil, poison := w.poison, admitted := true }).2
        | none => s.cohWrite 568 l (linePlace (w.addr % 128) w.bytes) (byteMask (w.addr % 128) w.bytes.length) false w.poison
      if t.waitsAt 568 l then (false, s) else (true, t)

/-- Perform what waits, oldest first; reads of HPT_FLUSH complete once nothing waits (R576, R578). -/
def State.pumpInbound : Nat → State → State
  | 0, s => s
  | n + 1, s => match s.hpt.inbound with
    | [] => { s with hpt := { s.hpt with flushes := 0 } }
    | w :: t => match s.performInbound w with
      | (true, s) => State.pumpInbound n { s with hpt := { s.hpt with inbound := t } }
      | (false, s) => s

/-- All that waits. -/
def State.drainInbound (s : State) : State := State.pumpInbound (s.hpt.inbound.length + 1) s

/-- BAR2_WRITE: admitted and performed as STH or WNC for the region's coil, or dropped and counted (R573 to R576). A line that the
coil may not reach when the write arrives, such as another coil's scratchpad, is not written (R357). -/
def execBar2Write (rid off : Nat) (bytes : List Byte) (poisoned : Bool) (s : State) : Out State :=
  .next (
    if !s.alive || !s.hpt.linkUp then s
    else match s.placed rid off bytes.length true with
      | none => s.placeRefused rid off true
      | some (r, a) =>
        let stashes := bit (fieldAt r 2 1) 2 && s.feature 7
        let reached := (segments a bytes.length).filter (fun g => (s.localCause (fieldAt r 1 1) g.1).isNone)
        let ws : List Inbound := reached.map (fun g =>
          { addr := g.1, bytes := (bytes.drop (g.1 - a)).take g.2, poison := poisoned
            stash := if stashes && g.2 = 128 then some (fieldAt r 4 2 % 4096, fieldAt r 1 1) else none })
        ({ s with hpt := { s.hpt with inbound := s.hpt.inbound ++ ws } } : State).drainInbound)

/-- BAR2_READ: admitted and performed as RNC, or answered with Unsupported Request; poisoned data is logged (R573 to R575). While a
home cannot serve it, it waits. -/
def execBar2Read (rid off len : Nat) (s : State) : Out State :=
  .next (
    if !s.alive || !s.hpt.linkUp then s
    else
      let s := s.drainInbound
      match s.placed rid off len false with
      | none => s.placeRefused rid off false
      | some (r, a) =>
        if (segments a len).any (fun g => (s.localCause (fieldAt r 1 1) g.1).isSome) then s
        else s.attempt (match s.bytesRead 568 a len with
          | (.poisoned, s) => s.logErr .de 0x52 11 0 0 (lineOf a)
          | (_, s) => s))

/-- HPT_FLUSH: the read returns once every BAR2 write received before it has been performed (R578). -/
def execHptFlush (s : State) : Out State :=
  .next (if !s.alive || !s.hpt.linkUp then s
         else ({ s with hpt := { s.hpt with flushes := s.hpt.flushes + 1 } } : State).drainInbound)

/-! ### Link and detach (R582 to R588) -/

/-- A rate, a width and a mode at which the link runs: 32 GT/s, or 64 GT/s in flit mode, at x4 or wider (R567). -/
def linkModeOk (rate width : Nat) (flit : Bool) : Bool :=
  (rate = 4 || rate = 5) && (width = 4 || width = 8 || width = 16) && flit == decide (rate = 5)

/-- LINK_UP: the Data Link Layer becomes active, at x4 or wider and 32 or 64 GT/s (R567, R592). -/
def execLinkUp (rate width : Nat) (flit : Bool) (s : State) : Out State :=
  .next (
    if !s.pins.rails || decide (4 ≤ s.lhr.stage) || !s.pins.perstN || s.hpt.linkUp || !linkModeOk rate width flit then s
    else { s with hpt := { s.hpt with linkUp := true, rate := rate, width := width, flit := flit } })

/-- HOST_RETRAIN: a pass through Recovery with the Data Link Layer active: nothing is lost (R582). -/
def execHostRetrain (rate width : Nat) (flit : Bool) (s : State) : Out State :=
  .next (if !s.hpt.linkUp || !linkModeOk rate width flit then s
         else { s with hpt := { s.hpt with rate := rate, width := width, flit := flit, retrains := satAdd 16 s.hpt.retrains 1 } })

/-- A DMA channel gives up its transfers that address host memory (R583 step 5). -/
def State.dmaHostLost (s : State) (e c : Nat) : State :=
  let k := s.dmaCh e c
  let lost := k.shd.toList.filter (·.host) ++ k.queueing.filter (·.host)
  let s := s.modDmaCh e c (fun k => { k with shd := k.shd.filter (fun x => !x.host), queueing := k.queueing.filter (fun x => !x.host) })
  let s := if k.act.any (·.host) then s.dmaEnd e c (dmaEnding e c 0x19 0x70) else s
  (lost.foldl (fun s x => s.endCmd x.cmd (dmaEnding e c 0x19 0x70)) s).dmaRun e c

/-- A read-back fails: the command's outcome counts as RECORD_LOST (R589). -/
def State.recordLost (s : State) (c : Confirm) : State :=
  let s := (s.modQueue c.queue (fun k => { k with errors := satAdd 16 k.errors 1 })).queueFault c.queue c.seq { cause := 0x71 }
  if (s.queue c.queue).halt then s.halt c.queue else s

/-- The port detaches (R583); the link partner has acknowledged the first `acked` of the writes in `posted`. Of a queue's records
those whose read-back fails precede those not acknowledged (R588). -/
def State.detach (s : State) (acked : Nat) : State :=
  let left := s.hpt.posted.drop acked
  let confirms := s.hpt.confirms
  let s : State := { s with hpt := { s.hpt with
    attached := false, detaches := satAdd 16 s.hpt.detaches 1, posted := [], confirms := [], pba := [], detachedOnce := true } }
  let s := s.logErr .event 0x50 11 0
  let unacked (c : Confirm) : Bool := left.any (fun w => w.record == some c.queue && w.bytes == c.bytes)
  let s := (confirms.filter (fun c => !unacked c)).foldl (fun s c => s.parkRecord c.park c.bytes) s
  let s := left.foldl (fun s w => if w.record.isSome then s.parkRecord w.park w.bytes else s) s
  let s := confirms.foldl (fun s c => s.recordLost c) s
  let s := s.dma.foldl (fun s e => e.2.channels.foldl (fun s c => s.dmaHostLost e.1 c.1) s) s
  s.queues.foldl (fun s e =>
    if e.2.state = .running && (e.2.ringLoc || e.2.cplLoc) then
      (s.queueFault e.1 e.2.headSeq { cause := 0x70 }).modQueue e.1 (fun k => { k with state := .halted, park := true })
    else s) s

/-- The link is down. -/
def State.linkLost (s : State) : State := { s with hpt := { s.hpt with linkUp := false } }

/-- A detach event at the port. After an FE no record is parked and no command ends, since the package writes none (R659, R660): the port
alone detaches. -/
def State.portDetach (s : State) (acked : Nat) : State :=
  if s.alive then s.detach acked
  else if !s.pins.rails then s
  else
    let s : State := { s with hpt := { s.hpt with
      attached := false, detaches := satAdd 16 s.hpt.detaches 1, posted := [], confirms := [], pba := [], detachedOnce := true } }
    s.logErr .event 0x50 11 0

/-- LINK_DOWN: the Data Link Layer goes inactive (R583). -/
def execLinkDown (acked : Nat) (s : State) : Out State :=
  .next (if !s.hpt.linkUp then s else s.linkLost.portDetach acked)
/-- HOT_RESET (R583): the link goes down with it. -/
def execHotReset (acked : Nat) (s : State) : Out State :=
  .next (if !s.hpt.linkUp then s else s.linkLost.portDetach acked)
/-- FLR: a Function Level Reset; the link stays (R583). -/
def execFlr (acked : Nat) (s : State) : Out State := .next (if s.hpt.linkUp then s.portDetach acked else s)

/-- PERST_ASSERT: a detach under policy PORT, a warm reset under PACKAGE (R583, R585). -/
def execPerstAssert (acked : Nat) (s : State) : Out State :=
  .next (
    if !s.pins.perstN then s
    else
      let s : State := { s with pins := { s.pins with perstN := false } }
      if !s.pins.rails then s
      else if s.perstPackage then s.linkLost.warmReset
      else s.linkLost.portDetach acked)

/-- PERST_RELEASE: the package wakes from a Lehr stage (R624). -/
def execPerstRelease (s : State) : Out State :=
  .next (if s.pins.perstN then s else ({ s with pins := { s.pins with perstN := true } } : State).wakeUp)

/-! ### Attach, parking, confirmed records (R586 to R591) -/

/-- ATTACH: 1 is written to HPT_CTRL.ATTACH; a re-attach releases the FEA lock (R91, R590); after an FE too (R660). -/
def execAttach (s : State) : Out State :=
  .next (
    if !s.pins.rails || s.boot.stage ≠ .released || s.hpt.attached then s
    else { s with hpt := { s.hpt with attached := true }, fea := { s.fea with locked := s.fea.locked && !s.hpt.detachedOnce } })

/-- HPT_PARK_HEAD: HEAD moves, unless backwards or past TAIL (R591); after an FE too (R660). -/
def execHptParkHead (value : Nat) (s : State) : Out State :=
  .next (
    let h := s.hpt
    let by_ := (value + 2 ^ 32 - h.parkHead) % 2 ^ 32
    let room := (h.parkTail + 2 ^ 32 - h.parkHead) % 2 ^ 32
    if !s.pins.rails || s.boot.stage ≠ .released || 2 ^ 32 ≤ value || decide (room < by_) then s
    else { s with hpt := { h with parkHead := value } })

/-- CONFIRM_READBACK: the read-back of a queue's oldest unconfirmed record returns bytes 0 to 3; a failed one parks the record and
counts RECORD_LOST (R589). -/
def execConfirmReadback (q : Nat) (seen : ReadBack Nat) (s : State) : Out State :=
  .next (match s.hpt.confirms.find? (fun c => c.queue == q) with
    | none => s
    | some c =>
      if !s.alive then s
      else
        let t : State := { s with hpt := { s.hpt with confirms := s.hpt.confirms.erase c } }
        if seen = .ok c.seq then t else (t.parkRecord c.park c.bytes).recordLost c)

end Sys2Proof.Machine
end

