-- ==== Sys2Proof/Machine/BootOps.lean ====
section
/-! DEFINITION. Board flash, signed images, the keys the boot ROM derives, and the start of the node cores (R671 to R681, R698). -/

namespace Sys2Proof.Machine

open Sys2Proof

/-! ### Board flash (R671) -/

/-- The first n bytes of a slot. -/
def FlashSlot.read (f : FlashSlot) (n : Nat) : List Byte := (List.range n).map (fun i => Tbl.get 0 f.bytes i)

/-- A directory entry is in rule: OFFSET a multiple of 64 KiB, SIZE within its limit. -/
def FlashSlot.entryOk (f : FlashSlot) (limit : Nat) : Bool := decide (f.offset % 65536 = 0) && decide (f.size ≤ limit)

/-- The flash answers and its directory is valid (R670, R671). -/
def Flash.ok (f : Flash) : Bool :=
  f.answers && [f.marverA, f.marverB].all (·.entryOk (4 * 2 ^ 20)) && [f.nodeA, f.nodeB].all (·.entryOk (32 * 2 ^ 20))
    && [f.fritA, f.fritB].all (·.entryOk (128 * 2 ^ 10))

/-- The slot of a KIND (1 MARVER, 2 NODE, 3 FRIT); `b`: slot B. -/
def Flash.slot (f : Flash) (kind : Nat) (b : Bool) : FlashSlot :=
  match kind, b with
  | 1, false => f.marverA
  | 1, true => f.marverB
  | 2, false => f.nodeA
  | 2, true => f.nodeB
  | _, false => f.fritA
  | _, true => f.fritB

/-- Change a slot. -/
def Flash.modSlot (f : Flash) (kind : Nat) (b : Bool) (g : FlashSlot → FlashSlot) : Flash :=
  match kind, b with
  | 1, false => { f with marverA := g f.marverA }
  | 1, true => { f with marverB := g f.marverB }
  | 2, false => { f with nodeA := g f.nodeA }
  | 2, true => { f with nodeB := g f.nodeB }
  | _, false => { f with fritA := g f.fritA }
  | _, true => { f with fritB := g f.fritB }

/-- Bytes written in a slot from an offset. -/
def FlashSlot.write (f : FlashSlot) (off : Nat) (bs : List Byte) : FlashSlot :=
  { f with bytes := (bs.zip (List.range bs.length)).foldl (fun t e => Tbl.set 0 t (off + e.2) e.1) f.bytes }

/-- The inactive slot of a KIND: not the one that booted; FRIT B for frit (R686). -/
def State.inactiveSlot (s : State) (kind : Nat) : Bool :=
  if kind = 1 then !s.boot.marverSlot else if kind = 2 then !s.boot.nodeSlot else true

/-- The first n bytes of a FLASH_WRITE have reached the inactive slot (R686). -/
def State.flashPut (s : State) (r : MbxRun) (n : Nat) : State :=
  { s with flash := s.flash.modSlot r.arg (s.inactiveSlot r.arg) (fun f => f.write r.offset ((r.input.take r.len).take n)) }

/-! ### Marver and node boot images (R672 to R674) -/

/-- A verified image. -/
structure BootImage where
  svn : Nat
  length : Nat
  entry : Nat
  load : Nat
  /-- Header and body: what the signature covers. -/
  signed : List Byte
  deriving DecidableEq, Repr

/-- The keys accepted for a KIND, by digest (R673). -/
def Fuses.keysFor (f : Fuses) (kind : Nat) : List Nat := if kind = 1 then [f.firmwareKey] else f.ownerDigests

/-- The fused count of a KIND (R675). -/
def Fuses.countFor (f : Fuses) (kind : Nat) : Nat := if kind = 1 then f.countMarver else f.countNode

/-- The checks of R674 on a slot: a result code of R685, or the image. -/
def State.slotCheck (s : State) (kind : Nat) (slot : FlashSlot) : Nat × Option BootImage :=
  let h := slot.read 128
  let len := fieldAt h 8 4
  if slot.size < 128 ∨ fieldAt h 0 4 ≠ 0x474D4950 ∨ fieldAt h 4 1 ≠ kind ∨ !zeros h 6 2 ∨ !zeros h 48 80 ∨ len % 64 ≠ 0
      ∨ slot.size < len + 224 then (0x02, none)
  else if (h.drop 32).take 16 ≠ partBytes then (0x03, none)
  else
    let all := slot.read (len + 224)
    let msg := all.take (len + 128)
    if !sigBlockOk (s.fuses.keysFor kind) msg (all.drop (len + 128)) then (0x01, none)
    else if fieldAt h 5 1 < s.fuses.countFor kind then (0x04, none)
    else (0, some { svn := fieldAt h 5 1, length := len, entry := fieldAt h 16 8, load := fieldAt h 24 8, signed := msg })

/-- The slot that boots: the passing one with the greater SVN, by PREFERRED where they are equal (R674). True: slot B. -/
def State.bootChoice (s : State) (kind : Nat) : Option (Bool × BootImage) :=
  let a := s.flash.slot kind false
  let b := s.flash.slot kind true
  match (s.slotCheck kind a).2, (s.slotCheck kind b).2 with
  | none, none => none
  | some x, none => some (false, x)
  | none, some y => some (true, y)
  | some x, some y =>
    if y.svn < x.svn then some (false, x)
    else if x.svn < y.svn then some (true, y)
    else if b.preferred && !a.preferred then some (true, y) else some (false, x)

/-! ### Keys (R679) -/

/-- ASCII "PWA1-ALIAS". -/
def aliasLabel : List Byte := [0x50, 0x57, 0x41, 0x31, 0x2D, 0x41, 0x4C, 0x49, 0x41, 0x53]

/-- MEASi as bytes. -/
def Boot.measBytes (b : Boot) (i : Nat) : List Byte := beBytes 32 (Tbl.get 0 b.meas i)

/-- The seed of the alias key. -/
def Boot.aliasSeedOf (b : Boot) : Nat :=
  beNat (hmac (beBytes 32 Config.deviceSecret) (aliasLabel ++ b.measBytes 0 ++ b.measBytes 1 ++ b.measBytes 2))

/-- The certificate chain of R680. -/
def State.certs (s : State) : List Byte :=
  Config.certChain s.hws.uid s.boot.aliasSeed (Tbl.get 0 s.boot.meas 0) (Tbl.get 0 s.boot.meas 1) (Tbl.get 0 s.boot.meas 2)
    s.fuses.countMarver s.fuses.countNode

/-- A signature of the alias key as 64 bytes: r, then s. -/
def State.aliasSig (s : State) (digest : Nat) : List Byte :=
  let sig := Config.aliasSign s.boot.aliasSeed digest
  beBytes 32 sig.1 ++ beBytes 32 sig.2

/-! ### Boot stops (R670) -/

/-- STAGE reads FAILED with a result. -/
def State.bootFail (s : State) (result : Nat) : State := { s with boot := { s.boot with stage := .failed, result := result } }

/-! ### Node cores start (R698, R699) -/

/-- A hart starts in machine mode: pc, a0 its ID, a1 and a2; everything else at its reset value. -/
def State.startHart (s : State) (h pc a1 a2 : Nat) : State :=
  let x := Tbl.set 0 (Tbl.set 0 (Tbl.set (0 : W64) [] 10 (BitVec.ofNat 64 h)) 11 (BitVec.ofNat 64 a1)) 12 (BitVec.ofNat 64 a2)
  s.modHart h (fun _ => { state := .running, pc := pc, x := x })

/-- Step 9 of R667: the node image is verified, measured, copied to LOAD, and the boot hart starts. -/
def State.nodeBoot (s : State) : State :=
  match s.bootChoice 2 with
  | none => { s with boot := { s.boot with nodeState := 2 } }
  | some (b, i) =>
    let s : State := { (s.measure 5 (sha256N i.signed)) with
      boot := { (s.measure 5 (sha256N i.signed)).boot with nodeSlot := b, svnNode := i.svn } }
    let s := s.packageWrite slotAgent i.load (i.signed.drop 128)
    match (List.range 96).find? (fun h => !s.hartFenced h) with
    | none => { s with boot := { s.boot with nodeState := 3 } }
    | some h =>
      let s : State := { s with boot := { s.boot with nodeState := 1 }, ncc := { s.ncc with imsic := [] } }
      s.startHart h i.entry i.load i.length

end Sys2Proof.Machine
end

