-- ==== Sys2Proof/Machine/BootRows.lean ====
section
/-! DEFINITION. Power input and pins, the boot sequence, and the harts' start (R624, R665 to R670, R683, R699, R711 to R720). -/

namespace Sys2Proof.Machine

open Sys2Proof

/-! ### Power input and standby island (R711 to R719) -/

/-- The standby island starts: everything is lost but fuses and what lies outside, I3C_ADDR is sampled, SB_GOOD asserts (R665, R717). -/
def State.standbyStart (s : State) : State :=
  let s := s.unpowered
  { s with pins := { s.pins with sbGood := true, i3cAddr := 0x30 + s.pins.i3cStrap % 8 } }

/-- POWER_UP: VIN crosses the rising lockout threshold (R711, R717). -/
def execPowerUp (s : State) : Out State :=
  .next (if s.pins.vinOk then s else ({ s with pins := { s.pins with vinOk := true } } : State).standbyStart)

/-- Power is lost: a board-flash write in progress may leave its slot incomplete: how many of its bytes are in it is a free value (R720). -/
def State.tornWrite (s : State) : State :=
  match (s.boot.flashQ.head?).bind (fun ch => (s.mbx ch).running) with
  | some r =>
    if r.op ≠ 0x10 ∨ r.arg < 1 ∨ 3 < r.arg ∨ (s.flash.slot r.arg (s.inactiveSlot r.arg)).size < r.offset + r.len ∨ !s.flash.answers then s
    else let (n, s) := s.freeVal 32; s.flashPut r n
  | none => s

/-- VIN_LOSS: VIN falls below the falling lockout threshold (R713). -/
def execVinLoss (s : State) : Out State :=
  .next (
    let s := s.tornWrite.unpowered
    { s with pins := { s.pins with vinOk := false, sbGood := false } })

/-- SB_RST_ASSERT: as if VIN were absent, but SB_GOOD stays (R718). -/
def execSbRstAssert (s : State) : Out State :=
  .next (if !s.pins.sbRstN then s else
    let s := s.tornWrite.unpowered
    { s with pins := { s.pins with sbRstN := false } })

/-- SB_RST_RELEASE: a power-up starts (R718). -/
def execSbRstRelease (s : State) : Out State :=
  .next (
    if s.pins.sbRstN then s
    else
      let s : State := { s with pins := { s.pins with sbRstN := true } }
      if s.pins.vinOk then s.standbyStart else s)

/-- The main rails may come up, or stay: VIN and the standby island are good, no reset, no emergency stop, and no stage that
removes power (R621, R622, R717, R718). -/
def State.powered (s : State) : Bool :=
  s.pins.vinOk && s.pins.sbGood && s.pins.sbRstN && !s.pins.thermtrip && decide (s.lhr.stage < 4)

/-- RAIL_RAISE: the main rails come up in their order (R717). -/
def execRailRaise (s : State) : Out State :=
  .next (if s.powered && !s.pins.rails then { s with pins := { s.pins with rails := true } } else s)

/-- PWR_GOOD: the main rails are up: event P of a power-up, or of a cold restart (R529, R666, R667, R719). -/
def execPwrGood (s : State) : Out State :=
  .next (
    if !s.powered || !s.pins.rails || s.pins.pwrGood then s
    else if s.boot.cold then s.advance.eventP false
    else
      let (n, s) := s.freeVal 16
      ({ s with hws := { s.hws with incarnation := n } } : State).eventP false)

/-- VIN_UNDERVOLTAGE: VIN below 46 V for more than 1 ms, or below 43 V: an emergency stop (R712). -/
def execVinUndervoltage (s : State) : Out State := .next (if s.pins.rails then s.emergencyStop 0 0 1 else s)
/-- VIN_OVERVOLTAGE: VIN above 58 V for more than 100 µs: an emergency stop (R712). -/
def execVinOvervoltage (s : State) : Out State := .next (if s.pins.rails then s.emergencyStop 0 0 2 else s)

/-! ### The boot sequence (R667 to R670) -/

/-- MARVER_START: the ROM verifies a Marver slot, extends MEAS1, derives the keys, locks the device secret and starts Marver,
which starts to train (R667 steps 3 and 4, R674, R679). -/
def execMarverStart (s : State) : Out State :=
  .next (
    if !s.alive || !s.pins.pwrGood || s.boot.stage ≠ .rom then s
    else if !s.flash.ok then s.bootFail 0x04
    else match s.bootChoice 1 with
      | none => s.bootFail 0x01
      | some (b, i) =>
        let s := s.measure 1 (sha256N i.signed)
        { s with
          boot := { s.boot with marverSlot := b, svnMarver := i.svn, aliasSeed := s.boot.aliasSeedOf, secretLocked := true
                                stage := .train }
          coh := { s.coh with test := true }
          hbm := (List.range 24).foldl (fun t k => Tbl.upd {} t k (fun x => { x with state := .training })) s.hbm })

/-- A bundle after training: full, narrow on the half that trained, or down (R641), with its fused spares (R636). -/
def State.trainBundle (s : State) (badHalves : List Nat) (n : Nat) : State :=
  let b0 := badHalves.contains (2 * n)
  let b1 := badHalves.contains (2 * n + 1)
  let sp := s.fuses.spares.getD n (0, 0)
  s.modBundle n (fun x => { x with
    state := if b0 && b1 then .down else if b0 then .narrow1 else if b1 then .narrow0 else .full
    spares0 := sp.1, spares1 := sp.2 })

/-- The die of a die bundle (R629). -/
def dieOfBundle (n : Nat) : Nat := if n < 32 then n / 4 else 8 + (n - 32) / 4

/-- Hard repairs at reset: the listed rows of a stack but those it could not repair, by their place in the list (R423). -/
def Stack.hardRepair (k : Stack) (left : List Nat) : Stack :=
  let rows := k.repair.zip (List.range k.repair.length)
  let keep := rows.filter (fun r => left.contains r.2)
  { k with repair := keep.map (·.1), unrepaired := keep.map (·.1), committed := rows.length - keep.length, failed := keep.length }

/-- PPR_EN of the image kept in the standby island: none is in force during training. -/
def Boot.pprKept (b : Boot) : Bool :=
  match b.keptFrit.bind fritParse with
  | some secs => bit (fieldAt (((secs.find? (fun x => x.1 == 2)).map (·.2)).getD []) 200 1) 1
  | none => false

/-- Training and the directory test have ended well: stacks are ready; the HBM test, or the frit image, comes next (R667 steps 5 and 6). -/
def State.afterTraining (s : State) : State :=
  let s : State := { s with
    hbm := (List.range 24).foldl (fun t k => Tbl.upd {} t k (fun x => { x with state := .ready })) s.hbm
    scratch := [], scratchPoison := [], coh := { s.coh with test := false } }
  if s.boot.memtest then { s with boot := { s.boot with stage := .test } } else s.takeFrit

/-- TRAINING_COMPLETE: the halves of bundles (2n + h) and the channels (32 × stack + channel) that failed training, and the
listed rows (stack, place in its list) that could not be repaired (R423, R424, R641, R667 step 4, R670). Every failure has its record;
with both kinds RESULT names the stitch. -/
def execTrainingComplete (badHalves badChannels : List Nat) (unrepaired : List (Nat × Nat)) (s : State) : Out State :=
  .next (
    if !s.alive || s.boot.stage ≠ .train then s
    else
      let s := (List.range 48).foldl (fun s n => s.trainBundle badHalves n) s
      let down := (List.range 48).filter (fun n => (s.bundle n).state == .down)
      let stitch := down.filter (fun n => decide (40 ≤ n))
      let bad := (List.range 768).filter (fun c => badChannels.contains c)
      if stitch ≠ [] ∨ bad ≠ [] then
        let s := s.bootFail (if stitch = [] then 0x03 else 0x02)
        let s := (List.range 24).foldl (fun s k => s.modStack k (fun x =>
          { x with state := if bad.any (fun c => c / 32 == k) then .failed else .ready })) s
        bad.foldl (fun s c => s.logErr .fe 0x14 7 c) (stitch.foldl (fun s n => s.logErr .fe 0x61 12 n) s)
      else
        let s := down.foldl (fun s n => s.fence 5 (dieOfBundle n) 0x83) s
        let s := if !s.boot.pprKept then s
          else (s.hbm.map (·.1)).foldl (fun s k => s.modStack k (fun x =>
            x.hardRepair ((unrepaired.filter (fun u => u.1 == k)).map (·.2)))) s
        s.afterTraining)

/-- MEMTEST_COMPLETE: rows with a mismatch, by stack and an address in the row, join the repair list, and MEMTEST clears (R667
step 5). -/
def execMemtestComplete (rows : List (Nat × Nat)) (s : State) : Out State :=
  .next (
    if !s.alive || s.boot.stage ≠ .test then s
    else
      let s := rows.foldl (fun s r => s.modStack (r.1 % 24) (fun k => k.addRepair (chOf r.2, pchOf r.2, bankIx r.2, rowOf r.2))) s
      ({ s with boot := { s.boot with memtest := false } } : State).takeFrit)

/-- NODE_START: step 9 of R667 (R698). -/
def execNodeStart (s : State) : Out State :=
  .next (if !s.alive || s.boot.stage ≠ .released || s.boot.nodeState ≠ 0 then s else s.nodeBoot)

/-- HART_START: 1 is written to NCC_HART_START.GO: the held hart named starts at NCC_HART_ADDR (R699). -/
def execHartStart (s : State) : Out State :=
  .next (
    let h := s.ncc.startHart
    if !s.alive || s.boot.stage ≠ .released || s.hartFenced h || (s.hart h).state ≠ .held then s
    else s.startHart h s.ncc.hartAddr 0 0)

/-! ### The management port's own operations (R624, R665, R683) -/

/-- The management port answers (R667 step 1, R717, R718). -/
def State.mgmtUp (s : State) : Bool := s.pins.vinOk && s.pins.sbGood && s.pins.sbRstN

/-- STATUS: BOOT_STATUS is returned. -/
def execStatus (s : State) : Out State :=
  .next (if !s.mgmtUp || s.mgmt.busy then s
         else { s with mgmt := { s.mgmt with
           op := 0x30, result := 0, length := 8
           buf := (leBytes 8 s.bootWords.1).mapIdx (fun i b => (i, b)) |>.foldl (fun t e => Tbl.set 0 t e.1 e.2) s.mgmt.buf } })

/-- WAKE: the package wakes to L0. -/
def execWake (s : State) : Out State := .next (if s.mgmtUp && !s.pins.thermtrip then s.wakeUp else s)

/-- MGMT_WARM_RESET: a warm reset, or a cold restart while an emergency stop is in force. -/
def execMgmtWarmReset (s : State) : Out State :=
  .next (
    if !s.mgmtUp then s
    else if s.pins.thermtrip then s.coldRestart
    else if s.pins.rails || decide (4 ≤ s.lhr.stage) then s.warmReset
    else s)

end Sys2Proof.Machine
end

