-- ==== Sys2Proof/Machine/MbxRows.lean ====
section
/-! DEFINITION. Mailbox and management-port operations, wait slots, and the SPDM responder (R676 to R686, R701 to R704). -/

namespace Sys2Proof.Machine

open Sys2Proof

/-! ### Starting and ending an operation (R684 to R686) -/

/-- The buffer from its start, n bytes. -/
def Mbx.read (m : Mbx) (n : Nat) : List Byte := (List.range n).map (fun i => Tbl.get 0 m.buf i)

/-- The buffer with bytes written from its start. -/
def Mbx.put (m : Mbx) (bs : List Byte) : Mbx :=
  { m with buf := (bs.zip (List.range bs.length)).foldl (fun t e => Tbl.set 0 t e.2 e.1) m.buf }

/-- A flash operation: served one at a time, in arrival order (R685). -/
def isFlashOp (op : Nat) : Bool := op == 0x10 || op == 0x11

/-- GO on a channel: the operation starts on a copy of its input; ignored while BUSY (R684, R685). The copy holds at least the 32
bytes that REPORT and EXTEND take, and what KNOT_ARM takes. -/
def State.mbxGo (s : State) (ch : Chan) : State :=
  let m := s.mbx ch
  if m.busy then s
  else
    let len := min m.len (4 * 2 ^ 20)
    let run : MbxRun := { op := m.op, arg := m.arg, offset := m.offset, len := len, input := m.read (max 32 len) }
    let s := s.modMbx ch (fun m => { m with busy := true, outcome := none, running := some run })
    if isFlashOp m.op then { s with boot := { s.boot with flashQ := s.boot.flashQ ++ [ch] } } else s

/-- The operation of a row that is to be served now: Marver runs, and it is the one its source started (R683, R684). An FE stops units,
node cores and engines, not Marver (R659). -/
def State.opTake (s : State) (src : OpFrom) (op : Nat) : Option (Chan × MbxRun × State) :=
  if !s.pins.rails || !s.boot.secretLocked then none
  else
    let on (ch : Chan) : Option (Chan × MbxRun × State) :=
      let m := s.mbx ch
      match m.running with
      | some r =>
        if r.op ≠ op || m.outcome.isSome then none
        else if !isFlashOp op then some (ch, r, s)
        else if s.boot.flashQ.head? = some ch then some (ch, r, { s with boot := { s.boot with flashQ := s.boot.flashQ.tail } })
        else none
      | none => none
    match src with
    | .ch0 => on .ch0
    | .ch1 => on .ch1
    | .mgmt arg offset payload =>
      if !s.mgmtUp || s.mgmt.busy || (isFlashOp op && !s.boot.flashQ.isEmpty) then none
      else
        let r : MbxRun := { op := op, arg := arg % 256, offset := offset % 2 ^ 32, len := payload.length, input := payload }
        some (.mgmt, r, { s with mgmt := { s.mgmt with op := op, arg := arg % 256, busy := true, outcome := none, running := some r } })

/-- An operation has its result, and its output is in the buffer; BUSY stands until it is published. -/
def State.opEnd (s : State) (ch : Chan) (result : Nat) (out : List Byte) : State :=
  s.modMbx ch (fun m => { (m.put out) with outcome := some (result, out.length) })

/-- The operations of R686 and R701. -/
def knownOps : List Nat := [0x01, 0x02, 0x03, 0x04, 0x10, 0x11, 0x12, 0x13, 0x20, 0x21]

/-- MBX_OP_DONE: the operation's result is published and BUSY clears; an OP that does not exist completes with ARG (R685, R686). -/
def execMbxOpDone (ch : Chan) (s : State) : Out State :=
  .next (
    let m := s.mbx ch
    if !s.pins.rails then s
    else match m.outcome, m.running with
      | some (r, n), _ => s.modMbx ch (fun m => { m with busy := false, result := r, length := n, running := none, outcome := none })
      | none, some r =>
        if knownOps.contains r.op then s
        else s.modMbx ch (fun m => { m with busy := false, result := 0x08, length := 0, running := none })
      | none, none => s)

/-! ### Attestation (R676 to R681) -/

/-- Bytes 0 to 575 of a report (R681). -/
def State.reportBody (s : State) (nonce : List Byte) : List Byte :=
  let b := s.boot
  leBytes 4 0x54535441 ++ leBytes 2 1 ++ leBytes 2 640 ++ (nonce ++ List.replicate 32 0).take 32 ++ leBytes 8 s.frm.count
    ++ leBytes 8 s.hws.uid ++ leBytes 2 s.hws.incarnation ++ leBytes 1 s.fuses.countMarver ++ leBytes 1 s.fuses.countNode
    ++ leBytes 4 (b.log.length + (if b.logOverflow = 0 then 0 else 2 ^ 31)) ++ (List.range 16).flatMap b.measBytes

/-- REPORT: the signed report for the nonce given. -/
def execReport (src : OpFrom) (s : State) : Out State :=
  .next (match s.opTake src 0x01 with
    | none => s
    | some (ch, r, s) =>
      let body := s.reportBody r.input
      s.opEnd ch 0 (body ++ s.aliasSig (sha256N body)))

/-- CERT: the certificate chain. -/
def execCert (src : OpFrom) (s : State) : Out State :=
  .next (match s.opTake src 0x02 with
    | none => s
    | some (ch, _, s) => s.opEnd ch 0 s.certs)

/-- A log entry as bytes (R678). -/
def LogEntry.bytes (e : LogEntry) : List Byte := leBytes 8 (e.index % 256) ++ leBytes 8 e.frame ++ beBytes 32 e.digest

/-- LOG: whole entries from number OFFSET, up to LEN bytes. -/
def execLog (src : OpFrom) (s : State) : Out State :=
  .next (match s.opTake src 0x03 with
    | none => s
    | some (ch, r, s) => s.opEnd ch 0 (((s.boot.log.drop r.offset).take (r.len / 48)).flatMap LogEntry.bytes))

/-- EXTEND: MEAS8 to MEAS15 are extended by the digest given (R676). -/
def execExtend (src : OpFrom) (s : State) : Out State :=
  .next (match s.opTake src 0x04 with
    | none => s
    | some (ch, r, s) =>
      if r.arg < 8 ∨ 15 < r.arg then s.opEnd ch 0x08 []
      else (s.measure r.arg (beNat ((r.input ++ List.replicate 32 0).take 32))).opEnd ch 0 [])

/-! ### Flash, rollback and keys (R671 to R675, R686) -/

/-- FLASH_WRITE: input bytes at OFFSET in the inactive slot of KIND ARG. -/
def execFlashWrite (src : OpFrom) (s : State) : Out State :=
  .next (match s.opTake src 0x10 with
    | none => s
    | some (ch, r, s) =>
      let b := s.inactiveSlot r.arg
      if r.arg < 1 ∨ 3 < r.arg ∨ (s.flash.slot r.arg b).size < r.offset + r.len then s.opEnd ch 0x08 []
      else if !s.flash.answers then s.opEnd ch 0x09 []
      else (s.flashPut r r.len).opEnd ch 0 [])

/-- FLASH_ACTIVATE: the inactive slot of KIND ARG is checked and becomes preferred; for frit, A and B are exchanged. A node image
activated while the cores are held boots at once. -/
def execFlashActivate (src : OpFrom) (s : State) : Out State :=
  .next (match s.opTake src 0x11 with
    | none => s
    | some (ch, r, s) =>
      let b := s.inactiveSlot r.arg
      if r.arg < 1 ∨ 3 < r.arg then s.opEnd ch 0x08 []
      else if !s.flash.answers then s.opEnd ch 0x09 []
      else if r.arg = 3 then
        let code := (s.fritCheck false (s.flash.fritB.read s.flash.fritB.size)).1
        if code = 1 ∨ code = 2 ∨ code = 3 then s.opEnd ch code []
        else ({ s with flash := { s.flash with fritA := s.flash.fritB, fritB := s.flash.fritA } } : State).opEnd ch 0 []
      else match s.slotCheck r.arg (s.flash.slot r.arg b) with
        | (code, none) => s.opEnd ch code []
        | (_, some _) =>
          let f := (s.flash.modSlot r.arg b (fun f => { f with preferred := true })).modSlot r.arg (!b) (fun f => { f with preferred := false })
          let s := ({ s with flash := f } : State).opEnd ch 0 []
          if r.arg = 2 && s.alive && decide (s.boot.stage = .released) && (s.boot.nodeState == 0 || s.boot.nodeState == 2) then s.nodeBoot else s)

/-- Fuses have been blown: the bytes that hold them are others, of which this manual gives no layout (R677). -/
def State.blown (s : State) : State :=
  let (bs, s) := s.freeBytes s.fuses.words.length
  { s with fuses := { s.fuses with words := bs } }

/-- COMMIT_SVN: the fused count of KIND ARG rises to the SVN of the image that runs (R675). -/
def execCommitSvn (src : OpFrom) (s : State) : Out State :=
  .next (match s.opTake src 0x12 with
    | none => s
    | some (ch, r, s) =>
      if r.arg = 1 then
        ({ s.blown with fuses := { s.blown.fuses with countMarver := max s.fuses.countMarver (min 64 s.boot.svnMarver) } } : State).opEnd ch 0 []
      else if r.arg = 2 ∧ s.boot.nodeState = 1 then
        ({ s.blown with fuses := { s.blown.fuses with countNode := max s.fuses.countNode (min 64 s.boot.svnNode) } } : State).opEnd ch 0 []
      else s.opEnd ch 0x08 [])

/-- Owner slot k is programmed and not revoked (R673). -/
def Fuses.ownerLive (f : Fuses) (k : Nat) : Bool := f.ownerSet.getLsbD k && !f.ownerRevoked.getLsbD k

/-- REVOKE: slot ARG's revoke fuse is blown on a message signed by another live owner key; never the last (R673). -/
def execRevoke (src : OpFrom) (s : State) : Out State :=
  .next (match s.opTake src 0x13 with
    | none => s
    | some (ch, r, s) =>
      let others := (List.range 4).filter (fun k => k != r.arg && s.fuses.ownerLive k)
      let n := r.len - 96
      if 3 < r.arg ∨ !s.fuses.ownerLive r.arg ∨ others.isEmpty then s.opEnd ch 0x08 []
      else if r.len < 96 ∨ !sigBlockOk (others.map (fun k => s.fuses.ownerKeys.getD k 0)) (r.input.take n) ((r.input.drop n).take 96) then
        s.opEnd ch 0x01 []
      else
        ({ s.blown with fuses := { s.blown.fuses with ownerRevoked := s.fuses.ownerRevoked ||| BitVec.ofNat 4 (2 ^ r.arg) } } : State).opEnd ch 0 [])

/-! ### Wait slots (R701 to R704) -/

/-- KNOT_ARM: a slot waits on a knot; served on channel 1 only. -/
def execKnotArm (src : OpFrom) (s : State) : Out State :=
  .next (match s.opTake src 0x20 with
    | none => s
    | some (ch, r, s) =>
      let addr := fieldAt r.input 0 8
      let target := fieldAt r.input 8 8
      let away : Bool := match locality s.hws.indexValid s.hws.index addr with | .here => false | _ => true
      if ch ≠ .ch1 || decide (63 < r.arg) || (s.kwait r.arg).state == .armed || bit target 63 || (away && !s.feature 3) || decide (addr % 8 ≠ 0) then
        s.opEnd ch 0x08 []
      else
        (s.modKwait r.arg (fun x => { x with
          state := .armed, addr := addr, target := target, irq := fieldAt r.input 16 2 % 512, due := true })).opEnd ch 0 [])

/-- KNOT_DISARM: an armed slot becomes idle, without an interrupt; a fired one stays (R703). -/
def execKnotDisarm (src : OpFrom) (s : State) : Out State :=
  .next (match s.opTake src 0x21 with
    | none => s
    | some (ch, r, s) =>
      if ch ≠ .ch1 || decide (63 < r.arg) then s.opEnd ch 0x08 []
      else if (s.kwait r.arg).state ≠ .armed then s.opEnd ch 0 []
      else
        let s := (s.dropWatch 2 r.arg).modKwait r.arg (fun x => { x with state := .idle, due := false })
        ({ s with hws := { s.hws with reqs := s.hws.reqs.filter (fun q => q.who != .knot (.slot r.arg)) } } : State).opEnd ch 0 [])

/-! ### SPDM (R682; the standard's message layouts: notes/assumptions/25.md) -/

/-- The SPDM certificate chain: LENGTH, rsvd, the root's digest, and the certificates of R680. -/
def State.spdmChain (s : State) : List Byte :=
  leBytes 2 (36 + s.certs.length) ++ [0, 0] ++ Config.spdmRootHash ++ s.certs

/-- A measurement block: its index, DMTF format, and MEAS(i − 1) with its type (R682). -/
def State.spdmBlock (s : State) (i : Nat) : List Byte :=
  let ty : Nat := if i = 1 then 0 else if i = 2 ∨ i = 6 then 1 else if i = 5 then 3 else 2
  leBytes 1 i ++ [1] ++ leBytes 2 35 ++ leBytes 1 ty ++ leBytes 2 32 ++ s.boot.measBytes (i - 1)

/-- What a response is before its signature, whether it is signed, and the state after the nonce is drawn. -/
def State.spdmReply (s : State) (q : List Byte) : List Byte × Bool × State :=
  let code := fieldAt q 1 1
  let p1 := fieldAt q 2 1
  let p2 := fieldAt q 3 1
  let bad (e : Nat) : List Byte := leBytes 4 (0x7F12 + e * 2 ^ 16)
  if code = 0x84 then ([0x10, 0x04, 0, 0, 0, 1, 0, 0x12], false, s)
  else if fieldAt q 0 1 ≠ 0x12 then (bad 0x41, false, s)
  else match code with
    | 0xE1 =>
      let (a, s) := s.freeBytes 1
      let (b, s) := s.freeBytes 8
      (leBytes 4 0x6112 ++ [0] ++ a ++ [0, 0] ++ leBytes 4 0x16 ++ b, false, s)
    | 0xE3 =>
      (leBytes 4 0x6312 ++ leBytes 2 36 ++ [1, 0] ++ leBytes 4 2 ++ leBytes 4 0x10 ++ leBytes 4 1 ++ List.replicate 16 0, false, s)
    | 0x81 => (leBytes 4 0x01000112 ++ sha256 s.spdmChain, false, s)
    | 0x82 =>
      if p1 % 16 ≠ 0 then (bad 1, false, s)
      else
        let rest := s.spdmChain.drop (fieldAt q 4 2)
        let part := rest.take (fieldAt q 6 2)
        (leBytes 4 0x0212 ++ leBytes 2 part.length ++ leBytes 2 (rest.length - part.length) ++ part, false, s)
    | 0x83 =>
      if p1 % 16 ≠ 0 then (bad 1, false, s)
      else
        let (nonce, s) := s.freeBytes 32
        (leBytes 4 0x01000312 ++ sha256 s.spdmChain ++ nonce
          ++ (if p2 = 0 then [] else Config.spdmSummary p2 ((List.range 16).map (fun i => Tbl.get 0 s.boot.meas i))) ++ [0, 0], true, s)
    | 0xE0 =>
      let signed := bit p1 0
      let head (n : Nat) (rec : List Byte) (k : Nat) : List Byte :=
        leBytes 4 (0x6012 + n * 2 ^ 16) ++ leBytes 1 k ++ leBytes 3 rec.length ++ rec
      if 16 < p2 && decide (p2 ≠ 0xFF) || (signed && decide (fieldAt q 36 1 % 16 ≠ 0)) then (bad 1, false, s)
      else
        let body := if p2 = 0 then head 16 [] 0
          else if p2 = 0xFF then head 0 ((List.range 16).flatMap (fun i => s.spdmBlock (i + 1))) 16
          else head 0 (s.spdmBlock p2) 1
        let (nonce, s) := s.freeBytes 32
        (body ++ nonce ++ [0, 0], signed, s)
    | _ => (bad 7, false, s)

/-- SPDM_REQUEST: a request through the DOE mailbox is answered, and the responder's transcript goes on. -/
def execSpdmRequest (bytes : List Byte) (s : State) : Out State :=
  .next (
    if !s.pins.rails || !s.boot.secretLocked || !s.hpt.linkUp then s
    else
      let (r, signed, t) := s.spdmReply bytes
      let before := if fieldAt bytes 1 1 = 0x84 then [] else s.hpt.spdm
      let r := if signed then r ++ Config.spdmSign t.boot.aliasSeed (before ++ bytes ++ r) else r
      { t with hpt := { t.hpt with doe := r, spdm := before ++ bytes ++ r } })

end Sys2Proof.Machine
end

