-- ==== Sys2Proof/Machine/FlitRows.lean ====
section
/-! DEFINITION. A Hawser port receives a flit (R520 to R522, R536 to R538). -/

namespace Sys2Proof.Machine

open Sys2Proof

/-! ### Packets on the wire (R521, R536) -/

/-- The packet at the start of some bytes: its header, and LEN bytes of payload. -/
def packetOf (bs : List Byte) : Packet :=
  let h := leNat (bs.take 16)
  { ty := bits h 0 8, cls := bits h 8 2, bcast := bit h 10, poison := bit h 11, src := bits h 12 14, dst := bits h 26 14
    tseq := bits h 40 16, tag := bits h 66 12, addr := bits h 78 42, aux := bits h 120 8, payload := (bs.drop 16).take (bits h 56 10) }

/-- The bytes of a packet's place in the stream: header and payload, up to a 4-byte boundary. -/
def packetRoom (bs : List Byte) : Nat := (16 + bits (leNat (bs.take 16)) 56 10 + 3) / 4 * 4

/-- The whole packets of a stream of bytes, and what is left of it. -/
def packetsOf : Nat → List Byte → List Packet × List Byte
  | 0, bs => ([], bs)
  | n + 1, bs =>
    if bs.length < 16 ∨ bs.length < packetRoom bs then ([], bs)
    else
      let r := packetsOf n (bs.drop (packetRoom bs))
      (packetOf bs :: r.1, r.2)

/-- What JOIN and JOIN reply carry (R528; notes/assumptions/22.md). -/
def joinOf (k : Packet) : Join :=
  { index := k.src, uid := fieldAt k.payload 0 8, incarnation := fieldAt k.payload 8 2, nonce := fieldAt k.payload 10 8
    halfTrip := fieldAt k.payload 18 2, reply := bit k.aux 0, senderUp := bit k.aux 1 }

/-! ### Delivery -/

/-- A packet acts, once it is delivered. -/
def State.deliverPacket (s : State) (p : Nat) (k : Packet) : State :=
  match k.ty with
  | 0x20 => s.joinIn p (joinOf k)
  | 0x21 => s.drainIn k.src
  | 0x22 => s.leaveIn k.src
  | 0x23 => s.beaconIn p k.src (fieldAt k.payload 0 8) 
      { period := fieldAt k.payload 8 1, byRole := bit (fieldAt k.payload 9 1) 0 } (fieldAt k.payload 12 4)
  | 0x24 => s.electIn k.src k.aux
  | 0x25 =>
    if !s.alive || decide (fieldAt k.payload 10 1 < 0x10) then s
    else s.bendAborted (k.aux % 8) (fieldAt k.payload 0 2) (fieldAt k.payload 2 4) (fieldAt k.payload 6 4)
  | _ => s.packetIn p k

/-- A packet comes out of a port's stream: link control, a broadcast, E2EACK, or the transport's receiver. -/
def State.flitPacket (s : State) (p : Nat) (k : Packet) : State :=
  if k.ty = 0x30 then s.lackIn p (k.addr % 4096)
  else if k.ty = 0x31 then s.lnakIn p (k.addr % 4096)
  else if k.ty = 0x32 then s.lcredIn p k.aux k.addr
  else if k.ty = 0 then s
  else if k.bcast then (if k.cls = 0 then s.deliverPacket p k else s)
  else if k.ty = 0x26 then (if k.dst = s.hws.index then s.e2eackIn k.src k.aux (k.addr % 65536) else s)
  else State.unicastIn State.deliverPacket s p k

/-- A flit that failed: it and those after it are discarded until the replay, and a NAK names the sequence expected (R522). -/
def State.flitFailed (s : State) (p : Nat) : State :=
  let s := s.modPort p (fun x => { x with crc := wrapAdd 64 x.crc 1, rxNak := true })
  s.portSend p { ty := 0x31, cls := 0, addr := (s.port p).rxSeq }

/-- A flit that is taken: it is to be acknowledged, and its packets are delivered. -/
def State.flitTaken (s : State) (p : Nat) (bytes : List Byte) : State :=
  let x := s.port p
  let r := packetsOf 17 (x.rxPart ++ bytes.take 252)
  let s := s.modPort p (fun x => { x with
    rxSeq := (x.rxSeq + 1) % 4096, rxUnacked := x.rxUnacked + 1, rxSince := if x.rxUnacked = 0 then s.now else x.rxSince
    rxNak := false, rxPart := r.2 })
  r.1.foldl (fun s k => if (s.port p).state = .up then s.flitPacket p k else s) s

/-- FLIT: a port that is UP receives a flit. `corrected`: symbols that the code corrected; `failed`: it overlaps an uncorrectable
codeword; `replay`: the transmitter has gone back to the flit asked for. -/
def execFlit (p : Nat) (bytes : List Byte) (corrected : Nat) (failed replay : Bool) (s : State) : Out State :=
  .next (
    if !s.pins.rails || decide ((s.port p).state ≠ .up) then s
    else
      let s := s.modPort p (fun x => { x with fecCorr := wrapAdd 64 x.fecCorr corrected, fecUnc := wrapAdd 64 x.fecUnc (b2n failed) })
      if (s.port p).rxNak && !replay then s
      else if failed || bytes.length ≠ 256 || fieldAt bytes 252 4 ≠ crc32 (bytes.take 252) then s.flitFailed p
      else s.flitTaken p bytes)

end Sys2Proof.Machine
end

