-- ==== Sys2Proof/Machine/RegRead.lean ====
section
/-! DEFINITION. What each register of the package reads (R26, R55 to R59, R82 to R84, R92, R208, R263, R332, R367, R402, R403,
R433, R434, R437 to R439, R514, R515, R562 to R565, R580, R592, R593, R627, R628, R642, R658, R663, R685, R687, R705 to R710). -/

namespace Sys2Proof.Machine

open Sys2Proof

/-- A 64-bit register from its fields: lowest bit, width, value. -/
def pack (fs : List (Nat × Nat × Nat)) : Nat := fs.foldl (fun a f => a + f.2.2 % 2 ^ f.2.1 * 2 ^ f.1) 0

/-- Word i of some bytes, little-endian. -/
def wordOf (bs : List Byte) (i : Nat) : Nat := fieldAt bs (8 * i) 8

/-! ### FEA, FRM, FRT (R55 to R59, R82 to R84, R92) -/

/-- The FEA block. -/
def State.feaWord (s : State) (o : Nat) : Nat :=
  match o with
  | 0x00 => pack [(0, 32, 0x0A011536), (32, 8, 1)]
  | 0x10 => bits s.feaOffer.toNat 0 64
  | 0x18 => bits s.feaOffer.toNat 64 64
  | 0x20 => bits s.fea.accept.toNat 0 64
  | 0x28 => bits s.fea.accept.toNat 64 64
  | 0x30 => bits s.fea.active.toNat 0 64
  | 0x38 => bits s.fea.active.toNat 64 64
  | 0x40 => pack [(1, 1, b2n s.fea.locked)]
  | _ => 0

/-- The FRM and FRT block. -/
def State.frmWord (s : State) (o : Nat) : Nat :=
  let f := s.frm
  let t := s.frt
  match o with
  | 0x000 => f.count
  | 0x008 => pack [(0, 3, s.period), (3, 2, s.role), (8, 8, s.prio)]
  | 0x010 => pack [(0, 2, f.state.code), (2, 1, b2n f.isMaster), (3, 1, b2n f.mismatch), (4, 1, b2n f.roleConflict)
                  , (5, 1, b2n f.masterValid), (18, 14, f.masterIndex)]
  | 0x018 => pack [(0, 16, ofS 16 f.offset), (16, 16, f.pathDelay), (32, 6, f.port)]
  | 0x020 => pack [(0, 16, f.steps), (16, 16, f.lockLosses), (32, 16, f.masterChanges)]
  | 0x100 => pack [(0, 1, b2n t.active.isSome), (1, 1, b2n t.busy), (2, 1, b2n t.pending.isSome), (3, 1, b2n t.refused)
                  , (8, 8, t.lastResult), (32, 32, (t.active.map (·.seq)).getD 0)]
  | _ =>
    if 0x120 ≤ o ∧ o < 0x140 then wordOf (beBytes 32 ((t.active.map (·.digest)).getD 0)) ((o - 0x120) / 8) else 0

/-! ### LHR (R627, R628) -/

/-- LHR_DOM of a domain. -/
def State.domWord (s : State) (d : Nat) : Nat :=
  let x := s.dom d
  let limit := if 34 ≤ d then min x.limit (64 - 8 * (s.stack (d - 34)).throttle) else x.limit
  pack [(0, 7, limit), (7, 4, x.rampK), (11, 1, b2n x.heavy), (12, 1, b2n x.gated), (13, 2, x.skipping), (16, 8, x.grant / 1000)
       , (24, 8, x.demand / 1000), (32, 16, x.skips)]

/-- LHR_DIE of a die. -/
def State.dieWord (s : State) (n : Nat) : Nat :=
  let x := s.die n
  pack [(0, 8, x.temp), (8, 8, x.tempMax), (16, 1, b2n x.warn), (17, 1, b2n x.hot)]

/-- The LHR block. -/
def State.lhrWord (s : State) (o : Nat) : Nat :=
  let l := s.lhr
  match o with
  | 0x00 => pack [(0, 13, s.cap)]
  | 0x08 => pack [(0, 3, l.stage), (3, 1, b2n l.onlyFloors), (4, 4, l.jobLevel), (8, 4, l.posted), (12, 1, b2n l.memReady)
                 , (16, 10, l.carry / 1000)]
  | 0x10 => pack [(0, 13, l.input / 1000), (16, 13, l.unrationed / 1000), (32, 13, l.granted / 1000)]
  | 0x18 => pack [(0, 3, l.ctrl)]
  | 0x20 => pack [(0, 3, l.lastTarget), (3, 1, b2n l.refused), (4, 2, l.reason)]
  | 0x28 => pack [(0, 16, l.jobfLate), (16, 16, l.overpower), (32, 16, l.dieHot), (48, 16, l.holds)]
  | _ =>
    if 0x1000 ≤ o ∧ o < 0x1000 + 8 * 58 then s.domWord ((o - 0x1000) / 8)
    else if 0x1400 ≤ o ∧ o < 0x1400 + 8 * 10 then s.dieWord ((o - 0x1400) / 8) else 0

/-! ### ERR (R645, R647, R658, R663) -/

/-- A record as bytes (R645). -/
def ErrRec.bytes (r : ErrRec) : List Byte :=
  leBytes 4 r.seq ++ leBytes 1 r.cls.code ++ leBytes 1 r.code ++ leBytes 1 r.srcKind ++ leBytes 1 r.merged ++ leBytes 2 r.srcIndex
    ++ [0, 0] ++ leBytes 4 r.detail ++ leBytes 8 r.frame ++ leBytes 8 r.addr

/-- A word of a bank's records, from the bank's base. -/
def Err.recWord (e : Err) (b o : Nat) : Nat :=
  match (e.bank b).at? (o / 32) with
  | some r => wordOf (ErrRec.bytes r) (o % 32 / 8)
  | none => 0

/-- The ERR block. -/
def State.errWord (s : State) (o : Nat) : Nat :=
  let e := s.err
  match o with
  | 0x00 => pack [(0, 1, b2n e.fatal), (1, 1, b2n e.fUc), (2, 1, b2n e.fDe), (3, 1, b2n e.fCe), (4, 1, b2n e.fEvent)]
  | 0x08 => pack [(0, 16, e.occUc), (16, 16, e.occDe), (32, 16, e.occCe), (48, 16, e.occEvent)]
  | 0x10 => pack [(0, 4, e.irqMask), (4, 9, e.irqNum), (13, 1, e.irqDest)]
  | 0x20 => pack [(0, 3, e.reqKind), (3, 10, e.reqIndex)]
  | 0x28 => pack [(0, 1, b2n s.fenceRunning), (16, 16, e.fenceCount)]
  | 0x30 => pack [(0, 16, e.occFe)]
  | _ =>
    if 0x100 ≤ o ∧ o < 0x180 then
      let k := e.bank ((o - 0x100) / 0x20)
      if o % 0x20 = 0 then pack [(0, 32, k.head)] else if o % 0x20 = 8 then pack [(0, 32, k.tail), (32, 16, k.overflow)] else 0
    else if 0x200 ≤ o ∧ o < 0x2A8 then wordOf e.fmapBytes ((o - 0x200) / 8)
    else if 0x1000 ≤ o ∧ o < 0x1200 then e.recWord 0 (o - 0x1000)
    else if 0x2000 ≤ o ∧ o < 0x2800 then e.recWord 1 (o - 0x2000)
    else if 0x4000 ≤ o ∧ o < 0x6000 then e.recWord 2 (o - 0x4000)
    else if 0x8000 ≤ o ∧ o < 0x10000 then e.recWord 3 (o - 0x8000) else 0

/-! ### BOOT, ATT, MBX (R685, R687) -/

/-- The BOOT and ATT block. -/
def State.bootWord (s : State) (o : Nat) : Nat :=
  let w := s.bootWords
  match o with
  | 0x00 => w.1
  | 0x08 => w.2.1
  | 0x10 => w.2.2
  | 0x18 => pack [(0, 11, s.boot.log.length), (32, 32, s.boot.logOverflow)]
  | _ => if 0x100 ≤ o ∧ o < 0x300 then wordOf (s.boot.measBytes ((o - 0x100) / 0x20)) (o % 0x20 / 8) else 0

/-- A mailbox channel, from the block's start. -/
def Mbx.word (m : Mbx) (o : Nat) : Nat :=
  match o with
  | 0x00 => pack [(0, 8, m.op), (8, 8, m.arg)]
  | 0x08 => pack [(0, 1, b2n m.busy), (8, 8, m.result), (32, 32, m.length)]
  | 0x10 => pack [(0, 32, m.offset), (32, 32, m.len)]
  | _ => if 0x400000 ≤ o ∧ o < 0x800000 then leNat ((List.range 8).map (fun i => Tbl.get 0 m.buf (o - 0x400000 + i))) else 0

/-! ### Queues and launch engines (R437 to R439, R710) -/

/-- A queue descriptor (R437). -/
def Queue.descWord (k : Queue) (o : Nat) : Nat :=
  match o with
  | 0x00 => pack [(0, 1, b2n k.ringLoc), (8, 4, k.size), (12, 52, k.base)]
  | 0x08 => pack [(3, 61, k.tailAddr)]
  | 0x10 => pack [(0, 1, b2n k.cplLoc), (1, 1, b2n k.confirm), (12, 52, k.cplBase)]
  | 0x18 => k.asroot
  | 0x20 => pack [(0, 2, k.kind), (2, 5, k.coil), (7, 4, k.engine), (11, 1, b2n k.halt), (16, 8, k.pollF), (24, 25, k.timeout)
                 , (49, 9, k.irqNum), (58, 1, k.irqDest)]
  | _ => 0

/-- A queue's control and status words (R438). -/
def State.ctrlWord (s : State) (q o : Nat) : Nat :=
  let k := s.queue q
  match o with
  | 0x00 => b2n (k.state == .running || k.state == .halted)
  | 0x08 => pack [(0, 3, k.state.code), (3, 1, b2n k.polling), (4, 4, k.enableErr), (16, 14, s.inFlight q), (32, 32, k.headSeq)]
  | 0x10 => pack [(0, 32, k.lastSeq), (32, 1, b2n k.lastValid)]
  | 0x18 => pack [(0, 32, k.fSeq), (32, 8, k.fCause), (40, 4, k.fKind), (44, 5, k.fObj), (49, 1, b2n k.fObjBelay), (63, 1, b2n k.fValid)]
  | 0x20 => k.fAddr
  | 0x28 => k.fPc
  | 0x30 => pack [(0, 16, k.errors), (16, 16, k.timeouts), (32, 16, k.faults)]
  | _ => 0

/-- ENG_LEr (R710). -/
def State.engWord (s : State) (r : Nat) : Nat :=
  let coil := s.coilOfRegion r
  pack [(0, 6, s.slotsUsed (536 + r)), (6, 14, (s.cmds.filter (fun c => c.engine == 536 + r)).length)
       , (20, 1, b2n (coil.any (fun c => s.leadRegion c == some r))), (21, 1, b2n coil.isSome), (22, 5, coil.getD 0)]

/-! ### DMA (R514, R515) -/

/-- A DMA channel. -/
def DmaCh.word (k : DmaCh) (o : Nat) : Nat :=
  match o with
  | 0x00 => b2n k.disable
  | 0x08 => pack [(0, 8, k.stallLimit), (8, 2, k.paceMode)]
  | 0x10 => pack [(4, 38, k.paceAddr)]
  | 0x18 => pack [(0, 32, k.paceLow), (32, 32, k.paceHigh)]
  | 0x20 => pack [(0, 1, b2n k.act.isSome), (1, 1, b2n k.shd.isSome), (2, 1, b2n k.paused), (3, 1, b2n k.starved), (8, 8, k.event)
                 , (16, 16, k.starveCount)]
  | 0x28 => k.done
  | 0x30 => pack [(0, 42, k.resOffset), (62, 1, b2n k.resMismatch), (63, 1, b2n k.resValid)]
  | 0x38 => pack [(0, 32, k.resSeq), (32, 11, k.resQueue)]
  | _ =>
    if 0x80 ≤ o ∧ o < 0xB0 then wordOf ((k.act.map (·.image)).getD []) ((o - 0x80) / 8)
    else if 0xC0 ≤ o ∧ o < 0xF0 then wordOf ((k.shd.map (·.image)).getD []) ((o - 0xC0) / 8) else 0

/-- A DMA engine's window. -/
def State.dmaWord (s : State) (e o : Nat) : Nat :=
  let k := s.dmaEng e
  match o with
  | 0x00 => pack [(0, 1, b2n k.busErr), (16, 16, k.busErrCount)]
  | 0x08 => k.errAddr
  | _ => if 0x1000 ≤ o ∧ o < 0x2000 then (s.dmaCh e ((o - 0x1000) / 0x100)).word (o % 0x100) else 0

/-! ### HWS, BND (R562 to R565) -/

/-- A port's window. -/
def Port.word (x : Port) (o : Nat) : Nat :=
  match o with
  | 0x00 => pack [(0, 3, x.state.code), (3, 1, b2n x.laserOk), (4, 4, x.cause), (8, 8, x.plane), (16, 14, x.leaf)]
  | 0x08 => pack [(0, 16, x.halfTrip), (16, 16, x.transit)]
  | 0x18 => x.fecCorr
  | 0x20 => x.fecUnc
  | 0x28 => x.crc
  | 0x30 => x.replay
  | 0x38 => x.retrain
  | 0x40 => x.resent
  | _ => 0

/-- The package-wide HWS registers. -/
def State.hwsWord (s : State) (o : Nat) : Nat :=
  let h := s.hws
  match o with
  | 0x00 => pack [(0, 14, h.index), (14, 1, b2n h.indexValid), (15, 1, b2n h.indexConflict), (16, 6, s.upPorts.length)
                 , (22, 15, (h.peers.filter (fun e => e.2.state == .up)).length)]
  | 0x08 => h.uid
  | 0x10 => pack [(0, 16, h.incarnation)]
  | 0x18 => pack [(0, 4, h.evtSize), (4, 1, b2n h.evtEn), (12, 30, h.evtAddr)]
  | 0x20 => pack [(0, 9, h.evtIrqNum), (9, 1, h.evtIrqDest)]
  | 0x28 => pack [(0, 32, h.evtSeq)]
  | _ => 0

/-- A peer entry. -/
def Peer.word (x : Peer) (o : Nat) : Nat :=
  if o = 0 then pack [(0, 48, x.planes), (48, 2, x.state.code)] else pack [(0, 16, x.incarnation)]

/-- A bend engine's window; the job-frequency reduction holds a slot of engine 0 (R560). -/
def State.bendWord (s : State) (b o : Nat) : Nat :=
  let x := s.bend b
  match o with
  | 0x00 => pack [(0, 5, x.cols.length + b2n (b = 0 && s.lhr.jobRunning))]
  | 0x08 => x.ops
  | 0x10 => x.bytes
  | 0x18 => x.aborts
  | _ => 0

/-! ### HPT (R580, R592, R593) -/

/-- The placement record in force for region n, as bytes. -/
def State.regionRec (s : State) (n : Nat) : List Byte := (s.placeRecs.find? (fun r => fieldAt r 0 1 == n)).getD []

/-- The HPT block. -/
def State.hptWord (s : State) (o : Nat) : Nat :=
  let h := s.hpt
  match o with
  | 0x00 => pack [(0, 1, b2n h.linkUp), (1, 3, h.rate), (4, 5, h.width), (9, 1, b2n h.flit), (10, 1, b2n h.attached)
                 , (11, 1, b2n s.perstPackage)]
  | 0x10 => pack [(0, 16, h.detaches)]
  | 0x18 => pack [(0, 16, h.detaches), (16, 16, h.retrains), (32, 32, h.refused)]
  | 0x20 => pack [(0, 32, h.parkHead)]
  | 0x28 => pack [(0, 32, h.parkTail), (32, 16, h.parkOverflow)]
  | 0x30 => pack [(0, 16, h.errRid), (16, 1, b2n h.errWrite), (17, 36, h.errOffset)]
  | _ =>
    if 0x10000 ≤ o ∧ o < 0x12000 then wordOf (s.regionRec ((o - 0x10000) / 0x20)) (o % 0x20 / 8)
    else if 0x40000 ≤ o ∧ o < 0x60000 then wordOf (Tbl.get [] h.park ((o - 0x40000) / 0x20)) (o % 0x20 / 8)
    else if 0x80000 ≤ o ∧ o < 0x82000 then
      let e := Tbl.get {} h.msix ((o - 0x80000) / 16)
      if o % 16 = 0 then e.addr else pack [(0, 32, e.data), (32, 1, b2n e.masked)]
    else if 0x82000 ≤ o ∧ o < 0x82040 then
      (List.range 64).foldl (fun a i => a + b2n (Tbl.get false h.pba (8 * (o - 0x82000) + i)) * 2 ^ i) 0
    else 0

/-! ### LLM, COH (R367, R402, R403) -/

/-- The sets of a slice that are blocked (R352). -/
def Slice.blockedSets (k : Slice) : Nat := (((k.fills.filter (fun f => !f.bypass)).map (fun f => sliceSet f.line)).eraseDups).length

/-- A slice's window. -/
def State.llmWord (s : State) (n o : Nat) : Nat :=
  let k := s.slice n
  let g := n / 2
  match o with
  | 0x00 => pack [(0, 5, s.cacheWays n), (5, 5, s.scrWays g), (10, 8, s.scrOwner g), (18, 1, b2n (s.scrRemote g)), (19, 1, b2n (s.pfEn g))
                 , (20, 4, s.pfDepth g)]
  | 0x08 => pack [(0, 7, k.blockedSets), (8, 7, k.streams.length)]
  | 0x10 => k.cnt.hit
  | 0x18 => k.cnt.miss
  | 0x20 => k.cnt.wb
  | 0x28 => k.cnt.pfIssue
  | 0x30 => k.cnt.pfUsed
  | 0x38 => k.cnt.sthAcc
  | 0x40 => k.cnt.sthDec
  | 0x48 => k.cnt.setWait
  | _ => 0

/-- A slice's directory window. -/
def State.dirWord (s : State) (n o : Nat) : Nat :=
  let k := s.slice n
  match o with
  | 0x00 => pack [(0, 19, k.dir.length), (32, 9, k.busy.length)]
  | 0x08 => k.ccnt.snoop
  | 0x10 => k.ccnt.spillWr
  | 0x18 => k.ccnt.spillRd
  | 0x20 => k.ccnt.forced
  | 0x28 => k.ccnt.stale
  | 0x30 => k.ccnt.upgRdo
  | _ => 0

/-- The COH block. -/
def State.cohWord (s : State) (o : Nat) : Nat :=
  let c := s.coh
  match o with
  | 0x00 => pack [(0, 10, c.cleatNext)]
  | 0x08 => pack [(0, 1, b2n c.spill), (1, 1, b2n c.reclaim), (2, 1, b2n c.test), (8, 4, s.spillShift.getD 0)]
  | 0x10 => pack [(0, 10, c.agent), (16, 16, c.count), (32, 32, c.poisoned)]
  | _ => if 0x10000 ≤ o ∧ o < 0x10000 + 48 * 0x100 then s.dirWord ((o - 0x10000) / 0x100) (o % 0x100) else 0

/-! ### HBM (R433, R434) -/

/-- A channel's window. -/
def Channel.word (c : Channel) (o : Nat) : Nat :=
  let g := c.tg
  match o with
  | 0x000 => c.cntCe
  | 0x008 => c.cntUe
  | 0x010 => c.cntPoison
  | 0x018 => pack [(0, 7, (c.remaps.filter (·.active)).length), (7, 1, b2n c.full)]
  | 0x100 => pack [(0, 2, g.op), (2, 1, b2n g.scatter), (3, 2, g.data), (5, 1, b2n g.invert), (8, 8, g.passes), (16, 14, g.rowLo)
                  , (30, 4, g.rowsLog2)]
  | 0x108 => g.seed
  | 0x118 => pack [(0, 1, b2n g.busy), (1, 1, b2n g.done), (2, 1, b2n g.refused), (8, 8, g.pass)]
  | 0x120 => pack [(0, 32, g.mismatch), (32, 32, g.ce)]
  | 0x128 => pack [(0, 29, g.first), (63, 1, b2n g.firstValid)]
  | _ => 0

/-- A stack's window. -/
def State.hbmWord (s : State) (k o : Nat) : Nat :=
  let x := s.stack k
  match o with
  | 0x00 => pack [(0, 2, x.state.code), (2, 1, b2n x.selfRefresh), (3, 1, b2n x.hold), (4, 3, x.throttle), (7, 1, b2n x.refresh2x)
                 , (8, 8, x.temp), (16, 8, x.tempMax)]
  | 0x08 => pack [(0, 1, b2n s.remapEn), (1, 1, b2n s.pprEn), (8, 4, s.remapThresh), (12, 3, s.scrubCode)]
  | 0x10 => pack [(0, 16, x.repair.length), (16, 16, x.committed), (32, 16, x.failed)]
  | _ => if 0x1000 ≤ o ∧ o < 0x1000 + 32 * 0x200 then (x.channel ((o - 0x1000) / 0x200)).word (o % 0x200) else 0

/-! ### DLK, UNI, NCC (R208, R263, R332, R642, R705) -/

/-- A bundle's window. -/
def Bundle.word (x : Bundle) (o : Nat) : Nat :=
  match o with
  | 0x00 => pack [(0, 3, x.state.code), (8, 6, x.spares0), (16, 6, x.spares1)]
  | 0x08 => pack [(0, 16, x.threshNext)]
  | 0x10 => pack [(0, 32, x.last0), (32, 32, x.last1)]
  | 0x18 => x.cnt0
  | 0x20 => x.cnt1
  | 0x28 => x.steer
  | _ => 0

/-- A unit's window. -/
def State.unitWord (s : State) (u o : Nat) : Nat :=
  let x := s.unit u
  let v := x.vts
  match o with
  | 0x100 => pack [(0, 32, v.invalid), (32, 32, v.nanIn)]
  | 0x108 => pack [(0, 32, v.divZero), (32, 32, v.overflow)]
  | 0x110 => pack [(0, 32, v.flushIn), (32, 32, v.flushOut)]
  | 0x118 => pack [(0, 32, v.underflow), (32, 32, v.saturate)]
  | 0x120 => pack [(0, 32, v.intWrap), (32, 32, v.indexRange)]
  | 0x140 => pack [(0, 3, x.l1Code), (8, 9, (splitHmem x.l1Code - s.inUse u Desc.hmemBytes) / 1024), (24, 7, x.inFlight)]
  | _ => 0

/-- The UNI block. -/
def State.uniWord (s : State) (o : Nat) : Nat :=
  if o < 0x2000000 then s.unitWord (o / 0x8000) (o % 0x8000)
  else match o with
    | 0x3F00000 => pack [(12, 45, s.xlt.vpn)]
    | 0x3F00008 => pack [(1, 2, s.xlt.kind), (16, 16, s.xlt.asid)]
    | 0x3F00010 => pack [(0, 1, b2n s.xlt.busy), (32, 32, s.xlt.done)]
    | _ => 0

/-- The code of a hart's state (R705). -/
def HartState.code : HartState → Nat
  | .held => 0 | .running => 1 | .fenced => 2

/-- The NCC block but for the interrupt files, which read zero as the standard's pages do (R694, R705). -/
def State.nccWord (s : State) (o : Nat) : Nat :=
  let c := s.ncc
  if o < 0x1000 then
    let r := Tbl.get {} c.routes (o / 8)
    pack [(0, 7, r.hart), (7, 3, r.file), (10, 11, r.eiid), (63, 1, b2n r.en)]
  else if 0x3000 ≤ o ∧ o < 0x3000 + 8 * 96 then Tbl.get (2 ^ 64 - 1) c.mtimecmp ((o - 0x3000) / 8)
  else if 0x4000 ≤ o ∧ o < 0x4000 + 8 * 64 then
    let w := s.kwait ((o - 0x4000) / 8)
    pack [(0, 2, w.state.code), (8, 8, w.result), (32, 32, w.frame)]
  else if 0x1020 ≤ o ∧ o < 0x1038 then
    (List.range 32).foldl (fun a i => a + (s.hart (32 * ((o - 0x1020) / 8) + i)).state.code * 4 ^ i) 0
  else match o with
    | 0x1000 => pack [(0, 32, c.lost)]
    | 0x1008 => pack [(0, 7, c.startHart)]
    | 0x1010 => pack [(0, 42, c.hartAddr)]
    | 0x2000 => s.mtime
    | _ => 0

/-! ### All of register space (R24, R660, R668, R706) -/

/-- The word at an aligned offset, whoever reads it but for the mailbox (R684). -/
def State.regWord (s : State) (ch : Chan) (o : Nat) : Nat :=
  if o < 0x10000 then s.feaWord o
  else if o < 0x20000 then s.frmWord (o - 0x10000)
  else if o < 0x40000 then s.lhrWord (o - 0x20000)
  else if o < 0x80000 then s.errWord (o - 0x40000)
  else if o < 0x100000 then s.bootWord (o - 0x80000)
  else if o < 0x120000 then (s.queue ((o - 0x100000) / 0x40)).descWord (o % 0x40)
  else if o < 0x140000 then s.ctrlWord ((o - 0x120000) / 0x40) (o % 0x40)
  else if o = 0x140000 then s.cmds.length % 2 ^ 14
  else if o < 0x200000 then 0
  else if o < 0x200100 then s.engWord ((o - 0x200000) / 8)
  else if o < 0x400000 then 0
  else if o < 0x500000 then s.dmaWord ((o - 0x400000) / 0x10000) (o % 0x10000)
  else if o < 0x800000 then 0
  else if o < 0x830000 then (s.port ((o - 0x800000) / 0x1000)).word (o % 0x1000)
  else if o < 0x8F0000 then 0
  else if o < 0x900000 then s.hwsWord (o - 0x8F0000)
  else if o < 0x940000 then (s.peer ((o - 0x900000) / 16)).word (o % 16)
  else if o < 0xA00000 then 0
  else if o < 0xA08000 then s.bendWord ((o - 0xA00000) / 0x1000) (o % 0x1000)
  else if o = 0xA08000 then pack [(6, 36, s.jobAddr), (63, 1, b2n s.jobEn)]
  else if o < 0xC00000 then 0
  else if o < 0x1000000 then s.hptWord (o - 0xC00000)
  else if o < 0x1300000 then s.llmWord ((o - 0x1000000) / 0x10000) (o % 0x10000)
  else if o < 0x1400000 then 0
  else if o < 0x1800000 then s.cohWord (o - 0x1400000)
  else if o < 0x1980000 then s.hbmWord ((o - 0x1800000) / 0x10000) (o % 0x10000)
  else if o < 0x2000000 then 0
  else if o < 0x2030000 then (s.bundle ((o - 0x2000000) / 0x1000)).word (o % 0x1000)
  else if o < 0x4000000 then 0
  else if o < 0x8000000 then s.uniWord (o - 0x4000000)
  else if o < 0xF000000 then s.nccWord (o - 0x8000000)
  else if o < 0x10000000 then (s.mbx ch).word (o - 0xF000000)
  else 0

/-- The blocks that BAR0 decodes before the host port is released (R668). -/
def inWindow (o : Nat) : Bool := decide (o < 0x20000) || (decide (0x40000 ≤ o) && decide (o < 0x100000)) || decide (0xF000000 ≤ o)

/-- The blocks that read their values after an FE (R660). -/
def afterFatal (o : Nat) : Bool :=
  (decide (o < 0x100000) && !(decide (0x10100 ≤ o) && decide (o < 0x20000))) || (decide (0xC00000 ≤ o) && decide (o < 0x1000000))

/-- The master that reaches a register sees all of register space. -/
def State.released (s : State) (m : Master) : Bool :=
  match m with
  | .host => s.boot.stage == .released
  | .hart _ => true

/-- The agent ID of a master (R645). -/
def masterAgent : Master → Nat
  | .host => 568
  | .hart h => 256 + ccOfHart h

/-- Where a master's errors come from (R645). -/
def masterSource : Master → Nat × Nat
  | .host => (11, 0)
  | .hart h => (4, ccOfHart h)

/-- A register access is of 4 or 8 bytes and aligned (R25). -/
def accessOk (off size : Nat) : Bool := (size == 4 || size == 8) && off % size == 0

/-- The local address of a register (R24). -/
def regAddr (off : Nat) : Nat := 0x3F000000000 + off

/-- An access of another size or alignment is recorded (R25). -/
def State.badAccess (s : State) (m : Master) (off : Nat) : State :=
  s.logErr .event 0x01 (masterSource m).1 (masterSource m).2 (masterAgent m) (regAddr off)

/-- The interrupt files (R694): reads of them by the host are zero, as by the standard (R695). -/
def isImsic (off : Nat) : Bool := decide (0x9000000 ≤ off) && decide (off < 0xF000000)

/-- A register of a queue that is bound to another coil than a hart's: a hart reads zero there and writes nothing (R72, R690,
notes/assumptions/41.md). -/
def State.foreignQueue (s : State) (m : Master) (off : Nat) : Bool :=
  match m with
  | .host => false
  | .hart h =>
    decide (0x100000 ≤ off) && decide (off < 0x140000) &&
      (match s.coilOfCc (ccOfHart h), s.binding ((off - 0x100000) % 0x20000 / 64) with
      | some c, some b => b.coil != c
      | _, _ => false)

/-- A read of a register: zero for a wrong access, which is recorded (R25, R26, R660, R668, R709). -/
def State.regRead (s : State) (m : Master) (off size : Nat) : Nat × State :=
  if !accessOk off size then (0, s.badAccess m off)
  else if !s.released m && !inWindow off then (0, s)
  else if s.err.fatal && !afterFatal off then (2 ^ (8 * size) - 1, s)
  else if s.foreignQueue m off then (0, s)
  else
    let w := s.regWord (chanOf m) (off / 8 * 8) % 2 ^ 64
    (if size = 8 then w else bits w (8 * (off % 8)) 32, s)

end Sys2Proof.Machine
end

