-- ==== Sys2Proof/Machine/RegRows.lean ====
section
/-! DEFINITION. Writes of registers: the field types of R6, with size and alignment checked (R6 to R8, R25, R26, R440, R660, R668,
R695, R709). -/

namespace Sys2Proof.Machine

open Sys2Proof

/-- A write of a register: 64 bits in place, of which [lo, lo + n) are written (R709). -/
structure RegWr where
  v : Nat
  lo : Nat
  n : Nat
  deriving DecidableEq, Repr

/-- A field lies wholly within the bytes written. -/
def RegWr.covers (x : RegWr) (lo n : Nat) : Bool := decide (x.lo ≤ lo) && decide (lo + n ≤ x.lo + x.n)
/-- An RW field after the write. -/
def RegWr.num (x : RegWr) (old lo n : Nat) : Nat := if x.covers lo n then bits x.v lo n else old
/-- An RW bit after the write. -/
def RegWr.flag (x : RegWr) (old : Bool) (lo : Nat) : Bool := if x.covers lo 1 then bit x.v lo else old
/-- A WO or W1C bit is written with 1. -/
def RegWr.act (x : RegWr) (lo : Nat) : Bool := x.covers lo 1 && bit x.v lo
/-- The bits of a field that are written with 1, for a field of WO or W1C bits at bit 0. -/
def RegWr.ones (x : RegWr) (n : Nat) : Nat := (List.range n).foldl (fun a i => a + b2n (x.act i) * 2 ^ i) 0

/-- The state that an event leaves. -/
def after (o : Out State) (s : State) : State := match o with | .next t => t | _ => s

/-! ### Blocks -/

/-- FEA_ACCEPT (RWL) and FEA_CTRL.COMMIT (R87, R92). -/
def State.feaWrite (s : State) (o : Nat) (x : RegWr) : State :=
  match o with
  | 0x20 =>
    if s.fea.locked || !x.covers 0 64 then s
    else { s with fea := { s.fea with accept := BitVec.ofNat 128 (bits s.fea.accept.toNat 64 64 * 2 ^ 64 + x.v) } }
  | 0x28 =>
    if s.fea.locked || !x.covers 0 64 then s
    else { s with fea := { s.fea with accept := BitVec.ofNat 128 (x.v * 2 ^ 64 + bits s.fea.accept.toNat 0 64) } }
  | 0x40 => if x.act 0 then after (execCommit s) s else s
  | _ => s

/-- The ERR block (R653, R663). -/
def State.errWrite (s : State) (o : Nat) (x : RegWr) : State :=
  match o with
  | 0x00 => after (execErrStatusClear (x.ones 5) 0 s) s
  | 0x10 => { s with err := { s.err with irqMask := x.num s.err.irqMask 0 4, irqNum := x.num s.err.irqNum 4 9
                                         irqDest := x.num s.err.irqDest 13 1 } }
  | 0x18 => if x.act 0 then after (execWarmReset s) s else s
  | 0x20 =>
    let t : State := { s with err := { s.err with reqKind := x.num s.err.reqKind 0 3, reqIndex := x.num s.err.reqIndex 3 10 } }
    if x.act 63 then after (execFenceReq t) t else t
  | _ => if 0x100 ≤ o && o < 0x180 && o % 0x20 == 0 && x.covers 0 32 then after (execErrBankHead ((o - 0x100) / 0x20) (bits x.v 0 32) s) s else s

/-- A mailbox channel (R684, R685). -/
def State.mbxWrite (s : State) (ch : Chan) (o : Nat) (x : RegWr) : State :=
  match o with
  | 0x00 =>
    let s := s.modMbx ch (fun m => { m with op := x.num m.op 0 8, arg := x.num m.arg 8 8 })
    if x.act 63 then s.mbxGo ch else s
  | 0x10 => s.modMbx ch (fun m => { m with offset := x.num m.offset 0 32, len := x.num m.len 32 32 })
  | _ =>
    if 0x400000 ≤ o && o < 0x800000 && x.covers 0 64 then
      s.modMbx ch (fun m => { m with buf := ((leBytes 8 x.v).zip (List.range 8)).foldl (fun t e => Tbl.set 0 t (o - 0x400000 + e.2) e.1) m.buf })
    else s

/-- A queue descriptor: ignored unless the queue is DISABLED (R437, R440). -/
def State.descWrite (s : State) (q o : Nat) (x : RegWr) : State :=
  if (s.queue q).state ≠ .disabled then s
  else s.modQueue q (fun k => match o with
    | 0x00 => { k with ringLoc := x.flag k.ringLoc 0, size := x.num k.size 8 4, base := x.num k.base 12 52 }
    | 0x08 => { k with tailAddr := x.num k.tailAddr 3 61 }
    | 0x10 => { k with cplLoc := x.flag k.cplLoc 0, confirm := x.flag k.confirm 1, cplBase := x.num k.cplBase 12 52 }
    | 0x18 => { k with asroot := x.num k.asroot 0 64 }
    | 0x20 => { k with kind := x.num k.kind 0 2, coil := x.num k.coil 2 5, engine := x.num k.engine 7 4, halt := x.flag k.halt 11
                       pollF := x.num k.pollF 16 8, timeout := x.num k.timeout 24 25, irqNum := x.num k.irqNum 49 9
                       irqDest := x.num k.irqDest 58 1 }
    | _ => k)

/-- QDT_CTRL: CANCEL, else RESUME, else the written ENABLE (R726). -/
def State.qctrlWrite (s : State) (q : Nat) (x : RegWr) : State :=
  if !x.covers 0 3 then s
  else if bit x.v 1 then after (execQdtCancel q s) s
  else if bit x.v 2 then after (execQdtResume q s) s
  else if bit x.v 0 then after (execQdtEnable q s) s
  else after (execQdtDisable q s) s

/-- A DMA channel (R506, R508, R515). A change of its pacing is seen at once. -/
def State.dmaRegWrite (s : State) (e c o : Nat) (x : RegWr) : State :=
  let pace (f : DmaCh → DmaCh) : State :=
    ((s.dropWatch 3 (16 * e + c)).modDmaCh e c f).modDmaCh e c (fun k => { k with paceDue := k.act.isSome })
  match o with
  | 0x00 => if !x.covers 0 1 then s else if bit x.v 0 then after (execDmaChDisable e c s) s else after (execDmaChEnable e c s) s
  | 0x08 => pace (fun k => { k with stallLimit := x.num k.stallLimit 0 8, paceMode := x.num k.paceMode 8 2 })
  | 0x10 => pace (fun k => { k with paceAddr := x.num k.paceAddr 4 38 })
  | 0x18 => pace (fun k => { k with paceLow := x.num k.paceLow 0 32, paceHigh := x.num k.paceHigh 32 32 })
  | _ => s

/-- A port's window (R562). -/
def State.portWrite (s : State) (p o : Nat) (x : RegWr) : State :=
  match o with
  | 0x10 => if x.act 0 then after (execRetrain p s) s else s
  | 0x48 => after (execHwsPortCntClear p (x.ones 6) s) s
  | _ => s

/-- The package-wide HWS registers (R563). -/
def State.hwsWrite (s : State) (o : Nat) (x : RegWr) : State :=
  let h := s.hws
  match o with
  | 0x18 => { s with hws := { h with evtSize := x.num h.evtSize 0 4, evtEn := x.flag h.evtEn 4, evtAddr := x.num h.evtAddr 12 30 } }
  | 0x20 => { s with hws := { h with evtIrqNum := x.num h.evtIrqNum 0 9, evtIrqDest := x.num h.evtIrqDest 9 1 } }
  | _ => s

/-- An MSI-X table entry: 4-byte fields, as PCI Express defines them; a pending vector that is unmasked is sent (R580). -/
def State.msixWrite (s : State) (v o : Nat) (x : RegWr) : State :=
  let e := Tbl.get {} s.hpt.msix v
  let e' : MsixEntry :=
    if o = 0 then { e with addr := x.num (bits e.addr 0 32) 0 32 / 4 * 4 + x.num (bits e.addr 32 32) 32 32 * 2 ^ 32 }
    else { e with data := x.num e.data 0 32, masked := x.flag e.masked 32 }
  let s : State := { s with hpt := { s.hpt with msix := Tbl.set {} s.hpt.msix v e' } }
  if e.masked && !e'.masked && Tbl.get false s.hpt.pba v then
    ({ s with hpt := { s.hpt with pba := Tbl.set false s.hpt.pba v false } } : State).raiseMsix v
  else s

/-- The HPT block (R592). -/
def State.hptWrite (s : State) (o : Nat) (x : RegWr) : State :=
  match o with
  | 0x08 => if x.act 0 then after (execAttach s) s else s
  | 0x20 => if x.covers 0 32 then after (execHptParkHead (bits x.v 0 32) s) s else s
  | _ => if 0x80000 ≤ o ∧ o < 0x82000 then s.msixWrite ((o - 0x80000) / 16) (o % 16) x else s

/-- The COH block (R402, R403). -/
def State.cohWrite' (s : State) (o : Nat) (x : RegWr) : State :=
  if o = 0 then { s with coh := { s.coh with cleatNext := x.num s.coh.cleatNext 0 10 } }
  else if 0x10000 ≤ o && o < 0x10000 + 48 * 0x100 && o % 0x100 == 0x38 then after (execCohCntClear ((o - 0x10000) / 0x100) (x.ones 6) s) s
  else s

/-- A stack's window (R433, R434). -/
def State.hbmWrite (s : State) (k o : Nat) (x : RegWr) : State :=
  if o = 0x18 then after (execHbmStkClear k (x.ones 1) s) s
  else if 0x1000 ≤ o ∧ o < 0x1000 + 32 * 0x200 then
    let c := (o - 0x1000) / 0x200
    match o % 0x200 with
    | 0x020 => after (execHbmChCntClear k c (x.ones 3) s) s
    | 0x100 => s.modTg k c (fun g => { g with
        op := x.num g.op 0 2, scatter := x.flag g.scatter 2, data := x.num g.data 3 2, invert := x.flag g.invert 5
        passes := x.num g.passes 8 8, rowLo := x.num g.rowLo 16 14, rowsLog2 := x.num g.rowsLog2 30 4 })
    | 0x108 => s.modTg k c (fun g => { g with seed := x.num g.seed 0 64 })
    | 0x110 =>
      let s := if x.act 0 then after (execTgGo k c s) s else s
      if x.act 1 then after (execTgStop k c s) s else s
    | _ => s
  else s

/-- A bundle's window (R637, R642). -/
def State.dlkWrite (s : State) (n o : Nat) (x : RegWr) : State :=
  match o with
  | 0x08 => s.modBundle n (fun b => { b with threshNext := x.num b.threshNext 0 16 })
  | 0x30 => after (execDlkCntClear n (x.ones 3) s) s
  | _ => s

/-- The UNI block (R208, R332). -/
def State.uniWrite (s : State) (o : Nat) (x : RegWr) : State :=
  if o < 0x2000000 then (if o % 0x8000 = 0x128 then after (execUniVtsClear (o / 0x8000) (x.ones 10) s) s else s)
  else match o with
    | 0x3F00000 => { s with xlt := { s.xlt with vpn := x.num s.xlt.vpn 12 45 } }
    | 0x3F00008 =>
      let t : State := { s with xlt := { s.xlt with kind := x.num s.xlt.kind 1 2, asid := x.num s.xlt.asid 16 16 } }
      if x.act 0 then after (execXltInvGo t) t else t
    | _ => s

/-- The timer interrupt of a hart follows its compare registers (R692). -/
def State.timer (s : State) (h : Nat) : State :=
  s.modHart h (fun k => { k with mtip := decide (Tbl.get (2 ^ 64 - 1) s.ncc.mtimecmp h ≤ s.mtime), stip := decide (k.stimecmp ≤ s.mtime) })

/-- A file of an interrupt page: 0 machine, 1 supervisor, 2 to 5 guests; with its hart (R694). -/
def imsicPage (o : Nat) : Option (Nat × Nat) :=
  if o < 0x1000000 then none
  else if o < 0x1000000 + 96 * 0x1000 then some ((o - 0x1000000) / 0x1000, 0)
  else if 0x2000000 ≤ o ∧ o < 0x2000000 + 96 * 0x8000 then
    let g := (o - 0x2000000) % 0x8000 / 0x1000
    if g < 5 then some ((o - 0x2000000) / 0x8000, g + 1) else none
  else none

/-- A write to an interrupt page, as AIA defines it: seteipnum_le at 0, seteipnum_be at 4; identities 1 to 511 (R694). -/
def State.imsicWrite (s : State) (hart file o : Nat) (x : RegWr) : State :=
  if o ≠ 0 then s
  else
    let le := if x.covers 0 32 then bits x.v 0 32 else 0
    let be := if x.covers 32 32 then beNat (leBytes 4 (bits x.v 32 32)) else 0
    let set (s : State) (i : Nat) : State :=
      if 1 ≤ i ∧ i < 512 then { s with ncc := { s.ncc with imsic := Tbl.set false s.ncc.imsic (imsicKey hart file i) true } } else s
    set (set s le) be

/-- The NCC block (R699, R705). -/
def State.nccWrite (s : State) (m : Master) (o : Nat) (x : RegWr) : State :=
  if o < 0x1000 then
    { s with ncc := { s.ncc with routes := Tbl.upd {} s.ncc.routes (o / 8) (fun r =>
        { hart := x.num r.hart 0 7, file := x.num r.file 7 3, eiid := x.num r.eiid 10 11, en := x.flag r.en 63 }) } }
  else if 0x3000 ≤ o ∧ o < 0x3000 + 8 * 96 then
    let h := (o - 0x3000) / 8
    ({ s with ncc := { s.ncc with mtimecmp := Tbl.upd (2 ^ 64 - 1) s.ncc.mtimecmp h (fun v => x.num v 0 64) } } : State).timer h
  else if o = 0x1008 then
    let t : State := { s with ncc := { s.ncc with startHart := x.num s.ncc.startHart 0 7 } }
    if x.act 63 then after (execHartStart t) t else t
  else if o = 0x1010 then { s with ncc := { s.ncc with hartAddr := x.num s.ncc.hartAddr 0 42 } }
  else match m, imsicPage o with
    | .hart _, some (h, f) => s.imsicWrite h f (o % 0x1000) x
    | _, _ => s

/-! ### All of register space -/

/-- A write at an aligned offset, in the block that holds it; what no block defines is ignored (R26). -/
def State.regPut (s : State) (m : Master) (o : Nat) (x : RegWr) : State :=
  if o < 0x10000 then s.feaWrite o x
  else if o < 0x20000 then (if o = 0x10108 ∧ x.act 0 then after (execReload m s) s else s)
  else if o < 0x40000 then (if o = 0x20018 ∧ x.covers 0 3 then after (execStageRequest (bits x.v 0 3) s) s else s)
  else if o < 0x80000 then s.errWrite (o - 0x40000) x
  else if o < 0x100000 then (if o = 0x80010 then { s with boot := { s.boot with memtest := x.flag s.boot.memtest 0 } } else s)
  else if o < 0x120000 then s.descWrite ((o - 0x100000) / 0x40) (o % 0x40) x
  else if o < 0x140000 then (if o % 0x40 = 0 then s.qctrlWrite ((o - 0x120000) / 0x40) x else s)
  else if o < 0x400000 then s
  else if o < 0x500000 then
    (if 0x1000 ≤ o % 0x10000 && o % 0x10000 < 0x2000 then s.dmaRegWrite ((o - 0x400000) / 0x10000) ((o % 0x10000 - 0x1000) / 0x100) (o % 0x100) x else s)
  else if o < 0x800000 then s
  else if o < 0x830000 then s.portWrite ((o - 0x800000) / 0x1000) (o % 0x1000) x
  else if o < 0x8F0000 then s
  else if o < 0x900000 then s.hwsWrite (o - 0x8F0000) x
  else if o < 0xA00000 then s
  else if o < 0xA08000 then (if o % 0x1000 = 0x20 then after (execBndCntClear ((o - 0xA00000) / 0x1000) (x.ones 3) s) s else s)
  else if o = 0xA08000 then { s with jobAddr := x.num s.jobAddr 6 36, jobEn := x.flag s.jobEn 63 }
  else if o < 0xC00000 then s
  else if o < 0x1000000 then s.hptWrite (o - 0xC00000) x
  else if o < 0x1300000 then (if o % 0x10000 = 0x50 then after (execLlmCntClear ((o - 0x1000000) / 0x10000) (x.ones 8) s) s else s)
  else if o < 0x1400000 then s
  else if o < 0x1800000 then s.cohWrite' (o - 0x1400000) x
  else if o < 0x1980000 then s.hbmWrite ((o - 0x1800000) / 0x10000) (o % 0x10000) x
  else if o < 0x2000000 then s
  else if o < 0x2030000 then s.dlkWrite ((o - 0x2000000) / 0x1000) (o % 0x1000) x
  else if o < 0x4000000 then s
  else if o < 0x8000000 then s.uniWrite (o - 0x4000000) x
  else if o < 0xF000000 then s.nccWrite m (o - 0x8000000) x
  else if o < 0x10000000 then s.mbxWrite (chanOf m) (o - 0xF000000) x
  else s

/-- A write of a register: discarded and recorded when its size or alignment is wrong; ignored outside the limited window before
release, and outside what serves after an FE (R25, R660, R668). -/
def State.regWrite (s : State) (m : Master) (off size v : Nat) : State :=
  if !accessOk off size then s.badAccess m off
  else if (!s.released m && !inWindow off) || (s.err.fatal && !afterFatal off) || s.foreignQueue m off then s
  else
    let lo := 8 * (off % 8)
    s.regPut m (off / 8 * 8) { v := v % 2 ^ (8 * size) * 2 ^ lo, lo := lo, n := 8 * size }

/-- A master can reach registers now: the host while its link is up, a hart while it runs. -/
def State.reaches (s : State) (m : Master) : Bool :=
  s.pins.rails && (match m with
    | .host => s.hpt.linkUp
    | .hart h => decide (h < 96) && (s.hart h).state == .running)

/-- REGISTER_WRITE: a master writes a register of the 256 MiB of register blocks. -/
def execRegisterWrite (m : Master) (off size value : Nat) (s : State) : Out State :=
  .next (if s.reaches m && decide (off < 2 ^ 28) then s.regWrite m off size value else s)

end Sys2Proof.Machine
end

