-- ==== Sys2Proof/Machine/NodeRows.lean ====
section
/-! DEFINITION. Instructions of the node cores, and their timers (R22, R32, R33, R35, R100, R317, R320, R321, R330, R357, R371, R688 to
R697). -/

namespace Sys2Proof.Machine

open Sys2Proof

/-! ### Accesses through the complex cache (R371, R689, R691) -/

/-- A complex cache gains the lines of some pieces, readable or for writing; false while one is not there yet. -/
def State.gain (s : State) (a : Nat) (ls : List Nat) (write : Bool) : Bool × State :=
  let s := ls.foldl (fun s l => s.obtain a l write) s
  let have_ (l : Nat) : Bool :=
    let st := (s.agent a).st l
    if write then st == .M || st == .E else st.readable
  (ls.all have_, s)

/-- The lines of local memory that some pieces lie in. -/
def State.linesOf (s : State) (segs : List (Nat × Nat)) : List Nat := segs.filterMap (fun g => s.lineAt g.1)

/-- A hart uses lines that its complex cache holds: they enter its own caches (R689). -/
def State.coreUse (s : State) (h : Nat) (ls : List Nat) (fetch : Bool) : State :=
  ls.foldl (fun s l => s.modHart h (fun k => k.touch l fetch)) s

/-- Read n bytes through a complex cache for a hart: held, with nothing read, while a line is not there yet. -/
def State.cachedRead (s : State) (a h pa n : Nat) (fetch : Bool) : ReadBack (List Byte) × State :=
  let segs := segments pa n
  match s.gain a (s.linesOf segs) false with
  | (false, s) => (.held, s)
  | (true, s) =>
    let ds := segs.map (fun g => (((s.lineAt g.1).bind (fun l => s.agentData a l)).getD (0, true), g))
    let s := ((s.linesOf segs).foldl (fun s l => s.agentDone a l) s).coreUse h (s.linesOf segs) fetch
    if ds.any (fun d => d.1.2) then (.poisoned, s) else (.ok (ds.flatMap (fun d => lineSlice d.1.1 (d.2.1 % 128) d.2.2)), s)

/-- Write bytes through a complex cache for a hart, whose neighbours lose the lines; false while a line is not there yet, and nothing is
written. A line stays poisoned unless all of it is written (R322). -/
def State.cachedWrite (s : State) (a h pa : Nat) (bs : List Byte) : Bool × State :=
  let segs := segments pa bs.length
  match s.gain a (s.linesOf segs) true with
  | (false, s) => (false, s)
  | (true, s) => (true, segs.foldl (fun s g =>
      match s.lineAt g.1 with
      | none => s
      | some l => match s.agentData a l with
        | none => s
        | some (d, p) =>
          let new := mergeLine d (linePlace (g.1 % 128) ((bs.drop (g.1 - pa)).take g.2)) (byteMask (g.1 % 128) g.2)
          ((s.agentWrite a l new (p && g.2 != 128)).coresLose (ccOfHart h) (some h) l).coreUse h [l] false) s)

/-! ### Translation (R330) -/

/-- Where a hart's virtual address leads: pieces of physical addresses with their lengths, and whether a page is of type NC or IO. -/
inductive NodeXl where
  | at_ (ps : List (Nat × Nat)) (nc : Bool)
  /-- A page fault, or an access fault of a table. -/
  | fault (page : Bool)
  /-- A table's line is not there yet. -/
  | held
  deriving DecidableEq, Repr

/-- The privilege an access has: MPRV lends a load or store that of MPP. -/
def Hart.accessPriv (k : Hart) (fetch : Bool) : Nat := if !fetch && bit k.mstatus 17 then bits k.mstatus 11 2 else k.priv

/-- Levels of satp's mode; 0: bare. -/
def satpLevels (satp : Nat) : Nat := match bits satp 60 4 with | 8 => 3 | 9 => 4 | 10 => 5 | _ => 0

/-- A leaf lets an access pass: Svade faults on A and D. -/
def leafOk (k : Hart) (priv : Nat) (fetch write : Bool) (e : Nat) : Bool :=
  let u := bit e 4
  let read : Bool := bit e 1 || (bit k.mstatus 19 && bit e 3)
  (if priv = 0 then u else !u || (bit k.mstatus 18 && !fetch))
    && (if fetch then bit e 3 else if write then bit e 2 else read) && bit e 6 && (!write || bit e 7)

/-- A PTE with an encoding that the standard reserves: N but on a 64 KiB leaf, PBMT = 3 or without PBMTE, W without R, or A, D, U, N or
PBMT of a pointer. -/
def pteBad (k : Hart) (level e : Nat) : Bool :=
  let leaf : Bool := bit e 1 || bit e 3
  !bit e 0 || (bit e 2 && !bit e 1) || bits e 54 7 != 0 || bits e 61 2 == 3 || (bits e 61 2 != 0 && !bit (k.reg 0x30A) 62)
    || (if leaf then bit e 63 && !(level == 0 && bits e 10 4 == 8) else bit e 63 || bits e 61 2 != 0 || bit e 4 || bit e 6 || bit e 7)

/-- Where an access goes. -/
inductive NodeRoute where
  | memory (a : Nat)
  | register (off : Nat)
  | remote (peer : Nat)
  | fault
  deriving DecidableEq, Repr

/-- The route of an access of n bytes at a physical address; no range may be mixed. Without REMOTE no other package is reached (R22,
R32, R35, R357, R542, R691). -/
def State.nodeRoute (s : State) (h pa n : Nat) : NodeRoute :=
  match locality s.hws.indexValid s.hws.index pa with
  | .noIndex => .fault
  | .remote p => if s.feature 12 && !s.peerGone p then .remote p else .fault
  | .here =>
    let a := paLocal pa
    match s.placeOf a with
    | .regs off => if off + n ≤ 2 ^ 28 then .register off else .fault
    | _ =>
      let coil := (s.coilOfCc (ccOfHart h)).getD 32
      if (segments a n).all (fun g => (s.localCause coil g.1).isNone) then .memory a else .fault

/-- Walk a hart's tables: the level counts down from the root's; a table outside local memory, or poisoned, is an access fault. -/
def State.nodeWalk (s : State) (h va priv : Nat) (fetch write : Bool) : (n : Nat) → (table : Nat) → NodeXl × State
  | 0, _ => (.fault true, s)
  | n + 1, table =>
    let pa := table + 8 * bits va (12 + 9 * n) 9
    match s.nodeRoute h pa 8 with
    | .memory a => (match s.cachedRead (256 + ccOfHart h) h a 8 false with
      | (.ok bs, s') =>
        let e := leNat bs
        let k := s.hart h
        if pteBad k n e then (.fault true, s')
        else if bit e 1 || bit e 3 then
          let size := 2 ^ (12 + 9 * n)
          let napot := n = 0 && bit e 63
          let p := bits e 10 44 * 4096
          if !leafOk k priv fetch write e || (!napot && p % size != 0) then (.fault true, s')
          else if napot then (.at_ [(p / 2 ^ 16 * 2 ^ 16 + va % 2 ^ 16, 0)] (bits e 61 2 != 0), s')
          else (.at_ [(p + va % size, 0)] (bits e 61 2 != 0), s')
        else State.nodeWalk s' h va priv fetch write n (bits e 10 44 * 4096)
      | (.held, s') => (.held, s')
      | (.poisoned, s') => (.fault false, s'.poisonUse 4 (ccOfHart h) a)
      | (.failed, s') => (.fault false, s'))
    | _ => (.fault false, s)

/-- Translate one address. -/
def State.nodeXlate1 (s : State) (h va : Nat) (fetch write : Bool) : NodeXl × State :=
  let k := s.hart h
  let priv := k.accessPriv fetch
  let n := satpLevels k.satp
  if priv = 3 ∨ n = 0 then (if va < 2 ^ 56 then (.at_ [(va, 0)] false, s) else (.fault false, s))
  else
    let top := bits va (11 + 9 * n) (53 - 9 * n)
    if top ≠ 0 ∧ top ≠ 2 ^ (53 - 9 * n) - 1 then (.fault true, s)
    else s.nodeWalk h va priv fetch write n (bits k.satp 0 44 * 4096)

/-- Translate an access of n bytes, page by page. -/
def State.nodeXlate (s : State) (h va n : Nat) (fetch write : Bool) : NodeXl × State :=
  (blockPieces 4096 va n).foldl (fun (acc : NodeXl × State) g =>
    match acc.1 with
    | .at_ ps nc => (match acc.2.nodeXlate1 h (g.1 % 2 ^ 64) fetch write with
      | (.at_ [(pa, _)] nc', s) => (.at_ (ps ++ [(pa, g.2)]) (nc || nc'), s)
      | r => r)
    | _ => acc) (.at_ [] false, s)

/-! ### Instructions -/

/-- A translation that fails ends the instruction with its page fault or access fault; one that is held leaves it for later. False:
the instruction has not completed. -/
def State.nodeStop (s : State) (h : Nat) (o : NodeOp) : NodeXl → Bool × State
  | .fault page => (false, s.hartTrap h (if page then pageFault o else accessFault o) (opVa o))
  | _ => (false, s)

/-- A poisoned line is consumed (R321). -/
def State.nodePoison (s : State) (h a : Nat) (o : NodeOp) : State := (s.poisonUse 4 (ccOfHart h) a).nodeFault h o

/-- A hart waits for another package. -/
def State.nodeAsk (s : State) (h pa peer : Nat) (o : NodeOp) (k : Packet) : State :=
  (s.modHart h (fun x => { x with wait := some (o, pa) })).remoteRequest (.hart h) peer k

/-- A misaligned access that the range does not support takes the standard's address-misaligned exception: 4 load, 6 store or AMO. -/
def State.nodeMisaligned (s : State) (h : Nat) (o : NodeOp) : State := s.hartTrap h (if accessFault o = 7 then 6 else 4) (opVa o)

/-- A remote access of n bytes stays within a line. -/
def oneLine (a n : Nat) : Bool := decide (a % 128 + n ≤ 128)

/-- Read one piece of local memory for a hart; `nc`: a page of type NC or IO passes the caches. -/
def State.nodeRead (s : State) (h a n : Nat) (nc fetch : Bool) : ReadBack (List Byte) × State :=
  if nc then
    match s.bytesRead (256 + ccOfHart h) a n true with
    | (.held, _) => (.held, s)
    | r => r
  else s.cachedRead (256 + ccOfHart h) h a n fetch

/-- Read the pieces of an access, all in local memory. -/
def State.nodeReads (s : State) (h : Nat) (ps : List (Nat × Nat)) (nc fetch : Bool) : ReadBack (List Byte) × State :=
  ps.foldl (fun (acc : ReadBack (List Byte) × State) g => match acc.1 with
    | .ok bs => (match acc.2.nodeRead h (paLocal g.1) g.2 nc fetch with
      | (.ok d, s) => (.ok (bs ++ d), s)
      | r => r)
    | _ => acc) (.ok [], s)

/-- Where the pieces of an access go: one place for all, or a fault; register space and other packages take one piece. -/
def State.nodeRoutes (s : State) (h : Nat) (ps : List (Nat × Nat)) : NodeRoute :=
  match ps with
  | [(pa, n)] => s.nodeRoute h pa n
  | _ => if ps.all (fun g => match s.nodeRoute h g.1 g.2 with | .memory _ => true | _ => false) then .memory 0 else .fault

/-- A load of a hart, 1 to 8 bytes or a vector of them. -/
def State.nodeLoad (s : State) (h : Nat) (rd : NodeReg) (va n : Nat) (sg : Bool) : Bool × State :=
  let o : NodeOp := .load rd va n sg
  match s.nodeXlate h va n false false with
  | (.at_ ps nc, s) =>
    let pa := (ps.head?.map (·.1)).getD 0
    (match s.nodeRoutes h ps with
    | .fault => (false, s.nodeFault h o)
    | .register off =>
      let r := s.regRead (.hart h) off n
      (true, r.2.hartPut h rd (regLoaded rd n sg (leBytes n r.1)))
    | .remote p => (false, if oneLine pa n then s.nodeAsk h pa p o (rdPacket (paLocal pa)) else s.nodeMisaligned h o)
    | .memory _ => match s.nodeReads h ps nc false with
      | (.ok bs, s) => (true, s.hartPut h rd (regLoaded rd n sg bs))
      | (.poisoned, s) => (false, s.nodePoison h (paLocal pa) o)
      | (_, s) => (false, s))
  | (x, s) => s.nodeStop h o x

/-- A fetch of a hart: register space is not fetched from. -/
def State.nodeFetch (s : State) (h va : Nat) : Bool × State :=
  let o : NodeOp := .fetch va
  match s.nodeXlate h va 4 true false with
  | (.at_ ps nc, s) =>
    let pa := (ps.head?.map (·.1)).getD 0
    (match s.nodeRoutes h ps with
    | .fault | .register _ => (false, s.nodeFault h o)
    | .remote p => (false, if oneLine pa 4 then s.nodeAsk h pa p o (rdPacket (paLocal pa)) else s.nodeFault h o)
    | .memory _ => match s.nodeReads h ps nc true with
      | (.poisoned, s) => (false, s.nodePoison h (paLocal pa) o)
      | (_, s) => (false, s))
  | (x, s) => s.nodeStop h o x

/-- A store of a hart; false where a line of it is not there yet. -/
def State.nodeStore (s : State) (h va n v : Nat) : Bool × State :=
  let o : NodeOp := .store va n v
  match s.nodeXlate h va n false true with
  | (.at_ ps nc, s) =>
    let pa := (ps.head?.map (·.1)).getD 0
    let bs := leBytes n v
    let cc := 256 + ccOfHart h
    (match s.nodeRoutes h ps with
    | .fault => (false, s.nodeFault h o)
    | .register off => (true, s.regWrite (.hart h) off n v)
    | .remote p =>
      (false, if oneLine pa n then s.nodeAsk h pa p o (wrPacket (paLocal pa) (linePlace (pa % 128) bs) (byteMask (pa % 128) n))
              else s.nodeMisaligned h o)
    | .memory _ =>
      let (done, _, t) := ps.foldl (fun (acc : Bool × Nat × State) g =>
        let d := (bs.drop acc.2.1).take g.2
        if !acc.1 then acc
        else if nc then
          let r := acc.2.2.bytesWrite cc (paLocal g.1) d true
          if r.2.stuck then (false, acc.2) else (true, acc.2.1 + g.2, r.2)
        else let r := acc.2.2.cachedWrite cc h (paLocal g.1) d; (r.1, acc.2.1 + g.2, r.2)) (true, 0, s)
      (done, t))
  | (x, s) => s.nodeStop h o x

/-- AMO operations by the codes of R377. -/
def amoOp (op : Nat) : Bool := decide (8 ≤ op) && decide (op ≤ 0x10)

/-- An AMO of a hart: at the complex cache, or at the home slice for another package's memory and for a page of type NC or IO. -/
def State.nodeAmo (s : State) (h rd va n op v : Nat) : Bool × State :=
  let o : NodeOp := .amo rd va n op v
  if !amoOp op || !(n == 4 || n == 8) then (false, s.hartTrap h 2)
  else if va % n ≠ 0 then (false, s.nodeMisaligned h o)
  else match s.nodeXlate h va n false true with
    | (.at_ ps nc, s) =>
      let pa := (ps.head?.map (·.1)).getD 0
      (match s.nodeRoute h pa n with
      | .fault | .register _ => (false, s.nodeFault h o)
      | .remote p => (false, s.nodeAsk h pa p o (atPacket (paLocal pa) op n v 0))
      | .memory a =>
        let cc := 256 + ccOfHart h
        if nc then
          match s.atomWord cc a op v 0 true n with
          | (.ok old, s) => (true, s.hartSet h rd (loadValue n true (leBytes n old)))
          | (.poisoned, s) => (false, s.nodePoison h a o)
          | _ => (false, s)
        else
          match s.gain cc (s.linesOf (segments a n)) true, (s.linesOf (segments a n)).head? with
          | (true, s), some l => (match s.agentData cc l with
            | some (d, false) =>
              let r := lineAtomic d (a % 128) n op v 0
              let s := match r.2 with | some d => s.agentWrite cc l d false | none => s
              (true, (((s.coresLose (ccOfHart h) (some h) l).coreUse h [l] false)).hartSet h rd (loadValue n true (leBytes n r.1)))
            | some (_, true) => (false, s.nodePoison h a o)
            | none => (false, s))
          | (_, s), _ => (false, s))
    | (x, s) => s.nodeStop h o x

/-- LR of a hart: its line is reserved. -/
def State.nodeLr (s : State) (h rd va n : Nat) : Bool × State :=
  let o : NodeOp := .lr rd va n
  if !(n == 4 || n == 8) then (false, s.hartTrap h 2)
  else if va % n ≠ 0 then (false, s.nodeMisaligned h o)
  else match s.nodeXlate h va n false false with
    | (.at_ ps _, s) =>
      let pa := (ps.head?.map (·.1)).getD 0
      (match s.nodeRoute h pa n with
      | .memory a => (match s.cachedRead (256 + ccOfHart h) h a n false with
        | (.ok bs, s) => (true, (s.hartSet h rd (loadValue n true bs)).modHart h (fun x => { x with resv := s.lineAt a }))
        | (.poisoned, s) => (false, s.nodePoison h a o)
        | (_, s) => (false, s))
      | _ => (false, s.nodeFault h o))
    | (x, s) => s.nodeStop h o x

/-- SC of a hart: it stores only while its line is still reserved; rd is 0 on success, 1 otherwise. -/
def State.nodeSc (s : State) (h rd va n v : Nat) : Bool × State :=
  let o : NodeOp := .sc rd va n v
  if !(n == 4 || n == 8) then (false, s.hartTrap h 2)
  else if va % n ≠ 0 then (false, s.nodeMisaligned h o)
  else match s.nodeXlate h va n false true with
    | (.at_ ps _, s) =>
      let pa := (ps.head?.map (·.1)).getD 0
      (match s.nodeRoute h pa n with
      | .memory a =>
        let fail (s : State) : Bool × State := (true, (s.hartSet h rd 1).modHart h (fun x => { x with resv := none }))
        let held (s : State) : Bool := (s.hart h).resv.isSome && (s.hart h).resv == s.lineAt a
        if !held s then fail s
        else match s.gain (256 + ccOfHart h) (s.linesOf (segments a n)) true with
          | (false, s) => (false, s)
          | (true, s) =>
            if !held s then fail s
            else (true, ((s.cachedWrite (256 + ccOfHart h) h a (leBytes n v)).2.hartSet h rd 0).modHart h (fun x => { x with resv := none }))
      | _ => (false, s.nodeFault h o))
    | (x, s) => s.nodeStop h o x

/-! ### CSRs and interrupt files (R692 to R694) -/

/-- The interrupt file that a selector register of the standard reaches: machine or supervisor. -/
def imsicFile (csr : Nat) : Nat := if csr = 0x350 ∨ csr = 0x351 ∨ csr = 0x35C then 0 else 1

/-- Identities 1 to 511 that are pending and enabled under the threshold; the lowest is the top one. -/
def State.imsicTop (s : State) (h f : Nat) : Nat :=
  let th := Tbl.get 0 s.ncc.ethr (8 * h + f)
  ((List.range 512).find? (fun i => i != 0 && (th == 0 || decide (i < th)) && Tbl.get false s.ncc.imsic (imsicKey h f i)
    && Tbl.get false s.ncc.eie (imsicKey h f i))).getD 0

/-- A register behind mireg or siselect's sireg: eidelivery, eithreshold, and the even eip and eie registers. -/
def State.imsicReg (s : State) (h f sel : Nat) : Nat :=
  let word (t : Tbl Bool) (i : Nat) : Nat := (List.range 64).foldl (fun a k => a + b2n (Tbl.get false t (imsicKey h f (32 * i + k))) * 2 ^ k) 0
  if sel = 0x70 then Tbl.get 0 s.ncc.edel (8 * h + f)
  else if sel = 0x72 then Tbl.get 0 s.ncc.ethr (8 * h + f)
  else if 0x80 ≤ sel && sel < 0x90 && sel % 2 == 0 then word s.ncc.imsic (sel - 0x80)
  else if 0xC0 ≤ sel && sel < 0xD0 && sel % 2 == 0 then word s.ncc.eie (sel - 0xC0)
  else 0

/-- A write of one. -/
def State.imsicSet (s : State) (h f sel v : Nat) : State :=
  let put (t : Tbl Bool) (i : Nat) : Tbl Bool := (List.range 64).foldl (fun t k =>
    if 32 * i + k = 0 then t else Tbl.set false t (imsicKey h f (32 * i + k)) (bit v k)) t
  let c := s.ncc
  if sel = 0x70 then { s with ncc := { c with edel := Tbl.set 0 c.edel (8 * h + f) (v % 2) } }
  else if sel = 0x72 then { s with ncc := { c with ethr := Tbl.set 0 c.ethr (8 * h + f) (v % 512) } }
  else if 0x80 ≤ sel && sel < 0x90 && sel % 2 == 0 then { s with ncc := { c with imsic := put c.imsic (sel - 0x80) } }
  else if 0xC0 ≤ sel && sel < 0xD0 && sel % 2 == 0 then { s with ncc := { c with eie := put c.eie (sel - 0xC0) } }
  else s

/-- What a CSR reads; none: the manual says nothing of it, and the standard rules (R688). -/
def State.csrValue (s : State) (h csr : Nat) : Option Nat :=
  let x := s.hart h
  let f := imsicFile csr
  match csr with
  | 0xCC0 => some s.frm.count
  | 0xCC1 => some (s.phase % 2 ^ 32)
  | 0xC01 => some s.mtime
  | 0xF14 => some h
  | 0x14D => some x.stimecmp
  | 0x350 => some x.misel
  | 0x150 => some x.sisel
  | 0x351 => some (s.imsicReg h f x.misel)
  | 0x151 => some (s.imsicReg h f x.sisel)
  | 0x35C => let i := s.imsicTop h f; some (i * 65536 + i)
  | 0x15C => let i := s.imsicTop h f; some (i * 65536 + i)
  | _ => x.csrGet csr

/-- A CSR above the hart's privilege, or satp in supervisor mode under TVM. -/
def Hart.csrDenied (k : Hart) (csr : Nat) : Bool :=
  decide (k.priv < bits csr 8 2) || (csr == 0x180 && k.priv == 1 && bit k.mstatus 20)

/-- A CSR read: a free value where the manual says nothing of it and the model keeps nothing. -/
def State.nodeCsrRead (s : State) (h rd csr : Nat) : Bool × State :=
  if (s.hart h).csrDenied csr then (false, s.hartTrap h 2)
  else match s.csrValue h csr with
    | some v => (true, s.hartSet h rd v)
    | none => let (v, s) := s.freeVal 64; (true, s.hartSet h rd v)

/-- A CSR write: one to a read-only CSR raises an illegal-instruction exception (R693); mtopei and stopei claim the top interrupt. -/
def State.nodeCsrWrite (s : State) (h csr v : Nat) : Bool × State :=
  let f := imsicFile csr
  if csr / 1024 % 4 = 3 || (s.hart h).csrDenied csr then (false, s.hartTrap h 2)
  else (true, match csr with
    | 0x14D => (s.modHart h (fun x => { x with stimecmp := v % 2 ^ 64 })).timer h
    | 0x350 => s.modHart h (fun x => { x with misel := v % 2 ^ 64 })
    | 0x150 => s.modHart h (fun x => { x with sisel := v % 2 ^ 64 })
    | 0x351 => s.imsicSet h f (s.hart h).misel v
    | 0x151 => s.imsicSet h f (s.hart h).sisel v
    | 0x35C => { s with ncc := { s.ncc with imsic := Tbl.set false s.ncc.imsic (imsicKey h f (s.imsicTop h f)) false } }
    | 0x15C => { s with ncc := { s.ncc with imsic := Tbl.set false s.ncc.imsic (imsicKey h f (s.imsicTop h f)) false } }
    | _ => s.modHart h (fun x => x.csrPut csr v))

/-- An instruction of the core's own: its new registers, or an illegal instruction. -/
def State.nodeInner (s : State) (h : Nat) (k : Option Hart) : Bool × State :=
  match k with
  | some k => (true, s.modHart h (fun _ => k))
  | none => (false, s.hartTrap h 2)

/-- vsetvl: vl is the requested length up to VLMAX; between VLMAX and twice that, any length the standard allows (a free value). -/
def State.nodeVset (s : State) (h rd avl vtype : Nat) : Bool × State :=
  let m := vlMax vtype
  if bits (s.hart h).mstatus 9 2 = 0 then (false, s.hartTrap h 2)
  else
    let (x, s) := s.freeVal 64
    let vl := if avl ≤ m then avl else if 2 * m ≤ avl then m else (avl + 1) / 2 + x % (m - (avl + 1) / 2 + 1)
    let set (k : Hart) : Hart := if m = 0 then (k.setReg 0xC20 0).setReg 0xC21 (2 ^ 63) else (k.setReg 0xC20 vl).setReg 0xC21 vtype
    (true, (s.modHart h (fun k => ((set k).setReg 0x008 0).setReg 0x300 (setBits k.mstatus 9 2 3))).hartSet h rd (if m = 0 then 0 else vl))

/-- What an instruction does; true: it has completed, and the pc goes on. One whose line is not there yet is executed again. -/
def State.nodeOp (s : State) (h : Nat) (o : NodeOp) : Bool × State :=
  let k := s.hart h
  match o with
  | .load rd va n sg => s.nodeLoad h rd va n sg
  | .fetch va => s.nodeFetch h va
  | .store va n v => s.nodeStore h va n v
  | .amo rd va n op v => s.nodeAmo h rd va n op v
  | .lr rd va n => s.nodeLr h rd va n
  | .sc rd va n v => s.nodeSc h rd va n v
  | .fence => (true, s)
  | .csrRead rd csr => s.nodeCsrRead h rd csr
  | .csrWrite csr v => s.nodeCsrWrite h csr v
  | .fp op fmt rd a b c rm => s.nodeInner h (k.fp op fmt rd a b c rm)
  | .vfp op fmt vd a b c m => s.nodeInner h (k.vfp op fmt vd a b c m)
  | .vset rd avl vtype => s.nodeVset h rd avl vtype
  | .ecall => (false, s.hartTrap h (8 + k.priv))
  | .ebreak => (false, s.hartTrap h 3 k.pc)
  | .mret => (false, if k.priv = 3 then s.modHart h Hart.mret else s.hartTrap h 2)
  | .sret => (false, if k.priv = 0 || (k.priv == 1 && bit k.mstatus 22) then s.hartTrap h 2 else s.modHart h Hart.sret)
  | .other rd v => (true, s.hartPut h rd v)

/-- NODE_CORE_INSTRUCTION: a running hart that waits for nothing executes an instruction, in L0. Where the pc goes when it completes is
the standard's: a free value. -/
def execNodeCoreInstruction (h : Nat) (op : NodeOp) (s : State) : Out State :=
  .next (
    if !s.alive || s.lhr.stage ≠ 0 || decide (96 ≤ h) || (s.hart h).state ≠ .running || (s.hart h).wait.isSome then s
    else
      match (s.modHart h (fun k => { k with trap := none })).nodeOp h op with
      | (true, s) => s.hartNext h
      | (false, s) => s)

/-- MTIMECMP_EXPIRY: the timer interrupts of a hart become pending as its compare registers say. -/
def execMtimecmpExpiry (h : Nat) (s : State) : Out State :=
  .next (if s.alive && decide (h < 96) && (s.hart h).state == .running then s.timer h else s)

end Sys2Proof.Machine
end

