-- ==== Sys2Proof/Machine/UnitAlu.lean ====
section
/-! DEFINITION. Thread and uniform arithmetic: IALU, FALU, UALU, IMM, LANE, PRED and SYS (R234, R237 to R241, R254). -/

namespace Sys2Proof.Machine

open Sys2Proof

/-- Write one value to each acting lane's destination. -/
def Strand.wrLanes (t : Strand) (m : W32) (wide : Bool) (d : Nat) (v : Nat → Nat) : Strand :=
  (lanesOf m).foldl (fun t l => t.wrWX wide l d (v l)) t
/-- Set the acting lanes' bits of a mask from a predicate. -/
def predLanes (old m : W32) (v : Nat → Bool) : W32 :=
  BitVec.ofNat 32 ((List.range 32).foldl (fun a l => a + b2n (if m.getLsbD l then v l else old.getLsbD l) * 2 ^ l) 0)

/-- A thread instruction of format A: its checks, then its effect on the strand with the counts it makes. -/
def threadA (u slot : Nat) (f : FmtA) (k : ShapeA) (extra : Bool) (body : Ctx → W32 → Strand × Ev) (s : State) : State :=
  s.issue u slot (fun c => do
    need extra illegal
    k.check c.l.desc.regs f
    let (t, e) := body c (c.t.acting f.pg f.pn)
    .ok ((s.countVts u e).retire c t.advance))

/-! ### IALU (R234, R240) -/

/-- The shape of an IALU operation: operands, with 64-bit values under MOD bit 48. -/
def ialuShape (f : FmtA) (d b c : Opnd) : ShapeA :=
  let w := bit f.mod 0
  { d := d, a := .w, b := b, c := c, wd := w && d == .w, wa := w, wb := w, wc := w && c == .w, usrc := true, modOk := true,
    rmOk := d == .pd }

/-- The MOD bits an operation uses: bit 48 always, and bit 49 where the sign of a value matters to its result or its count; in any
other operation bit 49 is rsvd (R228, R240; notes/assumptions/13.md). -/
def modFits (op mod : Nat) : Bool :=
  decide (mod < 4) && ([0x01, 0x02, 0x03, 0x04, 0x05, 0x0A, 0x0D, 0x0E, 0x10].contains op || !bit mod 1)

/-- An IALU operation with a register destination. -/
def ialu (op : Nat) (b c : Opnd) (u slot : Nat) (f : FmtA) (s : State) : State :=
  let wide := bit f.mod 0
  let w := if wide then 64 else 32
  threadA u slot f (ialuShape f .w b c) (modFits op f.mod) (fun x m =>
    let r (l : Nat) := ialuOp w (bit f.mod 1) op (x.t.src wide (bit f.usrc 0) l f.a) (x.t.src wide (bit f.usrc 1) l f.b)
      (x.t.src wide (bit f.usrc 2) l f.c)
    (x.t.wrLanes m wide f.d (fun l => (r l).1), Ev.sum ((lanesOf m).map (fun l => (r l).2)))) s

/-- MOV. -/
def execMov (u slot : Nat) (f : FmtA) (s : State) : Out State := .next (ialu 0x00 .unused .unused u slot f s)
/-- ADD. -/
def execAdd (u slot : Nat) (f : FmtA) (s : State) : Out State := .next (ialu 0x01 .w .unused u slot f s)
/-- SUB. -/
def execSub (u slot : Nat) (f : FmtA) (s : State) : Out State := .next (ialu 0x02 .w .unused u slot f s)
/-- MUL: the low half. -/
def execMul (u slot : Nat) (f : FmtA) (s : State) : Out State := .next (ialu 0x03 .w .unused u slot f s)
/-- MULHI: the high half. -/
def execMulhi (u slot : Nat) (f : FmtA) (s : State) : Out State := .next (ialu 0x04 .w .unused u slot f s)
/-- MAD: A × B + C, the low half. -/
def execMad (u slot : Nat) (f : FmtA) (s : State) : Out State := .next (ialu 0x05 .w .w u slot f s)
/-- AND. -/
def execAnd (u slot : Nat) (f : FmtA) (s : State) : Out State := .next (ialu 0x06 .w .unused u slot f s)
/-- OR. -/
def execOr (u slot : Nat) (f : FmtA) (s : State) : Out State := .next (ialu 0x07 .w .unused u slot f s)
/-- XOR. -/
def execXor (u slot : Nat) (f : FmtA) (s : State) : Out State := .next (ialu 0x08 .w .unused u slot f s)
/-- NOT. -/
def execNot (u slot : Nat) (f : FmtA) (s : State) : Out State := .next (ialu 0x09 .unused .unused u slot f s)
/-- SHL. -/
def execShl (u slot : Nat) (f : FmtA) (s : State) : Out State := .next (ialu 0x0A .w .unused u slot f s)
/-- SHR: zero filled. -/
def execShr (u slot : Nat) (f : FmtA) (s : State) : Out State := .next (ialu 0x0B .w .unused u slot f s)
/-- SHRA: sign filled. -/
def execShra (u slot : Nat) (f : FmtA) (s : State) : Out State := .next (ialu 0x0C .w .unused u slot f s)
/-- MIN. -/
def execMin (u slot : Nat) (f : FmtA) (s : State) : Out State := .next (ialu 0x0D .w .unused u slot f s)
/-- MAX. -/
def execMax (u slot : Nat) (f : FmtA) (s : State) : Out State := .next (ialu 0x0E .w .unused u slot f s)
/-- POPC. -/
def execPopc (u slot : Nat) (f : FmtA) (s : State) : Out State := .next (ialu 0x11 .unused .unused u slot f s)
/-- CLZ. -/
def execClz (u slot : Nat) (f : FmtA) (s : State) : Out State := .next (ialu 0x12 .unused .unused u slot f s)

/-- SEL: A in lanes where p[C] is set, else B. -/
def execSel (u slot : Nat) (f : FmtA) (s : State) : Out State :=
  let wide := bit f.mod 0
  .next (threadA u slot f (ialuShape f .w .w .p) (modFits 0x0F f.mod) (fun x m =>
    (x.t.wrLanes m wide f.d (fun l =>
      if (x.t.rdP f.c).getLsbD l then x.t.src wide (bit f.usrc 0) l f.a else x.t.src wide (bit f.usrc 1) l f.b), {})) s)

/-- SETP: p[D] ← compare A, B in the acting lanes (R187). -/
def execSetp (u slot : Nat) (f : FmtA) (s : State) : Out State :=
  let wide := bit f.mod 0
  let w := if wide then 64 else 32
  .next (threadA u slot f (ialuShape f .pd .w .unused) (modFits 0x10 f.mod && decide (f.rm < 8)) (fun x m =>
    (x.t.wrP f.d (predLanes (x.t.rdP f.d) m (fun l =>
      intCond w (bit f.mod 1) f.rm (x.t.src wide (bit f.usrc 0) l f.a) (x.t.src wide (bit f.usrc 1) l f.b))), {})) s)

/-! ### FALU (R234, R239) -/

/-- An operation that does not round: its RM field is unused (R183, R185, R228). -/
def noRound (ty op : Nat) : Bool := ty == 4 || [0x00, 0x05, 0x06, 0x07, 0x08].contains op

/-- The shape of a FALU operation on a type. -/
def faluShape (ty op : Nat) (d b c : Opnd) : ShapeA :=
  let w := ty == 0
  { d := d, a := .w, b := b, c := c, wd := w && d == .w, wa := w, wb := w, wc := w, usrc := true, modOk := true,
    rmOk := !noRound ty op }

/-- Low bits that a type uses. -/
def tyBits (ty : Nat) : Nat := 8 * tyBytes ty

/-- A FALU operation on scalars: a 16-bit result writes bits 31 to 16 as zero (R239). -/
def falu (op : Nat) (b c : Opnd) (u slot : Nat) (f : FmtA) (s : State) : State :=
  let ty := f.mod
  let wide := ty == 0
  let src (x : Ctx) (us : Bool) (l r : Nat) := x.t.src wide us l r % 2 ^ tyBits ty
  threadA u slot f (faluShape ty op .w b c) (decide (ty < 5) && tyAccepts ty op && decide (f.rm < 5)) (fun x m =>
    let r (l : Nat) :=
      let a := src x (bit f.usrc 0) l f.a
      tyOp ty op f.rm a (if op = 0 then a else src x (bit f.usrc 1) l f.b) (src x (bit f.usrc 2) l f.c)
    (x.t.wrLanes m wide f.d (fun l => (r l).1), Ev.sum ((lanesOf m).map (fun l => (r l).2)))) s

/-- FMOV. -/
def execFmov (u slot : Nat) (f : FmtA) (s : State) : Out State := .next (falu 0x00 .unused .unused u slot f s)
/-- FADD. -/
def execFadd (u slot : Nat) (f : FmtA) (s : State) : Out State := .next (falu 0x01 .w .unused u slot f s)
/-- FSUB. -/
def execFsub (u slot : Nat) (f : FmtA) (s : State) : Out State := .next (falu 0x02 .w .unused u slot f s)
/-- FMUL. -/
def execFmul (u slot : Nat) (f : FmtA) (s : State) : Out State := .next (falu 0x03 .w .unused u slot f s)
/-- FFMA: A × B + C with one rounding. -/
def execFfma (u slot : Nat) (f : FmtA) (s : State) : Out State := .next (falu 0x04 .w .w u slot f s)
/-- FMIN. -/
def execFmin (u slot : Nat) (f : FmtA) (s : State) : Out State := .next (falu 0x05 .w .unused u slot f s)
/-- FMAX. -/
def execFmax (u slot : Nat) (f : FmtA) (s : State) : Out State := .next (falu 0x06 .w .unused u slot f s)
/-- FABS. -/
def execFabs (u slot : Nat) (f : FmtA) (s : State) : Out State := .next (falu 0x07 .unused .unused u slot f s)
/-- FNEG. -/
def execFneg (u slot : Nat) (f : FmtA) (s : State) : Out State := .next (falu 0x08 .unused .unused u slot f s)
/-- FDIV. -/
def execFdiv (u slot : Nat) (f : FmtA) (s : State) : Out State := .next (falu 0x10 .w .unused u slot f s)
/-- FSQRT. -/
def execFsqrt (u slot : Nat) (f : FmtA) (s : State) : Out State := .next (falu 0x11 .unused .unused u slot f s)
/-- FRCP. -/
def execFrcp (u slot : Nat) (f : FmtA) (s : State) : Out State := .next (falu 0x12 .unused .unused u slot f s)
/-- FRSQRT. -/
def execFrsqrt (u slot : Nat) (f : FmtA) (s : State) : Out State := .next (falu 0x13 .unused .unused u slot f s)
/-- FEXP2. -/
def execFexp2 (u slot : Nat) (f : FmtA) (s : State) : Out State := .next (falu 0x14 .unused .unused u slot f s)
/-- FEXP. -/
def execFexp (u slot : Nat) (f : FmtA) (s : State) : Out State := .next (falu 0x15 .unused .unused u slot f s)
/-- FLOG2. -/
def execFlog2 (u slot : Nat) (f : FmtA) (s : State) : Out State := .next (falu 0x16 .unused .unused u slot f s)
/-- FLOG. -/
def execFlog (u slot : Nat) (f : FmtA) (s : State) : Out State := .next (falu 0x17 .unused .unused u slot f s)
/-- FSINPI. -/
def execFsinpi (u slot : Nat) (f : FmtA) (s : State) : Out State := .next (falu 0x18 .unused .unused u slot f s)
/-- FCOSPI. -/
def execFcospi (u slot : Nat) (f : FmtA) (s : State) : Out State := .next (falu 0x19 .unused .unused u slot f s)
/-- FTANH. -/
def execFtanh (u slot : Nat) (f : FmtA) (s : State) : Out State := .next (falu 0x1A .unused .unused u slot f s)

/-- FSETP: p[D] ← compare A, B in the acting lanes (R187, R239). -/
def execFsetp (u slot : Nat) (f : FmtA) (s : State) : Out State :=
  let ty := f.mod
  let wide := ty == 0
  let k : ShapeA := { d := .pd, a := .w, b := .w, wa := wide, wb := wide, usrc := true, modOk := true, rmOk := true }
  .next (threadA u slot f k (decide (ty < 5) && decide (f.rm < 8)) (fun x m =>
    let r (l : Nat) := tyCmp ty f.rm (x.t.src wide (bit f.usrc 0) l f.a % 2 ^ tyBits ty)
      (x.t.src wide (bit f.usrc 1) l f.b % 2 ^ tyBits ty)
    (x.t.wrP f.d (predLanes (x.t.rdP f.d) m (fun l => (r l).1)), Ev.sum ((lanesOf m).map (fun l => (r l).2)))) s)

/-- The scalar format of a type code of R171. -/
def tyNum (ty : Nat) : NumFmt := if ty = 4 then .int 32 else .fp (tyFmt ty)

/-- FCVT: MOD[2:0] the destination, C[2:0] the source type (R121, R239). -/
def execFcvt (u slot : Nat) (f : FmtA) (s : State) : Out State :=
  let dst := f.mod
  let from_ := f.c
  let k : ShapeA := { d := .w, a := .w, c := .code, wd := dst == 0, wa := from_ == 0, usrc := true, modOk := true, rmOk := true,
                      satOk := true }
  .next (threadA u slot f k (decide (dst < 5) && decide (from_ < 5) && decide (f.rm < 5)) (fun x m =>
    let r (l : Nat) := convert (tyNum from_) (tyNum dst) f.rm f.sat (x.t.src (from_ == 0) (bit f.usrc 0) l f.a % 2 ^ tyBits from_)
    (x.t.wrLanes m (dst == 0) f.d (fun l => (r l).1), Ev.sum ((lanesOf m).map (fun l => (r l).2)))) s)

/-! ### UALU: on u registers, always 64-bit (R234) -/

/-- A uniform instruction of format A. Those of LANE with a uniform result are among them, so that a guard makes them illegal
(R227, R235; notes/assumptions/13.md). -/
def uniformA (u slot : Nat) (f : FmtA) (k : ShapeA) (extra : Bool) (body : Ctx → Strand) (s : State) : State :=
  s.issue u slot (fun c => do
    need extra illegal
    ({ k with uniform := true } : ShapeA).check c.l.desc.regs f
    .ok (s.retire c (body c).advance))

/-- A UALU operation; it counts nothing (R240). -/
def ualu (op : Nat) (b c : Opnd) (u slot : Nat) (f : FmtA) (s : State) : State :=
  uniformA u slot f { d := .u, a := .u, b := b, c := c, modOk := true } (modFits op f.mod) (fun x =>
    x.t.wrU f.d (ialuOp 64 (bit f.mod 1) op (x.t.rdU f.a) (x.t.rdU f.b) (x.t.rdU f.c)).1) s

/-- UMOV. -/
def execUmov (u slot : Nat) (f : FmtA) (s : State) : Out State := .next (ualu 0x00 .unused .unused u slot f s)
/-- UADD. -/
def execUadd (u slot : Nat) (f : FmtA) (s : State) : Out State := .next (ualu 0x01 .u .unused u slot f s)
/-- USUB. -/
def execUsub (u slot : Nat) (f : FmtA) (s : State) : Out State := .next (ualu 0x02 .u .unused u slot f s)
/-- UMUL. -/
def execUmul (u slot : Nat) (f : FmtA) (s : State) : Out State := .next (ualu 0x03 .u .unused u slot f s)
/-- UMULHI. -/
def execUmulhi (u slot : Nat) (f : FmtA) (s : State) : Out State := .next (ualu 0x04 .u .unused u slot f s)
/-- UMAD. -/
def execUmad (u slot : Nat) (f : FmtA) (s : State) : Out State := .next (ualu 0x05 .u .u u slot f s)
/-- UAND. -/
def execUand (u slot : Nat) (f : FmtA) (s : State) : Out State := .next (ualu 0x06 .u .unused u slot f s)
/-- UOR. -/
def execUor (u slot : Nat) (f : FmtA) (s : State) : Out State := .next (ualu 0x07 .u .unused u slot f s)
/-- UXOR. -/
def execUxor (u slot : Nat) (f : FmtA) (s : State) : Out State := .next (ualu 0x08 .u .unused u slot f s)
/-- UNOT. -/
def execUnot (u slot : Nat) (f : FmtA) (s : State) : Out State := .next (ualu 0x09 .unused .unused u slot f s)
/-- USHL. -/
def execUshl (u slot : Nat) (f : FmtA) (s : State) : Out State := .next (ualu 0x0A .u .unused u slot f s)
/-- USHR. -/
def execUshr (u slot : Nat) (f : FmtA) (s : State) : Out State := .next (ualu 0x0B .u .unused u slot f s)
/-- USHRA. -/
def execUshra (u slot : Nat) (f : FmtA) (s : State) : Out State := .next (ualu 0x0C .u .unused u slot f s)
/-- UMIN. -/
def execUmin (u slot : Nat) (f : FmtA) (s : State) : Out State := .next (ualu 0x0D .u .unused u slot f s)
/-- UMAX. -/
def execUmax (u slot : Nat) (f : FmtA) (s : State) : Out State := .next (ualu 0x0E .u .unused u slot f s)
/-- UPOPC. -/
def execUpopc (u slot : Nat) (f : FmtA) (s : State) : Out State := .next (ualu 0x11 .unused .unused u slot f s)
/-- UCLZ. -/
def execUclz (u slot : Nat) (f : FmtA) (s : State) : Out State := .next (ualu 0x12 .unused .unused u slot f s)
/-- USEL: A when any bit of p[C] is set, else B. -/
def execUsel (u slot : Nat) (f : FmtA) (s : State) : Out State :=
  .next (uniformA u slot f { d := .u, a := .u, b := .u, c := .p, modOk := true } (modFits 0x0F f.mod) (fun x =>
    x.t.wrU f.d (if x.t.rdP f.c ≠ 0 then x.t.rdU f.a else x.t.rdU f.b)) s)
/-- USET: u[D] ← 1 when the condition holds, else 0. -/
def execUset (u slot : Nat) (f : FmtA) (s : State) : Out State :=
  .next (uniformA u slot f { d := .u, a := .u, b := .u, modOk := true, rmOk := true } (modFits 0x10 f.mod && decide (f.rm < 8))
    (fun x => x.t.wrU f.d (b2n (intCond 64 (bit f.mod 1) f.rm (x.t.rdU f.a) (x.t.rdU f.b)))) s)

/-! ### IMM (R229, R234, R240) -/

/-- MOVI. Format I calls no field rsvd: an A that the instruction does not use is ignored (notes/assumptions/13.md). -/
def execMovi (u slot : Nat) (f : FmtI) (s : State) : Out State :=
  .next (s.issue u slot (fun c => do
    need (headOk false f.pg f.pn) illegal
    need (decide (f.d < c.l.desc.regs)) resource
    .ok (s.retire c (c.t.wrLanes (c.t.acting f.pg f.pn) false f.d (fun _ => f.imm.toNat)).advance)))
/-- ADDI: w[D] ← w[A] + IMM, counting INT_WRAP (R240). -/
def execAddi (u slot : Nat) (f : FmtI) (s : State) : Out State :=
  .next (s.issue u slot (fun c => do
    need (headOk false f.pg f.pn) illegal
    need (decide (f.d < c.l.desc.regs) && decide (f.a < c.l.desc.regs)) resource
    let m := c.t.acting f.pg f.pn
    let r (l : Nat) := ialuOp 32 false 0x01 (c.t.rdW l f.a) f.imm.toNat 0
    .ok ((s.countVts u (Ev.sum ((lanesOf m).map (fun l => (r l).2)))).retire c
      (c.t.wrLanes m false f.d (fun l => (r l).1)).advance)))

/-- A uniform instruction of IMM. -/
def uimm (usesA : Bool) (u slot : Nat) (f : FmtI) (v : Strand → Nat) (s : State) : State :=
  s.issue u slot (fun c => do
    need (headOk true f.pg f.pn && decide (f.d < 64) && (!usesA || decide (f.a < 64))) illegal
    .ok (s.retire c (c.t.wrU f.d (v c.t)).advance))

/-- UMOVI: the sign-extended immediate. -/
def execUmovi (u slot : Nat) (f : FmtI) (s : State) : Out State :=
  .next (uimm false u slot f (fun _ => ofS 64 f.imm.toInt) s)
/-- UADDI. -/
def execUaddi (u slot : Nat) (f : FmtI) (s : State) : Out State :=
  .next (uimm true u slot f (fun t => ofS 64 ((t.rdU f.a : Int) + f.imm.toInt)) s)
/-- UMOVHI: bits 63 to 32 of u[D]. -/
def execUmovhi (u slot : Nat) (f : FmtI) (s : State) : Out State :=
  .next (uimm false u slot f (fun t => t.rdU f.d % 2 ^ 32 + 2 ^ 32 * f.imm.toNat) s)

/-! ### LANE (R234, R241) -/

/-- LSHFL: the register of another lane, active or not; an index of 32 or more gives zero and counts INDEX_RANGE. -/
def execLshfl (u slot : Nat) (f : FmtA) (s : State) : Out State :=
  .next (threadA u slot f { d := .w, a := .w, b := .w, usrc := true } true (fun x m =>
    let ix (l : Nat) := x.t.src false (bit f.usrc 1) l f.b
    let v (l : Nat) := if ix l < 32 then x.t.src false (bit f.usrc 0) (ix l) f.a else 0
    (x.t.wrLanes m false f.d v, { indexRange := ((lanesOf m).filter (fun l => decide (32 ≤ ix l))).length })) s)
/-- LBAL: the active lanes with p[A] set. -/
def execLbal (u slot : Nat) (f : FmtA) (s : State) : Out State :=
  .next (uniformA u slot f { d := .u, a := .p } true (fun x => x.t.wrU f.d (x.t.active &&& x.t.rdP f.a).toNat) s)
/-- LFIRST: w[A] of the lowest active lane, zero-extended. -/
def execLfirst (u slot : Nat) (f : FmtA) (s : State) : Out State :=
  .next (uniformA u slot f { d := .u, a := .w, usrc := true } true (fun x =>
    x.t.wrU f.d (match (lanesOf x.t.active).head? with | some l => x.t.src false (bit f.usrc 0) l f.a | none => 0)) s)

/-- A reduction over the 32 lanes: the value written to u[D] (R241). -/
def lredValue (op : Nat) (wide uns : Bool) (xs : List Nat) : Nat :=
  let w := if wide then 64 else 32
  let rd (x : Nat) : Int := if uns then ((x % 2 ^ w : Nat) : Int) else toS w x
  let r : Int := match op, xs with
    | 0, _ => (xs.map (toS w)).foldl (· + ·) 0
    | _, [] => 0
    | 1, y :: t => (t.map rd).foldl min (rd y)
    | _, y :: t => (t.map rd).foldl max (rd y)
  if wide then ofS 64 r
  else if op ≠ 0 ∧ uns then ofS 32 r
  else ofS 64 (toS 32 (ofS 32 r))

/-- LRED: group-wide (R248); MOD bit 49 belongs to MIN and MAX (R241). -/
def lred (op : Nat) (u slot : Nat) (f : FmtA) (s : State) : State :=
  let wide := bit f.mod 0
  s.issue u slot (fun c => do
    need (decide (f.mod < 4) && (op != 0 || !bit f.mod 1)) illegal
    ({ d := .u, a := .w, wa := wide, uniform := true, usrc := true, modOk := true } : ShapeA).check c.l.desc.regs f
    collCheck c.t
    let v := lredValue op wide (bit f.mod 1) ((List.range 32).map (fun l => c.t.src wide (bit f.usrc 0) l f.a))
    .ok (s.retire c (c.t.wrU f.d v).advance))

/-- LRED.ADD. -/
def execLredAdd (u slot : Nat) (f : FmtA) (s : State) : Out State := .next (lred 0 u slot f s)
/-- LRED.MIN. -/
def execLredMin (u slot : Nat) (f : FmtA) (s : State) : Out State := .next (lred 1 u slot f s)
/-- LRED.MAX. -/
def execLredMax (u slot : Nat) (f : FmtA) (s : State) : Out State := .next (lred 2 u slot f s)

/-! ### PRED (R234) -/

/-- A two-mask operation. -/
def pred2 (op : W32 → W32 → W32) (u slot : Nat) (f : FmtA) (s : State) : State :=
  uniformA u slot f { d := .pd, a := .p, b := .p } true (fun x => x.t.wrP f.d (op (x.t.rdP f.a) (x.t.rdP f.b))) s

/-- PAND. -/
def execPand (u slot : Nat) (f : FmtA) (s : State) : Out State := .next (pred2 (fun a b => a &&& b) u slot f s)
/-- POR. -/
def execPor (u slot : Nat) (f : FmtA) (s : State) : Out State := .next (pred2 (fun a b => a ||| b) u slot f s)
/-- PXOR. -/
def execPxor (u slot : Nat) (f : FmtA) (s : State) : Out State := .next (pred2 (fun a b => a ^^^ b) u slot f s)
/-- PANDN: A and not B (notes/assumptions/13.md). -/
def execPandn (u slot : Nat) (f : FmtA) (s : State) : Out State := .next (pred2 (fun a b => a &&& ~~~b) u slot f s)
/-- PNOT. -/
def execPnot (u slot : Nat) (f : FmtA) (s : State) : Out State :=
  .next (uniformA u slot f { d := .pd, a := .p } true (fun x => x.t.wrP f.d (~~~(x.t.rdP f.a))) s)
/-- PFROMU: p[D] ← u[A][31:0]. -/
def execPfromu (u slot : Nat) (f : FmtA) (s : State) : Out State :=
  .next (uniformA u slot f { d := .pd, a := .u } true (fun x => x.t.wrP f.d (BitVec.ofNat 32 (x.t.rdU f.a))) s)
/-- PTOU: u[D] ← p[A], zero-extended. -/
def execPtou (u slot : Nat) (f : FmtA) (s : State) : Out State :=
  .next (uniformA u slot f { d := .u, a := .p } true (fun x => x.t.wrU f.d (x.t.rdP f.a).toNat) s)

/-! ### SYS (R254) -/

/-- A uniform special register. -/
def State.special (s : State) (c : Ctx) : Nat → Nat
  | 0 => c.t.index
  | 1 => c.hank.index
  | 2 => c.l.hankCount
  | 3 => c.l.desc.threads
  | 4 => c.u
  | 5 => s.frm.count
  | 6 => s.ucyc c.u % 2 ^ 64
  | 7 => c.cmd.seq
  | 8 => (s.coilOfRegion (regionOf c.u)).getD 0
  | _ => 0

/-- SREAD: u[D] ← uniform special register A. -/
def execSread (u slot : Nat) (f : FmtA) (s : State) : Out State :=
  .next (s.issue u slot (fun c => do
    need (decide (f.a < 9)) illegal
    ({ d := .u, a := .code, uniform := true } : ShapeA).check c.l.desc.regs f
    .ok (s.retire c (c.t.wrU f.d (s.special c f.a)).advance)))
/-- SREADW: w[D] ← per-lane special register A: the lane, or the thread. -/
def execSreadw (u slot : Nat) (f : FmtA) (s : State) : Out State :=
  .next (threadA u slot f { d := .w, a := .code } (decide (f.a < 2)) (fun x m =>
    (x.t.wrLanes m false f.d (fun l => if f.a = 0 then l else 32 * x.t.index + l), {})) s)

end Sys2Proof.Machine
end

