-- ==== Sys2Proof/Machine/UnitTile.lean ====
section
/-! DEFINITION. The vector tile engine: element-wise operations, comparisons, mask logic, reductions, permutes, quantization
and conversion (R170 to R216). -/

namespace Sys2Proof.Machine

open Sys2Proof

/-! ### Elements (R170 to R178) -/

/-- Element j of nb bytes lies in the active span of VL 32-bit columns (R172). -/
def elemActive (vl nb j : Nat) : Bool := decide ((j + 1) * nb ≤ 4 * vl)
/-- The mask bit that governs an element's lowest byte is set (R176). -/
def Hank.elemOn (h : Hank) (mg i nb j : Nat) : Bool := (h.maskRow mg i).getLsbD (j * nb / 2)
/-- Mask bits that govern the bytes of element j (R176). -/
def elemMaskBits (nb j : Nat) : List Nat := (List.range nb).map (fun k => (j * nb + k) / 2)

/-- Replace the w-bit elements of a row for which a value is given. -/
def rowUpdate (old : BitVec 1024) (w : Nat) (f : Nat → Option Nat) : BitVec 1024 :=
  rowOf' w ((List.range (1024 / w)).map (fun j => (f j).getD (rowElem old w j)))

/-- What a tile instruction writes: per row, the elements it writes with their counts. -/
structure TileOut where
  rows : List (Nat × BitVec 1024) := []
  ev : Ev := {}
  deriving DecidableEq, Repr

/-- Compute w-bit elements of the rows of a tile; `none` leaves an element undisturbed (R174). -/
def tileMap (dst : Nat → BitVec 1024) (w : Nat) (f : Nat → Nat → Option (Nat × Ev)) : TileOut :=
  (List.range 32).foldl (fun (o : TileOut) i =>
    let es := (List.range (1024 / w)).map (f i)
    if es.all (·.isNone) then o
    else { rows := o.rows ++ [(i, rowUpdate (dst i) w (fun j => ((es[j]?).getD none).map (·.1)))],
           ev := es.foldl (fun a e => match e with | some x => a.add x.2 | none => a) o.ev }) {}

/-- A tile instruction's write of tile t takes effect (R161, R205, R277). -/
def State.tileWrite (s : State) (c : Ctx) (t : Nat) (o : TileOut) : State :=
  if o.rows.isEmpty then s.countVts c.u o.ev
  else
    let s := s.onHank c (fun h => (o.rows.foldl (fun h r => h.setTileRow t r.1 r.2) h).wroteTile t)
    (s.touchTile c t (o.rows.map (·.1)) false).countVts c.u o.ev

/-- Tiles and masks named lie within the hank's allocation (R225). -/
def tilesFit (c : Ctx) (tiles masks : List Nat) : Bool :=
  tiles.all (fun t => decide (t < c.l.desc.tiles)) && masks.all (fun m => decide (m < 1 + c.l.desc.masks))

/-- The second operand of TEW and TCMP for element (i, j) (R180). -/
def tewB (h : Hank) (t : Strand) (f : FmtT) (w i j : Nat) : Nat :=
  match f.mode with
  | 0 => rowElem (h.tileRow f.z i) w j
  | 1 => rowElem (h.tileRow f.z 0) w j
  | 2 => rowElem (h.tileRow f.z i) w 0
  | _ => t.rdU f.u % 2 ^ w

/-- Operations of R182 that ignore b. -/
def tewUnary (op : Nat) : Bool := op == 7 || op == 8 || (decide (0x11 ≤ op) && decide (op ≤ 0x1A))

/-- Tiles that a TEW or TCMP reads as sources (R181). -/
def tewReads (f : FmtT) (readsA readsB : Bool) : List Nat :=
  (if readsA then [f.y] else []) ++ (if readsB && f.mode < 3 then [f.z] else [])

/-- TZERO: the tile, not its side-file (R233). -/
def execTzero (u slot : Nat) (f : FmtT) (s : State) : Out State :=
  .next (s.issue u slot (fun c => do
    need (({ x := true } : ShapeT).legal f) illegal
    need (tilesFit c [f.x] []) resource
    if (s.unit u).mmaBlocks c.hank [] [f.x] then .error .notDue
    else .ok ((s.tileWrite c f.x { rows := (List.range 32).map (fun i => (i, 0)) }).retire c c.t.advance)))

/-- VL for a request (R173). -/
def vlOf (r : Nat) : Nat := if r = 0 then 1 else min r 32

/-- TSETVL (R173). -/
def execTsetvl (u slot : Nat) (f : FmtT) (s : State) : Out State :=
  .next (s.issue u slot (fun c => do
    need (({ u := true, sub := 6, mode := 1 } : ShapeT).legal f) illegal
    let v := vlOf (if f.mode = 1 then c.t.rdU f.sub else f.sub)
    .ok (s.retire c { (c.t.advance.wrU f.u v) with vl := v })))

/-- TEW: Td[i][j] ← op(Ta[i][j], b) over the active and enabled elements (R180 to R186). -/
def execTew (u slot : Nat) (f : FmtT) (s : State) : Out State :=
  .next (s.issue u slot (fun c => do
    need (({ x := true, y := true, z := true, mg := true, u := true, sub := 6, ty := true, rm := true, mode := 2 } : ShapeT).legal f
      && tyAccepts f.ty f.sub && decide (f.rm < 5)) illegal
    let reads := tewReads f (f.sub != 0) (!tewUnary f.sub)
    need (tilesFit c (f.x :: reads) [f.mg]) resource
    if (s.unit u).mmaBlocks c.hank (reads ++ (if f.sub = 4 then [f.x] else [])) [f.x] then .error .notDue
    else
      let (v, s) := s.viewTiles c (f.x :: reads)
      let nb := tyBytes f.ty
      let w := 8 * nb
      let o := tileMap (c.hank.tileRow f.x) w (fun i j =>
        if elemActive c.t.vl nb j && v.elemOn f.mg i nb j then
          some (tyOp f.ty f.sub f.rm (rowElem (v.tileRow f.y i) w j) (tewB v c.t f w i j) (rowElem (v.tileRow f.x i) w j))
        else none)
      .ok ((s.tileWrite c f.x o).retire c c.t.advance)))

/-- TCMP: the mask bits of every active and enabled element take the comparison's result (R187). -/
def execTcmp (u slot : Nat) (f : FmtT) (s : State) : Out State :=
  .next (s.issue u slot (fun c => do
    need (({ x := true, y := true, z := true, mg := true, u := true, sub := 3, ty := true, mode := 2 } : ShapeT).legal f
      && decide (f.ty < 5) && decide (0 < f.x) && decide (f.x < 8)) illegal
    let reads := tewReads f true true
    need (tilesFit c reads [f.x, f.mg]) resource
    if (s.unit u).mmaBlocks c.hank reads [] then .error .notDue
    else
      let (v, s) := s.viewTiles c reads
      let nb := tyBytes f.ty
      let w := 8 * nb
      let cell (i j : Nat) : Option (Bool × Ev) :=
        if elemActive c.t.vl nb j && v.elemOn f.mg i nb j then
          some (tyCmp f.ty f.sub (rowElem (v.tileRow f.y i) w j) (tewB v c.t f w i j))
        else none
      let r := (List.range 32).foldl (fun (acc : Hank × Ev) i =>
        let cs := (List.range (1024 / w)).map (fun j => (j, cell i j))
        let row := cs.foldl (fun (m : Nat) e => match e.2 with
          | some (b, _) => (elemMaskBits nb e.1).foldl (fun m k => setBits m k 1 (b2n b)) m
          | none => m) (c.hank.maskRow f.x i).toNat
        (acc.1.setMaskRow f.x i (BitVec.ofNat 64 row),
         cs.foldl (fun a e => match e.2 with | some x => a.add x.2 | none => a) acc.2)) (c.hank, {})
      .ok (((s.onHank c (fun h => { h with masks := r.1.masks })).countVts u r.2).retire c c.t.advance)))

/-- The operations of TMSK on 64-bit rows (R188). -/
def maskOp (op : Nat) (a b : BitVec 64) : BitVec 64 :=
  match op with
  | 0 => a &&& b
  | 1 => a ||| b
  | 2 => a ^^^ b
  | 3 => a &&& ~~~b
  | 4 => ~~~a
  | 5 => BitVec.allOnes 64
  | _ => 0

/-- TMSK: all 2,048 bits, whatever VL holds (R188). -/
def execTmsk (u slot : Nat) (f : FmtT) (s : State) : Out State :=
  .next (s.issue u slot (fun c => do
    need (({ x := true, y := true, z := true, sub := 4 } : ShapeT).legal f && decide (f.sub < 7) && decide (0 < f.x)
      && decide (f.x < 8) && decide (f.y < 8) && decide (f.z < 8)) illegal
    need (tilesFit c [] [f.x, f.y, f.z]) resource
    let h := (List.range 32).foldl (fun h i =>
      h.setMaskRow f.x i (maskOp f.sub (c.hank.maskRow f.y i) (c.hank.maskRow f.z i))) c.hank
    .ok ((s.onHank c (fun k => { k with masks := h.masks })).retire c c.t.advance)))

/-! ### Reductions (R189 to R193) -/

/-- Checks of a reduction, then its result from the tile as read. -/
def tred (u slot : Nat) (f : FmtT) (result : Ctx → Hank → TileOut) (s : State) : State :=
  s.issue u slot (fun c => do
    need (({ x := true, y := true, mg := true, sub := 3, ty := true } : ShapeT).legal f && decide (f.sub < 3) && decide (f.ty < 5))
      illegal
    need (tilesFit c [f.x, f.y] [f.mg]) resource
    collCheck c.t
    if (s.unit u).mmaBlocks c.hank [f.y] [f.x] then .error .notDue
    else
      let (v, s) := s.viewTiles c [f.y]
      .ok ((s.tileWrite c f.x (result c v)).retire c c.t.advance))

/-- The source element of a reduction: none when inactive or disabled. -/
def redElem (c : Ctx) (v : Hank) (f : FmtT) (i j : Nat) : Option Nat :=
  let nb := tyBytes f.ty
  if elemActive c.t.vl nb j && v.elemOn f.mg i nb j then some (rowElem (v.tileRow f.y i) (8 * nb) j) else none
/-- The width of a reduction's result in bits (R190). -/
def redBits (ty : Nat) : Nat := if ty = 0 then 64 else 32

/-- TRED.ROW: each row's result to element 0 of the row (R189), also where that element is itself inactive or disabled: R174 and
R178 are read as governing the elements reduced (DEDUCED, notes/assumptions/15.md). -/
def execTredRow (u slot : Nat) (f : FmtT) (s : State) : Out State :=
  .next (tred u slot f (fun c v =>
    let n := 128 / tyBytes f.ty
    tileMap (c.hank.tileRow f.x) (redBits f.ty) (fun i j =>
      if j = 0 then some (reduceElems f.ty f.sub ((List.range n).map (redElem c v f i))) else none)) s)

/-- TRED.COL: active column j's result to element j mod E of row j div E (R189), also where that element is itself inactive or
disabled, as for TRED.ROW (DEDUCED, notes/assumptions/15.md). -/
def execTredCol (u slot : Nat) (f : FmtT) (s : State) : Out State :=
  .next (tred u slot f (fun c v =>
    let n := 128 / tyBytes f.ty
    let w := redBits f.ty
    let e := 1024 / w
    tileMap (c.hank.tileRow f.x) w (fun i k =>
      let j := i * e + k
      if decide (j < n) && elemActive c.t.vl (tyBytes f.ty) j then
        some (reduceElems f.ty f.sub ((List.range 32).map (fun r => redElem c v f r j)))
      else none)) s)

/-! ### Permutes (R194 to R197) -/

/-- Checks of a permute, then its elements: a value, and whether its index was out of range. -/
def tperm (index : Bool) (u slot : Nat) (f : FmtT) (elem : Ctx → Hank → Nat → Nat → Nat × Bool) (s : State) : State :=
  s.issue u slot (fun c => do
    need (({ x := true, y := true, z := index, mg := true } : ShapeT).legal f) illegal
    let reads := if index then [f.y, f.z] else [f.y]
    need (tilesFit c (f.x :: reads) [f.mg]) resource
    if (s.unit u).mmaBlocks c.hank reads [f.x] then .error .notDue
    else
      let (v, s) := s.viewTiles c reads
      let o := tileMap (c.hank.tileRow f.x) 32 (fun i j =>
        if elemActive c.t.vl 4 j && v.elemOn f.mg i 4 j then
          let (x, bad) := elem c v i j
          some (x, { indexRange := b2n bad })
        else none)
      .ok ((s.tileWrite c f.x o).retire c c.t.advance))

/-- TPERM.ROW. -/
def execTpermRow (u slot : Nat) (f : FmtT) (s : State) : Out State :=
  .next (tperm true u slot f (fun c v i j =>
    let x := rowElem (v.tileRow f.z i) 32 j
    if x < c.t.vl then (rowElem (v.tileRow f.y i) 32 x, false) else (0, true)) s)
/-- TPERM.COL. -/
def execTpermCol (u slot : Nat) (f : FmtT) (s : State) : Out State :=
  .next (tperm true u slot f (fun _ v i j =>
    let x := rowElem (v.tileRow f.z i) 32 j
    if x < 32 then (rowElem (v.tileRow f.y x) 32 j, false) else (0, true)) s)
/-- TPERM.T: the transpose. -/
def execTpermT (u slot : Nat) (f : FmtT) (s : State) : Out State :=
  .next (tperm false u slot f (fun _ v i j => (rowElem (v.tileRow f.y j) 32 i, false)) s)

/-! ### Quantize and convert (R198 to R203) -/

/-- Consecutive blocks that a source row supplies (R199). -/
def blocksQ (fmt : Nat) (bf : Bool) : Nat := (if bf then 2 else 1) * (if fmt = 6 then 2 else 1)

/-- Format code, element type and segment of TQNT and TCVT.DQ are legal (R198). -/
def blockLegal (f : FmtT) : Bool :=
  decide (f.sub < 7) && (f.ty == 1 || f.ty == 2) && decide (f.rm < 5)
    && decide (f.seg < (blkFmt f.sub).blocksPerRow / blocksQ f.sub (f.ty == 2))

/-- TQNT: each source row into Q consecutive blocks of a row of Td and its side-file (R198 to R201). -/
def execTqnt (u slot : Nat) (f : FmtT) (s : State) : Out State :=
  .next (s.issue u slot (fun c => do
    need (({ x := true, y := true, sub := 3, ty := true, seg := true, mode := 2, rm := true } : ShapeT).legal f && blockLegal f
      && (f.sub != 6 || decide (f.mode < 2))) illegal
    need (f.sub != 6 || c.cmd.features.getLsbD 6) noFeature
    need (tilesFit c [f.x, f.y] []) resource
    collCheck c.t
    if (s.unit u).mmaBlocks c.hank [f.y] [f.x] then .error .notDue
    else
      let (v, s) := s.viewTiles c [f.y]
      let b := blkFmt f.sub
      let bf := f.ty == 2
      let w := if bf then 16 else 32
      let rows := (List.range 32).map (fun i =>
        let q := quantRow b f.mode f.rm bf ((List.range (1024 / w)).map (rowElem (v.tileRow f.y i) w))
        (i, putBlocks b (f.seg * blocksQ f.sub bf) (c.hank.tileRow f.x i) (c.hank.sideRow f.x i) q.1, q.2))
      let s := s.onHank c (fun h =>
        let h := rows.foldl (fun h r => h.setSideRow f.x r.1 r.2.1.2) h
        { h with range := h.range.count (rows.foldl (fun a r => a.add r.2.2.1) ({} : RangeEv)) })
      let s := s.touchTile c f.x (List.range 32) true
      .ok ((s.tileWrite c f.x { rows := rows.map (fun r => (r.1, r.2.1.1)),
                                ev := { flushIn := rows.foldl (fun a r => a + r.2.2.2) 0 } }).retire c c.t.advance)))

/-- TCVT.DQ: blocks of Ts to every element of Td (R202). -/
def execTcvtDq (u slot : Nat) (f : FmtT) (s : State) : Out State :=
  .next (s.issue u slot (fun c => do
    need (({ x := true, y := true, sub := 3, ty := true, seg := true, rm := true } : ShapeT).legal f && blockLegal f) illegal
    need (f.sub != 6 || c.cmd.features.getLsbD 6) noFeature
    need (tilesFit c [f.x, f.y] []) resource
    if (s.unit u).mmaBlocks c.hank [f.y] [f.x] then .error .notDue
    else
      let (v, s) := s.viewTiles c [f.y]
      let b := blkFmt f.sub
      let bf := f.ty == 2
      let o := tileMap (c.hank.tileRow f.x) (if bf then 16 else 32) (fun i j =>
        let blk := f.seg * blocksQ f.sub bf + j / b.blockLen
        let code := bits (v.tileRow f.y i).toNat (8 * b.fieldBytes * blk + b.width * (j % b.blockLen)) b.width
        some (dequant b bf f.rm (v.sideByte f.y i blk) code))
      .ok ((s.tileWrite c f.x o).retire c c.t.advance)))

/-- TCVT: the pairs of R203's table, active on the wider side, governed at the destination. -/
def execTcvt (u slot : Nat) (f : FmtT) (s : State) : Out State :=
  .next (s.issue u slot (fun c => do
    let from_ := cvtFmt (f.sub % 8)
    let dest := cvtFmt (f.sub / 8 % 8)
    let ws := from_.width
    let wd := dest.width
    need (({ x := true, y := true, mg := true, sub := 6, seg := true, rm := true, sat := true } : ShapeT).legal f
      && decide (f.rm < 5) && decide (f.seg < max ws wd / min ws wd)) illegal
    need (tilesFit c [f.x, f.y] [f.mg]) resource
    if (s.unit u).mmaBlocks c.hank [f.y] [f.x] then .error .notDue
    else
      let (v, s) := s.viewTiles c [f.y]
      let es := 1024 / ws
      let ed := 1024 / wd
      let o := tileMap (c.hank.tileRow f.x) wd (fun i j =>
        let src : Option Nat := if es ≤ ed then (if f.seg * es ≤ j ∧ j < f.seg * es + es then some (j - f.seg * es) else none)
          else some (f.seg * ed + j)
        src.bind (fun k =>
          let active := if wd ≤ ws then elemActive c.t.vl (ws / 8) k else elemActive c.t.vl (wd / 8) j
          if active && v.elemOn f.mg i (wd / 8) j then some (convert from_ dest f.rm f.sat (rowElem (v.tileRow f.y i) ws k))
          else none))
      .ok ((s.tileWrite c f.x o).retire c c.t.advance)))

/-- TSTAT: a status counter of the strand's unit, once its own TMMAs and quantize-on-load copies have added their counts (R210,
R274). -/
def execTstat (u slot : Nat) (f : FmtT) (s : State) : Out State :=
  .next (s.issue u slot (fun c => do
    need (({ u := true, sub := 4 } : ShapeT).legal f && decide (f.sub < 10)) illegal
    if (s.unit u).mmaQ.any (fun m => m.slot == slot) || (s.unit u).copies.any (fun k => k.slot == slot && k.kind == .q && !k.done) then
      .error .notDue
    else .ok (s.retire c (c.t.advance.wrU f.u ((s.unit u).vts.nth f.sub)))))

end Sys2Proof.Machine
end

