-- ==== Sys2Proof/Machine/Dispatch.lean ====
section
/-! DEFINITION. One arm for each command, calling its meaning. -/

namespace Sys2Proof.Machine

open Sys2Proof

/-- The effect of a command on everything but the queue. -/
def exec (i : Instr) (s : State) : Host.Outcome State Fault Refusal :=
  match i with
  | .frameTick t => Sys2Proof.Machine.execFrameTick t s
  | .beacon port master count body sendDelay => Sys2Proof.Machine.execBeacon port master count body sendDelay s
  | .beaconMiss => Sys2Proof.Machine.execBeaconMiss s
  | .frameLock => Sys2Proof.Machine.execFrameLock s
  | .electionStart => Sys2Proof.Machine.execElectionStart s
  | .elect src prio => Sys2Proof.Machine.execElect src prio s
  | .electionEnd => Sys2Proof.Machine.execElectionEnd s
  | .reload m => Sys2Proof.Machine.execReload m s
  | .fritVerifyEnd => Sys2Proof.Machine.execFritVerifyEnd s
  | .commit => Sys2Proof.Machine.execCommit s
  | .registerWrite m off size value => Sys2Proof.Machine.execRegisterWrite m off size value s
  | .nop u slot f => Sys2Proof.Machine.execNop u slot f s
  | .exit u slot f => Sys2Proof.Machine.execExit u slot f s
  | .bra u slot f => Sys2Proof.Machine.execBra u slot f s
  | .bru u slot f => Sys2Proof.Machine.execBru u slot f s
  | .brc u slot f => Sys2Proof.Machine.execBrc u slot f s
  | .divPush u slot f => Sys2Proof.Machine.execDivPush u slot f s
  | .rcv u slot f => Sys2Proof.Machine.execRcv u slot f s
  | .call u slot f => Sys2Proof.Machine.execCall u slot f s
  | .ret u slot f => Sys2Proof.Machine.execRet u slot f s
  | .collEnter u slot f => Sys2Proof.Machine.execCollEnter u slot f s
  | .collExit u slot f => Sys2Proof.Machine.execCollExit u slot f s
  | .mov u slot f => Sys2Proof.Machine.execMov u slot f s
  | .add u slot f => Sys2Proof.Machine.execAdd u slot f s
  | .sub u slot f => Sys2Proof.Machine.execSub u slot f s
  | .mul u slot f => Sys2Proof.Machine.execMul u slot f s
  | .mulhi u slot f => Sys2Proof.Machine.execMulhi u slot f s
  | .mad u slot f => Sys2Proof.Machine.execMad u slot f s
  | .and u slot f => Sys2Proof.Machine.execAnd u slot f s
  | .or u slot f => Sys2Proof.Machine.execOr u slot f s
  | .xor u slot f => Sys2Proof.Machine.execXor u slot f s
  | .not u slot f => Sys2Proof.Machine.execNot u slot f s
  | .shl u slot f => Sys2Proof.Machine.execShl u slot f s
  | .shr u slot f => Sys2Proof.Machine.execShr u slot f s
  | .shra u slot f => Sys2Proof.Machine.execShra u slot f s
  | .min u slot f => Sys2Proof.Machine.execMin u slot f s
  | .max u slot f => Sys2Proof.Machine.execMax u slot f s
  | .sel u slot f => Sys2Proof.Machine.execSel u slot f s
  | .setp u slot f => Sys2Proof.Machine.execSetp u slot f s
  | .popc u slot f => Sys2Proof.Machine.execPopc u slot f s
  | .clz u slot f => Sys2Proof.Machine.execClz u slot f s
  | .fmov u slot f => Sys2Proof.Machine.execFmov u slot f s
  | .fadd u slot f => Sys2Proof.Machine.execFadd u slot f s
  | .fsub u slot f => Sys2Proof.Machine.execFsub u slot f s
  | .fmul u slot f => Sys2Proof.Machine.execFmul u slot f s
  | .ffma u slot f => Sys2Proof.Machine.execFfma u slot f s
  | .fmin u slot f => Sys2Proof.Machine.execFmin u slot f s
  | .fmax u slot f => Sys2Proof.Machine.execFmax u slot f s
  | .fabs u slot f => Sys2Proof.Machine.execFabs u slot f s
  | .fneg u slot f => Sys2Proof.Machine.execFneg u slot f s
  | .fdiv u slot f => Sys2Proof.Machine.execFdiv u slot f s
  | .fsqrt u slot f => Sys2Proof.Machine.execFsqrt u slot f s
  | .frcp u slot f => Sys2Proof.Machine.execFrcp u slot f s
  | .frsqrt u slot f => Sys2Proof.Machine.execFrsqrt u slot f s
  | .fexp2 u slot f => Sys2Proof.Machine.execFexp2 u slot f s
  | .fexp u slot f => Sys2Proof.Machine.execFexp u slot f s
  | .flog2 u slot f => Sys2Proof.Machine.execFlog2 u slot f s
  | .flog u slot f => Sys2Proof.Machine.execFlog u slot f s
  | .fsinpi u slot f => Sys2Proof.Machine.execFsinpi u slot f s
  | .fcospi u slot f => Sys2Proof.Machine.execFcospi u slot f s
  | .ftanh u slot f => Sys2Proof.Machine.execFtanh u slot f s
  | .fsetp u slot f => Sys2Proof.Machine.execFsetp u slot f s
  | .fcvt u slot f => Sys2Proof.Machine.execFcvt u slot f s
  | .umov u slot f => Sys2Proof.Machine.execUmov u slot f s
  | .uadd u slot f => Sys2Proof.Machine.execUadd u slot f s
  | .usub u slot f => Sys2Proof.Machine.execUsub u slot f s
  | .umul u slot f => Sys2Proof.Machine.execUmul u slot f s
  | .umulhi u slot f => Sys2Proof.Machine.execUmulhi u slot f s
  | .umad u slot f => Sys2Proof.Machine.execUmad u slot f s
  | .uand u slot f => Sys2Proof.Machine.execUand u slot f s
  | .uor u slot f => Sys2Proof.Machine.execUor u slot f s
  | .uxor u slot f => Sys2Proof.Machine.execUxor u slot f s
  | .unot u slot f => Sys2Proof.Machine.execUnot u slot f s
  | .ushl u slot f => Sys2Proof.Machine.execUshl u slot f s
  | .ushr u slot f => Sys2Proof.Machine.execUshr u slot f s
  | .ushra u slot f => Sys2Proof.Machine.execUshra u slot f s
  | .umin u slot f => Sys2Proof.Machine.execUmin u slot f s
  | .umax u slot f => Sys2Proof.Machine.execUmax u slot f s
  | .usel u slot f => Sys2Proof.Machine.execUsel u slot f s
  | .uset u slot f => Sys2Proof.Machine.execUset u slot f s
  | .upopc u slot f => Sys2Proof.Machine.execUpopc u slot f s
  | .uclz u slot f => Sys2Proof.Machine.execUclz u slot f s
  | .movi u slot f => Sys2Proof.Machine.execMovi u slot f s
  | .addi u slot f => Sys2Proof.Machine.execAddi u slot f s
  | .umovi u slot f => Sys2Proof.Machine.execUmovi u slot f s
  | .uaddi u slot f => Sys2Proof.Machine.execUaddi u slot f s
  | .umovhi u slot f => Sys2Proof.Machine.execUmovhi u slot f s
  | .lshfl u slot f => Sys2Proof.Machine.execLshfl u slot f s
  | .lbal u slot f => Sys2Proof.Machine.execLbal u slot f s
  | .lredAdd u slot f => Sys2Proof.Machine.execLredAdd u slot f s
  | .lredMin u slot f => Sys2Proof.Machine.execLredMin u slot f s
  | .lredMax u slot f => Sys2Proof.Machine.execLredMax u slot f s
  | .lfirst u slot f => Sys2Proof.Machine.execLfirst u slot f s
  | .pand u slot f => Sys2Proof.Machine.execPand u slot f s
  | .por u slot f => Sys2Proof.Machine.execPor u slot f s
  | .pxor u slot f => Sys2Proof.Machine.execPxor u slot f s
  | .pandn u slot f => Sys2Proof.Machine.execPandn u slot f s
  | .pnot u slot f => Sys2Proof.Machine.execPnot u slot f s
  | .pfromu u slot f => Sys2Proof.Machine.execPfromu u slot f s
  | .ptou u slot f => Sys2Proof.Machine.execPtou u slot f s
  | .ld u slot f => Sys2Proof.Machine.execLd u slot f s
  | .st u slot f => Sys2Proof.Machine.execSt u slot f s
  | .uld u slot f => Sys2Proof.Machine.execUld u slot f s
  | .atomAdd u slot f => Sys2Proof.Machine.execAtomAdd u slot f s
  | .atomSmin u slot f => Sys2Proof.Machine.execAtomSmin u slot f s
  | .atomSmax u slot f => Sys2Proof.Machine.execAtomSmax u slot f s
  | .atomUmin u slot f => Sys2Proof.Machine.execAtomUmin u slot f s
  | .atomUmax u slot f => Sys2Proof.Machine.execAtomUmax u slot f s
  | .atomAnd u slot f => Sys2Proof.Machine.execAtomAnd u slot f s
  | .atomOr u slot f => Sys2Proof.Machine.execAtomOr u slot f s
  | .atomXor u slot f => Sys2Proof.Machine.execAtomXor u slot f s
  | .atomExch u slot f => Sys2Proof.Machine.execAtomExch u slot f s
  | .atomCas u slot f => Sys2Proof.Machine.execAtomCas u slot f s
  | .atomFadd u slot f => Sys2Proof.Machine.execAtomFadd u slot f s
  | .fenceAcq u slot f => Sys2Proof.Machine.execFenceAcq u slot f s
  | .fenceRel u slot f => Sys2Proof.Machine.execFenceRel u slot f s
  | .fenceAr u slot f => Sys2Proof.Machine.execFenceAr u slot f s
  | .tld u slot f => Sys2Proof.Machine.execTld u slot f s
  | .tst u slot f => Sys2Proof.Machine.execTst u slot f s
  | .tldSf u slot f => Sys2Proof.Machine.execTldSf u slot f s
  | .tstSf u slot f => Sys2Proof.Machine.execTstSf u slot f s
  | .tzero u slot f => Sys2Proof.Machine.execTzero u slot f s
  | .tsetvl u slot f => Sys2Proof.Machine.execTsetvl u slot f s
  | .tmma u slot f => Sys2Proof.Machine.execTmma u slot f s
  | .tmmaStart u => Sys2Proof.Machine.execTmmaStart u s
  | .wtile u slot f => Sys2Proof.Machine.execWtile u slot f s
  | .wchk u slot f => Sys2Proof.Machine.execWchk u slot f s
  | .tew u slot f => Sys2Proof.Machine.execTew u slot f s
  | .tcmp u slot f => Sys2Proof.Machine.execTcmp u slot f s
  | .tmsk u slot f => Sys2Proof.Machine.execTmsk u slot f s
  | .tredRow u slot f => Sys2Proof.Machine.execTredRow u slot f s
  | .tredCol u slot f => Sys2Proof.Machine.execTredCol u slot f s
  | .tpermRow u slot f => Sys2Proof.Machine.execTpermRow u slot f s
  | .tpermCol u slot f => Sys2Proof.Machine.execTpermCol u slot f s
  | .tpermT u slot f => Sys2Proof.Machine.execTpermT u slot f s
  | .tqnt u slot f => Sys2Proof.Machine.execTqnt u slot f s
  | .tcvt u slot f => Sys2Proof.Machine.execTcvt u slot f s
  | .tcvtDq u slot f => Sys2Proof.Machine.execTcvtDq u slot f s
  | .tstat u slot f => Sys2Proof.Machine.execTstat u slot f s
  | .sread u slot f => Sys2Proof.Machine.execSread u slot f s
  | .sreadw u slot f => Sys2Proof.Machine.execSreadw u slot f s
  | .acpyH u slot f => Sys2Proof.Machine.execAcpyH u slot f s
  | .acpyT u slot f => Sys2Proof.Machine.execAcpyT u slot f s
  | .acpySf u slot f => Sys2Proof.Machine.execAcpySf u slot f s
  | .acpyQ u slot f => Sys2Proof.Machine.execAcpyQ u slot f s
  | .acwait u slot f => Sys2Proof.Machine.execAcwait u slot f s
  | .acread u slot f => Sys2Proof.Machine.execAcread u slot f s
  | .blyArrive u slot f => Sys2Proof.Machine.execBlyArrive u slot f s
  | .blyWait u slot f => Sys2Proof.Machine.execBlyWait u slot f s
  | .blySync u slot f => Sys2Proof.Machine.execBlySync u slot f s
  | .copyComplete u k => Sys2Proof.Machine.execCopyComplete u k s
  | .stall u launch hank => Sys2Proof.Machine.execStall u launch hank s
  | .writeCombiningDrain u line => Sys2Proof.Machine.execWriteCombiningDrain u line s
  | .l1Fill u line => Sys2Proof.Machine.execL1Fill u line s
  | .walkComplete cl k => Sys2Proof.Machine.execWalkComplete cl k s
  | .hankDispatch cmd => Sys2Proof.Machine.execHankDispatch cmd s
  | .hankEnd u launch hank => Sys2Proof.Machine.execHankEnd u launch hank s
  | .cmdNop q c => Sys2Proof.Machine.execCmdNop q c s
  | .launch q c => Sys2Proof.Machine.execLaunch q c s
  | .cane q c => Sys2Proof.Machine.execCane q c s
  | .canePublish q c => Sys2Proof.Machine.execCanePublish q c s
  | .dma q c => Sys2Proof.Machine.execDma q c s
  | .bend q c => Sys2Proof.Machine.execBend q c s
  | .knotSignal q c => Sys2Proof.Machine.execKnotSignal q c s
  | .knotWait q c => Sys2Proof.Machine.execKnotWait q c s
  | .qfence q c => Sys2Proof.Machine.execQfence q c s
  | .hintHeavy q c => Sys2Proof.Machine.execHintHeavy q c s
  | .hintLight q c => Sys2Proof.Machine.execHintLight q c s
  | .hintExpiry coil => Sys2Proof.Machine.execHintExpiry coil s
  | .mark q c => Sys2Proof.Machine.execMark q c s
  | .tailRead q host => Sys2Proof.Machine.execTailRead q host s
  | .commandFetch q host => Sys2Proof.Machine.execCommandFetch q host s
  | .knotRead w remote => Sys2Proof.Machine.execKnotRead w remote s
  | .commandComplete cmd => Sys2Proof.Machine.execCommandComplete cmd s
  | .timeout cmd => Sys2Proof.Machine.execTimeout cmd s
  | .qdtEnable q => Sys2Proof.Machine.execQdtEnable q s
  | .qdtDisable q => Sys2Proof.Machine.execQdtDisable q s
  | .qdtCancel q => Sys2Proof.Machine.execQdtCancel q s
  | .qdtResume q => Sys2Proof.Machine.execQdtResume q s
  | .dmaBurstData e c k ext => Sys2Proof.Machine.execDmaBurstData e c k ext s
  | .dmaTransferComplete e c => Sys2Proof.Machine.execDmaTransferComplete e c s
  | .dmaBusError e addr => Sys2Proof.Machine.execDmaBusError e addr s
  | .dmaBusErrDrain e => Sys2Proof.Machine.execDmaBusErrDrain e s
  | .starved e c => Sys2Proof.Machine.execStarved e c s
  | .paceRead e c => Sys2Proof.Machine.execPaceRead e c s
  | .dmaChDisable e c => Sys2Proof.Machine.execDmaChDisable e c s
  | .dmaChEnable e c => Sys2Proof.Machine.execDmaChEnable e c s
  | .rds m => Sys2Proof.Machine.execRds m s
  | .rdo m => Sys2Proof.Machine.execRdo m s
  | .upg m => Sys2Proof.Machine.execUpg m s
  | .wbk m => Sys2Proof.Machine.execWbk m s
  | .evc m => Sys2Proof.Machine.execEvc m s
  | .sth m => Sys2Proof.Machine.execSth m s
  | .wnc m => Sys2Proof.Machine.execWnc m s
  | .rnc m => Sys2Proof.Machine.execRnc m s
  | .anc m => Sys2Proof.Machine.execAnc m s
  | .sns m => Sys2Proof.Machine.execSns m s
  | .sni m => Sys2Proof.Machine.execSni m s
  | .sno m => Sys2Proof.Machine.execSno m s
  | .dat m => Sys2Proof.Machine.execDat m s
  | .datd m => Sys2Proof.Machine.execDatd m s
  | .ack m => Sys2Proof.Machine.execAck m s
  | .fillComplete line => Sys2Proof.Machine.execFillComplete line s
  | .spillRead line err => Sys2Proof.Machine.execSpillRead line err s
  | .cleatExpiry agent line => Sys2Proof.Machine.execCleatExpiry agent line s
  | .reclaimEnd => Sys2Proof.Machine.execReclaimEnd s
  | .xltInvGo => Sys2Proof.Machine.execXltInvGo s
  | .xltInvDone => Sys2Proof.Machine.execXltInvDone s
  | .hbmRead line err => Sys2Proof.Machine.execHbmRead line err s
  | .scrubRead stack ch err => Sys2Proof.Machine.execScrubRead stack ch err s
  | .remapComplete stack ch k errs => Sys2Proof.Machine.execRemapComplete stack ch k errs s
  | .trackerFree stack ch pch bank row => Sys2Proof.Machine.execTrackerFree stack ch pch bank row s
  | .eyeTrack stack ch => Sys2Proof.Machine.execEyeTrack stack ch s
  | .tgGo stack ch => Sys2Proof.Machine.execTgGo stack ch s
  | .tgStop stack ch => Sys2Proof.Machine.execTgStop stack ch s
  | .tgDone stack ch errs => Sys2Proof.Machine.execTgDone stack ch errs s
  | .hbmStkClear stack value => Sys2Proof.Machine.execHbmStkClear stack value s
  | .hbmChCntClear stack ch value => Sys2Proof.Machine.execHbmChCntClear stack ch value s
  | .uniVtsClear u value => Sys2Proof.Machine.execUniVtsClear u value s
  | .llmCntClear n value => Sys2Proof.Machine.execLlmCntClear n value s
  | .cohCntClear n value => Sys2Proof.Machine.execCohCntClear n value s
  | .hwsPortCntClear p value => Sys2Proof.Machine.execHwsPortCntClear p value s
  | .bndCntClear b value => Sys2Proof.Machine.execBndCntClear b value s
  | .dlkCntClear n value => Sys2Proof.Machine.execDlkCntClear n value s
  | .flit p bytes corrected failed replay => Sys2Proof.Machine.execFlit p bytes corrected failed replay s
  | .lack p seq => Sys2Proof.Machine.execLack p seq s
  | .lnak p seq => Sys2Proof.Machine.execLnak p seq s
  | .lcred p cls n => Sys2Proof.Machine.execLcred p cls n s
  | .linkAckDue p => Sys2Proof.Machine.execLinkAckDue p s
  | .e2eackDue peer cls => Sys2Proof.Machine.execE2eackDue peer cls s
  | .e2eack peer cls tseq => Sys2Proof.Machine.execE2eack peer cls tseq s
  | .rd p k => Sys2Proof.Machine.execRd p k s
  | .wr p k => Sys2Proof.Machine.execWr p k s
  | .atomicPacket p k => Sys2Proof.Machine.execAtomicPacket p k s
  | .bwr p k => Sys2Proof.Machine.execBwr p k s
  | .data p k => Sys2Proof.Machine.execData p k s
  | .ackPacket p k => Sys2Proof.Machine.execAckPacket p k s
  | .refuse p k => Sys2Proof.Machine.execRefuse p k s
  | .join p j => Sys2Proof.Machine.execJoin p j s
  | .drain src => Sys2Proof.Machine.execDrain src s
  | .leave src => Sys2Proof.Machine.execLeave src s
  | .leaveBroadcast => Sys2Proof.Machine.execLeaveBroadcast s
  | .absenceLimit peer => Sys2Proof.Machine.execAbsenceLimit peer s
  | .leafReport p leaf joined => Sys2Proof.Machine.execLeafReport p leaf joined s
  | .indexValid => Sys2Proof.Machine.execIndexValid s
  | .laneLockLoss p => Sys2Proof.Machine.execLaneLockLoss p s
  | .laserLoss p => Sys2Proof.Machine.execLaserLoss p s
  | .retrainStart p => Sys2Proof.Machine.execRetrainStart p s
  | .retrainEnd p ok => Sys2Proof.Machine.execRetrainEnd p ok s
  | .portTrained p plane leaf transit halfTrip => Sys2Proof.Machine.execPortTrained p plane leaf transit halfTrip s
  | .portRetry p => Sys2Proof.Machine.execPortRetry p s
  | .retrain p => Sys2Proof.Machine.execRetrain p s
  | .bendPacket b x => Sys2Proof.Machine.execBendPacket b x s
  | .abort b group tag number status => Sys2Proof.Machine.execAbort b group tag number status s
  | .collectiveComplete b cmd => Sys2Proof.Machine.execCollectiveComplete b cmd s
  | .jobfreqResult epoch level => Sys2Proof.Machine.execJobfreqResult epoch level s
  | .bar2Read rid off len => Sys2Proof.Machine.execBar2Read rid off len s
  | .bar2Write rid off bytes poisoned => Sys2Proof.Machine.execBar2Write rid off bytes poisoned s
  | .hptFlush => Sys2Proof.Machine.execHptFlush s
  | .hostRetrain rate width flit => Sys2Proof.Machine.execHostRetrain rate width flit s
  | .linkDown acked => Sys2Proof.Machine.execLinkDown acked s
  | .hotReset acked => Sys2Proof.Machine.execHotReset acked s
  | .flr acked => Sys2Proof.Machine.execFlr acked s
  | .perstAssert acked => Sys2Proof.Machine.execPerstAssert acked s
  | .perstRelease => Sys2Proof.Machine.execPerstRelease s
  | .attach => Sys2Proof.Machine.execAttach s
  | .hptParkHead value => Sys2Proof.Machine.execHptParkHead value s
  | .confirmReadback q seen => Sys2Proof.Machine.execConfirmReadback q seen s
  | .overpower => Sys2Proof.Machine.execOverpower s
  | .droop region level => Sys2Proof.Machine.execDroop region level s
  | .droopRelax region => Sys2Proof.Machine.execDroopRelax region s
  | .rampGrant region => Sys2Proof.Machine.execRampGrant region s
  | .rampStep region => Sys2Proof.Machine.execRampStep region s
  | .regionQuiet region => Sys2Proof.Machine.execRegionQuiet region s
  | .stageRequest target => Sys2Proof.Machine.execStageRequest target s
  | .stageExit => Sys2Proof.Machine.execStageExit s
  | .memReady => Sys2Proof.Machine.execMemReady s
  | .dlkFlit n half bytes => Sys2Proof.Machine.execDlkFlit n half bytes s
  | .dlkNak n seq => Sys2Proof.Machine.execDlkNak n seq s
  | .unitSram u => Sys2Proof.Machine.execUnitSram u s
  | .clusterCache cl => Sys2Proof.Machine.execClusterCache cl s
  | .ccCache k => Sys2Proof.Machine.execCcCache k s
  | .vital what => Sys2Proof.Machine.execVital what s
  | .fenceReq => Sys2Proof.Machine.execFenceReq s
  | .errStatusClear value meets => Sys2Proof.Machine.execErrStatusClear value meets s
  | .errBankHead b value => Sys2Proof.Machine.execErrBankHead b value s
  | .warmReset => Sys2Proof.Machine.execWarmReset s
  | .powerUp => Sys2Proof.Machine.execPowerUp s
  | .railRaise => Sys2Proof.Machine.execRailRaise s
  | .pwrGood => Sys2Proof.Machine.execPwrGood s
  | .marverStart => Sys2Proof.Machine.execMarverStart s
  | .trainingComplete badHalves badChannels unrepaired => Sys2Proof.Machine.execTrainingComplete badHalves badChannels unrepaired s
  | .memtestComplete rows => Sys2Proof.Machine.execMemtestComplete rows s
  | .nodeStart => Sys2Proof.Machine.execNodeStart s
  | .hartStart => Sys2Proof.Machine.execHartStart s
  | .knotArm src => Sys2Proof.Machine.execKnotArm src s
  | .knotDisarm src => Sys2Proof.Machine.execKnotDisarm src s
  | .report src => Sys2Proof.Machine.execReport src s
  | .cert src => Sys2Proof.Machine.execCert src s
  | .log src => Sys2Proof.Machine.execLog src s
  | .extend src => Sys2Proof.Machine.execExtend src s
  | .flashWrite src => Sys2Proof.Machine.execFlashWrite src s
  | .flashActivate src => Sys2Proof.Machine.execFlashActivate src s
  | .commitSvn src => Sys2Proof.Machine.execCommitSvn src s
  | .revoke src => Sys2Proof.Machine.execRevoke src s
  | .mbxOpDone ch => Sys2Proof.Machine.execMbxOpDone ch s
  | .status => Sys2Proof.Machine.execStatus s
  | .wake => Sys2Proof.Machine.execWake s
  | .mgmtWarmReset => Sys2Proof.Machine.execMgmtWarmReset s
  | .sbRstAssert => Sys2Proof.Machine.execSbRstAssert s
  | .sbRstRelease => Sys2Proof.Machine.execSbRstRelease s
  | .vinUndervoltage => Sys2Proof.Machine.execVinUndervoltage s
  | .vinOvervoltage => Sys2Proof.Machine.execVinOvervoltage s
  | .vinLoss => Sys2Proof.Machine.execVinLoss s
  | .ftrefLoss => Sys2Proof.Machine.execFtrefLoss s
  | .ftrefReturn => Sys2Proof.Machine.execFtrefReturn s
  | .linkUp rate width flit => Sys2Proof.Machine.execLinkUp rate width flit s
  | .nodeCoreInstruction h op => Sys2Proof.Machine.execNodeCoreInstruction h op s
  | .mtimecmpExpiry h => Sys2Proof.Machine.execMtimecmpExpiry h s
  | .spdmRequest bytes => Sys2Proof.Machine.execSpdmRequest bytes s

end Sys2Proof.Machine
end

