-- ==== Sys2Proof/Machine/UnitWord.lean ====
section
/-! DEFINITION. The 64-bit words of the unit's instructions: the header, the six formats, the opcode map, both ways, and what a word
does that a strand meets (R226 to R235, R264, R265). -/

namespace Sys2Proof.Machine

open Sys2Proof

/-! ### The formats -/

/-- Bits [11:4] and [3:0] of a word, before the guard: OP and CLASS (R226). -/
def wordHead (cls op pg : Nat) (pn : Bool) : List (Nat × Nat) := [(4, cls), (8, op), (3, pg), (1, b2n pn)]

/-- A word of format A (R228). -/
def encA (f : FmtA) (cls op : Nat) : Nat :=
  joinBits (wordHead cls op f.pg f.pn ++ [(8, f.d), (8, f.a), (8, f.b), (8, f.c), (4, f.mod), (3, f.rm), (1, b2n f.sat), (3, f.usrc),
    (5, f.rsvd)])
/-- A word of format I (R229). -/
def encI (f : FmtI) (cls op : Nat) : Nat :=
  joinBits (wordHead cls op f.pg f.pn ++ [(8, f.d), (8, f.a), (32, f.imm.toNat)])
/-- A word of format M: `op` is OP[5:0] (R230). -/
def encM (f : FmtM) (cls op : Nat) : Nat :=
  joinBits (wordHead cls (op + 64 * f.ord) f.pg f.pn ++ [(8, f.data), (8, f.base), (1, b2n f.baseU), (3, f.size), (1, b2n f.sign),
    (2, f.scope), (1, b2n f.space), (24, f.off.toNat)])
/-- A word of format B (R231). -/
def encB (f : FmtB) (cls op : Nat) : Nat := joinBits (wordHead cls op f.pg f.pn ++ [(8, f.reg), (40, f.target.toNat)])
/-- A word of format T (R232). -/
def encT (f : FmtT) (cls op : Nat) : Nat :=
  joinBits (wordHead cls op f.pg f.pn ++ [(5, f.x), (5, f.y), (5, f.z), (3, f.mg), (6, f.u), (6, f.sub), (3, f.ty), (3, f.rm),
    (1, b2n f.sat), (4, f.seg), (2, f.mode), (1, b2n f.zf), (1, b2n f.w), (2, f.ws), (1, b2n f.rsvd)])
/-- A word of format Q (R264). -/
def encQ (f : FmtQ) (cls op : Nat) : Nat :=
  joinBits (wordHead cls op f.pg f.pn ++ [(6, f.us), (6, f.ud), (6, f.ug), (5, f.ac), (5, f.td), (3, f.qf), (2, f.h), (3, f.rm),
    (1, b2n f.sf), (2, f.cap), (2, f.ws), (7, f.rsvd)])

/-- The fields of a word of format A. -/
def wordA (w : Nat) : FmtA :=
  { pg := bits w 12 3, pn := bit w 15, d := bits w 16 8, a := bits w 24 8, b := bits w 32 8, c := bits w 40 8, mod := bits w 48 4
    rm := bits w 52 3, sat := bit w 55, usrc := bits w 56 3, rsvd := bits w 59 5 }
/-- The fields of a word of format I. -/
def wordI (w : Nat) : FmtI :=
  { pg := bits w 12 3, pn := bit w 15, d := bits w 16 8, a := bits w 24 8, imm := BitVec.ofNat 32 (bits w 32 32) }
/-- The fields of a word of format M. -/
def wordM (w : Nat) : FmtM :=
  { pg := bits w 12 3, pn := bit w 15, ord := bits w 10 2, data := bits w 16 8, base := bits w 24 8, baseU := bit w 32
    size := bits w 33 3, sign := bit w 36, scope := bits w 37 2, space := bit w 39, off := BitVec.ofNat 24 (bits w 40 24) }
/-- The fields of a word of format B. -/
def wordB (w : Nat) : FmtB :=
  { pg := bits w 12 3, pn := bit w 15, reg := bits w 16 8, target := BitVec.ofNat 40 (bits w 24 40) }
/-- The fields of a word of format T. -/
def wordT (w : Nat) : FmtT :=
  { pg := bits w 12 3, pn := bit w 15, x := bits w 16 5, y := bits w 21 5, z := bits w 26 5, mg := bits w 31 3, u := bits w 34 6
    sub := bits w 40 6, ty := bits w 46 3, rm := bits w 49 3, sat := bit w 52, seg := bits w 53 4, mode := bits w 57 2
    zf := bit w 59, w := bit w 60, ws := bits w 61 2, rsvd := bit w 63 }
/-- The fields of a word of format Q. -/
def wordQ (w : Nat) : FmtQ :=
  { pg := bits w 12 3, pn := bit w 15, us := bits w 16 6, ud := bits w 22 6, ug := bits w 28 6, ac := bits w 34 5, td := bits w 39 5
    qf := bits w 44 3, h := bits w 47 2, rm := bits w 49 3, sf := bit w 52, cap := bits w 53 2, ws := bits w 55 2, rsvd := bits w 57 7 }

/-! ### The opcode map (R227, R234, R265) -/

/-- CTL: an OP that the map does not list is reserved (R234). -/
def opCtl (u slot : Nat) (f : FmtB) : Nat → Option Instr
  | 0x00 => some (.nop u slot f)
  | 0x01 => some (.exit u slot f)
  | 0x02 => some (.bra u slot f)
  | 0x03 => some (.bru u slot f)
  | 0x04 => some (.brc u slot f)
  | 0x05 => some (.divPush u slot f)
  | 0x06 => some (.rcv u slot f)
  | 0x07 => some (.call u slot f)
  | 0x08 => some (.ret u slot f)
  | 0x09 => some (.collEnter u slot f)
  | 0x0A => some (.collExit u slot f)
  | _ => none
/-- IALU: an OP that the map does not list is reserved (R234). -/
def opIalu (u slot : Nat) (f : FmtA) : Nat → Option Instr
  | 0x00 => some (.mov u slot f)
  | 0x01 => some (.add u slot f)
  | 0x02 => some (.sub u slot f)
  | 0x03 => some (.mul u slot f)
  | 0x04 => some (.mulhi u slot f)
  | 0x05 => some (.mad u slot f)
  | 0x06 => some (.and u slot f)
  | 0x07 => some (.or u slot f)
  | 0x08 => some (.xor u slot f)
  | 0x09 => some (.not u slot f)
  | 0x0A => some (.shl u slot f)
  | 0x0B => some (.shr u slot f)
  | 0x0C => some (.shra u slot f)
  | 0x0D => some (.min u slot f)
  | 0x0E => some (.max u slot f)
  | 0x0F => some (.sel u slot f)
  | 0x10 => some (.setp u slot f)
  | 0x11 => some (.popc u slot f)
  | 0x12 => some (.clz u slot f)
  | _ => none
/-- FALU: an OP that the map does not list is reserved (R234). -/
def opFalu (u slot : Nat) (f : FmtA) : Nat → Option Instr
  | 0x00 => some (.fmov u slot f)
  | 0x01 => some (.fadd u slot f)
  | 0x02 => some (.fsub u slot f)
  | 0x03 => some (.fmul u slot f)
  | 0x04 => some (.ffma u slot f)
  | 0x05 => some (.fmin u slot f)
  | 0x06 => some (.fmax u slot f)
  | 0x07 => some (.fabs u slot f)
  | 0x08 => some (.fneg u slot f)
  | 0x10 => some (.fdiv u slot f)
  | 0x11 => some (.fsqrt u slot f)
  | 0x12 => some (.frcp u slot f)
  | 0x13 => some (.frsqrt u slot f)
  | 0x14 => some (.fexp2 u slot f)
  | 0x15 => some (.fexp u slot f)
  | 0x16 => some (.flog2 u slot f)
  | 0x17 => some (.flog u slot f)
  | 0x18 => some (.fsinpi u slot f)
  | 0x19 => some (.fcospi u slot f)
  | 0x1A => some (.ftanh u slot f)
  | 0x20 => some (.fsetp u slot f)
  | 0x21 => some (.fcvt u slot f)
  | _ => none
/-- UALU: an OP that the map does not list is reserved (R234). -/
def opUalu (u slot : Nat) (f : FmtA) : Nat → Option Instr
  | 0x00 => some (.umov u slot f)
  | 0x01 => some (.uadd u slot f)
  | 0x02 => some (.usub u slot f)
  | 0x03 => some (.umul u slot f)
  | 0x04 => some (.umulhi u slot f)
  | 0x05 => some (.umad u slot f)
  | 0x06 => some (.uand u slot f)
  | 0x07 => some (.uor u slot f)
  | 0x08 => some (.uxor u slot f)
  | 0x09 => some (.unot u slot f)
  | 0x0A => some (.ushl u slot f)
  | 0x0B => some (.ushr u slot f)
  | 0x0C => some (.ushra u slot f)
  | 0x0D => some (.umin u slot f)
  | 0x0E => some (.umax u slot f)
  | 0x0F => some (.usel u slot f)
  | 0x10 => some (.uset u slot f)
  | 0x11 => some (.upopc u slot f)
  | 0x12 => some (.uclz u slot f)
  | _ => none
/-- IMM: an OP that the map does not list is reserved (R234). -/
def opImm (u slot : Nat) (f : FmtI) : Nat → Option Instr
  | 0x00 => some (.movi u slot f)
  | 0x01 => some (.addi u slot f)
  | 0x02 => some (.umovi u slot f)
  | 0x03 => some (.uaddi u slot f)
  | 0x04 => some (.umovhi u slot f)
  | _ => none
/-- LANE: an OP that the map does not list is reserved (R234). -/
def opLane (u slot : Nat) (f : FmtA) : Nat → Option Instr
  | 0x00 => some (.lshfl u slot f)
  | 0x01 => some (.lbal u slot f)
  | 0x02 => some (.lredAdd u slot f)
  | 0x03 => some (.lredMin u slot f)
  | 0x04 => some (.lredMax u slot f)
  | 0x05 => some (.lfirst u slot f)
  | _ => none
/-- PRED: an OP that the map does not list is reserved (R234). -/
def opPred (u slot : Nat) (f : FmtA) : Nat → Option Instr
  | 0x00 => some (.pand u slot f)
  | 0x01 => some (.por u slot f)
  | 0x02 => some (.pxor u slot f)
  | 0x03 => some (.pandn u slot f)
  | 0x04 => some (.pnot u slot f)
  | 0x05 => some (.pfromu u slot f)
  | 0x06 => some (.ptou u slot f)
  | _ => none
/-- MEM: an OP that the map does not list is reserved (R234). -/
def opMem (u slot : Nat) (f : FmtM) : Nat → Option Instr
  | 0x00 => some (.ld u slot f)
  | 0x01 => some (.st u slot f)
  | 0x02 => some (.uld u slot f)
  | 0x08 => some (.atomAdd u slot f)
  | 0x09 => some (.atomSmin u slot f)
  | 0x0A => some (.atomSmax u slot f)
  | 0x0B => some (.atomUmin u slot f)
  | 0x0C => some (.atomUmax u slot f)
  | 0x0D => some (.atomAnd u slot f)
  | 0x0E => some (.atomOr u slot f)
  | 0x0F => some (.atomXor u slot f)
  | 0x10 => some (.atomExch u slot f)
  | 0x11 => some (.atomCas u slot f)
  | 0x12 => some (.atomFadd u slot f)
  | 0x20 => some (.fenceAcq u slot f)
  | 0x21 => some (.fenceRel u slot f)
  | 0x22 => some (.fenceAr u slot f)
  | _ => none
/-- TILE: an OP that the map does not list is reserved (R234). -/
def opTile (u slot : Nat) (f : FmtT) : Nat → Option Instr
  | 0x00 => some (.tld u slot f)
  | 0x01 => some (.tst u slot f)
  | 0x02 => some (.tldSf u slot f)
  | 0x03 => some (.tstSf u slot f)
  | 0x04 => some (.tzero u slot f)
  | 0x05 => some (.tsetvl u slot f)
  | _ => none
/-- MMA: an OP that the map does not list is reserved (R234). -/
def opMma (u slot : Nat) (f : FmtT) : Nat → Option Instr
  | 0x00 => some (.tmma u slot f)
  | 0x01 => some (.wtile u slot f)
  | 0x02 => some (.wchk u slot f)
  | _ => none
/-- VTE: an OP that the map does not list is reserved (R234). -/
def opVte (u slot : Nat) (f : FmtT) : Nat → Option Instr
  | 0x00 => some (.tew u slot f)
  | 0x01 => some (.tcmp u slot f)
  | 0x02 => some (.tmsk u slot f)
  | 0x03 => some (.tredRow u slot f)
  | 0x04 => some (.tredCol u slot f)
  | 0x05 => some (.tpermRow u slot f)
  | 0x06 => some (.tpermCol u slot f)
  | 0x07 => some (.tpermT u slot f)
  | 0x08 => some (.tqnt u slot f)
  | 0x09 => some (.tcvt u slot f)
  | 0x0A => some (.tcvtDq u slot f)
  | 0x0B => some (.tstat u slot f)
  | _ => none
/-- ASYNC: an OP that the map does not list is reserved (R265). -/
def opAsync (u slot : Nat) (f : FmtQ) : Nat → Option Instr
  | 0x00 => some (.acpyH u slot f)
  | 0x01 => some (.acpyT u slot f)
  | 0x02 => some (.acpySf u slot f)
  | 0x03 => some (.acpyQ u slot f)
  | 0x10 => some (.acwait u slot f)
  | 0x11 => some (.acread u slot f)
  | 0x20 => some (.blyArrive u slot f)
  | 0x21 => some (.blyWait u slot f)
  | 0x22 => some (.blySync u slot f)
  | _ => none
/-- SYS: an OP that the map does not list is reserved (R234). -/
def opSys (u slot : Nat) (f : FmtA) : Nat → Option Instr
  | 0x00 => some (.sread u slot f)
  | 0x01 => some (.sreadw u slot f)
  | _ => none

/-- The instruction that a word spells for a strand: none where CLASS or OP is reserved (R226, R227). In MEM the low six bits of OP
name the operation, the ordering above them (R230). -/
def unitInstr (u slot w : Nat) : Option Instr :=
  let op := bits w 4 8
  match bits w 0 4 with
  | 0 => opCtl u slot (wordB w) op
  | 1 => opIalu u slot (wordA w) op
  | 2 => opFalu u slot (wordA w) op
  | 3 => opUalu u slot (wordA w) op
  | 4 => opImm u slot (wordI w) op
  | 5 => opLane u slot (wordA w) op
  | 6 => opPred u slot (wordA w) op
  | 7 => opMem u slot (wordM w) (op % 64)
  | 8 => opTile u slot (wordT w) op
  | 9 => opMma u slot (wordT w) op
  | 10 => opVte u slot (wordT w) op
  | 11 => opAsync u slot (wordQ w) op
  | 12 => opSys u slot (wordA w) op
  | _ => none

/-- The word of a unit instruction; none for any other command. -/
def unitWord : Instr → Option Nat
  | .nop _ _ f => some (encB f 0 0x00)
  | .exit _ _ f => some (encB f 0 0x01)
  | .bra _ _ f => some (encB f 0 0x02)
  | .bru _ _ f => some (encB f 0 0x03)
  | .brc _ _ f => some (encB f 0 0x04)
  | .divPush _ _ f => some (encB f 0 0x05)
  | .rcv _ _ f => some (encB f 0 0x06)
  | .call _ _ f => some (encB f 0 0x07)
  | .ret _ _ f => some (encB f 0 0x08)
  | .collEnter _ _ f => some (encB f 0 0x09)
  | .collExit _ _ f => some (encB f 0 0x0A)
  | .mov _ _ f => some (encA f 1 0x00)
  | .add _ _ f => some (encA f 1 0x01)
  | .sub _ _ f => some (encA f 1 0x02)
  | .mul _ _ f => some (encA f 1 0x03)
  | .mulhi _ _ f => some (encA f 1 0x04)
  | .mad _ _ f => some (encA f 1 0x05)
  | .and _ _ f => some (encA f 1 0x06)
  | .or _ _ f => some (encA f 1 0x07)
  | .xor _ _ f => some (encA f 1 0x08)
  | .not _ _ f => some (encA f 1 0x09)
  | .shl _ _ f => some (encA f 1 0x0A)
  | .shr _ _ f => some (encA f 1 0x0B)
  | .shra _ _ f => some (encA f 1 0x0C)
  | .min _ _ f => some (encA f 1 0x0D)
  | .max _ _ f => some (encA f 1 0x0E)
  | .sel _ _ f => some (encA f 1 0x0F)
  | .setp _ _ f => some (encA f 1 0x10)
  | .popc _ _ f => some (encA f 1 0x11)
  | .clz _ _ f => some (encA f 1 0x12)
  | .fmov _ _ f => some (encA f 2 0x00)
  | .fadd _ _ f => some (encA f 2 0x01)
  | .fsub _ _ f => some (encA f 2 0x02)
  | .fmul _ _ f => some (encA f 2 0x03)
  | .ffma _ _ f => some (encA f 2 0x04)
  | .fmin _ _ f => some (encA f 2 0x05)
  | .fmax _ _ f => some (encA f 2 0x06)
  | .fabs _ _ f => some (encA f 2 0x07)
  | .fneg _ _ f => some (encA f 2 0x08)
  | .fdiv _ _ f => some (encA f 2 0x10)
  | .fsqrt _ _ f => some (encA f 2 0x11)
  | .frcp _ _ f => some (encA f 2 0x12)
  | .frsqrt _ _ f => some (encA f 2 0x13)
  | .fexp2 _ _ f => some (encA f 2 0x14)
  | .fexp _ _ f => some (encA f 2 0x15)
  | .flog2 _ _ f => some (encA f 2 0x16)
  | .flog _ _ f => some (encA f 2 0x17)
  | .fsinpi _ _ f => some (encA f 2 0x18)
  | .fcospi _ _ f => some (encA f 2 0x19)
  | .ftanh _ _ f => some (encA f 2 0x1A)
  | .fsetp _ _ f => some (encA f 2 0x20)
  | .fcvt _ _ f => some (encA f 2 0x21)
  | .umov _ _ f => some (encA f 3 0x00)
  | .uadd _ _ f => some (encA f 3 0x01)
  | .usub _ _ f => some (encA f 3 0x02)
  | .umul _ _ f => some (encA f 3 0x03)
  | .umulhi _ _ f => some (encA f 3 0x04)
  | .umad _ _ f => some (encA f 3 0x05)
  | .uand _ _ f => some (encA f 3 0x06)
  | .uor _ _ f => some (encA f 3 0x07)
  | .uxor _ _ f => some (encA f 3 0x08)
  | .unot _ _ f => some (encA f 3 0x09)
  | .ushl _ _ f => some (encA f 3 0x0A)
  | .ushr _ _ f => some (encA f 3 0x0B)
  | .ushra _ _ f => some (encA f 3 0x0C)
  | .umin _ _ f => some (encA f 3 0x0D)
  | .umax _ _ f => some (encA f 3 0x0E)
  | .usel _ _ f => some (encA f 3 0x0F)
  | .uset _ _ f => some (encA f 3 0x10)
  | .upopc _ _ f => some (encA f 3 0x11)
  | .uclz _ _ f => some (encA f 3 0x12)
  | .movi _ _ f => some (encI f 4 0x00)
  | .addi _ _ f => some (encI f 4 0x01)
  | .umovi _ _ f => some (encI f 4 0x02)
  | .uaddi _ _ f => some (encI f 4 0x03)
  | .umovhi _ _ f => some (encI f 4 0x04)
  | .lshfl _ _ f => some (encA f 5 0x00)
  | .lbal _ _ f => some (encA f 5 0x01)
  | .lredAdd _ _ f => some (encA f 5 0x02)
  | .lredMin _ _ f => some (encA f 5 0x03)
  | .lredMax _ _ f => some (encA f 5 0x04)
  | .lfirst _ _ f => some (encA f 5 0x05)
  | .pand _ _ f => some (encA f 6 0x00)
  | .por _ _ f => some (encA f 6 0x01)
  | .pxor _ _ f => some (encA f 6 0x02)
  | .pandn _ _ f => some (encA f 6 0x03)
  | .pnot _ _ f => some (encA f 6 0x04)
  | .pfromu _ _ f => some (encA f 6 0x05)
  | .ptou _ _ f => some (encA f 6 0x06)
  | .ld _ _ f => some (encM f 7 0x00)
  | .st _ _ f => some (encM f 7 0x01)
  | .uld _ _ f => some (encM f 7 0x02)
  | .atomAdd _ _ f => some (encM f 7 0x08)
  | .atomSmin _ _ f => some (encM f 7 0x09)
  | .atomSmax _ _ f => some (encM f 7 0x0A)
  | .atomUmin _ _ f => some (encM f 7 0x0B)
  | .atomUmax _ _ f => some (encM f 7 0x0C)
  | .atomAnd _ _ f => some (encM f 7 0x0D)
  | .atomOr _ _ f => some (encM f 7 0x0E)
  | .atomXor _ _ f => some (encM f 7 0x0F)
  | .atomExch _ _ f => some (encM f 7 0x10)
  | .atomCas _ _ f => some (encM f 7 0x11)
  | .atomFadd _ _ f => some (encM f 7 0x12)
  | .fenceAcq _ _ f => some (encM f 7 0x20)
  | .fenceRel _ _ f => some (encM f 7 0x21)
  | .fenceAr _ _ f => some (encM f 7 0x22)
  | .tld _ _ f => some (encT f 8 0x00)
  | .tst _ _ f => some (encT f 8 0x01)
  | .tldSf _ _ f => some (encT f 8 0x02)
  | .tstSf _ _ f => some (encT f 8 0x03)
  | .tzero _ _ f => some (encT f 8 0x04)
  | .tsetvl _ _ f => some (encT f 8 0x05)
  | .tmma _ _ f => some (encT f 9 0x00)
  | .wtile _ _ f => some (encT f 9 0x01)
  | .wchk _ _ f => some (encT f 9 0x02)
  | .tew _ _ f => some (encT f 10 0x00)
  | .tcmp _ _ f => some (encT f 10 0x01)
  | .tmsk _ _ f => some (encT f 10 0x02)
  | .tredRow _ _ f => some (encT f 10 0x03)
  | .tredCol _ _ f => some (encT f 10 0x04)
  | .tpermRow _ _ f => some (encT f 10 0x05)
  | .tpermCol _ _ f => some (encT f 10 0x06)
  | .tpermT _ _ f => some (encT f 10 0x07)
  | .tqnt _ _ f => some (encT f 10 0x08)
  | .tcvt _ _ f => some (encT f 10 0x09)
  | .tcvtDq _ _ f => some (encT f 10 0x0A)
  | .tstat _ _ f => some (encT f 10 0x0B)
  | .acpyH _ _ f => some (encQ f 11 0x00)
  | .acpyT _ _ f => some (encQ f 11 0x01)
  | .acpySf _ _ f => some (encQ f 11 0x02)
  | .acpyQ _ _ f => some (encQ f 11 0x03)
  | .acwait _ _ f => some (encQ f 11 0x10)
  | .acread _ _ f => some (encQ f 11 0x11)
  | .blyArrive _ _ f => some (encQ f 11 0x20)
  | .blyWait _ _ f => some (encQ f 11 0x21)
  | .blySync _ _ f => some (encQ f 11 0x22)
  | .sread _ _ f => some (encA f 12 0x00)
  | .sreadw _ _ f => some (encA f 12 0x01)
  | _ => none

/-- What a strand does at a word: the instruction it spells, or, where CLASS or OP is reserved, the launch ends with STATE, cause
ILLEGAL (R235). -/
def execWord (u slot w : Nat) (s : State) : Out State :=
  match unitInstr u slot w with
  | some i => exec i s
  | none => .next (s.issue u slot (fun _ => .error illegal))

end Sys2Proof.Machine
end

