-- ==== Sys2Proof/Safety.lean ====
section
/-! DEFINITION. The words the statements are made of: rows of results, and what every command keeps. -/

namespace Sys2Proof.Machine

open Sys2Proof

/-- One row of a table of thread instructions: the operation's code (R234), the instruction, the fields it uses, the value each lane
delivers and the counts each lane makes (R204). -/
structure LaneRow where
  op : Nat
  i : Instr
  shape : ShapeA
  value : Nat → Nat
  count : Nat → Ev := fun _ => {}

/-- One row of a table of uniform instructions: the code of a UALU operation, the instruction, the fields it uses, and the strand it leaves
but for its PC. -/
structure UniformRow where
  op : Nat := 0
  i : Instr
  shape : ShapeA
  t : Strand

/-! ### Memory instructions (R230, R233, R242) -/

/-- The address of a lane (R242): base plus sign-extended offset, the low 32 bits in hank memory. -/
def laneAddress (f : FmtM) (t : Strand) (off : Int) (l : Nat) : Nat :=
  ofS 64 (((if f.baseU then t.rdU f.base else t.rdWX true l f.base : Nat) : Int) + off) % 2 ^ (if f.space then 32 else 64)

/-- The base of a memory instruction names registers that exist (R223, R225, R230). -/
def BaseFits (f : FmtM) (regs : Nat) : Prop :=
  if f.baseU then f.base < 64 else f.base % 2 = 0 ∧ f.base + 1 < regs

/-- Addresses of n bytes are aligned, and in hank memory lie below HMEM × 1,024 (R242). -/
def Reachable (align n : Nat) (hmem : Bool) (c : Ctx) (as : List Nat) : Prop :=
  ∀ a ∈ as, a % align = 0 ∧ (hmem → a + n ≤ 1024 * c.l.desc.hmem)

/-- A legal LD or ST word within the allocation, its addresses in order (R223, R225, R230, R242, R301). -/
def LdStFine (store : Bool) (f : FmtM) (c : Ctx) : Prop :=
  let k := if f.size ≤ 2 then 1 else if f.size = 3 then 2 else 4
  f.pg < 8 ∧ f.size < 5 ∧ BaseFits f c.l.desc.regs ∧ f.data % k = 0 ∧ f.data + k ≤ c.l.desc.regs ∧
    (if store then f.ord = 0 ∨ f.ord = 2 else f.ord < 2) ∧
    Reachable (2 ^ f.size) (2 ^ f.size) f.space c
      ((lanesOf (c.t.acting f.pg f.pn)).map (laneAddress f c.t f.off.toInt))

/-- The memory instruction that a LD or ST word makes: a piece for each acting lane, cut where it crosses a line (R242). -/
def ldStOp (store : Bool) (f : FmtM) (c : Ctx) : MemOp :=
  let k := if f.size ≤ 2 then 1 else if f.size = 3 then 2 else 4
  { kind := if store then .st else .ld, ord := f.ord, scope := f.scope, dst := f.data, sign := f.sign, hmem := f.space,
    pieces := (lanesOf (c.t.acting f.pg f.pn)).flatMap (fun l =>
      piecesOf l (laneAddress f c.t f.off.toInt l) (2 ^ f.size)
        (if store then ((List.range k).flatMap (fun i => leBytes 4 (c.t.rdW l (f.data + i)))).take (2 ^ f.size) else [])) }

/-- A legal ULD word, its address aligned (R234, R242). -/
def UldFine (f : FmtM) (c : Ctx) : Prop :=
  f.pg = 0 ∧ f.pn = false ∧ f.size < 4 ∧ f.baseU = true ∧ f.base < 64 ∧ f.space = false ∧ f.data < 64 ∧ f.ord < 2 ∧
    laneAddress f c.t f.off.toInt 0 % 2 ^ f.size = 0

/-- The memory instruction that a ULD word makes. -/
def uldOp (f : FmtM) (c : Ctx) : MemOp :=
  { kind := .uld, ord := f.ord, scope := f.scope, dst := f.data, sign := f.sign,
    pieces := piecesOf 0 (laneAddress f c.t f.off.toInt 0) (2 ^ f.size) [] }

/-- A legal ATOM word within the allocation, its addresses in order; OFF names SRC and CMP (R230, R234, R242). -/
def AtomFine (op : Nat) (f : FmtM) (c : Ctx) : Prop :=
  let src := f.off.toNat % 256
  let cmp := f.off.toNat / 256 % 256
  let n := if f.size = 3 then 2 else 1
  f.pg < 8 ∧ (f.size = 2 ∨ f.size = 3 ∧ op ≠ 0x12) ∧ f.off.toNat < 65536 ∧ f.ord < 4 ∧ BaseFits f c.l.desc.regs ∧
    (f.data % n = 0 ∧ src % n = 0 ∧ (op = 0x11 → cmp % n = 0)) ∧
    (f.data + n ≤ c.l.desc.regs ∧ src + n ≤ c.l.desc.regs ∧ (op = 0x11 → cmp + n ≤ c.l.desc.regs)) ∧
    Reachable (2 ^ f.size) (2 ^ f.size) f.space c ((lanesOf (c.t.acting f.pg f.pn)).map (laneAddress f c.t 0))

/-- The memory instruction that an ATOM word makes: a piece for each acting lane in ascending order (R243). -/
def atomOp (op : Nat) (f : FmtM) (c : Ctx) : MemOp :=
  let wide := f.size == 3
  { kind := .atom, ord := f.ord, scope := f.scope, op := op, dst := f.data, hmem := f.space,
    pieces := (lanesOf (c.t.acting f.pg f.pn)).map (fun l =>
      { lane := l, va := laneAddress f c.t 0 l, len := 2 ^ f.size,
        bytes := leBytes (2 ^ f.size) (c.t.rdWX wide l (f.off.toNat % 256)) ++
          leBytes (2 ^ f.size) (c.t.rdWX wide l (f.off.toNat / 256 % 256)) }) }

/-- A legal FENCE word (R234). -/
def FenceFine (f : FmtM) : Prop :=
  f.pg = 0 ∧ f.pn = false ∧ f.ord = 0 ∧ f.data = 0 ∧ f.base = 0 ∧ f.size = 0 ∧ f.sign = false ∧ f.space = false ∧ f.off = 0

/-- The memory instruction that a FENCE word makes; bit 0 of `ord` acquires, bit 1 releases. -/
def fenceOp (ord : Nat) (f : FmtM) : MemOp := { kind := .fence, ord := ord, scope := f.scope, hmem := true }

/-- A strand inside a collective region with every lane active (R250). -/
def Together (c : Ctx) : Prop := 0 < c.t.cd ∧ c.t.active = 0xFFFFFFFF

/-- Row addresses of TLD and TST (R242). -/
def tileRowAddress (f : FmtT) (c : Ctx) (r : Nat) : Nat :=
  (c.t.rdU f.u + r * c.t.rdU f.sub) % 2 ^ (if f.mode.testBit 0 then 32 else 64)
/-- The address of TLD.SF and TST.SF (R242). -/
def sideAddress (f : FmtT) (c : Ctx) : Nat := c.t.rdU f.u % 2 ^ (if f.mode.testBit 0 then 32 else 64)

/-- A legal TLD or TST (rows) or TLD.SF or TST.SF (the side-file) on an allocated tile that no TMMA still uses, in a collective
region, its addresses in order (R142, R225, R233, R242, R250). -/
def TileMoveFine (rows store : Bool) (f : FmtT) (s : State) (c : Ctx) : Prop :=
  ({ x := true, u := true, sub := if rows then 6 else 0, mode := 1 } : ShapeT).legal f ∧ f.x < c.l.desc.tiles ∧ Together c ∧
    (s.unit c.u).mmaBlocks c.hank (if store && rows then [f.x] else []) (if store then [] else [f.x]) = false ∧
    (if rows then Reachable 16 128 (f.mode.testBit 0) c ((List.range 32).map (tileRowAddress f c))
     else Reachable 16 1024 (f.mode.testBit 0) c [sideAddress f c])

/-- The memory instruction that a tile transfer makes. -/
def tileMoveOp (rows store : Bool) (f : FmtT) (c : Ctx) : MemOp :=
  { kind := if rows then (if store then .tst else .tld) else (if store then .tstSf else .tldSf), scope := 2, dst := f.x,
    hmem := f.mode.testBit 0,
    pieces := if rows then (List.range 32).flatMap (fun r => piecesOf r (tileRowAddress f c r) 128
        (if store then lineBytes (c.hank.tileRow f.x r) else []))
      else piecesOf 0 (sideAddress f c) 1024
        (if store then (List.range 32).flatMap (fun r => leBytes 32 (c.hank.sideRow f.x r).toNat) else []) }

/-- Serve the pieces of a memory instruction one after another in hank memory (R243, R308): the state, and the pieces with
what each has read. -/
def serveHank (c : Ctx) (o : MemOp) (s : State) : State × List Piece :=
  o.pieces.foldl (fun acc p => match acc.1.hankAt c.u c.slot with
    | none => acc
    | some h =>
      let old := h.hread p.va p.len
      let put := fun (bs : List Byte) => acc.1.onHank c (fun _ => h.hwrite p.va bs)
      match o.kind with
      | .st | .tst | .tstSf => (put p.bytes, acc.2 ++ [{ p with got := some [] }])
      | .atom =>
        let new := atomicOp (8 * p.len) o.op (leNat old) (leNat (p.bytes.take p.len)) (leNat ((p.bytes.drop p.len).take p.len))
        ((new.map (fun v => put (leBytes p.len v))).getD acc.1, acc.2 ++ [{ p with got := some (leBytes p.len (leNat old)) }])
      | _ => (acc.1, acc.2 ++ [{ p with got := some old }])) (s, [])

/-- The release part of a memory instruction has nothing to wait for (R313). -/
def ReleaseDone (s : State) (u : Nat) (o : MemOp) : Prop :=
  o.ord.testBit 1 = true → (s.unit u).wc = [] ∧ (o.reach < 3 ∨ (s.unit u).remoteStores = 0 ∧ s.storesOut = [])

/-! ### Stacks and queues -/

/-- The entries of a strand's divergence stack, newest first, spilled blocks last (R245, R247). -/
def Strand.entries (t : Strand) : List DivEntry := t.stack ++ t.spilled.flatten

/-- The next command of a queue may be admitted: it is ready, its turn has come, and fewer than 8,192 commands are in flight (R448, R455 to
R457, R624). -/
def MayAdmit (s : State) (q : Nat) : Prop :=
  s.alive = true ∧ s.lhr.stage = 0 ∧ (s.queue q).state = .running ∧ (s.queue q).headSeq ≠ (s.queue q).tail ∧
    s.cmds.length < 8192 ∧ (∀ c ∈ s.cmds, c.own q = true → s.holdsBack c = false) ∧
    ∀ x ∈ s.queues, x.2.served = (s.queue q).served → s.cmdReady x.1 = true →
      s.queueDist (s.queue q).served q ≤ s.queueDist (s.queue q).served x.1

/-- The state once the next command of a queue is counted in flight, its head has moved and the turn has passed on (R455). -/
def counted (s : State) (q : Nat) (c : CmdImg) : State :=
  ((s.passTurn q).addCmd (s.nextCommand q c)).modQueue q (fun x => { x with headSeq := (x.headSeq + 1) % 2 ^ 32 })

/-- Every numbered part of the state is listed in canonical form. -/
def Tables (s : State) : Prop :=
  Tbl.wf {} s.units = true ∧ Tbl.wf {} s.clusters = true ∧ Tbl.wf {} s.agents = true ∧ Tbl.wf {} s.slices = true ∧
    Tbl.wf {} s.hbm = true ∧ Tbl.wf {} s.queues = true ∧ Tbl.wf {} s.dma = true ∧ Tbl.wf {} s.bends = true ∧
    Tbl.wf {} s.dlk = true ∧ Tbl.wf 0 s.lastUnit = true ∧ Tbl.wf 0 s.nextQueue = true ∧ Tbl.wf 0 s.scratch = true ∧ Tbl.wf {} s.hws.ports = true ∧ Tbl.wf {} s.hws.peers = true ∧
    Tbl.wf {} s.lhr.doms = true ∧ Tbl.wf {} s.lhr.dies = true ∧ Tbl.wf {} s.ncc.harts = true ∧ Tbl.wf {} s.ncc.kwait = true

/-! ### Coherence messages (R375 to R388) -/

/-- A message may arrive: nothing sent ahead of it on its channel is still in flight, and its home serves (R375, R401). -/
def MayArrive (s : State) (m : Msg) : Prop :=
  s.alive = true ∧ s.coh.serving = true ∧ senderOk m = true ∧
    (m ∈ s.net → ∀ x ∈ s.net.takeWhile (fun x => !(x == m)), s.sameChannel x m = false)

/-- The state with a message out of those in flight. -/
def taken (s : State) (m : Msg) : State := { s with net := s.net.erase m }

/-- A request of a living agent that its home serves as it arrives, with none waiting there (R352, R381, R388, R389), its directory entry on
chip or none at all (R394). -/
def ServedNow (s : State) (m : Msg) (e : Option DirEntry) : Prop :=
  let k := s.slice (s.homeOf m.line)
  MayArrive s m ∧ m.src ∉ s.coh.dead ∧ s.coh.reclaim = false ∧ k.busyOf m.line = none ∧ k.busy.length < 256 ∧
    s.setBlocked m.line = false ∧ k.waiting = [] ∧ (∀ b ∈ k.busy, b.stalled = false) ∧ s.dirReady m = true ∧ k.entry m.line = e ∧
    (e = none → ∀ i a, s.spillSet m.line = some (i, a) → i ∉ k.summary)

/-- An answer that a busy line waits for (R383): the home's record of the line, the sender's place in it. -/
def AnswerDue (s : State) (m : Msg) (b : BusyLine) (owner : Bool) : Prop :=
  MayArrive s m ∧ m.dst = homeId ∧ m.src ∉ s.coh.dead ∧ (s.slice (s.homeOf m.line)).busyOf m.line = some b ∧ b.why = .bs ∧
    b.owed.find? (fun o => o.1 == m.src) = some (m.src, owner)

/-! ### What every command keeps -/

/-- The numbered parts and memory are in canonical form. -/
def Canonical (s : State) : Prop := Tables s ∧ Memory.wf s.mem = true

/-- Fuses only blow (R673, R675): counts rise, revocations stay, and nothing else changes but the bytes that show it (R677). -/
def Fuses.only (f g : Fuses) : Prop :=
  f.countMarver ≤ g.countMarver ∧ f.countNode ≤ g.countNode ∧ (∀ k, f.ownerRevoked.getLsbD k = true → g.ownerRevoked.getLsbD k = true) ∧
    g = { f with countMarver := g.countMarver, countNode := g.countNode, ownerRevoked := g.ownerRevoked, words := g.words }

/-- Fences stay (R657). -/
def Err.fencesStay (e f : Err) : Prop :=
  (∀ i, e.fmUnit.getLsbD i = true → f.fmUnit.getLsbD i = true) ∧ (∀ i, e.fmCluster.getLsbD i = true → f.fmCluster.getLsbD i = true) ∧
    (∀ i, e.fmRegion.getLsbD i = true → f.fmRegion.getLsbD i = true) ∧ (∀ i, e.fmCc.getLsbD i = true → f.fmCc.getLsbD i = true) ∧
    ∀ i, e.fmDie.getLsbD i = true → f.fmDie.getLsbD i = true

/-- The commands at which the standby island is without power, or starts (R657, R665, R713, R717, R718). -/
def cutsIsland : Instr → Bool
  | .powerUp => true
  | .vinLoss => true
  | .sbRstAssert => true
  | .sbRstRelease => true
  | _ => false

/-- What every command keeps, from one state to a later one. -/
structure Keeps (s t : State) : Prop where
  queue : t.pending = s.pending
  form : Canonical s → Canonical t
  fuses : Fuses.only s.fuses t.fuses
  fences : Err.fencesStay s.err t.err

end Sys2Proof.Machine
end

