-- ==== Sys2Proof/Certificates/Slice0/Obligations.lean ====
section
/-! DEFINITION. The statements about the model, for the provers. -/

open Sys2Proof Sys2Proof.Machine

/-- Every integer thread instruction with a register result (R234, R237, R240). The amount of a shift is taken modulo the
width, and bit 49 of MOD is used by the operations that `modFits` names: both are the model's choices (notes/assumptions/13.md). -/
def Obligations.IaluResults : Prop :=
  ∀ (u slot : Nat) (f : FmtA) (s : State) (c : Ctx), s.ctx u slot = some c →
    let wide := f.mod.testBit 0
    let uns := f.mod.testBit 1
    let w := if wide then 64 else 32
    let a := fun l => c.t.src wide (bit f.usrc 0) l f.a
    let b := fun l => c.t.src wide (bit f.usrc 1) l f.b
    let k := fun l => c.t.src wide (bit f.usrc 2) l f.c
    let num := fun x => if uns then ((x % 2 ^ w : Nat) : Int) else toS w x
    let m := c.t.acting f.pg f.pn
    let wrap := fun (x : Nat → Int) (l : Nat) =>
      ({ intWrap := if w = 32 ∧ ¬uns ∧ toS 32 (ofS 32 (x l)) ≠ x l then 1 else 0 } : Ev)
    let row := fun (op : Nat) (i : Instr) (b c : Opnd) (v : Nat → Nat) => ({ op := op, i := i, shape := ialuShape f .w b c, value := v } : LaneRow)
    let exact := fun (op : Nat) (i : Instr) (c : Opnd) (x : Nat → Int) =>
      ({ op := op, i := i, shape := ialuShape f .w .w c, value := fun l => ofS w (x l), count := wrap x } : LaneRow)
    ∀ r ∈ [row 0x00 (.mov u slot f) .unused .unused (fun l => a l % 2 ^ w),
           exact 0x01 (.add u slot f) .unused (fun l => num (a l) + num (b l)),
           exact 0x02 (.sub u slot f) .unused (fun l => num (a l) - num (b l)),
           exact 0x03 (.mul u slot f) .unused (fun l => num (a l) * num (b l)),
           row 0x04 (.mulhi u slot f) .w .unused (fun l => ofS w (num (a l) * num (b l) / 2 ^ w)),
           exact 0x05 (.mad u slot f) .w (fun l => num (a l) * num (b l) + num (k l)),
           row 0x06 (.and u slot f) .w .unused (fun l => (a l &&& b l) % 2 ^ w),
           row 0x07 (.or u slot f) .w .unused (fun l => (a l ||| b l) % 2 ^ w),
           row 0x08 (.xor u slot f) .w .unused (fun l => (a l ^^^ b l) % 2 ^ w),
           row 0x09 (.not u slot f) .unused .unused (fun l => 2 ^ w - 1 - a l % 2 ^ w),
           exact 0x0A (.shl u slot f) .unused (fun l => num (a l) * 2 ^ (b l % w)),
           row 0x0B (.shr u slot f) .w .unused (fun l => a l % 2 ^ w / 2 ^ (b l % w)),
           row 0x0C (.shra u slot f) .w .unused (fun l => ofS w (toS w (a l) / 2 ^ (b l % w))),
           row 0x0D (.min u slot f) .w .unused (fun l => ofS w (min (num (a l)) (num (b l)))),
           row 0x0E (.max u slot f) .w .unused (fun l => ofS w (max (num (a l)) (num (b l)))),
           row 0x0F (.sel u slot f) .w .p (fun l => if (c.t.rdP f.c).getLsbD l then a l else b l),
           row 0x11 (.popc u slot f) .unused .unused (fun l => ((List.range w).filter (fun j => (a l).testBit j)).length),
           row 0x12 (.clz u slot f) .unused .unused (fun l => w - bitLen (a l % 2 ^ w))],
      ((modFits r.op f.mod && r.shape.legal f) = false → exec r.i s = .next ((s.raise c 0x10 0x01 0 0).took u slot)) ∧
      (modFits r.op f.mod → r.shape.legal f → r.shape.fits c.l.desc.regs f = false →
        exec r.i s = .next ((s.raise c 0x10 0x02 0 0).took u slot)) ∧
      (modFits r.op f.mod → r.shape.legal f → r.shape.fits c.l.desc.regs f →
        exec r.i s = .next (((s.countVts u (Ev.sum ((lanesOf m).map r.count))).retire c
          (c.t.wrLanes m wide f.d r.value).advance).took u slot))

/-- SETP and FSETP (R187, R234, R239). -/
def Obligations.ComparesSetTheirMask : Prop :=
  ∀ (u slot : Nat) (f : FmtA) (s : State) (c : Ctx), s.ctx u slot = some c → f.rm < 8 →
    let m := c.t.acting f.pg f.pn
    let holds := fun (o : Option Ordering) => match f.rm, o with
      | 0, some .eq => true
      | 1, some .eq => false
      | 1, _ => true
      | 2, some .lt => true
      | 3, some .lt => true
      | 3, some .eq => true
      | 4, some .gt => true
      | 5, some .gt => true
      | 5, some .eq => true
      | 6, none => true
      | 7, some _ => true
      | _, _ => false
    (modFits 0x10 f.mod = true → (ialuShape f .pd .w .unused).legal f → (ialuShape f .pd .w .unused).fits c.l.desc.regs f →
      let wide := f.mod.testBit 0
      let w := if wide then 64 else 32
      let a := fun l => c.t.src wide (bit f.usrc 0) l f.a
      let b := fun l => c.t.src wide (bit f.usrc 1) l f.b
      exec (.setp u slot f) s = .next (((s.countVts u {}).retire c (c.t.wrP f.d (predLanes (c.t.rdP f.d) m (fun l =>
        holds (some (if f.mod.testBit 1 then compare (a l % 2 ^ w) (b l % 2 ^ w)
          else compare (toS w (a l)) (toS w (b l))))))).advance).took u slot)) ∧
    (f.mod < 5 →
      let wide := (f.mod == 0)
      let k : ShapeA := { d := .pd, a := .w, b := .w, wa := wide, wb := wide, usrc := true, modOk := true, rmOk := true }
      k.legal f → k.fits c.l.desc.regs f →
      let n := 8 * tyBytes f.mod
      let a := fun l => c.t.src wide (bit f.usrc 0) l f.a % 2 ^ n
      let b := fun l => c.t.src wide (bit f.usrc 1) l f.b % 2 ^ n
      let x := tyFmt f.mod
      exec (.fsetp u slot f) s = .next (((s.countVts u (Ev.sum ((lanesOf m).map (fun l =>
          if f.mod = 4 then {} else { flushIn := flushCount x (a l) + flushCount x (b l) })))).retire c
        (c.t.wrP f.d (predLanes (c.t.rdP f.d) m (fun l =>
          holds (if f.mod = 4 then some (compare (toS 32 (a l)) (toS 32 (b l))) else cmpV (x.input (a l)) (x.input (b l)))))).advance).took u slot))

/-- What the lane writes of R237 leave in the register files of R223 and R224. -/
def Obligations.LaneWritesAreExact : Prop :=
  (∀ (t : Strand) (m : W32) (wide : Bool) (d : Nat) (v : Nat → Nat) (l r : Nat), Tbl.wf 0 t.w = true →
    l < 32 → r < 256 → d + b2n wide < 256 →
    (t.wrLanes m wide d v).rdW l r =
      (if m.getLsbD l ∧ r = d then v l % 2 ^ 32
       else if m.getLsbD l ∧ wide = true ∧ r = d + 1 then v l / 2 ^ 32 % 2 ^ 32
       else t.rdW l r)) ∧
  (∀ (t : Strand) (m : W32) (wide : Bool) (d : Nat) (v : Nat → Nat),
    { t.wrLanes m wide d v with w := t.w } = t ∧ (Tbl.wf 0 t.w = true → Tbl.wf 0 (t.wrLanes m wide d v).w = true)) ∧
  (∀ (old m : W32) (v : Nat → Bool) (l : Nat), l < 32 →
    (predLanes old m v).getLsbD l = (if m.getLsbD l then v l else old.getLsbD l)) ∧
  (∀ (t : Strand) (r q : Nat) (x : W32), Tbl.wf 0 t.p = true →
    (t.wrP r x).rdP q = (if q = 0 then BitVec.allOnes 32 else if q = r then x else t.rdP q)) ∧
  (∀ (t : Strand) (r q x : Nat), Tbl.wf 0 t.u = true → (t.wrU r x).rdU q = (if q = r then x % 2 ^ 64 else t.rdU q))

/-- Every floating-point thread instruction with a register result (R182, R234, R239). -/
def Obligations.FaluResults : Prop :=
  ∀ (u slot : Nat) (f : FmtA) (s : State) (c : Ctx), s.ctx u slot = some c → f.mod < 5 → f.rm < 5 →
    let wide := (f.mod == 0)
    let n := 8 * tyBytes f.mod
    let a := fun l => c.t.src wide (bit f.usrc 0) l f.a % 2 ^ n
    let b := fun l => c.t.src wide (bit f.usrc 1) l f.b % 2 ^ n
    let k := fun l => c.t.src wide (bit f.usrc 2) l f.c % 2 ^ n
    let m := c.t.acting f.pg f.pn
    (∀ r ∈ [(0x00, Instr.fmov u slot f, Opnd.unused, Opnd.unused), (0x01, .fadd u slot f, .w, .unused),
            (0x02, .fsub u slot f, .w, .unused), (0x03, .fmul u slot f, .w, .unused), (0x04, .ffma u slot f, .w, .w),
            (0x05, .fmin u slot f, .w, .unused), (0x06, .fmax u slot f, .w, .unused), (0x07, .fabs u slot f, .unused, .unused),
            (0x08, .fneg u slot f, .unused, .unused), (0x10, .fdiv u slot f, .w, .unused), (0x11, .fsqrt u slot f, .unused, .unused),
            (0x12, .frcp u slot f, .unused, .unused), (0x13, .frsqrt u slot f, .unused, .unused),
            (0x14, .fexp2 u slot f, .unused, .unused), (0x15, .fexp u slot f, .unused, .unused),
            (0x16, .flog2 u slot f, .unused, .unused), (0x17, .flog u slot f, .unused, .unused),
            (0x18, .fsinpi u slot f, .unused, .unused), (0x19, .fcospi u slot f, .unused, .unused),
            (0x1A, .ftanh u slot f, .unused, .unused)],
      let out := fun l => if r.1 = 0x00 then (a l % 2 ^ n, ({} : Ev)) else tyOp f.mod r.1 f.rm (a l) (b l) (k l)
      let sh := faluShape f.mod r.1 .w r.2.2.1 r.2.2.2
      ((tyAccepts f.mod r.1 && sh.legal f) = false → exec r.2.1 s = .next ((s.raise c 0x10 0x01 0 0).took u slot)) ∧
      (tyAccepts f.mod r.1 → sh.legal f → sh.fits c.l.desc.regs f = false →
        exec r.2.1 s = .next ((s.raise c 0x10 0x02 0 0).took u slot)) ∧
      (tyAccepts f.mod r.1 → sh.legal f → sh.fits c.l.desc.regs f →
        exec r.2.1 s = .next (((s.countVts u (Ev.sum ((lanesOf m).map (fun l => (out l).2)))).retire c
          (c.t.wrLanes m wide f.d (fun l => (out l).1)).advance).took u slot))) ∧
    (f.c < 5 →
      let k : ShapeA := { d := .w, a := .w, c := .code, wd := wide, wa := (f.c == 0), usrc := true, modOk := true,
                          rmOk := true, satOk := true }
      let out := fun l => convert (tyNum f.c) (tyNum f.mod) f.rm f.sat
        (c.t.src ((f.c == 0)) (bit f.usrc 0) l f.a % 2 ^ (8 * tyBytes f.c))
      (k.legal f = false → exec (.fcvt u slot f) s = .next ((s.raise c 0x10 0x01 0 0).took u slot)) ∧
      (k.legal f → k.fits c.l.desc.regs f = false → exec (.fcvt u slot f) s = .next ((s.raise c 0x10 0x02 0 0).took u slot)) ∧
      (k.legal f → k.fits c.l.desc.regs f →
      exec (.fcvt u slot f) s = .next (((s.countVts u (Ev.sum ((lanesOf m).map (fun l => (out l).2)))).retire c
        (c.t.wrLanes m wide f.d (fun l => (out l).1)).advance).took u slot)))

/-- The control instructions on the strand (R231, R234, R246, R251). -/
def Obligations.ControlFlow : Prop :=
  ∀ (u slot : Nat) (f : FmtB) (s : State) (c : Ctx), s.ctx u slot = some c →
    let t := c.t
    let target := (((t.pc : Int) + 8 * f.target.toInt) % 2 ^ 64).toNat
    let after := (t.pc + 8) % 2 ^ 64
    let push := fun (k : Bool) (m : W32) => t.push c.l.desc.divSpill { pending := k, mask := m, target := target }
    let depth := State.raise s c 0x10 0x03 0 0
    let under := State.raise s c 0x10 0x04 0 0
    (f.pg ≠ 0 ∨ f.pn = true → ∀ i ∈ [Instr.nop u slot f, .bra u slot f, .bru u slot f, .brc u slot f, .divPush u slot f, .rcv u slot f,
        .call u slot f, .ret u slot f], exec i s = .next ((s.raise c 0x10 0x01 0 0).took u slot)) ∧
    (∀ w, unitInstr u slot w = none → execWord u slot w s = .next ((s.raise c 0x10 0x01 0 0).took u slot)) ∧
    (f.pg = 0 → f.pn = false → f.reg = 0 → f.target = 0 →
      exec (.nop u slot f) s = .next ((s.retire c { t with pc := after }).took u slot) ∧
      exec (.rcv u slot f) s = .next ((match t.resume t.depth with | some t' => s.retire c t' | none => under).took u slot)) ∧
    (f.pg = 0 → f.pn = false → f.reg = 0 →
      exec (.bra u slot f) s = .next ((s.retire c { t with pc := target }).took u slot) ∧
      exec (.divPush u slot f) s = .next ((match push false t.active with
        | some t' => s.retire c { t' with pc := after }
        | none => depth).took u slot)) ∧
    (f.pg = 0 → f.pn = false → f.reg < 64 →
      exec (.bru u slot f) s = .next ((s.retire c { t with pc := if t.rdU f.reg ≠ 0 then target else after }).took u slot) ∧
      exec (.call u slot f) s = .next ((s.retire c { t.wrU f.reg after with pc := target }).took u slot)) ∧
    (f.pg = 0 → f.pn = false → f.reg < 16 →
      let pm := if f.reg.testBit 3 then ~~~(t.rdP (f.reg % 8)) else t.rdP (f.reg % 8)
      exec (.brc u slot f) s = .next ((
        if t.active &&& pm = 0 then s.retire c { t with pc := after }
        else if t.active &&& ~~~pm = 0 then s.retire c { t with pc := target }
        else match push true (t.active &&& pm) with
          | some t' => s.retire c { t' with active := t.active &&& ~~~pm, pc := after }
          | none => depth).took u slot)) ∧
    (f.pg = 0 → f.pn = false → f.reg < 64 → f.target = 0 →
      exec (.ret u slot f) s = .next ((if t.rdU f.reg % 8 = 0 then s.retire c { t with pc := t.rdU f.reg }
        else s.raise c 0x17 0x20 3 (t.rdU f.reg)).took u slot)) ∧
    (f.pg < 8 → f.reg = 0 → f.target = 0 →
      let e := t.active &&& (if f.pn then ~~~(t.rdP f.pg) else t.rdP f.pg)
      let t' := { t with live := t.live &&& ~~~e, active := t.active &&& ~~~e }
      let done := fun (s : State) (ended : Bool) => (s.onHank c (fun h =>
        { h with progress := if e = 0 then h.progress else s.ucyc c.u,
                 wit := if ended && h.wit.ownedBy slot then h.wit.abandon else h.wit })).settleBelays c
      (t.cd = 0 ∨ e = 0 → t'.live ≠ 0 → t'.active ≠ 0 → exec (.exit u slot f) s = .next ((done (s.retire c { t' with pc := after }) false).took u slot)) ∧
      (t.cd = 0 ∨ e = 0 → t'.live ≠ 0 → t'.active = 0 → exec (.exit u slot f) s = .next ((match t'.resume t.depth with
        | some t2 => done (s.retire c t2) false
        | none => under).took u slot)) ∧
      (t.cd = 0 ∨ e = 0 → t'.live = 0 → exec (.exit u slot f) s = .next ((done (s.setStrand c { t' with wait := .ended }) true).took u slot)) ∧
      (t.cd ≠ 0 → e ≠ 0 → exec (.exit u slot f) s = .next ((s.raise c 0x13 0x13 0 0).took u slot)))

/-- resume() of R246 and the push of R247 over the whole stack, on chip and spilled. -/
def Obligations.ResumePopsThroughEmptyPaths : Prop :=
  (∀ (t : Strand), (∀ b ∈ t.spilled, 0 < b.length ∧ b.length ≤ 16) →
    match t.entries.dropWhile (fun e => e.mask &&& t.live == 0), t.resume t.depth with
    | [], none => True
    | e :: rest, some t' => t'.entries = rest ∧
        t' = { t with active := e.mask &&& t.live, pc := e.target, stack := t'.stack, spilled := t'.spilled }
    | _, _ => False) ∧
  (∀ (t : Strand) (blocks : Nat) (e : DivEntry), t.stack.length ≤ 32 →
    match t.push blocks e with
    | some t' => t'.entries = e :: t.entries ∧ t'.stack.length ≤ 32 ∧ t'.spilled.length ≤ max t.spilled.length blocks ∧
        t' = { t with stack := t'.stack, spilled := t'.spilled }
    | none => t.stack.length = 32 ∧ blocks ≤ t.spilled.length)

/-- COLL.ENTER and COLL.EXIT, "COLL.ENTER with A = L = 0xFFFF_FFFF increments CD" and the four other cases of R249. -/
def Obligations.CollectiveRegions : Prop :=
  ∀ (u slot : Nat) (f : FmtB) (s : State) (c : Ctx), s.ctx u slot = some c →
    f.pg = 0 → f.pn = false → f.reg = 0 → f.target = 0 →
    let after := (c.t.pc + 8) % 2 ^ 64
    (c.t.active = 0xFFFFFFFF → c.t.live = 0xFFFFFFFF → c.t.cd < 15 →
      exec (.collEnter u slot f) s = .next ((s.retire c { c.t with cd := c.t.cd + 1, pc := after }).took u slot)) ∧
    (¬(c.t.active = 0xFFFFFFFF ∧ c.t.live = 0xFFFFFFFF) →
      exec (.collEnter u slot f) s = .next ((s.raise c 0x13 0x10 0 0).took u slot)) ∧
    (c.t.active = 0xFFFFFFFF → c.t.live = 0xFFFFFFFF → 15 ≤ c.t.cd →
      exec (.collEnter u slot f) s = .next ((s.raise c 0x10 0x05 0 0).took u slot)) ∧
    (0 < c.t.cd → exec (.collExit u slot f) s = .next ((s.retire c { c.t with cd := c.t.cd - 1, pc := after }).took u slot)) ∧
    (c.t.cd = 0 → exec (.collExit u slot f) s = .next ((s.raise c 0x13 0x12 0 0).took u slot))

/-- Every uniform instruction without a group-wide check (R234, R240, R241, R254). -/
def Obligations.UniformResults : Prop :=
  (∀ (u slot : Nat) (f : FmtA) (s : State) (c : Ctx), s.ctx u slot = some c →
    let t := c.t
    let a := t.rdU f.a
    let b := t.rdU f.b
    let k := t.rdU f.c
    let uns := f.mod.testBit 1
    let num := fun x => if uns then ((x % 2 ^ 64 : Nat) : Int) else toS 64 x
    let row := fun (op : Nat) (i : Instr) (b c : Opnd) (v : Nat) =>
      ({ op := op, i := i, shape := { d := .u, a := .u, b := b, c := c, modOk := true, uniform := true }, t := t.wrU f.d v } : UniformRow)
    let toU := fun (i : Instr) (sh : ShapeA) (v : Nat) => ({ i := i, shape := { sh with d := .u, uniform := true }, t := t.wrU f.d v } : UniformRow)
    let toP := fun (i : Instr) (sh : ShapeA) (v : W32) => ({ i := i, shape := { sh with d := .pd, uniform := true }, t := t.wrP f.d v } : UniformRow)
    (∀ r ∈ [row 0x00 (.umov u slot f) .unused .unused (a % 2 ^ 64),
        row 0x01 (.uadd u slot f) .u .unused (ofS 64 (num a + num b)),
        row 0x02 (.usub u slot f) .u .unused (ofS 64 (num a - num b)),
        row 0x03 (.umul u slot f) .u .unused (ofS 64 (num a * num b)),
        row 0x04 (.umulhi u slot f) .u .unused (ofS 64 (num a * num b / 2 ^ 64)),
        row 0x05 (.umad u slot f) .u .u (ofS 64 (num a * num b + num k)),
        row 0x06 (.uand u slot f) .u .unused ((a &&& b) % 2 ^ 64),
        row 0x07 (.uor u slot f) .u .unused ((a ||| b) % 2 ^ 64),
        row 0x08 (.uxor u slot f) .u .unused ((a ^^^ b) % 2 ^ 64),
        row 0x09 (.unot u slot f) .unused .unused (2 ^ 64 - 1 - a % 2 ^ 64),
        row 0x0A (.ushl u slot f) .u .unused (ofS 64 (num a * 2 ^ (b % 64))),
        row 0x0B (.ushr u slot f) .u .unused (a % 2 ^ 64 / 2 ^ (b % 64)),
        row 0x0C (.ushra u slot f) .u .unused (ofS 64 (toS 64 a / 2 ^ (b % 64))),
        row 0x0D (.umin u slot f) .u .unused (ofS 64 (min (num a) (num b))),
        row 0x0E (.umax u slot f) .u .unused (ofS 64 (max (num a) (num b))),
        row 0x0F (.usel u slot f) .u .p (if t.rdP f.c ≠ 0 then a else b),
        row 0x11 (.upopc u slot f) .unused .unused (((List.range 64).filter (fun j => a.testBit j)).length),
        row 0x12 (.uclz u slot f) .unused .unused (64 - bitLen (a % 2 ^ 64))],
      ((modFits r.op f.mod && r.shape.legal f) = false → exec r.i s = .next ((s.raise c 0x10 0x01 0 0).took u slot)) ∧
      (modFits r.op f.mod → r.shape.legal f → r.shape.fits c.l.desc.regs f = false →
        exec r.i s = .next ((s.raise c 0x10 0x02 0 0).took u slot)) ∧
      (modFits r.op f.mod → r.shape.legal f → r.shape.fits c.l.desc.regs f →
        exec r.i s = .next ((s.retire c r.t.advance).took u slot))) ∧
    (modFits 0x10 f.mod = true → f.rm < 8 → ({ d := .u, a := .u, b := .u, modOk := true, rmOk := true, uniform := true } : ShapeA).legal f →
      exec (.uset u slot f) s = .next ((s.retire c (t.wrU f.d (if condHolds f.rm (some (if uns then compare (a % 2 ^ 64) (b % 2 ^ 64)
        else compare (toS 64 a) (toS 64 b))) then 1 else 0)).advance).took u slot)) ∧
    (∀ r ∈ [toU (.lbal u slot f) { a := .p } (t.active &&& t.rdP f.a).toNat,
        toU (.lfirst u slot f) { a := .w, usrc := true } (match (lanesOf t.active).head? with
          | some l => t.src false (bit f.usrc 0) l f.a
          | none => 0),
        toP (.pand u slot f) { a := .p, b := .p } (t.rdP f.a &&& t.rdP f.b),
        toP (.por u slot f) { a := .p, b := .p } (t.rdP f.a ||| t.rdP f.b),
        toP (.pxor u slot f) { a := .p, b := .p } (t.rdP f.a ^^^ t.rdP f.b),
        toP (.pandn u slot f) { a := .p, b := .p } (t.rdP f.a &&& ~~~(t.rdP f.b)),
        toP (.pnot u slot f) { a := .p } (~~~(t.rdP f.a)),
        toP (.pfromu u slot f) { a := .u } (BitVec.ofNat 32 a),
        toU (.ptou u slot f) { a := .p } (t.rdP f.a).toNat],
      (r.shape.legal f = false → exec r.i s = .next ((s.raise c 0x10 0x01 0 0).took u slot)) ∧
      (r.shape.legal f → r.shape.fits c.l.desc.regs f = false →
        exec r.i s = .next ((s.raise c 0x10 0x02 0 0).took u slot)) ∧
      (r.shape.legal f → r.shape.fits c.l.desc.regs f →
        exec r.i s = .next ((s.retire c r.t.advance).took u slot))) ∧
    (∀ r ∈ [(0x00, t.index), (0x01, c.hank.index), (0x02, c.l.hankCount), (0x03, c.l.desc.threads), (0x04, u),
        (0x05, s.frm.count), (0x06, s.ucyc u % 2 ^ 64), (0x07, c.cmd.seq), (0x08, (s.coilOfRegion (regionOf u)).getD 0)],
      f.a = r.1 → ({ d := .u, a := .code, uniform := true } : ShapeA).legal f →
      exec (.sread u slot f) s = .next ((s.retire c (t.wrU f.d r.2).advance).took u slot))) ∧
  (∀ (u slot : Nat) (f : FmtI) (s : State) (c : Ctx), s.ctx u slot = some c → f.pg = 0 → f.pn = false → f.d < 64 →
    exec (.umovi u slot f) s = .next ((s.retire c (c.t.wrU f.d (ofS 64 f.imm.toInt)).advance).took u slot) ∧
    (f.a < 64 → exec (.uaddi u slot f) s = .next ((s.retire c (c.t.wrU f.d (ofS 64 ((c.t.rdU f.a : Int) + f.imm.toInt))).advance).took u slot)) ∧
    exec (.umovhi u slot f) s = .next ((s.retire c (c.t.wrU f.d (c.t.rdU f.d % 2 ^ 32 + 2 ^ 32 * f.imm.toNat)).advance).took u slot))

/-- MOVI, ADDI, LSHFL, SREADW and LRED (R234, R240, R241, R250, R254). -/
def Obligations.LaneImmediates : Prop :=
  (∀ (u slot : Nat) (f : FmtI) (s : State) (c : Ctx), s.ctx u slot = some c → f.pg < 8 → f.d < c.l.desc.regs →
    let m := c.t.acting f.pg f.pn
    let sum := fun l => toS 32 (c.t.rdW l f.a) + toS 32 f.imm.toNat
    exec (.movi u slot f) s = .next ((s.retire c (c.t.wrLanes m false f.d (fun _ => f.imm.toNat)).advance).took u slot) ∧
    (f.a < c.l.desc.regs →
      exec (.addi u slot f) s = .next (((s.countVts u (Ev.sum ((lanesOf m).map (fun l =>
        { intWrap := if toS 32 (ofS 32 (sum l)) ≠ sum l then 1 else 0 })))).retire c
        (c.t.wrLanes m false f.d (fun l => ofS 32 (sum l))).advance).took u slot))) ∧
  (∀ (u slot : Nat) (f : FmtA) (s : State) (c : Ctx), s.ctx u slot = some c →
    let m := c.t.acting f.pg f.pn
    let ix := fun l => c.t.src false (bit f.usrc 1) l f.b
    (({ d := .w, a := .w, b := .w, usrc := true } : ShapeA).legal f →
      ({ d := .w, a := .w, b := .w, usrc := true } : ShapeA).fits c.l.desc.regs f →
      exec (.lshfl u slot f) s = .next (((s.countVts u { indexRange := ((lanesOf m).filter (fun l => 32 ≤ ix l)).length }).retire c
        (c.t.wrLanes m false f.d (fun l => if ix l < 32 then c.t.src false (bit f.usrc 0) (ix l) f.a else 0)).advance).took u slot)) ∧
    (f.a < 2 → ({ d := .w, a := .code } : ShapeA).legal f → ({ d := .w, a := .code } : ShapeA).fits c.l.desc.regs f →
      exec (.sreadw u slot f) s = .next (((s.countVts u {}).retire c
        (c.t.wrLanes m false f.d (fun l => if f.a = 0 then l else 32 * c.t.index + l)).advance).took u slot)) ∧
    (f.mod < 4 →
      let wide := f.mod.testBit 0
      let uns := f.mod.testBit 1
      let w := if wide then 64 else 32
      let k : ShapeA := { d := .u, a := .w, wa := wide, uniform := true, usrc := true, modOk := true }
      let x := fun l => c.t.src wide (bit f.usrc 0) l f.a
      let num := fun l => if uns then ((x l % 2 ^ w : Nat) : Int) else toS w (x l)
      let lanes := (List.range 32).tail
      let ext := fun (v : Int) => if wide then ofS 64 v else ofS 64 (toS 32 (ofS 32 v))
      let pick := fun (v : Int) => if !wide && uns then ofS 32 v else ext v
      k.legal f → k.fits c.l.desc.regs f →
      (0 < c.t.cd → c.t.active = 0xFFFFFFFF → ∀ r ∈
          [(0, Instr.lredAdd u slot f, ext (((List.range 32).map (fun l => toS w (x l))).foldl (· + ·) 0)),
           (1, .lredMin u slot f, pick ((lanes.map num).foldl min (num 0))),
           (2, .lredMax u slot f, pick ((lanes.map num).foldl max (num 0)))],
        (r.1 = 0 → uns = false) → exec r.2.1 s = .next ((s.retire c (c.t.wrU f.d r.2.2).advance).took u slot)) ∧
      (∀ r ∈ [(0, Instr.lredAdd u slot f), (1, .lredMin u slot f), (2, .lredMax u slot f)], (r.1 = 0 → uns = false) →
        (c.t.cd = 0 → exec r.2 s = .next ((s.raise c 0x13 0x11 0 0).took u slot)) ∧
        (0 < c.t.cd → c.t.active ≠ 0xFFFFFFFF → exec r.2 s = .next ((s.raise c 0x13 0x10 0 0).took u slot)))))

/-- The accesses of every memory instruction (R230, R233, R234, R242). -/
def Obligations.MemoryInstructionsAccess : Prop :=
  (∀ (u slot : Nat) (f : FmtM) (s : State) (c : Ctx), s.ctx u slot = some c →
    (LdStFine false f c → exec (.ld u slot f) s = .next ((s.memStart c (ldStOp false f c)).took u slot)) ∧
    (LdStFine true f c → exec (.st u slot f) s = .next ((s.memStart c (ldStOp true f c)).took u slot)) ∧
    (UldFine f c → exec (.uld u slot f) s = .next ((s.memStart c (uldOp f c)).took u slot)) ∧
    (∀ r ∈ [(0x08, Instr.atomAdd u slot f), (0x09, .atomSmin u slot f), (0x0A, .atomSmax u slot f), (0x0B, .atomUmin u slot f),
            (0x0C, .atomUmax u slot f), (0x0D, .atomAnd u slot f), (0x0E, .atomOr u slot f), (0x0F, .atomXor u slot f),
            (0x10, .atomExch u slot f), (0x11, .atomCas u slot f), (0x12, .atomFadd u slot f)],
      AtomFine r.1 f c → exec r.2 s = .next ((s.memStart c (atomOp r.1 f c)).took u slot)) ∧
    (∀ r ∈ [(1, Instr.fenceAcq u slot f), (2, .fenceRel u slot f), (3, .fenceAr u slot f)],
      FenceFine f → exec r.2 s = .next ((s.memStart c (fenceOp r.1 f)).took u slot)) ∧
    (∀ r ∈ [(false, Instr.ld u slot f), (true, .st u slot f)],
      let k := if f.size ≤ 2 then 1 else if f.size = 3 then 2 else 4
      let as := (lanesOf (c.t.acting f.pg f.pn)).map (laneAddress f c.t f.off.toInt)
      f.pg < 8 → f.size < 5 → BaseFits f c.l.desc.regs → f.data % k = 0 → f.data + k ≤ c.l.desc.regs →
      (if r.1 then f.ord = 0 ∨ f.ord = 2 else f.ord < 2) → ∀ a ∈ as,
        (a % 2 ^ f.size ≠ 0 → (∀ b ∈ as, b % 2 ^ f.size ≠ 0 → a ≤ b) →
          exec r.2 s = .next ((s.raise c 0x17 0x20 (b2n r.1) a).took u slot)) ∧
        (f.space = true → (∀ b ∈ as, b % 2 ^ f.size = 0) → 1024 * c.l.desc.hmem < a + 2 ^ f.size →
          (∀ b ∈ as, 1024 * c.l.desc.hmem < b + 2 ^ f.size → a ≤ b) →
          exec r.2 s = .next ((s.raise c 0x17 0x21 (b2n r.1) a).took u slot)))) ∧
  (∀ (u slot : Nat) (f : FmtT) (s : State) (c : Ctx), s.ctx u slot = some c →
    (TileMoveFine true false f s c → exec (.tld u slot f) s = .next ((s.memStart c (tileMoveOp true false f c)).took u slot)) ∧
    (TileMoveFine false false f s c → exec (.tldSf u slot f) s = .next ((s.memStart c (tileMoveOp false false f c)).took u slot)) ∧
    ((s.unit u).copies = [] → TileMoveFine true true f s c →
      exec (.tst u slot f) s = .next ((s.memStart c (tileMoveOp true true f c)).took u slot)) ∧
    ((s.unit u).copies = [] → TileMoveFine false true f s c →
      exec (.tstSf u slot f) s = .next ((s.memStart c (tileMoveOp false true f c)).took u slot)))

/-- Memory instructions on hank memory, and fences (R242, R243, R308, R313). -/
def Obligations.HankMemoryCompletes : Prop :=
  (∀ (u slot : Nat) (f : FmtM) (s : State) (c : Ctx), Tables s → s.ctx u slot = some c → (s.unit u).copies = [] →
    let served := fun (o : MemOp) => (serveHank c o s).1.memFinish c { o with released := true, pieces := (serveHank c o s).2 }
    (f.space = true →
      (LdStFine false f c → exec (.ld u slot f) s = .next ((served (ldStOp false f c)).took u slot)) ∧
      (LdStFine true f c → ReleaseDone s u (ldStOp true f c) → exec (.st u slot f) s = .next ((served (ldStOp true f c)).took u slot)) ∧
      (∀ r ∈ [(0x08, Instr.atomAdd u slot f), (0x09, .atomSmin u slot f), (0x0A, .atomSmax u slot f), (0x0B, .atomUmin u slot f),
            (0x0C, .atomUmax u slot f), (0x0D, .atomAnd u slot f), (0x0E, .atomOr u slot f), (0x0F, .atomXor u slot f),
            (0x10, .atomExch u slot f), (0x11, .atomCas u slot f), (0x12, .atomFadd u slot f)],
        AtomFine r.1 f c → ReleaseDone s u (atomOp r.1 f c) → exec r.2 s = .next ((served (atomOp r.1 f c)).took u slot))) ∧
    (∀ r ∈ [(1, Instr.fenceAcq u slot f), (2, .fenceRel u slot f), (3, .fenceAr u slot f)],
      FenceFine f → ReleaseDone s u (fenceOp r.1 f) →
      let s1 := s.onHank c (fun _ => c.hank)
      exec r.2 s = .next (((if r.1 ≠ 2 ∧ 2 ≤ f.scope then s1.modUnit u (fun x => x.l1Acquire) else s1).retire c
        { c.t with pc := (c.t.pc + 8) % 2 ^ 64 }).took u slot))) ∧
  (∀ (u slot : Nat) (f : FmtT) (s : State) (c : Ctx), Tables s → s.ctx u slot = some c → (s.unit u).copies = [] → f.mode.testBit 0 = true →
    ∀ r ∈ [(true, false, Instr.tld u slot f), (true, true, .tst u slot f), (false, false, .tldSf u slot f), (false, true, .tstSf u slot f)],
      TileMoveFine r.1 r.2.1 f s c →
      let o := tileMoveOp r.1 r.2.1 f c
      exec r.2.2 s = .next (((serveHank c o s).1.memFinish c { o with released := true, pieces := (serveHank c o s).2 }).took u slot))

/-- One translated piece of global memory (R306, R310, R312, R340). -/
def Obligations.GlobalAccessesComplete : Prop :=
  ∀ (u slot : Nat) (f : FmtM) (s : State) (c : Ctx) (p : Piece) (e : Tlb) (a tag : Nat), Tables s → s.ctx u slot = some c → f.space = false →
    (s.unit u).tlb.find? (fun t => t.hits (asAsid c.cmd.asroot) p.va) = some e →
    let pa := e.pa p.va
    s.route c pa = .here a → s.l1Tag pa = some tag → e.pbmt = 0 →
    let s1 := s.modUnit u (fun x => { x with tlb := keepMru 64 e x.tlb })
    let fin := fun (s : State) (o : MemOp) (got : List Byte) => s.memFinish c
      { o with released := true, pieces := [{ p with pa := some pa, pbmt := 0, got := some got }] }
    (∀ r ∈ [(Instr.ld u slot f, ldStOp false f c, LdStFine false f c), (.uld u slot f, uldOp f c, UldFine f c)],
      r.2.2 → r.2.1.pieces = [p] → permCause e.flags .load = none → ¬(f.ord.testBit 0 = true ∧ 2 ≤ f.scope) →
      ∀ y : L1Line, (s.unit u).l1Find tag = some y →
      exec r.1 s = .next ((fin (s1.modUnit u (fun x => x.l1Touch tag)) r.2.1 (lineSlice y.data (pa % 128) p.len)).took u slot)) ∧
    (LdStFine true f c → (ldStOp true f c).pieces = [p] → permCause e.flags .store = none → ReleaseDone s u (ldStOp true f c) →
      let d := linePlace (pa % 128) p.bytes
      let m := byteMask (pa % 128) p.len
      let site : StoreSite := { va := p.va, slot := slot, pc := c.t.pc }
      let put := fun (x : UnitSt) => match x.wc.find? (fun w => w.addr == tag) with
        | some w => { x.l1Store tag d m with wc := x.wc.map (fun y => if y.addr == tag then
            { w with data := mergeLine w.data d m, mask := w.mask ||| m, site := if p.va < w.site.va then site else w.site } else y) }
        | none => { x.l1Store tag d m with wc := x.wc ++ [{ addr := tag, data := d, mask := m, launch := c.cmd.id, site := site }] }
      (∀ w ∈ (s.unit u).wc, w.addr = tag → w.launch = c.cmd.id) →
      ((s.unit u).wc.any (fun w => w.addr == tag) = true ∨ (s.unit u).wc.length < 32) →
      exec (.st u slot f) s = .next ((fin (s1.modUnit u put) (ldStOp true f c) []).took u slot)) ∧
    (∀ r ∈ [(0x08, Instr.atomAdd u slot f), (0x09, .atomSmin u slot f), (0x0A, .atomSmax u slot f), (0x0B, .atomUmin u slot f),
            (0x0C, .atomUmax u slot f), (0x0D, .atomAnd u slot f), (0x0E, .atomOr u slot f), (0x0F, .atomXor u slot f),
            (0x10, .atomExch u slot f), (0x11, .atomCas u slot f), (0x12, .atomFadd u slot f)],
      AtomFine r.1 f c → (atomOp r.1 f c).pieces = [p] → permCause e.flags .atomic = none → ReleaseDone s u (atomOp r.1 f c) →
      ((s.unit u).wc.any (fun w => w.addr == tag) = false) →
      ∀ x : CLine, (s.agent (clusterOf u)).find (tag % 2 ^ 42) = some x → (x.st = .M ∨ x.st = .E) → x.poison = false →
      let old := bits x.data.toNat (8 * (pa % 128)) (8 * p.len)
      let src := leNat (p.bytes.take p.len)
      let cmp := leNat ((p.bytes.drop p.len).take p.len)
      let new := match atomicOp (8 * p.len) r.1 old (src % 2 ^ (8 * p.len)) (cmp % 2 ^ (8 * p.len)) with
        | some v => BitVec.ofNat 1024 (setBits x.data.toNat (8 * (pa % 128)) (8 * p.len) v)
        | none => x.data
      exec r.2 s = .next ((fin ((s1.agentWrite (clusterOf u) (tag % 2 ^ 42) new false).modUnit u
        (fun x => x.l1Store tag new (byteMask (pa % 128) p.len))) (atomOp r.1 f c) (leBytes p.len old)).took u slot))

/-- What a finished memory instruction writes (R234, R242). -/
def Obligations.LoadsReachTheirRegisters : Prop :=
  (∀ (o : MemOp) (t : Strand) (h : Hank) (l r : Nat), o.kind = .ld ∨ o.kind = .atom → Tbl.wf 0 t.w = true →
    (o.pieces.map (·.lane)).Nodup → (∀ p ∈ o.pieces, p.lane < 32 ∧ ∃ bs, p.got = some bs ∧ bs.length = p.len) →
    (∀ p ∈ o.pieces, p.len ∈ (if o.kind = .ld then [1, 2, 4, 8, 16] else [4, 8])) → (o.kind = .atom → o.sign = false) →
    o.dst + 3 < 256 → l < 32 → r < 256 →
    (o.writeback t h).1.rdW l r =
      (match o.pieces.find? (fun p => p.lane == l) with
       | none => t.rdW l r
       | some p =>
         let v := leNat (p.got.getD [])
         if p.len ≤ 4 then (if r = o.dst then (if o.sign = true ∧ p.len < 4 then ofS 32 (toS (8 * p.len) v) else v) else t.rdW l r)
         else if o.dst ≤ r ∧ r < o.dst + p.len / 4 then v / 2 ^ (32 * (r - o.dst)) % 2 ^ 32 else t.rdW l r)) ∧
  (∀ (o : MemOp) (t : Strand) (h : Hank), o.kind = .ld ∨ o.kind = .atom →
    { (o.writeback t h).1 with w := t.w } = t ∧ (o.writeback t h).2 = h) ∧
  (∀ (o : MemOp) (t : Strand) (h : Hank) (p : Piece) (bs : List Byte), o.kind = .uld → o.pieces = [p] → p.lane = 0 → p.got = some bs →
    o.writeback t h = (t.wrU o.dst (if o.sign = true ∧ bs.length < 4 then ofS 64 (toS (8 * bs.length) (leNat bs)) else leNat bs), h)) ∧
  (∀ (o : MemOp) (t : Strand) (h : Hank), o.kind ∈ [MemKind.st, .tst, .tstSf, .fence] → o.writeback t h = (t, h))

/-- Tile operations on elements (R172 to R188, R203, R210, R233). -/
def Obligations.TileElementOperations : Prop :=
  ∀ (u slot : Nat) (f : FmtT) (s : State) (c : Ctx), s.ctx u slot = some c → (s.unit u).copies = [] →
    let h := c.hank
    let free := fun (reads writes : List Nat) => (s.unit u).mmaBlocks h reads writes = false
    let go := fun (o : TileOut) => (s.tileWrite c f.x o).retire c c.t.advance
    let nb := tyBytes f.ty
    let w := 8 * nb
    let on := fun (i j : Nat) => (j + 1) * nb ≤ 4 * c.t.vl ∧ (h.maskRow f.mg i).getLsbD (j * nb / 2) = true
    let b := fun (i j : Nat) => match f.mode with
      | 0 => rowElem (h.tileRow f.z i) w j
      | 1 => rowElem (h.tileRow f.z 0) w j
      | 2 => rowElem (h.tileRow f.z i) w 0
      | _ => c.t.rdU f.u % 2 ^ w
    (({ x := true } : ShapeT).legal f → f.x < c.l.desc.tiles → free [] [f.x] →
      exec (.tzero u slot f) s = .next ((go { rows := (List.range 32).map (fun i => (i, 0)) }).took u slot)) ∧
    (({ u := true, sub := 6, mode := 1 } : ShapeT).legal f →
      let n := if f.mode = 1 then c.t.rdU f.sub else f.sub
      let v := if n = 0 then 1 else min n 32
      exec (.tsetvl u slot f) s = .next ((s.retire c { (c.t.advance.wrU f.u v) with vl := v }).took u slot)) ∧
    (({ x := true, y := true, z := true, mg := true, u := true, sub := 6, ty := true, rm := true, mode := 2 } : ShapeT).legal f →
      tyAccepts f.ty f.sub → f.rm < 5 →
      let reads := (if f.sub ≠ 0 then [f.y] else []) ++ (if tewUnary f.sub = false ∧ f.mode < 3 then [f.z] else [])
      tilesFit c (f.x :: reads) [f.mg] → free (reads ++ (if f.sub = 4 then [f.x] else [])) [f.x] →
      exec (.tew u slot f) s = .next ((go (tileMap (h.tileRow f.x) w (fun i j =>
        if on i j then some (tyOp f.ty f.sub f.rm (rowElem (h.tileRow f.y i) w j) (b i j) (rowElem (h.tileRow f.x i) w j))
        else none))).took u slot)) ∧
    (({ x := true, y := true, z := true, mg := true, u := true, sub := 3, ty := true, mode := 2 } : ShapeT).legal f →
      f.ty < 5 → 0 < f.x → f.x < 8 →
      let reads := f.y :: (if f.mode < 3 then [f.z] else [])
      tilesFit c reads [f.x, f.mg] → free reads [] →
      let cell := fun (i j : Nat) => if on i j then some (tyCmp f.ty f.sub (rowElem (h.tileRow f.y i) w j) (b i j)) else none
      ∃ masks : Tbl (BitVec 64),
        exec (.tcmp u slot f) s = .next ((((s.onHank c (fun h => { h with masks := masks })).countVts u
          (Ev.sum ((List.range 32).flatMap (fun i => (List.range (1024 / w)).filterMap (fun j => (cell i j).map (·.2)))))).retire c
            c.t.advance).took u slot) ∧
        (Tbl.wf 0 h.masks → ∀ m i k, i < 32 → k < 64 → 0 < m → (({ h with masks := masks } : Hank).maskRow m i).getLsbD k =
          (if m = f.x then (match cell i (2 * k / nb) with
            | some r => r.1
            | none => (h.maskRow m i).getLsbD k) else (h.maskRow m i).getLsbD k))) ∧
    (({ x := true, y := true, z := true, sub := 4 } : ShapeT).legal f → f.sub < 7 → 0 < f.x → f.x < 8 → f.y < 8 → f.z < 8 →
      tilesFit c [] [f.x, f.y, f.z] →
      let y := fun i => h.maskRow f.y i
      let z := fun i => h.maskRow f.z i
      let row := fun i => match f.sub with
        | 0 => y i &&& z i
        | 1 => y i ||| z i
        | 2 => y i ^^^ z i
        | 3 => y i &&& ~~~(z i)
        | 4 => ~~~(y i)
        | 5 => BitVec.allOnes 64
        | _ => 0
      exec (.tmsk u slot f) s = .next (((s.onHank c (fun k => { k with masks :=
        ((List.range 32).foldl (fun h i => h.setMaskRow f.x i (row i)) h).masks })).retire c c.t.advance).took u slot)) ∧
    (let src := cvtFmt (f.sub % 8)
     let dst := cvtFmt (f.sub / 8 % 8)
     let es := 1024 / src.width
     let ed := 1024 / dst.width
     ({ x := true, y := true, mg := true, sub := 6, seg := true, rm := true, sat := true } : ShapeT).legal f → f.rm < 5 →
      f.seg < max src.width dst.width / min src.width dst.width → tilesFit c [f.x, f.y] [f.mg] → free [f.y] [f.x] →
      exec (.tcvt u slot f) s = .next ((go (tileMap (h.tileRow f.x) dst.width (fun i j =>
        (if es ≤ ed then (if f.seg * es ≤ j ∧ j < f.seg * es + es then some (j - f.seg * es) else none)
          else some (f.seg * ed + j)).bind (fun k =>
            if (if dst.width ≤ src.width then elemActive c.t.vl (src.width / 8) k else elemActive c.t.vl (dst.width / 8) j) ∧
              h.elemOn f.mg i (dst.width / 8) j then
              some (convert src dst f.rm f.sat (rowElem (h.tileRow f.y i) src.width k)) else none)))).took u slot)) ∧
    (({ u := true, sub := 4 } : ShapeT).legal f → f.sub < 10 → (∀ m ∈ (s.unit u).mmaQ, m.slot ≠ slot) →
      exec (.tstat u slot f) s = .next ((s.retire c (c.t.advance.wrU f.u ((s.unit u).vts.nth f.sub))).took u slot))

/-- Reductions and permutes of tiles (R189 to R197). -/
def Obligations.TileReductionsAndPermutes : Prop :=
  ∀ (u slot : Nat) (f : FmtT) (s : State) (c : Ctx), s.ctx u slot = some c → (s.unit u).copies = [] →
    let h := c.hank
    let free := fun (reads writes : List Nat) => (s.unit u).mmaBlocks h reads writes = false
    let go := fun (o : TileOut) => (s.tileWrite c f.x o).retire c c.t.advance
    let nb := tyBytes f.ty
    let n := 128 / nb
    let wide := if f.ty = 0 then 64 else 32
    let src := fun (i j : Nat) => if (j + 1) * nb ≤ 4 * c.t.vl ∧ (h.maskRow f.mg i).getLsbD (j * nb / 2) = true then
      some (rowElem (h.tileRow f.y i) (8 * nb) j) else none
    let on := fun (i j : Nat) => (j + 1) * 4 ≤ 4 * c.t.vl ∧ (h.maskRow f.mg i).getLsbD (2 * j) = true
    let pick := fun (el : Nat → Nat → Nat × Bool) => go (tileMap (h.tileRow f.x) 32 (fun i j =>
      if on i j then some ((el i j).1, { indexRange := if (el i j).2 then 1 else 0 }) else none))
    (({ x := true, y := true, mg := true, sub := 3, ty := true } : ShapeT).legal f → f.sub < 3 → f.ty < 5 →
      tilesFit c [f.x, f.y] [f.mg] → Together c → free [f.y] [f.x] →
      exec (.tredRow u slot f) s = .next ((go (tileMap (h.tileRow f.x) wide (fun i j =>
        if j = 0 then some (reduceElems f.ty f.sub ((List.range n).map (src i))) else none))).took u slot) ∧
      exec (.tredCol u slot f) s = .next ((go (tileMap (h.tileRow f.x) wide (fun i k =>
        let j := i * (1024 / wide) + k
        if j < n ∧ (j + 1) * nb ≤ 4 * c.t.vl then
          some (reduceElems f.ty f.sub ((List.range 32).map (fun r => src r j))) else none))).took u slot)) ∧
    (({ x := true, y := true, z := true, mg := true } : ShapeT).legal f → tilesFit c [f.x, f.y, f.z] [f.mg] → free [f.y, f.z] [f.x] →
      let ix := fun (i j : Nat) => rowElem (h.tileRow f.z i) 32 j
      exec (.tpermRow u slot f) s = .next ((pick (fun i j =>
        if ix i j < c.t.vl then (rowElem (h.tileRow f.y i) 32 (ix i j), false) else (0, true))).took u slot) ∧
      exec (.tpermCol u slot f) s = .next ((pick (fun i j =>
        if ix i j < 32 then (rowElem (h.tileRow f.y (ix i j)) 32 j, false) else (0, true))).took u slot)) ∧
    (({ x := true, y := true, mg := true } : ShapeT).legal f → tilesFit c [f.x, f.y] [f.mg] → free [f.y] [f.x] →
      exec (.tpermT u slot f) s = .next ((pick (fun i j => (rowElem (h.tileRow f.y j) 32 i, false))).took u slot))

/-- TQNT and TCVT.DQ (R198 to R202). -/
def Obligations.TileQuantization : Prop :=
  ∀ (u slot : Nat) (f : FmtT) (s : State) (c : Ctx), Tables s → s.ctx u slot = some c → (s.unit u).copies = [] →
    let h := c.hank
    let b := blkFmt f.sub
    let bf := f.ty == 2
    let w := if f.ty = 2 then 16 else 32
    let q := (if f.ty = 2 then 2 else 1) * (if f.sub = 6 then 2 else 1)
    let legal := f.sub < 7 ∧ (f.ty = 1 ∨ f.ty = 2) ∧ f.rm < 5 ∧ f.seg < b.blocksPerRow / q ∧
      (f.sub = 6 → c.cmd.features.getLsbD 6 = true) ∧ tilesFit c [f.x, f.y] [] = true ∧ (s.unit u).mmaBlocks h [f.y] [f.x] = false
    (({ x := true, y := true, sub := 3, ty := true, seg := true, mode := 2, rm := true } : ShapeT).legal f → legal →
      (f.sub = 6 → f.mode < 2) → Together c →
      let row := fun i => quantRow b f.mode f.rm bf ((List.range (1024 / w)).map (rowElem (h.tileRow f.y i) w))
      let put := fun i => putBlocks b (f.seg * q) (h.tileRow f.x i) (h.sideRow f.x i) (row i).1
      let s1 := s.onHank c (fun h =>
        { (List.range 32).foldl (fun h i => h.setSideRow f.x i (put i).2) h with
          range := h.range.count ((List.range 32).foldl (fun a i => a.add (row i).2.1) {}) })
      exec (.tqnt u slot f) s = .next (((s1.tileWrite c f.x
        { rows := (List.range 32).map (fun i => (i, (put i).1)),
          ev := { flushIn := (List.range 32).foldl (fun a i => a + (row i).2.2) 0 } }).retire c c.t.advance).took u slot)) ∧
    (({ x := true, y := true, sub := 3, ty := true, seg := true, rm := true } : ShapeT).legal f → legal →
      exec (.tcvtDq u slot f) s = .next (((s.tileWrite c f.x (tileMap (h.tileRow f.x) w (fun i j =>
        let blk := f.seg * q + j / b.blockLen
        some (dequant b bf f.rm (h.sideByte f.y i blk)
          (bits (h.tileRow f.y i).toNat (8 * b.fieldBytes * blk + b.width * (j % b.blockLen)) b.width))))).retire c c.t.advance).took u slot))

/-- TMMA, TMMA_START, WTILE and WCHK (R123 to R169). -/
def Obligations.MatrixInstructions : Prop :=
  (∀ (u slot : Nat) (f : FmtT) (s : State) (c : Ctx) (k : MmaFmt), Tables s → s.ctx u slot = some c →
    let m : Mma := { launch := c.hank.launch, hank := c.hank.index, slot := slot, fmt := f.sub, tc := f.x, ta := f.y, tb := f.z,
                     z := f.zf, w := f.w, ws := f.ws }
    ({ x := true, y := true, z := true, sub := 5, zf := true, w := true } : ShapeT).legal f → mmaFmt f.sub = some k →
    (k.accFp64 → f.x % 2 = 0) → (k.pairA → f.y % 2 = 0) → (k.pairB → f.z % 2 = 0) → (∀ t ∈ m.acc, t ∉ m.operands) →
    (0x13 ≤ f.sub → c.cmd.features.getLsbD 6 = true) → (∀ t ∈ m.acc ++ m.operands, t < c.l.desc.tiles) → Together c →
    (s.unit u).mmaBlocks c.hank m.operands [] = false →
    (∀ q ∈ (s.unit u).mmaQ, q.launch = m.launch → q.hank = m.hank → ∀ t ∈ m.acc, t ∉ q.operands) →
    let s1 := s.modUnit u (fun x => { x with mmaQ := x.mmaQ ++ [m] })
    exec (.tmma u slot f) s = .next (((if (s.dom (regionOf u)).quiet then s1.askRamp (regionOf u) else s1).retire c c.t.advance).took u slot)) ∧
  (∀ (u : Nat) (s : State) (m : Mma) (c : Ctx) (k : MmaFmt), Tables s → s.alive = true → s.unitFenced u = false → s.lhr.stage = 0 →
    (s.unit u).mmaFree ≤ s.ucyc u → 4096 ≤ (s.unit u).tokens → (s.unit u).mmaNext = some m → s.ctxAny u m.slot = some c →
    mmaFmt m.fmt = some k → (s.unit u).copies = [] → c.hank.wit.active = none →
    let a := fun i => mmaRow k.a k.k c.hank m.ta i
    let b := fun j => mmaRow k.b k.k c.hank m.tb j
    let cell := fun (i j : Nat) =>
      let at_ := k.place i j
      mmaCell k (a i) (b j) (if m.z then none else some (rowElem (c.hank.tileRow (m.tc + at_.1) at_.2.1) at_.2.2.1 at_.2.2.2))
    let cells := (List.range 32).flatMap (fun i => (List.range 32).map (fun j => (i, j)))
    let occ := if m.fmt < 2 then 128 else 64
    let s1 := s.onHank c (fun h => { cells.foldl (fun h e =>
      let at_ := k.place e.1 e.2
      h.setElem (m.tc + at_.1) at_.2.1 at_.2.2.1 at_.2.2.2 (cell e.1 e.2).2.1) h with wit := { h.wit with shadow := c.hank.wit.shadow } })
    let s2 := s1.countVts u ((Ev.sum (cells.map (fun e => (cell e.1 e.2).2.2))).add
      { flushIn := ((List.range 32).map (fun i => mmaFlush k.a k.k c.hank m.ta i + mmaFlush k.b k.k c.hank m.tb i)).sum })
    exec (.tmmaStart u) s = .next ((s2.modUnit u (fun x =>
      { x with mmaQ := x.mmaQ.erase m, mmaFree := s.ucyc u + occ, mmaSlot := m.slot, tokens := x.tokens - 64 * occ })).modDom (regionOf u)
          (fun d => { d with lastMma := d.ucyc, quiet := false, busy := true }))) ∧
  (∀ (u slot : Nat) (f : FmtT) (s : State) (c : Ctx), Tables s → s.ctx u slot = some c → (s.unit u).copies = [] → c.witnesses = true →
    f.x < c.l.desc.tiles → (s.unit u).mmaBlocks c.hank [f.x] [] = false →
    let free := fun (w : Witness) => { w with active := none, shadow := [], captured := [], rows := [] }
    (({ x := true, u := true } : ShapeT).legal f →
      let coord := c.t.rdU f.u
      let hit := sampled c.l.desc.witSeed c.l.desc.witLog2N coord
      let w := if c.hank.wit.ownedBy slot then c.hank.wit.abandon else c.hank.wit
      let tile := (List.range 32).foldl (fun t r => Tbl.set 0 t r (c.hank.tileRow f.x r)) ([] : Tbl (BitVec 1024))
      let opened := { w with active := some (slot, f.x, coord), shadow := tile, captured := [], rows := [] }
      (hit = true → w.active = none →
        exec (.wtile u slot f) s = .next ((((s.onHank c (fun h => { h with wit := opened })).modUnit u
          (fun x => { x with mmaFree := max (s.ucyc u) x.mmaFree + 32 })).retire c c.t.advance).took u slot)) ∧
      (¬(hit = true ∧ w.active = none) →
        exec (.wtile u slot f) s = .next (((s.onHank c (fun h => { h with wit :=
          if hit then { w with skipped := satAdd 32 w.skipped 1 } else w })).retire c c.t.advance).took u slot))) ∧
    (({ x := true } : ShapeT).legal f → ∀ coord, c.hank.wit.active = some (slot, f.x, coord) →
      let w := c.hank.wit
      let cells := (List.range 32).flatMap (fun i => (List.range 32).map (fun j =>
        (rowElem (c.hank.tileRow f.x i) 32 j, rowElem (Tbl.get 0 w.shadow i) 32 j)))
      let r := witCompare cells
      let exc := r.2.2 = true ∨ r.2.1 < r.1 * 2 ^ c.l.desc.witTau
      let one : Excursion := { coord := coord, unit := u, e := witCode r.1, m := witCode r.2.1 }
      let excursions := if exc then satAdd 32 w.excursions 1 else w.excursions
      let first := if exc then firstExc w.first (some one) else w.first
      let counted := { free w with tiles := satAdd 32 w.tiles 1, excursions := excursions, first := first }
      exec (.wchk u slot f) s = .next ((((s.onHank c (fun h => { h with wit := counted })).modUnit u
        (fun x => { x with mmaFree := max (s.ucyc u) x.mmaFree + 64 })).retire c c.t.advance).took u slot)))

/-- What a tile result leaves (R170, R174, R205). -/
def Obligations.TileWritesAreExact : Prop :=
  (∀ (dst : Nat → BitVec 1024) (w : Nat) (f : Nat → Nat → Option (Nat × Ev)), w ∈ [8, 16, 32, 64] →
    let o := tileMap dst w f
    (∀ i < 32, match o.rows.find? (fun r => r.1 == i) with
      | none => ∀ j < 1024 / w, f i j = none
      | some r => (∃ j < 1024 / w, f i j ≠ none) ∧ ∀ j < 1024 / w, rowElem r.2 w j =
          (match f i j with | some v => v.1 % 2 ^ w | none => rowElem (dst i) w j)) ∧
    o.ev = Ev.sum ((List.range 32).flatMap (fun i => (List.range (1024 / w)).filterMap (fun j => (f i j).map (·.2))))) ∧
  (∀ (h : Hank) (t : Nat) (rows : List (Nat × BitVec 1024)), Tbl.wf 0 h.tiles = true → (∀ r ∈ rows, r.1 < 32) → (rows.map (·.1)).Nodup →
    let h' := rows.foldl (fun h r => h.setTileRow t r.1 r.2) h
    (∀ t' i, i < 32 → h'.tileRow t' i = (if t' = t then ((rows.find? (fun r => r.1 == i)).map (·.2)).getD (h.tileRow t i)
      else h.tileRow t' i)) ∧
    { h' with tiles := h.tiles } = h)

/-- The asynchronous copies (R265 to R280). -/
def Obligations.CopiesIssueAndComplete : Prop :=
  (∀ (u slot : Nat) (f : FmtQ) (s : State) (c : Ctx), s.ctx u slot = some c →
    ∀ r ∈ [(CopyKind.h, Instr.acpyH u slot f), (.t, .acpyT u slot f), (.sf, .acpySf u slot f), (.q, .acpyQ u slot f)],
    let g := c.t.rdU f.ug
    let isH := r.1 = .h
    let k : Copy :=
      { kind := r.1, launch := c.hank.launch, hank := c.hank.index, slot := slot, src := c.t.rdU f.us,
        rows := if isH then bits g 16 16 else 0, rowBytes := if isH then bits g 0 16 else 0,
        stride := if r.1 = .sf then 0 else bits g 32 32, dst := if isH then c.t.rdU f.ud % 2 ^ 32 else f.td, ac := f.ac,
        qf := f.qf, h := f.h, rm := f.rm, bf := f.sf, cap := f.cap, ws := f.ws, pc := c.t.pc, id := (s.unit u).copySeq }
    let s0 := s.modUnit u (fun x => { x with copySeq := x.copySeq + 1 })
    let shape := (isH → k.rowBytes ≠ 0 ∧ k.rows ≠ 0 ∧ k.rowBytes % 16 = 0) ∧ (r.1 ≠ .sf → k.stride % 16 = 0)
    let legal := r.1.fields.legal f = true ∧
      (r.1 = .q → c.cmd.features.getLsbD 4 = true ∧ (f.qf = 6 → c.cmd.features.getLsbD 6 = true)) ∧
      f.ac < c.l.desc.acs ∧ (¬isH → f.td < c.l.desc.tiles)
    (legal → shape → k.src % 16 = 0 → (isH → k.dst % 16 = 0 ∧ k.dst + k.rows * k.rowBytes ≤ 1024 * c.l.desc.hmem) →
      ((s.unit u).inFlight < 64 → exec r.2 s = .next ((((s0.modUnit u (fun x =>
          { x with copies := x.copies ++ [k] })).onHank c (fun h =>
            { h with issued := Tbl.upd 0 h.issued f.ac (· + 1) })).retire c c.t.advance).took u slot)) ∧
      (64 ≤ (s.unit u).inFlight → exec r.2 s = .next ((s0.setStrand c { c.t with wait := .copySlot k }).took u slot))) ∧
    (legal → ¬shape → exec r.2 s = .next ((s.raise c 0x10 0x07 0 0).took u slot)) ∧
    (legal → shape → k.src % 16 ≠ 0 → exec r.2 s = .next ((s.raise c 0x17 0x20 4 k.src).took u slot))) ∧
  (∀ (u i : Nat) (s s1 : State) (k : Copy) (c : Ctx) (d : CopyData) (h : Hank), (s.unit u).copies[i]? = some k →
    s.ctxAny u k.slot = some c → s.alive = true → k.done = false →
    let c' : Ctx := { c with t := { c.t with pc := k.pc } }
    s.copyRead c' k = (.ok d, s1) → s1.hankAt u k.slot = some h → k.touched = [] →
    (∀ j ∈ (s1.unit u).copies.drop (i + 1), j.done = false) →
    let rows := fun (h : Hank) => (List.range d.rows.length).foldl (fun h r => h.setTileRow k.dst r ((d.rows[r]?).getD 0)) h
    let sides := fun (h : Hank) => (List.range d.sides.length).foldl (fun h r => h.setSideRow k.dst r ((d.sides[r]?).getD 0)) h
    let h1 := match k.kind with
      | .h => h.hwrite k.dst d.bytes
      | _ => sides (rows h)
    let h2 := { h1 with range := h1.range.count d.range, wit := h1.wit.capture c' k d.bf16Rows }
    let h3 := if k.kind = .t ∨ k.kind = .q then h2.wroteTile k.dst else h2
    let cs := countCopies k.launch k.hank ((s1.unit u).copies.set i { k with done := true }) []
    let h4 := cs.2.foldl (fun h n => { h with acs := Tbl.upd 0 h.acs n (wrapAdd 32 · 1), progress := s1.ucyc u }) h3
    exec (.copyComplete u i) s = .next (((((s1.onHank c' (fun _ => h4)).modUnit u (fun x =>
      { x with copies := cs.1.dropWhile (·.counted) })).countVts u { flushIn := d.flush }).wakeCounters c').startCopyWaiter u)) ∧
  (∀ (launch hank : Nat) (k : Copy), k.launch = launch → k.hank = hank → k.counted = false →
    countCopies launch hank [{ k with done := true }] [] = ([{ k with done := true, counted := true }], [k.ac]))

/-- Arrival counters and belays (R281 to R289). -/
def Obligations.CountersAndBelays : Prop :=
  (∀ (u slot : Nat) (f : FmtQ) (s : State) (c : Ctx), s.ctx u slot = some c →
    let next := s.retire c c.t.advance
    let now := fun (h : Hank) => { h with progress := s.ucyc c.u }
    (({ us := true } : ShapeQ).legal f → f.ac < c.l.desc.acs →
      let target := c.t.rdU f.us % 2 ^ 32
      let reached := (Tbl.get 0 c.hank.acs f.ac + 2 ^ 32 - target) % 2 ^ 32 < 2 ^ 31
      (reached → exec (.acwait u slot f) s = .next (next.took u slot)) ∧
      (¬reached → exec (.acwait u slot f) s = .next (((s.setStrand c { c.t with wait := .ac f.ac target }).onHank c now).took u slot))) ∧
    (({ ud := true } : ShapeQ).legal f → f.ac < c.l.desc.acs →
      exec (.acread u slot f) s = .next ((s.retire c (c.t.advance.wrU f.ud (Tbl.get 0 c.hank.acs f.ac))).took u slot)) ∧
    (({ ac := 16 } : ShapeQ).legal f → f.ac < c.l.desc.belays →
      let b := Tbl.get {} c.hank.belays f.ac
      let mine := BitVec.ofNat 1024 (c.t.active.toNat * 2 ^ (32 * c.t.index))
      let arrived := s.onHank c (fun h =>
        { h with progress := s.ucyc c.u, belays := Tbl.upd {} h.belays f.ac (fun b => { b with arrived := b.arrived ||| mine }) })
      (b.arrived &&& mine = 0 → (s.unit u).wc = [] → (∀ m ∈ (s.unit u).mmaQ, m.slot ≠ slot) →
        exec (.blyArrive u slot f) s = .next (((arrived.retire c c.t.advance).settleBelays c).took u slot) ∧
        exec (.blySync u slot f) s = .next (((arrived.setStrand c { c.t with wait := .belay f.ac b.phase }).settleBelays c).took u slot)) ∧
      (b.arrived &&& mine ≠ 0 → ∀ i ∈ [Instr.blyArrive u slot f, .blySync u slot f],
        exec i s = .next ((s.raise c 0x10 0x08 0 0).took u slot)) ∧
      (b.arrived &&& mine = 0 → exec (.blyWait u slot f) s = .next (next.took u slot)) ∧
      (b.arrived &&& mine ≠ 0 → exec (.blyWait u slot f) s =
        .next (((s.setStrand c { c.t with wait := .belay f.ac b.phase }).onHank c now).took u slot)))) ∧
  (∀ (h : Hank) (threads belays k : Nat), Tbl.wf {} h.belays = true → k < belays →
    let b := Tbl.get {} h.belays k
    let r := h.settleBelays threads belays
    let complete := (∃ t ∈ h.strands, t.live ≠ 0) ∧ b.arrived ≠ 0 ∧ (∀ t ∈ h.strands, ∀ l < 32, 32 * t.index + l < threads →
      t.live.getLsbD l = true → b.arrived.getLsbD (32 * t.index + l) = true)
    (complete → Tbl.get {} r.1.belays k = { phase := b.phase + 1, arrived := 0 } ∧ k ∈ r.2) ∧
    (¬complete → Tbl.get {} r.1.belays k = b ∧ k ∉ r.2) ∧ { r.1 with belays := h.belays } = h)

/-- The events of the units (R253, R290 to R292, R310, R326 to R342). -/
def Obligations.UnitEventsAct : Prop :=
  (∀ (u line : Nat) (s : State) (e : WcEntry), s.alive = true → (s.unit u).wc.find? (fun w => w.addr == line) = some e →
    let gone := fun (s : State) => s.modUnit u (fun x => { x with wc := x.wc.erase e })
    let l := paLocal e.addr
    (locality s.hws.indexValid s.hws.index e.addr = .here → ∀ x : CLine,
      let s1 := s.obtain (clusterOf u) l true
      (s1.agent (clusterOf u)).find l = some x → (x.st = .M ∨ x.st = .E) →
      exec (.writeCombiningDrain u line) s = .next ((gone (s1.agentWrite (clusterOf u) l (mergeLine x.data e.data e.mask)
        (x.poison && e.mask != BitVec.allOnes 128))).pumpUnit u)) ∧
    (∀ p, locality s.hws.indexValid s.hws.index e.addr = .remote p →
      exec (.writeCombiningDrain u line) s = .next ((gone (((s.modUnit u (fun x => { x with remoteStores := x.remoteStores + 1 })).markStale u
        (fun r => r.peer == p && r.packet.addr == l)).remoteRequest (.unitStore u e.launch) p (wrPacket l e.data e.mask) e.site)).pumpUnit u))) ∧
  (∀ (u line : Nat) (s : State) (d : LineData), s.alive = true → (s.unit u).misses.contains line = true →
    let l := line % 2 ^ 42
    s.agentData (clusterOf u) l = some (d, false) →
    let s1 := ((s.modAgent (clusterOf u) (fun g => g.use l)).agentDone (clusterOf u) l).modUnit u
      (fun x => { x with misses := x.misses.erase line })
    s1.memSlots u = [] →
    exec (.l1Fill u line) s = .next ((s1.modUnit u (fun x => x.l1Fill line (x.ownStores line d) none)).modUnit u (fun x =>
      { x with fetchMiss := x.fetchMiss.filter (fun e => e.2 != line) }))) ∧
  (∀ (cl i : Nat) (s s1 : State) (w : Walk) (c0 : Ctx) (nl : List NonLeaf), s.alive = true → (s.cluster cl).walks[i]? = some w → i < 2 →
    s.xlt.busy = false → s.ctxAny w.unit w.slot = some c0 →
    let c : Ctx := if w.kind = .copy then { c0 with t := { c0.t with pc := w.pc } } else c0
    let ended := s1.modCluster cl (fun x => { x with walks := x.walks.erase w, nonLeaf := nl.foldl (fun a e => keepMru 128 e a) x.nonLeaf })
    (∀ t : Tlb, walk (clusterReader cl) c.cmd.coil c.cmd.asroot w.va (s.cluster cl).nonLeaf s = (.leaf t, nl, s1) →
      let filled := (ended.modCluster cl (fun x => { x with tlb := keepLeaf t x.tlb })).modUnit w.unit
        (fun x => { x with tlb := keepMru 64 t x.tlb })
      exec (.walkComplete cl i) s = .next (if w.kind = .fetch then filled.fetchAhead c w.va
        else if w.kind = .copy then filled else filled.memResume w.unit w.slot)) ∧
    (∀ k, walk (clusterReader cl) c.cmd.coil c.cmd.asroot w.va (s.cluster cl).nonLeaf s = (.fault k, nl, s1) →
      ((w.kind = .fetch ∨ w.kind = .copy ∨ ∀ o, c.t.wait ≠ .mem o) →
        exec (.walkComplete cl i) s = .next (ended.raise c 0x17 k w.kind.code w.va)) ∧
      (w.kind ≠ .fetch → w.kind ≠ .copy → ∀ o, c.t.wait = .mem o → exec (.walkComplete cl i) s = .next (
        if ended.mayRefuse o w.va then ended.memGo c (o.failPage w.va 0x17 k) else ended.raise c 0x17 k w.kind.code w.va)))) ∧
  (∀ (u launch hank : Nat) (s : State) (h : Hank), s.alive = true →
    (s.unit u).hanks.find? (fun h => h.launch == launch && h.index == hank) = some h →
    (∀ k ∈ (s.unit u).copies, k.launch = launch → k.hank = hank → k.done = true) →
    (h.progress + 4096 ≤ s.ucyc u → ∀ t ∈ h.strands, t.wait.isEnded = false →
      (∀ x ∈ h.strands, x.wait.isEnded = false → t.slot ≤ x.slot ∧ (h.blockedOn x).isSome = true) →
      (∀ x ∈ h.strands, x.slot = t.slot → x = t) → ∀ b n, h.blockedOn t = some (b, n) →
      exec (.stall u launch hank) s = .next (s.endLaunch launch
        { status := 0x12, cause := 0x30, dkind := 1, detail := u + 1024 * t.slot,
          fault := some { cause := 0x30, pc := t.pc, obj := n, objBelay := b, unit := some (u, t.slot) } })) ∧
    ((∀ m ∈ (s.unit u).mmaQ, m.launch = launch → m.hank ≠ hank) → (∀ t ∈ h.strands, t.wait.isEnded = true) → (s.unit u).wc = [] →
      let s1 := (s.modLaunch launch (fun l => { l.addHank h with hanksDone := l.hanksDone + 1 })).freeHank u h
      ∀ (c : Cmd) (l : Launch), s1.cmd? launch = some c → c.work = .launch l →
      exec (.hankEnd u launch hank) s = .next (if l.hanksDone = l.hankCount then s1.endCmd launch { status := l.status } else s1)))

/-- HANK_DISPATCH (R221, R222, R252, R465). -/
def Obligations.HankDispatchStartsAHank : Prop :=
  (∀ (cmd u : Nat) (s : State) (c : Cmd) (l : Launch), s.alive = true → s.lhr.stage = 0 → s.cmd? cmd = some c → c.work = .launch l →
    c.ending = none → l.toGive = true → s.firstToGive c = true → (s.unitOrder c).find? (fun u => s.hasRoom u l.desc) = some u →
    s.splitFor u l.desc = some (s.unit u).l1Code →
    let n := match l.again with | h :: _ => h | [] => l.nextHank
    let l' := match l.again with | _ :: t => { l with again := t } | [] => { l with nextHank := l.nextHank + 1 }
    let slots := s.freeSlots u
    let ts := (List.range ((l.desc.threads + 31) / 32)).map (fun i => newStrand l.desc l.args n ((slots[i]?).getD 0) i)
    let h : Hank := { launch := cmd, index := n, strands := ts, progress := s.ucyc u }
    let s1 := s.modUnit u (fun x => { x with hanks := x.hanks ++ [h] }.l1Acquire)
    let s2 := s1.modLaunch cmd (fun _ => { l' with used := if l'.used.contains u then l'.used else l'.used ++ [u] })
    let s3 := ({ s2 with lastUnit := Tbl.set 0 s2.lastUnit c.engine (u + 1) }).modDom (regionOf u)
      (fun d => { d with gated := false, idleFrames := 0 })
    exec (.hankDispatch cmd) s = .next (ts.foldl (fun s t => match s.ctxAny u t.slot with
      | some x => s.fetchAhead x t.pc
      | none => s) s3)) ∧
  (∀ (d : Desc) (args hank slot i l r : Nat), l < 32 → r < 256 →
    let t := newStrand d args hank slot i
    t.pc = d.entry ∧ t.slot = slot ∧ t.index = i ∧ t.live.getLsbD l = decide (32 * i + l < d.threads) ∧ t.active = t.live ∧
      t.rdW l r = 0 ∧ t.rdU r = (if r = 0 then args % 2 ^ 64 else if r = 1 then hank % 2 ^ 64 else if r = 2 then i % 2 ^ 64 else 0) ∧
      (0 < r → t.rdP r = 0) ∧ t.stack = [] ∧ t.spilled = [] ∧ t.cd = 0 ∧ t.vl = 32 ∧ t.wait = .ready)

/-- What retiring an instruction leaves alone (R237, R244, R256). -/
def Obligations.UnitWorkStaysInItsUnit : Prop :=
  (∀ (s : State) (c : Ctx) (t : Strand) (e : Tlb) (tag : Nat), Tables s → permCause e.flags .fetch = none → e.pbmt = 0 →
    locality s.hws.indexValid s.hws.index (e.pa t.pc) = .here → s.localCause c.cmd.coil (paLocal (e.pa t.pc)) = none →
    s.l1Tag (e.pa t.pc) = some tag →
    let cl := clusterOf c.u
    let fetched := fun (s1 : State) =>
      if ((s.unit c.u).l1Find tag).isSome then s1.modUnit c.u (fun x => x.l1Touch tag)
      else (s1.modUnit c.u (fun x => { x with
        fetchMiss := x.fetchMiss ++ [(c.slot, tag)], misses := if x.misses.contains tag then x.misses else x.misses ++ [tag] })).agentMiss
          cl (tag % 2 ^ 42) false
    let own := (s.setStrand c t).modUnit c.u (fun x => { x with tlb := keepMru 64 e x.tlb })
    ((s.unit c.u).tlb.find? (fun x => x.hits (asAsid c.cmd.asroot) t.pc) = some e → s.retire c t = fetched own) ∧
    ((s.unit c.u).tlb.find? (fun x => x.hits (asAsid c.cmd.asroot) t.pc) = none →
      (s.cluster cl).tlb.find? (fun x => x.hits (asAsid c.cmd.asroot) t.pc) = some e →
      s.retire c t = fetched (own.modCluster cl (fun x => { x with tlb := keepLeaf e x.tlb })))) ∧
  (∀ (s : State) (c : Ctx) (t : Strand), Tables s → (s.unit c.u).tlb.find? (fun x => x.hits (asAsid c.cmd.asroot) t.pc) = none →
    (s.cluster (clusterOf c.u)).tlb.find? (fun x => x.hits (asAsid c.cmd.asroot) t.pc) = none →
    ∃ w : Walk, w.unit = c.u ∧ w.slot = c.slot ∧ w.va = t.pc ∧ w.kind = .fetch ∧
      s.retire c t = (s.setStrand c t).modCluster (clusterOf c.u) (fun x =>
        if x.walks.any (fun y => y.unit == w.unit && y.slot == w.slot && y.kind == w.kind && y.va == w.va) then x
        else { x with walks := x.walks ++ [w] })) ∧
  (∀ (s : State) (c : Ctx) (t : Strand), Tbl.wf {} s.units = true →
    let s' := s.setStrand c t
    { s' with units := s.units } = s ∧ (∀ v, v ≠ c.u → s'.unit v = s.unit v) ∧
    { s'.unit c.u with hanks := (s.unit c.u).hanks } = s.unit c.u ∧
    (s'.unit c.u).hanks.length = (s.unit c.u).hanks.length ∧
    (∀ (i : Nat) (h h' : Hank), (s.unit c.u).hanks[i]? = some h → (s'.unit c.u).hanks[i]? = some h' →
      { h' with strands := h.strands } = h ∧
      (h.launch ≠ c.hank.launch ∨ h.index ≠ c.hank.index → h' = h) ∧
      (∀ x ∈ h'.strands, x.slot ≠ t.slot → x ∈ h.strands)))

/-- The short commands (R457, R467, R468, R471, R472, R480). -/
def Obligations.CommandsActOnceAdmitted : Prop :=
  ∀ (q : Nat) (c : CmdImg) (s : State), MayAdmit s q →
    let k := s.nextCommand q c
    let s1 := counted s q c
    let kind := (s1.queue q).kind
    let f := cmdFld c
    let goes := fun (i : Instr) (t : State) => t.stuck = false → exec i s = .next (t.startNodes k.id)
    let done := fun (s : State) (e : Ending) => s.endCmd k.id e
    let doing := fun (s : State) (w : Work) => s.modCmd k.id (fun c => { c with work := w })
    let checked := fun (op : Nat) (s2 : State) => s1.admitCheck op c k kind = (none, s2)
    let closed := fun (s : State) => s.modQueue q (fun k => { k with win := k.win + 1, winErr := false })
    let hinted := fun (s : State) (heavy : Bool) =>
      let frame := if f 16 8 ≤ s.frm.count then s.frm.count + 1 else f 16 8
      ({ s with lhr := { s.lhr with hints := s.lhr.hints ++ [{ coil := k.coil, frame := frame, heavy := heavy }] } } : State)
    k.id = s.nextCmd ∧ k.seq = (s.queue q).headSeq ∧ k.queue = q ∧
    (∀ s2, checked 0x00 s2 → goes (.cmdNop q c) (done s2 { status := 0 })) ∧
    (∀ s2, checked 0x08 s2 → goes (.knotSignal q c) (doing (closed s2) (.signal (f 16 8) (f 24 8) (s2.queue q).winErr))) ∧
    (∀ s2, checked 0x09 s2 → goes (.knotWait q c) (doing s2 (.knotWait (f 16 8) (f 24 8) true))) ∧
    (∀ s2, checked 0x0A s2 → goes (.qfence q c) (doing (closed s2) (.qfence ((f 16 1).testBit 0) (s2.queue q).winErr))) ∧
    (∀ s2, checked 0x0C s2 → goes (.hintHeavy q c) (done (hinted s2 true) { status := 0 })) ∧
    (∀ s2, checked 0x0D s2 → goes (.hintLight q c) (done (hinted s2 false) { status := 0 })) ∧
    (∀ s2, checked 0x0E s2 →
      ((f 24 1).testBit 0 = true → goes (.mark q c) (doing s2 (.mark (f 16 8) true))) ∧
      ((f 24 1).testBit 0 = false → ∀ n s3,
        let s2' := s2.modCmd k.id (fun c => { c with work := .mark (f 16 8) false })
        s2'.vmWrite k (f 16 8) (leBytes 8 s2'.frm.count ++ leBytes 4 s2'.phase ++ leBytes 4 k.seq) .store = (.ok n, s3) →
        goes (.mark q c) (done s3 { status := 0 }))) ∧
    (∀ r ∈ [(0x00, Instr.cmdNop q c), (0x01, .launch q c), (0x02, .cane q c), (0x03, .canePublish q c), (0x04, .dma q c),
            (0x05, .bend q c), (0x09, .knotWait q c), (0x0A, .qfence q c), (0x0C, .hintHeavy q c), (0x0D, .hintLight q c),
            (0x0E, .mark q c)],
      let ok := headOk' c = true ∧ cmdBodyOk r.1 c = true
      (¬ok → goes r.2 (done s1 { status := 0x10, cause := 0x40 })) ∧
      (ok → kindAccepts r.1 kind = false → goes r.2 (done s1 { status := 0x10, cause := 0x41 })) ∧
      (ok → kindAccepts r.1 kind = true → ∀ b, opFeature r.1 = some b → s.fea.active.getLsbD b = false →
        goes r.2 (done s1 { status := 0x10, cause := 0x06 })))

/-- LAUNCH, CANE, CANE.PUBLISH, DMA and BEND at admission (R464, R487, R491, R500, R556). -/
def Obligations.LongCommandsBegin : Prop :=
  ∀ (q : Nat) (c : CmdImg) (s s2 : State), MayAdmit s q →
    let k := s.nextCommand q c
    let checked := fun (op : Nat) => (counted s q c).admitCheck op c k (s.queue q).kind = (none, s2)
    let f := cmdFld c
    let goes := fun (i : Instr) (t : State) => t.stuck = false → exec i s = .next (t.startNodes k.id)
    (checked 0x01 → ∀ bs s3 c0, s2.vmRead k.engine k.coil k.asroot (f 16 8) 64 .load = (.ok bs, s3) → s3.cmd? k.id = some c0 →
      let d := parseDesc bs
      let l : Launch := { desc := d, args := f 24 8, hankCount := f 32 4, rerun := (f 36 1).testBit 0 }
      let s4 := s3.modCmd k.id (fun c => { c with work := .launch l })
      let ok := f 32 4 ≠ 0 ∧ d.rsvdSet = false ∧ d.ok c0.features = true
      let all := (s4.unitsOfCoil c0.coil).all (fun u => s4.unitFenced u) = true
      (ok → ¬all → goes (.launch q c) s4) ∧
      (¬ok → goes (.launch q c) (s4.endCmd k.id { status := 0x10, cause := 0x42 })) ∧
      (ok → all → goes (.launch q c) (s4.endCmd k.id { status := 0x14 }))) ∧
    (checked 0x02 → ∀ header nc h s3 s4 s5 t s6 n s7, s2.caneAt k (f 16 8) .atomic = (.ok (header, nc), s3) →
      s3.bytesRead k.engine header 128 nc = (.ok h, s4) →
      let slot := bits (fieldAt h 0 8) 0 2
      let nodes := fieldAt h (16 + 16 * slot + 6) 2
      fieldAt h (16 + 16 * slot + 4) 1 = 1 → nodes ≠ 0 → nodes ≤ 4096 →
      (s4.atomWord k.engine header 0x08 (2 ^ (14 * slot + 6)) 0 nc).2.scratchAt k (f 24 8) nodes = (none, s5) →
      s5.vmRead k.engine k.coil k.asroot (fieldAt h (16 + 16 * slot + 8) 8) (8 * nodes) .load = (.ok t, s6) →
      s6.vmWrite k (f 24 8) (List.replicate (8 * nodes) 0) .store = (.ok n, s7) →
      let r := (List.range nodes).foldl (fun (acc : List CaneNode × State) i =>
        let x := acc.2.readNode k nodes (fieldAt t (8 * i) 8)
        (acc.1 ++ [x.1], x.2)) ([], s7)
      goes (.cane q c) (r.2.modCmd k.id (fun c =>
        { c with work := .cane { header := header, nc := nc, scratch := f 24 8, slot := slot, nodes := r.1 } }))) ∧
    (checked 0x03 → ∀ header nc h s3 s4, s2.caneAt k (f 16 8) .atomic = (.ok (header, nc), s3) →
      s3.bytesRead k.engine header 128 nc = (.ok h, s4) →
      let slot := f 24 1
      let ctrl := fieldAt h 0 8
      let nodes := fieldAt h (16 + 16 * slot + 6) 2
      let s5 := (s4.atomWord k.engine header 0x10 (setBits ctrl 0 2 slot) 0 nc).2
      let ok := fieldAt h (16 + 16 * slot + 4) 1 = 1 ∧ slot ≠ bits ctrl 0 2 ∧ nodes ≠ 0 ∧ nodes ≤ 4096
      (ok → goes (.canePublish q c) ((if caneCount ctrl (bits ctrl 0 2) = 0 then s5.caneRetire k header nc (bits ctrl 0 2) else s5).endCmd
        k.id { status := 0 })) ∧
      (¬ok → goes (.canePublish q c) (s4.endCmd k.id { status := 0x10, cause := 0x44 }))) ∧
    (checked 0x04 →
      let e := (s2.queue q).engine
      let ch := bits (f 16 1) 0 4
      let s3 := s2.modCmd k.id (fun c => { c with work := .dma e ch, engine := 512 + e })
      let x : Xfer := { cmd := k.id, queue := q, seq := k.seq, coil := k.coil, asroot := k.asroot, features := k.features,
                        image := c.body }
      x.ok = true → (x.op = 2 → k.features.getLsbD 8 = true) → (s3.dmaCh e ch).disable = false →
      goes (.dma q c) ((s3.modDmaCh e ch (fun k => { k with queueing := k.queueing ++ [x] })).dmaRun e ch)) ∧
    (checked 0x05 → bendBodyOk c.body = true →
      let b := (s2.queue q).engine
      let eng := 528 + b
      let gtab := fieldAt c.body 32 8
      let c1 : Cmd := { k with engine := eng }
      let s3 := s2.modCmd k.id (fun c => { c with work := .bend b, engine := eng })
      ∀ ga gnc s4 head s5 tab s6, s3.xlate eng k.coil k.asroot gtab .load = (.here ga gnc, s4) →
        s4.vmRead eng k.coil k.asroot gtab 16 .load = (.ok head, s5) →
        let m := fieldAt head 2 2
        0 < m → m ≤ 16384 → s5.vmRead eng k.coil k.asroot (gtab + 16) (2 * m) .load = (.ok tab, s6) →
        let members := (List.range m).map (fun i => fieldAt tab (2 * i) 2 % 16384)
        let x := fun (n : Nat) => ({
          cmd := k.id, group := fieldAt head 0 2, tag := fieldAt head 4 4, number := n, members := members
          rank := members.idxOf s6.hws.index, op := fieldAt c.body 0 1 / 8, dtype := fieldAt c.body 1 1 % 16
          red := bits (fieldAt c.body 1 1) 4 2, out32 := (fieldAt c.body 1 1).testBit 6, root := fieldAt c.body 4 2
          src := fieldAt c.body 8 8, dst := fieldAt c.body 16 8, count := fieldAt c.body 24 4, asroot := k.asroot, coil := k.coil
          signature := bendSignature c.body head } : Collective)
        fieldAt c.body 4 2 < m → members.count s6.hws.index = 1 → ∀ s7 s8 a nc s9 n s10,
        s6.bendRange c1 (x 0).src (x 0).srcLen .load = (none, s7) → s7.bendRange c1 (x 0).dst (x 0).dstLen .store = (none, s8) →
        s8.xlate eng k.coil k.asroot (gtab + 8) .atomic = (.here a nc, s9) →
        s9.atomWord eng a 0x08 1 0 nc 4 = (.ok n, s10) →
        let s11 := s10.modBend b (fun y => y.sawNumber (x n).group (x n).tag n)
        (s11.bend b).early.contains ((x n).group, (x n).tag, n) = false →
        ((∀ p ∈ members, p ≠ s11.hws.index → s11.peerGone p = false) →
          goes (.bend q c) ((s11.modBend b (fun y => { y with queueing := y.queueing ++ [x n] })).bendRun b)) ∧
        ((∃ p ∈ members, p ≠ s11.hws.index ∧ s11.peerGone p = true) →
          goes (.bend q c) (s11.bendFail b (x n) { status := 0x18, cause := 0x62 })))

/-- The queues' controls and fetches (R438 to R455). -/
def Obligations.QueueControl : Prop :=
  ∀ (q : Nat) (s : State), s.alive = true →
    let k := s.queue q
    (k.state = .disabled →
      (s.enableErr q = 0 → exec (.qdtEnable q) s = .next ((s.modQueue q (fun k => { k with
        enableErr := 0, state := .running, headSeq := 0, lastValid := false, fValid := false, served := s.servedBy k
        dmaMask := ((s.binding q).map (·.dmaMask)).getD 0, bendMask := ((s.binding q).map (·.bendMask)).getD 0, tail := 0
        tailDue := !k.ringLoc, win := k.win + 1, winErr := false, nextRecord := 0, park := false })).watchTail q)) ∧
      (s.enableErr q ≠ 0 → exec (.qdtEnable q) s = .next (s.modQueue q (fun k => { k with enableErr := s.enableErr q })))) ∧
    ((k.state = .running ∨ k.state = .halted) →
      let waits := fun (c : Cmd) => c.queue = q ∧ c.ending = none ∧ ((∃ a b d, c.work = .knotWait a b d) ∨ ∃ a b, c.work = .qfence a b)
      ∃ ws : List Cmd, ws.Sublist s.cmds ∧ (∀ c ∈ s.cmds, c ∈ ws ↔ waits c) ∧
        exec (.qdtDisable q) s = .next ((ws.foldl (fun s c => s.stopCmd c.id 0x1B)
          (s.modQueue q (fun k => { k with state := .draining }))).settleQueue q)) ∧
    (k.state ≠ .disabled → k.state ≠ .cancelling →
      exec (.qdtCancel q) s = .next (((s.cmds.filter (fun c => c.own q)).foldl (fun s c => s.attempt (s.stopCmd c.id 0x1B))
        (s.modQueue q (fun k => { k with state := .cancelling }))).settleQueue q)) ∧
    (k.state = .halted → exec (.qdtResume q) s = .next (s.modQueue q (fun k => { k with state := .running, tailDue := !k.ringLoc }))) ∧
    (k.state ≠ .halted → exec (.qdtResume q) s = .next s) ∧
    (k.state = .running → k.tailDue = true →
      let s0 := s.modQueue q (fun k => { k with tailDue := false })
      let bad := fun (s : State) (cause : Nat) => (s.queueFault q (s.queue q).headSeq
        { cause := cause, kind := 3, addr := (s.queue q).tailAddr * 8 }).halt q
      let take := fun (s : State) (w : Nat) => (Host.Outcome.next (
        if 2 ^ 32 ≤ w ∨ k.entries < (w % 2 ^ 32 + 2 ^ 32 - k.headSeq) % 2 ^ 32 then bad s 0x48
        else
          let t := s.modQueue q (fun k => { k with tail := w % 2 ^ 32 })
          if t.lhr.stage ≠ 0 ∧ w % 2 ^ 32 ≠ k.headSeq then { t with lhr := { t.lhr with waking := true } } else t) : Out State)
      (k.ringLoc = true → s.hpt.linkUp = true → ∀ w, exec (.tailRead q (.ok w)) s = take s0 w) ∧
      (k.ringLoc = true → s.hpt.linkUp = false → ∀ host, exec (.tailRead q host) s = .next (bad s0 0x49)) ∧
      (k.ringLoc = false → ∀ host bs s1, s0.bytesRead k.served (k.tailAddr * 8) 8 = (.ok bs, s1) →
        exec (.tailRead q host) s = take s1 (leNat bs)) ∧
      (k.ringLoc = false → ∀ host s1, (s0.bytesRead k.served (k.tailAddr * 8) 8 = (.poisoned, s1) ∨
          s0.bytesRead k.served (k.tailAddr * 8) 8 = (.failed, s1)) → exec (.tailRead q host) s = .next (bad s1 0x49))) ∧
    (MayAdmit s q →
      let slot := k.base * 4096 + 64 * (k.headSeq % k.entries)
      (k.ringLoc = true → s.hpt.linkUp = true → ∀ bs, exec (.commandFetch q (.ok bs)) s = .next (s.admitCmd q (parseCmd bs).1 (parseCmd bs).2)) ∧
      (k.ringLoc = false → ∀ host bs s1, s.bytesRead k.served slot 64 = (.ok bs, s1) →
        exec (.commandFetch q host) s = .next (s1.admitCmd q (parseCmd bs).1 (parseCmd bs).2)) ∧
      (k.ringLoc = true → s.hpt.linkUp = false → ∀ host,
        let c := s.nextCommand q {}
        exec (.commandFetch q host) s = .next ((((((s.passTurn q).addCmd c).modQueue q (fun x => { x with headSeq := (x.headSeq + 1) % 2 ^ 32 }))).endCmd c.id
          { status := 0x15, cause := 0x49, fault := some { cause := 0x49, kind := 3, addr := slot } }).halt q)))

/-- Completion, timeouts and waits (R445, R471 to R482). -/
def Obligations.CommandsComplete : Prop :=
  (∀ (id : Nat) (s : State) (c : Cmd), s.alive = true → s.cmd? id = some c →
    exec (.commandComplete id) s = .next (s.finishCmd id) ∧
    (let s1 := s.attempt (s.stopAgain id)
     let s2 := s1.attempt (s1.orderedWork id)
     let s3 := s2.attempt (s2.stageReport id)
     let s4 := s3.attempt (s3.stageSignal id)
     s.finishCmd id = (s4.attempt (s4.stageDone id)).flushRecords c.queue)) ∧
  (∀ (id : Nat) (s : State) (c : Cmd), s.cmd? id = some c → s.earlierDone c = true → c.ending = none →
    (∀ a v e, c.work = .signal a v e → s.orderedWork id = s.endCmd c.id { status := 0 }) ∧
    (∀ p e, c.work = .qfence p e → s.orderedWork id = s.endCmd c.id (if p ∧ e then { status := 0x10, cause := 0x47 } else { status := 0 }))) ∧
  (∀ (id : Nat) (s : State) (c : Cmd) (e : Ending), s.cmd? id = some c → c.ending = some e → c.signalled = true → s.owes id = false →
    c.record = none → c.node = none →
    let sums := match c.work with
      | .launch l => (l.totals, l.witExc)
      | .cane k => (k.rw, k.wit)
      | _ => ({}, 0)
    let bad := 0x10 ≤ e.status
    let r : Completion := { seq := c.seq, queue := c.queue, dkind := e.dkind, errk := c.errk || decide bad, status := e.status,
                            cause := e.cause, startFrame := c.startFrame, endFrame := s.frm.count, rw := sums.1, wit := sums.2,
                            detail := e.detail }
    let s1 := s.modCmd id (fun c => { c with record := some r })
    (¬bad → s.stageDone id = s1) ∧
    (bad →
      let s2 := s1.modQueue c.queue (fun k => { k with errors := satAdd 16 k.errors 1,
                                                       timeouts := satAdd 16 k.timeouts (if e.status = 0x11 then 1 else 0) })
      let s3 := (match e.fault with
        | some f => s2.queueFault c.queue c.seq f
        | none => if e.cause ≠ 0 then s2.queueFault c.queue c.seq { cause := e.cause } else s2).windowFail c
      s.stageDone id = if (s3.queue c.queue).halt then s3.halt c.queue else s3)) ∧
  (∀ (id : Nat) (s : State) (c : Cmd), s.cmd? id = some c → s.alive = true → c.node = none → c.ticksLeft = 0 → c.record = none →
    let t := ((s.stopCane c).stopWork c 0x11).modCmd id (fun c => { c with ending := some { status := 0x11 } })
    exec (.timeout id) s = .next (if t.stuck then s else t)) ∧
  (∀ (id knot target a w : Nat) (nc : Bool) (s s1 s2 : State) (c : Cmd) (remote : ReadBack Nat), s.alive = true → s.cmd? id = some c →
    c.work = .knotWait knot target true → c.ending = none → (∀ r ∈ s.hws.reqs, r.who ≠ .knot (.cmd id)) →
    s.xlate c.engine c.coil c.asroot knot .atomic = (.here a nc, s1) →
    (s1.modCmd id (fun c => { c with work := .knotWait knot target false })).knotLocal (.cmd id) c.engine a nc = (.ok w, s2) →
    exec (.knotRead (.cmd id) remote) s = .next (
      if w.testBit 63 = true then (s2.dropWatch 1 id).endCmd id { status := 0x10, cause := 0x46 }
      else if target ≤ w then (s2.dropWatch 1 id).endCmd id { status := 0 } else s2))

/-- The DMA events (R493 to R513). -/
def Obligations.DmaEventsAct : Prop :=
  ∀ (e c : Nat) (s : State),
    let k := s.dmaCh e c
    (s.alive = true → (s.dmaEng e).busErr = false → ∀ (x : Xfer) (i : Nat) (b : Burst) (ext : ReadBack (List Byte)), k.act = some x →
      k.bursts[i]? = some b →
      (ext = .failed → b.external = true → exec (.dmaBurstData e c i ext) s = .next (s.dmaBusError e (x.srcAt b.from_))) ∧
      (¬(ext = .failed ∧ b.external = true) →
        let r := b.parts.foldl (fun (acc : List DmaPart × ReadBack (List Byte) × State) p =>
          let n := acc.2.2.dmaPart e c acc.2.1 p
          (acc.1 ++ [n.1], n.2.1, n.2.2)) ([], ext, s)
        let s1 := r.2.2.modDmaCh e c (fun k => { k with bursts := k.bursts.set i { b with parts := r.1 } })
        (r.1 ≠ b.parts ∨ b.parts = [] ∨ b.external = false) →
        exec (.dmaBurstData e c i ext) s = .next ((State.dmaDrain e c 33 (s1.modDmaCh e c (fun k =>
          { k with quiet := false, starved := false, starveTicks := 0 }))).dmaRun e c))) ∧
    (s.alive = true → ∀ x : Xfer, k.act = some x → x.op ≠ 1 → k.bursts = [] → x.total ≤ k.issued →
      (∀ r ∈ s.hws.reqs, r.who ≠ .dma e c) → exec (.dmaTransferComplete e c) s = .next ((s.dmaFinish e c).dmaRun e c)) ∧
    (s.alive = true → (s.dmaEng e).busErr = false → c < 16 → k.act ≠ none → ∀ a,
      exec (.dmaBusError e a) s = .next (s.dmaBusError e a)) ∧
    (s.alive = true → (s.dmaEng e).busErr = true → exec (.dmaBusErrDrain e) s = .next ((List.range 16).foldl (fun s c => s.dmaRun e c)
      (s.modDma e (fun k => { k with busErr := false })))) ∧
    (s.alive = true → k.stallLimit ≠ 0 → k.starved = false → k.starving = true → k.stallLimit ≤ k.starveTicks →
      exec (.starved e c) s = .next ((s.modDmaCh e c (fun k =>
        { k with starved := true, event := 0x21, starveCount := satAdd 16 k.starveCount 1 })).logErr .event 0x31 8 e c)) ∧
    (s.alive = true → k.paceDue = true → k.act ≠ none → exec (.paceRead e c) s = .next ((s.attempt (s.dmaPace e c)).dmaRun e c)) ∧
    (s.dmaOver e c = false →
      let off := s.modDmaCh e c (fun k => { k with disable := true })
      (k.act = none → k.shd = none → exec (.dmaChDisable e c) s = .next off) ∧
      (∀ x : Xfer, k.act = some x → k.shd = none →
        let s1 := off.dmaEnd e c { status := 0x1B, cause := 0x51, dkind := 3, detail := c + 16 * e }
        exec (.dmaChDisable e c) s = .next ((s1.freeVal 64).2.modDmaCh e c (fun k =>
          { k with shd := none, done := (s1.freeVal 64).1 })))) ∧
    exec (.dmaChEnable e c) s = .next ((s.modDmaCh e c (fun k => { k with disable := false })).dmaRun e c)

/-- The bend engines' events (R551 to R559, R565, R566). -/
def Obligations.CollectivesAct : Prop :=
  ∀ (b : Nat) (s : State), s.alive = true →
    (∀ x, exec (.bendPacket b x) s = .next (s.bendArrive b x)) ∧
    (∀ group tag number status, 0x10 ≤ status →
      let hit := ((s.bend b).cols ++ (s.bend b).queueing).find? (fun k => k.group == group && k.tag == tag && k.number == number)
      (∀ k, hit = some k → exec (.abort b group tag number status) s = .next ((s.bendFail b k { status := 0x18, cause := 0x64 }).bendRun b)) ∧
      (hit = none → exec (.abort b group tag number status) s = .next (s.modBend b (fun x =>
        if x.admitted group tag number then x
        else { x with early := (x.early ++ [(group, tag, number)]).drop (x.early.length + 1 - 256) })))) ∧
    (∀ group tag number status, status < 0x10 → exec (.abort b group tag number status) s = .next s) ∧
    (∀ cmd k c n s1, (s.bend b).cols.find? (fun k => k.cmd == cmd) = some k → s.cmd? cmd = some c → s.bendDone b k = true →
      s.vmWrite c k.dst k.result .store = (.ok n, s1) →
      exec (.collectiveComplete b cmd) s = .next (s.attempt (((s1.modBend b (fun x => { x.remove cmd with
        ops := (x.ops + 1) % 2 ^ 64, bytes := (x.bytes + k.result.length) % 2 ^ 64 })).endCmd cmd { status := 0 }).bendRun b))) ∧
    (∀ v, exec (.bndCntClear b v) s = .next (s.modBend b (fun x =>
      { x with ops := if v.testBit 0 then 0 else x.ops, bytes := if v.testBit 1 then 0 else x.bytes,
               aborts := if v.testBit 2 then 0 else x.aborts })))

/-- The columns SNS, SNI, SNO, DAT and ACK of R379. -/
def Obligations.AgentsAnswerByTheTable : Prop :=
  ∀ cell ∈ ([(.sni, .I, .I, some .ack), (.sni, .ISd, .ISd, some .ack), (.sni, .IMd, .IMd, some .ack), (.sni, .S, .I, some .ack),
      (.sni, .SMa, .IMd, some .ack), (.sni, .SIa, .IIa, some .ack), (.sni, .IIa, .IIa, some .ack)] ++
     [(.sns, .E, .S, some .dat), (.sns, .M, .O, some (.datd true)), (.sns, .O, .O, some (.datd true)),
      (.sns, .OMa, .OMa, some (.datd true)), (.sns, .MIa, .IIa, some (.datd false)), (.sns, .OIa, .IIa, some (.datd false)),
      (.sns, .EIa, .IIa, some .ack)] ++
     [(.sno, .E, .I, some .dat), (.sno, .M, .I, some (.datd false)), (.sno, .O, .I, some (.datd false)),
      (.sno, .OMa, .IMd, some (.datd false)), (.sno, .MIa, .IIa, some (.datd false)), (.sno, .OIa, .IIa, some (.datd false)),
      (.sno, .EIa, .IIa, some .ack)] ++
     [(.dat .s, .ISd, .S, none), (.dat .e, .ISd, .E, none), (.dat .m, .IMd, .M, none), (.dat .m, .SMa, .M, none),
      (.dat .m, .OMa, .M, none)] ++
     [(.ack, .SMa, .M, none), (.ack, .OMa, .M, none), (.ack, .MIa, .I, none), (.ack, .OIa, .I, none), (.ack, .EIa, .I, none),
      (.ack, .SIa, .I, none), (.ack, .IIa, .I, none)]
      : List (CEv × CState × CState × Option Reply)),
  ∀ (s : State) (m : Msg) (x : CLine), MayArrive s m → m.src = homeId → isCaching m.dst = true → m.nc = false → m.dst ∉ s.coh.dead →
    m.stash = false → msgEv m = some cell.1 → ((s.agent m.dst).find m.line).getD { line := m.line, st := .I } = x → x.st = cell.2.1 →
    (isSnoop m = true → s.cleatHolds x = false) →
    let st := cell.2.2.1
    let won : Bool := (m.ty == .dat || m.ty == .ack) && (st == .M || st == .E)
    let y : CLine := { x with st := st, data := if m.ty = .dat then m.data else x.data, poison := if m.ty = .dat then m.poison else x.poison,
                              wonAt := if won then some s.now else x.wonAt, cleat := if won then s.coh.cleat else x.cleat,
                              owed := won || x.owed, held := none }
    let t1 := (taken s m).modAgent m.dst (fun g => g.put y)
    let t2 := if st.readable then t1 else t1.dropResv m.dst m.line
    let r : Msg := { ty := .ack, src := m.dst, dst := homeId, txn := m.txn, line := m.line }
    let t3 := match cell.2.2.2 with
      | none => t2
      | some .ack => t2.send r
      | some .dat => t2.send { r with ty := .dat, data := x.data, poison := x.poison }
      | some (.datd retain) => t2.send { r with ty := .datd, data := x.data, poison := x.poison, retain := retain }
    let t := if m.dst < 256 then t3.pumpCluster m.dst else t3
    (m.ty = .sns → exec (.sns m) s = .next t) ∧ (m.ty = .sni → exec (.sni m) s = .next t) ∧
      (m.ty = .sno → exec (.sno m) s = .next t) ∧ (m.ty = .dat → exec (.dat m) s = .next t) ∧
      (m.ty = .ack → exec (.ack m) s = .next t)

/-- Requests to a line in directory state I (R382). -/
def Obligations.HomesServeLinesNobodyHolds : Prop :=
  ∀ (s : State) (m : Msg), ServedNow s m none →
    let l := m.line
    let n := s.homeOf l
    let s0 := taken s m
    let w := s0.wake l
    let own : Option DirEntry := some { line := l, st := .X, owner := m.src }
    let stale := fun (t : State) => ((t.modSlice n (fun k =>
      { k with ccnt := { k.ccnt with stale := (k.ccnt.stale + 1) % 2 ^ 64 } })).reply m { ty := .ack }).pumpHome n
    (m.ty = .rds → ∀ d p t, s0.homeRead l m.src m.nc true = .data (d, p) t →
      exec (.rds m) s = .next ((((t.clearBusy l).setDir l own).reply m { ty := .dat, grant := .e, data := d, poison := p }).pumpHome n)) ∧
    (m.ty = .rnc → ∀ d p t, s0.homeRead l m.src m.nc true = .data (d, p) t →
      exec (.rnc m) s = .next (((t.clearBusy l).reply m { ty := .dat, grant := .s, data := d, poison := p }).pumpHome n)) ∧
    (m.ty = .rdo → ∀ d p t, w.homeRead l m.src m.nc true = .data (d, p) t →
      exec (.rdo m) s = .next ((((t.clearBusy l).setDir l own).reply m { ty := .dat, grant := .m, data := d, poison := p }).pumpHome n)) ∧
    (m.ty = .upg → ∀ d p t, w.homeRead l m.src m.nc true = .data (d, p) t →
      exec (.upg m) s = .next ((((((t.clearBusy l).modSlice (t.homeOf l) (fun k =>
        { k with ccnt := { k.ccnt with upgRdo := (k.ccnt.upgRdo + 1) % 2 ^ 64 } })).setDir l own).reply m
          { ty := .dat, grant := .m, data := d, poison := p })).pumpHome n)) ∧
    (m.ty = .wnc → m.mask = BitVec.allOnes 128 →
      let v := mergeLine 0 m.data m.mask
      let t := w.clearBusy l
      exec (.wnc m) s = .next (((if m.nc then t.homeWriteInPlace l v m.poison else t.homeWrite l v m.poison).setDir l none).pumpHome n)) ∧
    (m.ty = .wnc → m.mask ≠ BitVec.allOnes 128 → ∀ d p t, w.homeRead l m.src m.nc false = .data (d, p) t →
      let v := if p then (d, true) else (mergeLine d m.data m.mask, m.poison)
      let t' := t.clearBusy l
      exec (.wnc m) s = .next (((if m.nc then t'.homeWriteInPlace l v.1 v.2 else t'.homeWrite l v.1 v.2).setDir l none).pumpHome n)) ∧
    (m.ty = .anc → ∀ d p t, w.homeRead l m.src m.nc true = .data (d, p) t →
      let r := lineAtomic d m.offset (if m.size then 8 else 4) m.op m.srcOperand m.cmpOperand
      let u := t.clearBusy l
      let u := if p then u else match r.2 with
        | some x => if m.nc then u.homeWriteInPlace l x false else u.homeWrite l x false
        | none => u
      exec (.anc m) s = .next (((u.setDir l none).reply m (if p then { ty := .dat, grant := .s, poison := true }
        else { ty := .dat, grant := .s, data := BitVec.ofNat 1024 r.1 })).pumpHome n)) ∧
    (m.ty = .sth → s.stashTarget m = none →
      exec (.sth m) s = .next ((((w.clearBusy l).homeWrite l m.data m.poison).setDir l none).pumpHome n)) ∧
    (m.ty = .wbk → exec (.wbk m) s = .next (stale (s0.clearBusy l))) ∧
    (m.ty = .evc → exec (.evc m) s = .next (stale (s0.clearBusy l)))

/-- Requests to a line with a directory entry (R382). -/
def Obligations.HomesSnoopTheHolders : Prop :=
  ∀ (s : State) (m : Msg) (e : DirEntry), ServedNow s m (some e) →
    let l := m.line
    let n := s.homeOf l
    let s0 := (taken s m).setDir l (some e)
    let w := s0.wake l
    let live := fun (as : List Nat) => as.filter (fun a => !s.coh.dead.contains a)
    let snoop := fun (t : State) (asRdo : Bool) (own : Option MsgType) (sni : List Nat) =>
      let owner := live (if e.st = .S ∨ own = none then [] else [e.owner])
      let t := match own with | some ty => t.snoops l m.txn ty owner | none => t
      ((t.snoops l m.txn .sni (live sni)).setBusy { line := l, why := .bs, req := m, was := some e, asRdo := asRdo, owed := owner.map (fun a => (a, true)) ++ (live sni).map (fun a => (a, false)) }).pumpHome n
    let others := e.holders.filter (fun a => a != m.src)
    (m.ty = .rds → e.st ≠ .S → e.owner ∉ s.coh.dead → exec (.rds m) s = .next (snoop s0 false (some .sns) [])) ∧
    (m.ty = .rnc → e.st ≠ .S → e.owner ∉ s.coh.dead → exec (.rnc m) s = .next (snoop s0 false (some .sns) [])) ∧
    (∀ i ∈ [(Instr.rdo, MsgType.rdo), (.wnc, .wnc), (.anc, .anc), (.sth, .sth)], m.ty = i.2 →
      (e.st = .S → live e.holders ≠ [] → exec (i.1 m) s = .next (snoop w false none e.holders)) ∧
      (e.st ≠ .S → e.owner ∉ s.coh.dead → exec (i.1 m) s = .next (snoop w false (some .sno) e.holders))) ∧
    (m.ty = .upg →
      (e.st = .S → e.pointed m.src = true → live others ≠ [] → exec (.upg m) s = .next (snoop w false none others)) ∧
      (e.st = .O → e.owner = m.src → live e.holders ≠ [] → exec (.upg m) s = .next (snoop w false none e.holders)) ∧
      (e.st = .O → e.owner ≠ m.src → e.owner ∉ s.coh.dead → e.pointed m.src = true →
        exec (.upg m) s = .next (snoop w false (some .sno) others)) ∧
      (e.st = .S → e.pointed m.src = false → live e.holders ≠ [] → exec (.upg m) s = .next (snoop w true none e.holders)) ∧
      (e.st = .O → e.owner ≠ m.src → e.owner ∉ s.coh.dead → e.pointed m.src = false →
        exec (.upg m) s = .next (snoop w true (some .sno) e.holders)) ∧
      (e.st = .X → e.owner ∉ s.coh.dead → exec (.upg m) s = .next (snoop w true (some .sno) e.holders))) ∧
    (m.ty = .wbk → e.st ≠ .S → e.owner = m.src →
      exec (.wbk m) s = .next (((((s0.clearBusy l).homeWrite l m.data m.poison).setDir l
        (if e.st = .X ∨ e.coarse = false ∧ e.sharers = [] then none else some { e with st := .S, owner := 0 })).reply m { ty := .ack }).pumpHome n)) ∧
    (m.ty = .evc → e.st = .X → e.owner = m.src →
      exec (.evc m) s = .next ((((s0.clearBusy l).setDir l none).reply m { ty := .ack }).pumpHome n)) ∧
    (m.ty = .evc → e.st ≠ .X → e.pointed m.src = true →
      let rest := e.sharers.filter (fun a => a != m.src)
      exec (.evc m) s = .next ((((s0.clearBusy l).setDir l (if e.st = .S then (if rest = [] then none else some { e with sharers := rest, owner := 0 })
        else some { e with sharers := rest })).reply m { ty := .ack }).pumpHome n))

/-- Answers at a home (R383). -/
def Obligations.HomesTakeAnswers : Prop :=
  ∀ (s : State) (m : Msg) (b : BusyLine),
    let l := m.line
    let n := s.homeOf l
    let s0 := taken s m
    (∀ owner, AnswerDue s m b owner →
      let rest := b.owed.erase (m.src, owner)
      let coarse := b.was.any (·.coarse)
      let own : Option DirEntry := some { line := l, st := .X, owner := b.req.src, coarse := coarse }
      b.line = l → b.forced = false →
      (m.ty = .ack → owner = false → rest ≠ [] → exec (.ack m) s = .next ((s0.setBusy { b with owed := rest }).pumpHome n)) ∧
      (m.ty = .ack → owner = false → rest = [] → b.req.ty = .upg → b.asRdo = false →
        exec (.ack m) s = .next ((((s0.clearBusy l).setDir l own).reply b.req { ty := .ack }).pumpHome n)) ∧
      (m.ty = .dat → owner = true → rest = [] → b.req.ty = .rds → ∀ e, b.was = some e → e.st ≠ .S →
        exec (.dat m) s = .next ((((s0.clearBusy l).setDir l (some ((({ line := l, st := .S, coarse := coarse } : DirEntry).add e.owner).add b.req.src))).reply
          b.req { ty := .dat, grant := .s, data := m.data, poison := m.poison }).pumpHome n)) ∧
      (m.ty = .datd → m.retain = true → owner = true → rest = [] → b.req.ty = .rds → ∀ e, b.was = some e → e.st ≠ .S →
        exec (.datd m) s = .next ((((s0.clearBusy l).setDir l (some { (e.add b.req.src) with st := .O })).reply
          b.req { ty := .dat, grant := .s, data := m.data, poison := m.poison }).pumpHome n)) ∧
      (m.ty = .datd → m.retain = false → owner = true → rest = [] → b.req.ty = .rds → ∀ e, b.was = some e → e.st ≠ .S →
        exec (.datd m) s = .next (((((s0.homeWrite l m.data m.poison).clearBusy l).setDir l
          (some { (e.add b.req.src) with st := .S, owner := 0 })).reply
            b.req { ty := .dat, grant := .s, data := m.data, poison := m.poison }).pumpHome n)) ∧
      (∀ i ∈ [(Instr.dat, MsgType.dat), (.datd, .datd)], m.ty = i.2 → m.retain = false → owner = true → rest = [] → b.req.ty = .rdo →
        exec (i.1 m) s = .next ((((s0.clearBusy l).setDir l own).reply b.req
          { ty := .dat, grant := .m, data := m.data, poison := m.poison }).pumpHome n))) ∧
    (MayArrive s m → m.ty = .ack → m.dst = homeId → m.src ∉ s.coh.dead → (s.slice n).busyOf l = none →
      exec (.ack m) s = .next (s0.fatal 0x23 6 n 0 l))

/-- Events of the homes and of cached translations (R331 to R334, R352, R386, R394 to R401). -/
def Obligations.HomeEventsAct : Prop :=
  ∀ (s : State), s.alive = true →
    (∀ l f d, (s.slice (homeSlice l)).fills.find? (fun f => f.line == l && f.got.isSome) = some f → f.got = some d →
      let n := homeSlice l
      let s1 := s.modSlice n (fun k => { k with fills := k.fills.filter (fun g => g.line != l) })
      let s2 := if f.bypass = true ∨ f.prefetch = true ∧ s1.victimClean l = false then s1
        else s1.sliceAlloc n { line := l, data := d.1, poison := d.2, pf := f.prefetch } (!f.prefetch)
      (∀ b, (s2.slice n).busyOf l = some b → b.why = .bd → b.stalled = false → f.prefetch = false →
        exec (.fillComplete l) s = .next ((s2.finishLine b d).pumpHome n)) ∧
      ((∀ b, (s2.slice n).busyOf l = some b → b.why ≠ .bd ∨ b.stalled = true ∨ f.prefetch = true) →
        exec (.fillComplete l) s = .next (s2.pumpHome n))) ∧
    (∀ l e b k a, (s.slice (s.homeOf l)).busyOf l = some b → b.why = .bp → s.spillSet l = some (k, a) →
      let n := s.homeOf l
      k ∈ (s.slice n).summary →
      let s1 := s.modSlice n (fun x => { x with ccnt := { x.ccnt with spillRd := (x.ccnt.spillRd + 1) % 2 ^ 64 } })
      let r := s1.readLine a e
      let got := s1.readEvents a r
      let ws := spillWords got.1.1
      let s2 := got.2.clearBusy l
      let here := fun (i : Nat) => (decodeSpill n (ws.getD i 0)).map (·.line) = some l
      (s.hbmHeld a = true → exec (.spillRead l e) s = .next s) ∧
      (s.hbmHeld a = false → r.poisoned = true → ∃ t : State, exec (.spillRead l e) s = .next (t.fatal 0x22 6 n 0 a) ∧
        t.mem = s.mem ∧ t.slices = s1.slices ∧ t.net = s.net) ∧
      (s.hbmHeld a = false → r.poisoned = false → (∀ i < 8, ¬ here i) →
        exec (.spillRead l e) s = .next ((s2.act b.req none).pumpHome n)) ∧
      (s.hbmHeld a = false → r.poisoned = false → ∀ i < 8, here i → (∀ j < i, ¬ here j) →
        let left := ws.set i 0
        let order := (Tbl.get [] (s2.slice n).spillOrder k).filter (fun j => j != i)
        let s3 := (s2.hbmStore a (spillLine left) false).modSlice n (fun x =>
          { x with summary := mark x.summary k (left.any (fun w => bits w 28 2 != 0)), spillOrder := Tbl.set [] x.spillOrder k order })
        exec (.spillRead l e) s = .next (((s3.setDir l (decodeSpill n (ws.getD i 0))).serve b.req).pumpHome n))) ∧
    (∀ a l x m ev, (s.agent a).find l = some x → x.held = some m → s.cleatHolds x = false → msgEv m = some ev →
      let t := (s.modAgent a (fun g => g.put { x with wonAt := none, held := none })).agentApply m ev
      exec (.cleatExpiry a l) s = .next (if a < 256 then t.pumpCluster a else t)) ∧
    (s.coh.reclaim = true →
      let ns := s.slices.map (·.1)
      let t := ns.foldl (fun s n => s.scanSlice n) s
      (t.coh.serving = true → (∀ n ∈ ns, t.scanned n = true) →
        exec .reclaimEnd s = .next (ns.foldl (fun s n => s.pumpHome n)
          { t with coh := { t.coh with reclaim := false, spill := t.spillShift.isSome && !t.coh.test } })) ∧
      (t.coh.serving = false ∨ (∃ n ∈ ns, t.scanned n = false) →
        exec .reclaimEnd s = .next (ns.foldl (fun s n => s.pumpHome n) t))) ∧
    (s.xlt.busy = true → exec .xltInvGo s = .next s) ∧
    (Tables s → s.xlt.busy = false → ∃ t, exec .xltInvGo s = .next t ∧ t.xlt = { s.xlt with busy := true } ∧
      (∀ u e, e ∈ (t.unit u).tlb ↔ e ∈ (s.unit u).tlb ∧ s.xlt.leaf e = false) ∧
      (∀ c e, e ∈ (t.cluster c).tlb ↔ e ∈ (s.cluster c).tlb ∧ s.xlt.leaf e = false) ∧
      (∀ c e, e ∈ (t.cluster c).nonLeaf ↔ e ∈ (s.cluster c).nonLeaf ∧ s.xlt.table e = false) ∧
      (∀ d e, e ∈ (t.dmaEng d).tlb ↔ e ∈ (s.dmaEng d).tlb ∧ s.xlt.leaf e = false) ∧ t.mem = s.mem) ∧
    (s.xlt.busy = true →
      let t := (s.units.map (·.1)).foldl (fun s u => s.drainWc u) s
      (∀ u ∈ s.units.map (·.1), t.xltOutstanding u = false) →
      exec .xltInvDone s = .next { t.removeXlt with xlt := { t.xlt with busy := false, done := (t.xlt.done + 1) % 2 ^ 32 } })

/-- Events of the stacked memory (R409 to R425). -/
def Obligations.HbmReadsAndScrubs : Prop :=
  ∀ (s : State), s.alive = true →
    (∀ l e f, (s.slice (homeSlice l)).fills.find? (fun f => f.line == l && f.got.isNone) = some f → s.hbmHeld l = false →
      let r := s.readEvents l (s.readLine l e)
      exec (.hbmRead l e) s = .next (r.2.modSlice (homeSlice l) (fun k =>
        { k with fills := k.fills.map (fun g => if g.line == l then { g with got := some r.1 } else g) }))) ∧
    (∀ l e, let r := s.readLine l e
      r.count isCorrected = 0 → r.count isUncorrectable = 0 →
      s.readEvents l r = (((s.hbmLine l).1, decide (r.count isPoisoned ≠ 0)), s.modStack (stackOf l) (fun k => k.modChannel (chOf l) (fun c =>
        { c with cntPoison := (c.cntPoison + r.count isPoisoned) % 2 ^ 64, cntCe := c.cntCe % 2 ^ 64, cntUe := c.cntUe % 2 ^ 64 })))) ∧
    (∀ st ch err, s.scrubCode ≠ 5 → (s.stack st).hold = false → (s.stack st).selfRefresh = false → s.lhr.stage < 2 → ch < 32 →
      let c := (s.stack st).channel ch
      let n := c.scrubAt
      let s1 := s.modStack st (fun k => k.modChannel ch (fun c => { c with scrubAt := (c.scrubAt + 1) % 2 ^ 24 }))
      (∀ bank row, c.logical (n % 2) (n / 16 % 64) (n / 1024 % 16384) = some (bank, row) →
        let l := addrOf st ch (n % 2) bank row (n / 2 % 8)
        (s.hbmHeld l = false → exec (.scrubRead st ch err) s = .next (s1.readEvents l (s1.readLine l err)).2) ∧
        (s.hbmHeld l = true → exec (.scrubRead st ch err) s = .next s)) ∧
      (c.logical (n % 2) (n / 16 % 64) (n / 1024 % 16384) = none → exec (.scrubRead st ch err) s = .next s1)) ∧
    (∀ st ch i errs e, (s.stack st).hold = false → (s.stack st).selfRefresh = false →
      ((s.stack st).channel ch).remaps.find? (fun e => e.index == i && !e.active) = some e →
      let at' := fun (n : Nat) => addrOf st ch e.pch e.bank e.row n
      let t := (List.range 8).foldl (fun s n => s.copyLine (at' n) ((errs[n]?).getD {})) s
      let t1 := t.modStack st (fun k => (k.modChannel ch (fun c => { c with remaps := c.remaps.map (fun x =>
          if x.index == i then { x with active := true, moving := none } else x) })).addRepair (ch, e.pch, e.bank, e.row))
      exec (.remapComplete st ch i errs) s = .next ((t1.flushHeld st).logErr .ce 0x11 7 (32 * st + ch)
        (e.newRow + e.newBank * 2 ^ 14 + e.pch * 2 ^ 20 + (i % 8) * 2 ^ 21 + (i / 8) * 2 ^ 24) (at' 0))) ∧
    (∀ st ch pch bank row n, s.scrubTime = some n → exec (.trackerFree st ch pch bank row) s =
      .next (s.modStack st (fun k => k.modChannel ch (fun c => { c with tracker := c.tracker.filter (fun e =>
        !decide (e.pch = pch ∧ e.bank = bank ∧ e.row = row ∧ e.at_ + n ≤ s.now)) })))) ∧
    (∀ st ch, ((s.stack st).channel ch).eyeAt + 64 ≤ s.frm.ticks → exec (.eyeTrack st ch) s =
      .next (s.modStack st (fun k => k.modChannel ch (fun c => { c with eyeAt := s.frm.ticks }))))

/-- Traffic generators (R428 to R434). -/
def Obligations.TrafficGeneratorsRun : Prop :=
  ∀ (s : State) (st ch : Nat), s.alive = true →
    let g := ((s.stack st).channel ch).tg
    (g.busy = true → exec (.tgGo st ch) s = .next s) ∧
    (g.busy = false → s.tgRefused st g = true →
      exec (.tgGo st ch) s = .next (s.modTg st ch (fun g => { g with refused := true, done := false }))) ∧
    (g.busy = false → s.tgRefused st g = false →
      exec (.tgGo st ch) s = .next (s.modTg st ch (fun g => { g with busy := true, done := false, refused := false, pass := 0, mismatch := 0, ce := 0, first := 0, firstValid := false, stopping := false }))) ∧
    (s.coh.test = false → s.feature 15 = false → s.tgRefused st g = true) ∧
    (g.rowLo % 2 ^ g.rowsLog2 ≠ 0 → s.tgRefused st g = true) ∧
    exec (.tgStop st ch) s = .next (s.modTg st ch (fun g => { g with stopping := g.busy || g.stopping })) ∧
    (g.busy = true → g.stopping = false → g.passes ≠ 0 → g.passes < 256 → ∀ errs,
      let n := 1024 * 2 ^ g.rowsLog2 * (if g.op = 2 then 2 else 1)
      let t := ((List.range g.passes).foldl (fun s p => s.tgPass st ch p n errs) s).tgPass st ch g.passes 0 errs
      exec (.tgDone st ch errs) s = .next (t.modTg st ch (fun g' => { g' with busy := false, done := true, stopping := false, pass := g.passes })))

/-- The clear registers (R208, R367, R403, R433, R434, R562, R643, R662, R663). -/
def Obligations.ClearsZeroExactlyTheNamedCounters : Prop :=
  ∀ (s : State) (v : Nat),
    let z := fun (c x : Nat) => if v.testBit c then 0 else x
    (∀ u, exec (.uniVtsClear u v) s = .next (s.modUnit u (fun x => { x with vts := {
      invalid := z 0 x.vts.invalid, nanIn := z 1 x.vts.nanIn, divZero := z 2 x.vts.divZero, overflow := z 3 x.vts.overflow,
      flushIn := z 4 x.vts.flushIn, flushOut := z 5 x.vts.flushOut, underflow := z 6 x.vts.underflow, saturate := z 7 x.vts.saturate,
      intWrap := z 8 x.vts.intWrap, indexRange := z 9 x.vts.indexRange } }))) ∧
    (∀ n, exec (.llmCntClear n v) s = .next (s.modSlice n (fun k => { k with cnt := {
      hit := z 0 k.cnt.hit, miss := z 1 k.cnt.miss, wb := z 2 k.cnt.wb, pfIssue := z 3 k.cnt.pfIssue, pfUsed := z 4 k.cnt.pfUsed,
      sthAcc := z 5 k.cnt.sthAcc, sthDec := z 6 k.cnt.sthDec, setWait := z 7 k.cnt.setWait } }))) ∧
    (∀ n, exec (.cohCntClear n v) s = .next (s.modSlice n (fun k => { k with ccnt := {
      snoop := z 0 k.ccnt.snoop, spillWr := z 1 k.ccnt.spillWr, spillRd := z 2 k.ccnt.spillRd, forced := z 3 k.ccnt.forced,
      stale := z 4 k.ccnt.stale, upgRdo := z 5 k.ccnt.upgRdo } }))) ∧
    (∀ st, exec (.hbmStkClear st v) s = .next (if v.testBit 0 then s.modStack st (fun k => { k with tempMax := k.temp }) else s)) ∧
    (∀ st ch, exec (.hbmChCntClear st ch v) s = .next (s.modStack st (fun k => k.modChannel ch (fun c =>
      { c with cntCe := z 0 c.cntCe, cntUe := z 1 c.cntUe, cntPoison := z 2 c.cntPoison })))) ∧
    (∀ p, exec (.hwsPortCntClear p v) s = .next (s.modPort p (fun x =>
      { x with fecCorr := z 0 x.fecCorr, fecUnc := z 1 x.fecUnc, crc := z 2 x.crc, replay := z 3 x.replay, retrain := z 4 x.retrain
               resent := z 5 x.resent }))) ∧
    (∀ n, exec (.dlkCntClear n v) s = .next (s.modBundle n (fun x => { x with cnt0 := z 0 x.cnt0, cnt1 := z 1 x.cnt1, steer := z 2 x.steer }))) ∧
    (∀ meets, ∃ t, exec (.errStatusClear v meets) s = .next t ∧
      t = { s with err := { s.err with fUc := t.err.fUc, fDe := t.err.fDe, fCe := t.err.fCe, fEvent := t.err.fEvent } } ∧
      (t.err.fUc = true ↔ s.err.fUc = true ∧ (v.testBit 1 = true → meets.testBit 1 = true)) ∧
      (t.err.fDe = true ↔ s.err.fDe = true ∧ (v.testBit 2 = true → meets.testBit 2 = true)) ∧
      (t.err.fCe = true ↔ s.err.fCe = true ∧ (v.testBit 3 = true → meets.testBit 3 = true)) ∧
      (t.err.fEvent = true ↔ s.err.fEvent = true ∧ (v.testBit 4 = true → meets.testBit 4 = true))) ∧
    (∀ b, b < 4 → v < 2 ^ 32 →
      let k := s.err.bank b
      ((v + 2 ^ 32 - k.head) % 2 ^ 32 ≤ (k.tail + 2 ^ 32 - k.head) % 2 ^ 32 →
        exec (.errBankHead b v) s = .next { s with err := s.err.setBank b { k with head := v } }) ∧
      ((k.tail + 2 ^ 32 - k.head) % 2 ^ 32 < (v + 2 ^ 32 - k.head) % 2 ^ 32 → exec (.errBankHead b v) s = .next s))

/-- Link control and flits (R519 to R522). -/
def Obligations.LinksAcknowledgeAndReplay : Prop :=
  ∀ (p : Nat) (s : State), Tables s → s.pins.rails = true →
    let x := s.port p
    (∀ seq, let n := (seq + 4096 - x.base) % 4096
      x.txWait = [] → 0 < n → n ≤ x.replayBuf.length → exec (.lack p seq) s =
        .next (s.modPort p (fun x => { x with replayBuf := x.replayBuf.drop n, failedReplays := 0, nakSeq := none }))) ∧
    (∀ seq, let n := (seq + 4096 - x.base) % 4096
      x.state = .up → x.txWait = [] → n < x.replayBuf.length → exec (.lnak p seq) s =
        .next (let t := s.modPort p (fun x => { x with replayBuf := x.replayBuf.drop n, nakSeq := some seq, replay := (x.replay + 1) % 2 ^ 64
                                                       failedReplays := if x.nakSeq = some seq then x.failedReplays + 1 else 0 })
               { t with hws := { t.hws with sent := t.hws.sent ++ (x.replayBuf.drop n).flatten } })) ∧
    (∀ cls n, exec (.lcred p cls n) s =
      .next (s.modPort p (fun x => { x with credits := x.credits.mapIdx (fun i c => if i = cls then c + n else c) }))) ∧
    (x.state = .up → 0 < x.rxUnacked → (64 ≤ x.rxUnacked ∨ x.rxSince + 512 ≤ s.now) → exec (.linkAckDue p) s =
      .next ((s.modPort p (fun x => { x with rxUnacked := 0 })).portSend p { ty := 0x30, cls := 0, addr := x.rxSeq })) ∧
    (x.state = .up → ∀ bytes corrected failed replay,
      let corr := (x.fecCorr + corrected) % 2 ^ 64
      let unc := (x.fecUnc + if failed then 1 else 0) % 2 ^ 64
      let good := failed = false ∧ bytes.length = 256 ∧ fieldAt bytes 252 4 = crc32 (bytes.take 252)
      (x.rxNak = true → replay = false → exec (.flit p bytes corrected failed replay) s =
        .next (s.modPort p (fun x => { x with fecCorr := corr, fecUnc := unc }))) ∧
      ((x.rxNak = false ∨ replay = true) → ¬ good → exec (.flit p bytes corrected failed replay) s =
        .next ((s.modPort p (fun x => { x with fecCorr := corr, fecUnc := unc, crc := (x.crc + 1) % 2 ^ 64, rxNak := true })).portSend p
          { ty := 0x31, cls := 0, addr := x.rxSeq })) ∧
      ((x.rxNak = false ∨ replay = true) → good →
        let r := packetsOf 17 (x.rxPart ++ bytes.take 252)
        exec (.flit p bytes corrected failed replay) s =
          .next (r.1.foldl (fun s k => if (s.port p).state = .up then s.flitPacket p k else s)
            (s.modPort p (fun x => { x with fecCorr := corr, fecUnc := unc, rxSeq := (x.rxSeq + 1) % 4096, rxUnacked := x.rxUnacked + 1
                                            rxSince := if x.rxUnacked = 0 then s.now else x.rxSince, rxNak := false, rxPart := r.2 })))))

/-- The transport and what its packets do (R538 to R545). -/
def Obligations.PacketsAreDeliveredInOrder : Prop :=
  ∀ (p : Nat) (k : Packet) (s : State), Tables s → s.pins.rails = true →
    let took := fun (cls : Nat) => s.modPeer k.src (fun x => x.modTransport cls (fun t => { t with
      rxNext := (t.rxNext + 1) % 65536, rxUnacked := t.rxUnacked + 1, rxSince := if t.rxUnacked = 0 then s.now else t.rxSince }))
    let inTurn := fun (cls : Nat) => (s.port p).state = .up ∧ Tbl.wf {} (s.peer k.src).tr = true ∧ k.dst = s.hws.index ∧
      ((s.peer k.src).transport cls).early = [] ∧ k.tseq = ((s.peer k.src).transport cls).rxNext ∧ k.tseq < 65536 ∧ k.cls = cls ∧ k.bcast = false
    (∀ ty cls (t' : State),
      (let t := took cls
       let refused := fun (aux : Nat) => t' = t.answer k 0x0A aux [] false
       s.hws.homeReqs = [] ∧ s.hws.indexValid = true ∧ inTurn cls ∧ k.ty = ty ∧ (ty, cls) ∈ [(0x01, 1), (0x02, 1), (0x03, 1), (0x10, 3)] ∧
      (s.hws.departing = true ∧ refused 2 ∨
       s.hws.departing = false ∧ (s.feature 12 = false ∨ t.requestServed k = false) ∧ refused 1 ∨
       s.hws.departing = false ∧ s.feature 12 = true ∧ t.requestServed k = true ∧
        (s.lhr.stage ≠ 0 ∧ t' = { t with
          lhr := { t.lhr with waking := true }, hws := { t.hws with homeReqs := [{ port := p, packet := k }] } } ∨
         s.lhr.stage = 0 ∧ ∃ l, t.lineAt k.addr = some l ∧
          ((k.ty = 0x01 ∧ ∃ d poison u, t.cohRead (576 + p) l = (some (d, poison), u) ∧ t' = u.answer k 0x08 0 (lineBytes d) poison) ∨
           (k.ty = 0x03 ∧ ∃ old poison u,
            t.cohAtomic (576 + p) l (k.addr % 128) (if bit k.aux 5 then 8 else 4) (k.aux % 32) (fieldAt k.payload 0 8) (fieldAt k.payload 8 8) =
              (some (old, poison), u) ∧ t' = u.answer k 0x08 0 (leBytes 8 old) poison) ∨
           (k.ty = 0x02 ∧ ∃ u, t.cohPut (576 + p) l (lineOfBytes (k.payload.take 128)) (BitVec.ofNat 128 (fieldAt k.payload 128 16)) false
              k.poison = some u ∧ t' = u.answer k 0x09 0 [] false) ∨
           (k.ty = 0x10 ∧ segments k.addr k.payload.length = [(k.addr, k.payload.length)] ∧ ∃ u,
            t.cohPut (576 + p) l (linePlace (k.addr % 128) k.payload) (byteMask (k.addr % 128) k.payload.length) false k.poison = some u ∧
              t' = u.answer k 0x09 0 [] false))))) →
      (ty = 0x01 → exec (.rd p k) s = .next t') ∧ (ty = 0x02 → exec (.wr p k) s = .next t') ∧
        (ty = 0x03 → exec (.atomicPacket p k) s = .next t') ∧ (ty = 0x10 → exec (.bwr p k) s = .next t')) ∧
    (∀ r ∈ s.hws.reqs, s.hws.reqs.find? (fun r => r.tag == k.tag && r.peer == k.src && !r.held) = some r → inTurn 2 →
      let t := (took 2).dropReq r
      (k.ty = 0x09 → (r.packet.ty = 0x02 ∨ r.packet.ty = 0x10) →
        (∀ u l, r.who = .unitStore u l → exec (.ackPacket p k) s =
          .next ((t.modUnit u (fun x => { x with remoteStores := x.remoteStores - 1 })).pumpUnit u)) ∧
        (∀ h, r.who = .hart h → exec (.ackPacket p k) s = .next ((t.modHart h (fun x => { x with wait := none })).hartNext h)) ∧
        (∀ id, r.who = .cmd id → exec (.ackPacket p k) s = .next (t.finishCmd id))) ∧
      (k.ty = 0x08 → r.packet.ty = 0x01 → ∀ h rd va pa size sg, r.who = .hart h → (s.hart h).wait = some (.load rd va size sg, pa) → k.poison = false →
        exec (.data p k) s = .next ((t.hartPut h rd (regLoaded rd size sg (k.payload.drop (paLocal pa % 128)))).hartNext h)) ∧
      (k.ty = 0x0A → (k.aux = 1 ∨ k.aux = 2) → exec (.refuse p k) s = .next ((took 2).endRequest r (k.aux == 1)))) ∧
    (∀ peer cls tseq, let t := (s.peer peer).transport cls
      let n := match t.kept.head? with | some k => (tseq + 65536 - k.1.tseq) % 65536 | none => 0
      n ≤ min t.kept.length keepLimit → exec (.e2eack peer cls tseq) s =
        .next ((s.modPeer peer (fun x => x.modTransport cls (fun t => { t with kept := t.kept.drop n }))).sendKept peer cls)) ∧
    (∀ peer cls, let t := (s.peer peer).transport cls
      0 < t.rxUnacked → (64 ≤ t.rxUnacked ∨ t.rxSince + 3600 ≤ s.now) → exec (.e2eackDue peer cls) s =
        .next ((s.modPeer peer (fun x => x.modTransport cls (fun t => { t with rxUnacked := 0 }))).sendPacket
          { ty := 0x26, cls := 0, dst := peer, aux := cls, addr := t.rxNext }))

/-- The peer table and departure (R527 to R534). -/
def Obligations.PeersJoinDrainAndLeave : Prop :=
  ∀ (s : State), s.pins.rails = true →
    (∀ p j, (s.port p).state = .up → (s.hws.indexChosen = false ∨ j.index ≠ s.hws.index) →
      ((s.peer j.index).state = .absent ∨ (s.peer j.index).state = .gone) →
      let t := (s.modPeer j.index (fun x => { x with
        planes := if x.planes.testBit p then x.planes else x.planes + 2 ^ p, incarnation := j.incarnation, nonce := j.nonce
        uid := j.uid, halfTrips := Tbl.set 0 x.halfTrips p j.halfTrip })).peerBack j.index
      exec (.join p j) s = .next (if j.reply = true ∨ t.hws.indexChosen = false then t
        else t.sendPacket { (t.joinPacket p true) with dst := j.index })) ∧
    (∀ p j, (s.port p).state = .up → s.hws.indexChosen = true → j.index = s.hws.index →
      ((j.uid = s.hws.uid ∨ s.hws.indexConflict = true ∨ s.hws.indexValid = true ∧ j.reply = true) → exec (.join p j) s = .next s) ∧
      (j.uid ≠ s.hws.uid → s.hws.indexConflict = false → s.hws.indexValid = true → j.reply = false →
        exec (.join p j) s = .next (s.portSend p { (s.joinPacket p true) with dst := j.index })) ∧
      (j.uid ≠ s.hws.uid → s.hws.indexValid = false → s.hws.indexConflict = false → (j.senderUp = true ∨ j.uid < s.hws.uid) →
        exec (.join p j) s = .next ((({ s with hws := { s.hws with indexConflict := true } } : State).hwsEvent 2 2 0 0 0 0).logErr
          .event 0x41 0 0))) ∧
    (∀ i, ((s.peer i).state = .up → exec (.drain i) s = .next ((s.setPeer i .draining).modPeer i (fun x => { x with drained := true }))) ∧
      ((s.peer i).state ≠ .up → exec (.drain i) s = .next s) ∧
      (((s.peer i).state = .up ∨ (s.peer i).state = .draining) → exec (.leave i) s = .next (s.peerLost i)) ∧
      ((s.peer i).state = .draining → (s.peer i).planes = 0 → s.absenceLimit ≤ (s.peer i).absentFrames →
        exec (.absenceLimit i) s = .next (s.peerLost i))) ∧
    (∀ p leaf, exec (.leafReport p leaf true) s = .next s) ∧
    (∀ p leaf, (s.port p).state = .up →
      let m := if (s.peer leaf).planes.testBit p then (s.peer leaf).planes - 2 ^ p else (s.peer leaf).planes
      let t := s.modPeer leaf (fun x => { x with planes := m })
      exec (.leafReport p leaf false) s = .next (if (s.peer leaf).state = .up ∧ m = 0 then t.setPeer leaf .draining else t)) ∧
    (∀ n, s.hws.indexChosen = true → s.hws.indexValid = false → s.hws.indexConflict = false → s.hws.joinTicks = some n → 2 ≤ n →
      let t := (({ s with hws := { s.hws with indexValid := true } } : State).hwsEvent 2 1 0 0 0 0).retryHome
      exec .indexValid s = .next (if s.frm.isMaster then { t with frm := t.frm.setMaster t.hws.index } else t.claimMaster)) ∧
    (s.alive = true → s.hws.homeReqs = [] →
      let t : State := { s.broadcast { ty := 0x22, cls := 0 } with depart := none }
      (s.depart = some .warmReset → exec .leaveBroadcast s = .next t.restart) ∧
      (∀ n, s.depart = some (.stage n) → exec .leaveBroadcast s = .next (t.forgetPeers.enterStage n)) ∧
      (s.depart = some .fabric → exec .leaveBroadcast s = .next (t.verifyEnd true)))

/-- Port states (R518, R519, R524, R535). -/
def Obligations.PortsTrainAndRetrain : Prop :=
  ∀ (p : Nat) (s : State), s.pins.rails = true →
    let x := s.port p
    (x.state = .up → exec (.laneLockLoss p) s = .next ((s.setPort p .training 0).modPort p (fun x => { x with lockLost := some s.now }))) ∧
    (Tables s → (x.state = .up ∨ x.state = .training) → exec (.laserLoss p) s =
      .next (((s.modPort p (fun x => { x with laserOk := false })).portLost p .down 1).chooseIndex)) ∧
    (x.retraining = false → ((x.state = .training ∧ ∃ t, x.lockLost = some t ∧ t + 3600 ≤ s.now) ∨ x.state = .up ∧ 8 ≤ x.failedReplays) →
      exec (.retrainStart p) s = .next ((s.setPort p .training 0).modPort p (fun x =>
        { x with retraining := true, lockLost := none, failedReplays := 0, nakSeq := none, retrain := (x.retrain + 1) % 2 ^ 64 }))) ∧
    (x.state = .training → x.retraining = true →
      exec (.retrainEnd p true) s = .next ((((s.setPort p .up 0).modPort p (fun x => { x with retraining := false, rxNak := false })).replay p).sendAllKept) ∧
      exec (.retrainEnd p false) s = .next (s.portLost p .down 3)) ∧
    (x.state = .training → x.retraining = false → exec (.retrainEnd p false) s = .next ((s.portLost p .down 2).chooseIndex)) ∧
    (Tables s → x.state = .training → x.retraining = false → x.lockLost = none → ∀ plane leaf transit half,
      let t := s.modPort p (fun x => { x with laserOk := true, plane := plane, leaf := leaf, transit := transit, halfTrip := half })
      let used := ∃ q < p, (s.port q).plane = plane ∧ ((s.port q).state = .up ∨ (s.port q).state = .training ∧ (s.port q).retraining = true)
      let wrong := s.planeMap p ≠ 0xFF ∧ s.planeMap p ≠ plane
      p < 48 →
      (wrong → exec (.portTrained p plane leaf transit half) s = .next ((t.portLost p .refused 4).chooseIndex)) ∧
      (¬ wrong → used → exec (.portTrained p plane leaf transit half) s = .next ((t.portLost p .refused 6).chooseIndex)) ∧
      (¬ wrong → ¬ used → s.hws.indexChosen = true → leaf ≠ s.hws.index →
        exec (.portTrained p plane leaf transit half) s = .next ((t.portLost p .refused 5).chooseIndex)) ∧
      (¬ wrong → ¬ used → (s.hws.indexChosen = true → leaf = s.hws.index) →
        let u := (t.modPort p (fun x => x.fresh)).setPort p .up 0
        exec (.portTrained p plane leaf transit half) s = .next (((if u.hws.indexChosen then u.sendJoin p else u).sendAllKept).chooseIndex))) ∧
    (x.state = .down → s.frm.count % 1024 = 0 → exec (.portRetry p) s = .next (s.setPort p .training 0)) ∧
    (x.state = .up → exec (.retrain p) s = .next ((s.setPort p .training 0).modPort p (fun x =>
        { x with retraining := true, lockLost := none, failedReplays := 0, nakSeq := none, retrain := (x.retrain + 1) % 2 ^ 64 }))) ∧
    ((x.state = .down ∨ x.state = .refused) → exec (.retrain p) s = .next (s.setPort p .training 0)) ∧
    (∀ st cause, x.state ≠ st →
      let gone := st = .down ∨ st = .refused
      let t := s.modPort p (fun x => { x with state := st, cause := if gone then cause else x.cause })
      s.setPort p st cause = (if x.state = .up ∨ st = .refused ∨ st = .down ∧ x.retraining = true then t.logErr .event 0x40 10 p cause
        else t).hwsEvent 1 st.code x.state.code (if gone then cause else x.cause) p 0)

/-- Host accesses and the link (R567 to R578, R582, R590 to R592). -/
def Obligations.HostAccessesAreAdmittedOrRefused : Prop :=
  ∀ (s : State), s.alive = true →
    (s.hpt.linkUp = true → ∀ rid off bytes poisoned,
      (s.placed rid off bytes.length true = none → exec (.bar2Write rid off bytes poisoned) s = .next { s with hpt := { s.hpt with
        refused := min (s.hpt.refused + 1) (2 ^ 32 - 1), errRid := rid % 65536, errWrite := true, errOffset := off % 2 ^ 36 } }) ∧
      (∀ r a, s.placed rid off bytes.length true = some (r, a) →
        let sth := (fieldAt r 2 1).testBit 2 && s.feature 7
        let reached := (segments a bytes.length).filter (fun g => (s.localCause (fieldAt r 1 1) g.1).isNone)
        let piece := fun (g : Nat × Nat) => ({ addr := g.1, bytes := (bytes.drop (g.1 - a)).take g.2, poison := poisoned
                                               stash := if sth ∧ g.2 = 128 then some (fieldAt r 4 2 % 4096, fieldAt r 1 1) else none } : Inbound)
        exec (.bar2Write rid off bytes poisoned) s =
          .next (({ s with hpt := { s.hpt with inbound := s.hpt.inbound ++ reached.map piece } } : State).drainInbound))) ∧
    (s.hpt.linkUp = true → ∀ rid off len, let t := s.drainInbound
      (t.placed rid off len false = none → exec (.bar2Read rid off len) s = .next { t with hpt := { t.hpt with
        refused := min (t.hpt.refused + 1) (2 ^ 32 - 1), errRid := rid % 65536, errWrite := false, errOffset := off % 2 ^ 36 } }) ∧
      (∀ r a v t', t.placed rid off len false = some (r, a) → (∀ g ∈ segments a len, t.localCause (fieldAt r 1 1) g.1 = none) →
        t.bytesRead 568 a len = (v, t') → t'.stuck = false → exec (.bar2Read rid off len) s =
        .next (if v = .poisoned then t'.logErr .de 0x52 11 0 0 (a / 128 * 128) else t'))) ∧
    (s.hpt.linkUp = true → exec .hptFlush s = .next (({ s with hpt := { s.hpt with flushes := s.hpt.flushes + 1 } } : State).drainInbound)) ∧
    (s.hpt.inbound = [] → s.drainInbound = { s with hpt := { s.hpt with flushes := 0 } }) ∧
    (s.hpt.linkUp = false → s.lhr.stage < 4 → s.pins.perstN = true → ∀ rate width flit, (rate = 4 ∨ rate = 5) →
      (width = 4 ∨ width = 8 ∨ width = 16) → (flit = true ↔ rate = 5) → exec (.linkUp rate width flit) s =
        .next { s with hpt := { s.hpt with linkUp := true, rate := rate, width := width, flit := flit } }) ∧
    (s.hpt.linkUp = true → ∀ rate width flit, exec (.hostRetrain rate width flit) s = .next { s with hpt := { s.hpt with
      rate := rate, width := width, flit := flit, retrains := min (s.hpt.retrains + 1) (2 ^ 16 - 1) } }) ∧
    (s.boot.stage = .released → s.hpt.attached = false → exec .attach s = .next { s with
      hpt := { s.hpt with attached := true }, fea := { s.fea with locked := if s.hpt.detachedOnce then false else s.fea.locked } }) ∧
    (s.boot.stage = .released → ∀ v < 2 ^ 32,
      let n := (v + 2 ^ 32 - s.hpt.parkHead) % 2 ^ 32
      let room := (s.hpt.parkTail + 2 ^ 32 - s.hpt.parkHead) % 2 ^ 32
      (n ≤ room → exec (.hptParkHead v) s = .next { s with hpt := { s.hpt with parkHead := v } }) ∧
      (room < n → exec (.hptParkHead v) s = .next s))

/-- Detach and confirmed records (R583 to R590). -/
def Obligations.DetachParksAndHalts : Prop :=
  ∀ (s : State), s.alive = true →
    (s.hpt.linkUp = true → ∀ acked,
      let down : State := { s with hpt := { s.hpt with linkUp := false } }
      exec (.linkDown acked) s = .next (down.detach acked) ∧ exec (.hotReset acked) s = .next (down.detach acked) ∧
        exec (.flr acked) s = .next (s.detach acked)) ∧
    (s.pins.perstN = true → ∀ acked,
      let down : State := { s with pins := { s.pins with perstN := false }, hpt := { s.hpt with linkUp := false } }
      (s.perstPackage = false → exec (.perstAssert acked) s = .next (down.detach acked)) ∧
      (s.perstPackage = true → exec (.perstAssert acked) s = .next down.warmReset)) ∧
    (s.pins.perstN = false → exec .perstRelease s = .next (({ s with pins := { s.pins with perstN := true } } : State).wakeUp)) ∧
    (∀ acked, s.queues = [] → s.dma = [] → s.hpt.confirms = [] → (∀ w ∈ s.hpt.posted.drop acked, w.record = none) →
      s.detach acked = ({ s with hpt := { s.hpt with
        attached := false, detaches := min (s.hpt.detaches + 1) (2 ^ 16 - 1), posted := [], confirms := [], pba := [], detachedOnce := true } }
          : State).logErr .event 0x50 11 0) ∧
    (∀ q c, s.hpt.confirms.find? (fun c => c.queue == q) = some c →
      let t : State := { s with hpt := { s.hpt with confirms := s.hpt.confirms.erase c } }
      exec (.confirmReadback q (.ok c.seq)) s = .next t ∧
      (∀ seen, seen ≠ .ok c.seq →
        let u := ((t.parkRecord c.park c.bytes).modQueue c.queue (fun k => { k with errors := min (k.errors + 1) (2 ^ 16 - 1) })).queueFault
          c.queue c.seq { cause := 0x71 }
        exec (.confirmReadback q seen) s = .next (if (u.queue c.queue).halt then u.halt c.queue else u)))

/-- The Lehr's events between ticks (R604 to R625). -/
def Obligations.LehrEventsAct : Prop :=
  ∀ (s : State),
    (∀ coil, exec (.hintExpiry coil) s = .next ((s.regionsOfCoil coil).foldl (fun s r => s.modDom r (fun d =>
      { d with armed := if d.hintLeft = 0 then false else d.armed })) s)) ∧
    (s.alive = true → s.lhr.jobRunning = true → ∀ level,
      (s.frm.count % 16 < 2 → exec (.jobfreqResult (s.frm.count / 16) level) s =
        .next { s with lhr := { s.lhr with jobRunning := false, result := some (min level s.lhr.posted) } }) ∧
      (2 ≤ s.frm.count % 16 → exec (.jobfreqResult (s.frm.count / 16) level) s = .next { s with lhr := { s.lhr with jobRunning := false } })) ∧
    (s.pins.rails = true →
      let t := (List.range 32).foldl (fun s r => s.modDom r (fun d => { d with overSkip := true })) s
      exec .overpower s = .next (({ t with lhr := { t.lhr with overpower := min (t.lhr.overpower + 1) (2 ^ 16 - 1) } } : State).logErr .event 0x70 0 0)) ∧
    (s.pins.rails = true → ∀ r level, level ≤ 3 →
      let t := s.modDom r (fun d => { d with
        droopAt := d.ucyc, skip := max d.skip level, skips := if d.skip < level then min (d.skips + 1) (2 ^ 16 - 1) else d.skips })
      exec (.droop r level) s = .next (if level = 0 then t else { t with lhr := { t.lhr with epSkipped := true } })) ∧
    (s.pins.rails = true → ∀ r, (s.dom r).skip ≠ 0 → (s.dom r).droopAt + 256 ≤ (s.dom r).ucyc → exec (.droopRelax r) s =
      .next (s.modDom r (fun d => { d with skip := d.skip - 1, droopAt := d.ucyc }))) ∧
    (s.alive = true → ∀ r t rest, s.lhr.rampQ = (r, t) :: rest →
      let heavy := (s.dom r).heavy
      let gap := if heavy then s.powerField 6 1 4 else s.powerField 5 1 16
      (∀ t0, s.lhr.lastGrant = some t0 → 5 * t0 + 18 * gap ≤ 5 * s.now) → exec (.rampGrant r) s =
        .next (({ s with lhr := { s.lhr with rampQ := rest, lastGrant := some s.now } } : State).modDom r (fun d =>
          { d with rampK := if heavy then s.powerField 7 1 4 else 0, rampAt := d.ucyc, quiet := false }))) ∧
    (s.alive = true → ∀ r, let d := s.dom r
      let n := s.powerField 4 1 64
      d.quiet = false → d.rampK < 8 → (∀ e ∈ s.lhr.rampQ, e.1 ≠ r) → d.rampAt + n ≤ d.ucyc → exec (.rampStep r) s =
        .next (s.modDom r (fun d => { d with rampK := d.rampK + 1, rampAt := d.rampAt + n }))) ∧
    (s.alive = true → ∀ r, let d := s.dom r
      d.quiet = false → d.lastMma + 1024 ≤ d.ucyc → d.rampAt + 1024 ≤ d.ucyc →
      let t := s.modDom r (fun d => { d with quiet := true, rampK := 0 })
      exec (.regionQuiet r) s = .next (if (unitsOfRegion r).any (fun u => !(s.unit u).mmaQ.isEmpty) then t.askRamp r else t)) ∧
    (s.alive = true → ∀ target, let n := target % 8
      let t : State := { s with lhr := { s.lhr with ctrl := n, lastTarget := n, refused := false, reason := 0, request := if n = 0 then none else some n } }
      exec (.stageRequest target) s = .next (if n = 0 then t.wakeUp else t)) ∧
    (s.lhr.waking = true → s.pins.vinOk = true → s.pins.sbRstN = true → s.lhr.stage ≠ 0 →
      let t := (List.range 24).foldl (fun s k => s.modStack k (fun x => { x with selfRefresh := false }))
        ({ s with lhr := { s.lhr with stage := 0, waking := false, request := none } } : State)
      (s.lhr.stage < 4 → exec .stageExit s = .next t.retryHome) ∧
      (4 ≤ s.lhr.stage →
        let u : State := { t with pins := { t.pins with rails := true, pwrGood := true }, hws := { t.hws with departing := false }, frm := { t.frm with tickAt := t.now } }
        exec .stageExit s = .next (if u.frt.active.isSome then u.applyPorts.chooseIndex else u))) ∧
    (s.alive = true → s.lhr.memReady = false → s.lhr.stage = 0 → exec .memReady s =
      .next (((s.slices.map (·.1)).foldl (fun s n => s.pumpHome n) ({ s with lhr := { s.lhr with memReady := true } } : State)).retryHome))

/-- Fences, vital agents and die links (R401, R632 to R639, R651 to R664). -/
def Obligations.FailuresFenceOrEndService : Prop :=
  ∀ (s : State), s.alive = true →
    (∀ u, exec (.unitSram u) s = .next (s.fence 1 u 0x80)) ∧ (∀ c, exec (.clusterCache c) s = .next (s.fence 2 c 0x81)) ∧
    (∀ k, exec (.ccCache k) s = .next (s.fence 4 k 0x82)) ∧
    (s.coh.reclaim = false → exec .fenceReq s = .next (s.fence s.err.reqKind s.err.reqIndex 0x84)) ∧
    (s.coh.reclaim = true → exec .fenceReq s = .next s) ∧
    (∀ u, u < 1024 → s.err.fmUnit.getLsbD u = true → s.fence 1 u 0x80 = s) ∧
    (∀ u, u < 1024 → s.err.fmUnit.getLsbD u = false →
      let t := ((({ s with err := { s.err with
        fmUnit := s.err.fmUnit ||| BitVec.ofNat 1024 (2 ^ u), fenceCount := min (s.err.fenceCount + 1) (2 ^ 16 - 1) } } : State).logErr
          .uc 0x80 1 u).fenceUnit u).endStranded
      s.fence 1 u 0x80 = if t.boot.stage = .released then t.measure 3 (sha256N t.err.fmapBytes) else t) ∧
    (∀ (a kind index : Nat), (512 ≤ a ∧ a < 528 ∧ kind = 8 ∧ index = a - 512 ∨ 528 ≤ a ∧ a < 536 ∧ kind = 9 ∧ index = a - 528 ∨
        536 ≤ a ∧ a < 568 ∧ kind = 3 ∧ index = a - 536 ∨ a = 568 ∧ kind = 11 ∧ index = 0 ∨ 576 ≤ a ∧ a < 624 ∧ kind = 10 ∧ index = a - 576) →
      exec (.vital (.agent a)) s = .next (s.fatal 0x90 kind index)) ∧
    (∀ l, exec (.vital (.directory l)) s = .next (s.fatal 0x21 6 (s.homeOf (l / 128 * 128)) 0 (l / 128 * 128))) ∧
    (∀ n, (s.bundle n).up = true → ∀ half bytes,
      let ok := bytes.length = 64 ∧ fieldAt bytes 62 2 = crc16 (bytes.take 62)
      (¬ ok → exec (.dlkFlit n half bytes) s = .next (s.modBundle n (fun x =>
        if half then { x with rxNak := true, cnt1 := (x.cnt1 + 1) % 2 ^ 64, frame1 := x.frame1 + 1 }
        else { x with rxNak := true, cnt0 := (x.cnt0 + 1) % 2 ^ 64, frame0 := x.frame0 + 1 }))) ∧
      (ok → fieldAt bytes 60 2 % 4096 = (s.bundle n).rxSeq → exec (.dlkFlit n half bytes) s = .next (s.modBundle n (fun x =>
        { x with rxSeq := (x.rxSeq + 1) % 4096, rxNak := false, nakSeq := none, failedReplays := 0, delivered := x.delivered + 1
                 replayBuf := (x.replayBuf ++ [bytes]).drop (x.replayBuf.length + 1 - 512) })))) ∧
    (∀ n, (s.bundle n).up = true → (s.bundle n).rxNak = true →
      let seq := (s.bundle n).rxSeq
      let fails := if (s.bundle n).nakSeq = some seq then (s.bundle n).failedReplays + 1 else 0
      (fails < 8 → exec (.dlkNak n seq) s =
        .next (s.modBundle n (fun x => { x with rxNak := false, failedReplays := fails, nakSeq := some seq }))) ∧
      (8 ≤ fails → (s.bundle n).state = .full → exec (.dlkNak n seq) s =
        .next (s.modBundle n (fun x => { x with rxNak := false, failedReplays := 0, nakSeq := none, steer := (x.steer + 1) % 2 ^ 64 }))) ∧
      (8 ≤ fails → (s.bundle n).state ≠ .full → exec (.dlkNak n seq) s = .next (s.bundleDown n)))

/-- Power, resets and the management port's own operations (R624, R665 to R667, R711 to R718). -/
def Obligations.PowerAndResetSequence : Prop :=
  ∀ (s : State),
    let cut := fun (t : State) => ({ pending := t.pending, free := t.free, fuses := t.fuses, flash := t.flash,
                                     pins := { t.pins with pwrGood := false, thermtrip := false, rails := false } } : State)
    let bare := cut s
    let noVin := fun (t : State) => ({ t with pins := { t.pins with vinOk := false, sbGood := false } } : State)
    let inReset := fun (t : State) => ({ t with pins := { t.pins with sbRstN := false } } : State)
    let stby := fun (t : State) => ({ t with pins := { t.pins with sbGood := true, i3cAddr := 0x30 + t.pins.i3cStrap % 8 } } : State)
    (s.pins.vinOk = false → exec .powerUp s = .next (stby { bare with pins := { bare.pins with vinOk := true } })) ∧
    (s.pins.vinOk = true → exec .powerUp s = .next s) ∧
    (s.boot.flashQ = [] → exec .vinLoss s = .next (noVin bare)) ∧
    (s.boot.flashQ = [] → s.pins.sbRstN = true → exec .sbRstAssert s = .next (inReset bare)) ∧
    (∀ ch r rest, s.boot.flashQ = ch :: rest → (s.mbx ch).running = some r → r.op = 0x10 → 1 ≤ r.arg → r.arg ≤ 3 → s.flash.answers = true →
      r.offset + r.len ≤ (s.flash.slot r.arg (s.inactiveSlot r.arg)).size →
      ∃ n, let torn : State := { s with free := s.free + 1, flash := s.flash.modSlot r.arg (s.inactiveSlot r.arg) (fun f =>
          f.write r.offset ((r.input.take r.len).take n)) }
        exec .vinLoss s = .next (noVin (cut torn)) ∧ (s.pins.sbRstN = true → exec .sbRstAssert s = .next (inReset (cut torn)))) ∧
    (s.pins.sbRstN = false → s.pins.vinOk = true → exec .sbRstRelease s = .next (stby { bare with pins := { bare.pins with sbRstN := true } })) ∧
    (s.pins.sbRstN = false → s.pins.vinOk = false → exec .sbRstRelease s = .next { s with pins := { s.pins with sbRstN := true } }) ∧
    (let powered := s.pins.vinOk = true ∧ s.pins.sbGood = true ∧ s.pins.sbRstN = true ∧ s.pins.thermtrip = false ∧ s.lhr.stage < 4;
      (powered → s.pins.rails = false → exec .railRaise s = .next { s with pins := { s.pins with rails := true } }) ∧
      (¬ powered → exec .railRaise s = .next s) ∧
      (powered → s.pins.rails = true → s.pins.pwrGood = false →
        let n := (Config.freeWord s.free).toNat % 2 ^ 16
        let t : State := if s.boot.cold then { s with hws := { s.hws with incarnation := (s.hws.incarnation + 1) % 2 ^ 16 } }
          else { s with free := s.free + 1, hws := { s.hws with incarnation := n } }
        exec .pwrGood s = .next (t.eventP false))) ∧
    (∀ warm, let t := s.eventP warm
      t.now = 0 ∧ t.boot.stage = .rom ∧ t.boot.warm = warm ∧ t.pins.pwrGood = true ∧ t.pins.rails = true ∧ t.hws.uid = s.fuses.uid ∧
        (Tbl.wf 0 s.boot.meas = true →
          Tbl.get 0 t.boot.meas 0 = sha256N (beBytes 32 (Tbl.get 0 s.boot.meas 0) ++ beBytes 32 (sha256N s.fuses.rom))) ∧ t.mem = s.mem) ∧
    (s.pins.rails = true → ∀ i ∈ [(Instr.vinUndervoltage, 1), (.vinOvervoltage, 2)],
      let t := (s.logErr .fe 0x71 0 0 i.2).island
      exec i.1 s = .next { t with pins := { t.pins with rails := false, pwrGood := false, thermtrip := true } }) ∧
    (s.pins.rails = true → s.err.fatal = true → exec .warmReset s = .next s.restart) ∧
    (s.pins.rails = true → s.err.fatal = false → exec .warmReset s = .next (s.departFor .warmReset)) ∧
    (s.mgmtUp = true →
      (s.pins.thermtrip = true → exec .mgmtWarmReset s = .next (let t := s.island
        { t with boot := { t.boot with cold := true }, pins := { t.pins with thermtrip := false } })) ∧
      (s.pins.thermtrip = false → (s.pins.rails = true ∨ 4 ≤ s.lhr.stage) → exec .mgmtWarmReset s = .next s.warmReset) ∧
      (s.pins.thermtrip = false → s.lhr.stage ≠ 0 → exec .wake s = .next { s with lhr := { s.lhr with waking := true } }) ∧
      (s.mgmt.busy = false → ∃ t, exec .status s = .next t ∧ t = { s with mgmt := { s.mgmt with op := 0x30, result := 0, length := 8, buf := t.mgmt.buf } } ∧
        (Tbl.wf 0 s.mgmt.buf = true → ∀ i, Tbl.get 0 t.mgmt.buf i = if i < 8 then (leBytes 8 s.bootWords.1).getD i 0 else Tbl.get 0 s.mgmt.buf i))) ∧
    exec .ftrefLoss s = .next { s with frm := { s.frm with ftrefPresent := false, ftrefFrames := 0 } } ∧
    (s.frm.ftrefPresent = false → exec .ftrefReturn s = .next { s with frm := { s.frm with ftrefPresent := true, ftrefFrames := 0 } })

/-- The boot sequence (R667 to R674, R698, R699). -/
def Obligations.BootSequenceRuns : Prop :=
  ∀ (s : State), s.alive = true →
    (s.pins.pwrGood = true → s.boot.stage = .rom →
      (s.flash.ok = false → exec .marverStart s = .next { s with boot := { s.boot with stage := .failed, result := 4 } }) ∧
      (s.flash.ok = true → s.bootChoice 1 = none → exec .marverStart s = .next { s with boot := { s.boot with stage := .failed, result := 1 } }) ∧
      (s.flash.ok = true → ∀ b i, s.bootChoice 1 = some (b, i) → ∃ t, exec .marverStart s = .next t ∧
        t.boot.stage = .train ∧ t.boot.marverSlot = b ∧ t.boot.svnMarver = i.svn ∧ t.boot.secretLocked = true ∧ t.coh.test = true ∧
        (Tbl.wf 0 s.boot.meas = true → Tbl.get 0 t.boot.meas 1 = sha256N (beBytes 32 (Tbl.get 0 s.boot.meas 1) ++ beBytes 32 (sha256N i.signed))) ∧
        t.boot.aliasSeed = t.boot.aliasSeedOf ∧
        (Tables s → (∀ k < 24, t.stack k = { s.stack k with state := .training }) ∧ ∀ k, 24 ≤ k → t.stack k = s.stack k) ∧
        t.mem = s.mem ∧ t.fuses = s.fuses ∧ t.pins = s.pins ∧ t.err = s.err)) ∧
    (s.boot.stage = .train → ∀ halves channels left,
      let t := (List.range 48).foldl (fun s n => s.trainBundle halves n) s
      let stitch := (List.range 48).filter (fun n => decide ((t.bundle n).state = .down ∧ 40 ≤ n))
      let bad := (List.range 768).filter (fun c => channels.contains c)
      ((stitch ≠ [] ∨ bad ≠ []) →
        let t1 : State := { t with boot := { t.boot with stage := .failed, result := if stitch = [] then 3 else 2 } }
        let t2 := (List.range 24).foldl (fun s k => s.modStack k (fun x =>
          { x with state := if bad.any (fun c => c / 32 == k) then .failed else .ready })) t1
        exec (.trainingComplete halves channels left) s =
          .next (bad.foldl (fun s c => s.logErr .fe 0x14 7 c) (stitch.foldl (fun s n => s.logErr .fe 0x61 12 n) t2))) ∧
      ((∀ n < 48, (t.bundle n).state ≠ .down) → (∀ c < 768, c ∉ channels) → t.boot.pprKept = false →
        exec (.trainingComplete halves channels left) s = .next t.afterTraining)) ∧
    (∀ halves n, s.trainBundle halves n = s.modBundle n (fun x => { x with
      state := if 2 * n ∈ halves ∧ 2 * n + 1 ∈ halves then .down else if 2 * n ∈ halves then .narrow1 else if 2 * n + 1 ∈ halves then .narrow0 else .full
      spares0 := (s.fuses.spares.getD n (0, 0)).1, spares1 := (s.fuses.spares.getD n (0, 0)).2 })) ∧
    (s.boot.stage = .test → ∀ rows,
      let t := rows.foldl (fun s r => s.modStack (r.1 % 24) (fun k => k.addRepair (chOf r.2, pchOf r.2, bankIx r.2, rowOf r.2))) s
      exec (.memtestComplete rows) s =
        .next (({ t with boot := { t.boot with memtest := false } } : State).takeFrit)) ∧
    (s.boot.stage = .released → s.boot.nodeState = 0 → s.bootChoice 2 = none →
      exec .nodeStart s = .next { s with boot := { s.boot with nodeState := 2 } }) ∧
    (s.boot.stage = .released → s.boot.nodeState = 0 → ∀ b i, s.bootChoice 2 = some (b, i) →
      let m := s.measure 5 (sha256N i.signed)
      let t := ({ m with boot := { m.boot with nodeSlot := b, svnNode := i.svn } } : State).packageWrite slotAgent i.load (i.signed.drop 128)
      (∀ h < 96, t.hartFenced h = false → (∀ k < h, t.hartFenced k = true) → exec .nodeStart s =
        .next (({ t with boot := { t.boot with nodeState := 1 }, ncc := { t.ncc with imsic := [] } } : State).startHart h i.entry i.load i.length)) ∧
      ((∀ h < 96, t.hartFenced h = true) → exec .nodeStart s = .next { t with boot := { t.boot with nodeState := 3 } })) ∧
    (s.boot.stage = .released → s.hartFenced s.ncc.startHart = false → (s.hart s.ncc.startHart).state = .held →
      ∃ t, exec .hartStart s = .next t ∧ t = s.modHart s.ncc.startHart (fun _ => t.hart s.ncc.startHart) ∧
        let x := t.hart s.ncc.startHart
        x.state = .running ∧ x.pc = s.ncc.hartAddr ∧ (∀ r, Tbl.get 0 x.x r = if r = 10 then BitVec.ofNat 64 s.ncc.startHart else 0) ∧
          x.resv = none ∧ x.wait = none ∧ x.trap = none)

/-- Mailbox operations (R676 to R686, R701 to R703). -/
def Obligations.MailboxOperationsAnswer : Prop :=
  ∀ (s : State),
    (s.pins.rails = true → s.boot.secretLocked = true → ∀ r, s.mbx0.running = some r → s.mbx0.outcome = none → r.op ≠ 0x10 → r.op ≠ 0x11 →
      s.opTake .ch0 r.op = some (.ch0, r, s)) ∧
    (s.pins.rails = true → s.boot.secretLocked = true → ∀ r, s.mbx1.running = some r → s.mbx1.outcome = none → r.op ≠ 0x10 → r.op ≠ 0x11 →
      s.opTake .ch1 r.op = some (.ch1, r, s)) ∧
    (∀ src ch r t, s.opTake src 0x01 = some (ch, r, t) →
      exec (.report src) s = .next (t.opEnd ch 0 (t.reportBody r.input ++ t.aliasSig (sha256N (t.reportBody r.input))))) ∧
    (∀ src ch r t, s.opTake src 0x02 = some (ch, r, t) → exec (.cert src) s = .next (t.opEnd ch 0 t.certs)) ∧
    (∀ src ch r t, s.opTake src 0x03 = some (ch, r, t) →
      exec (.log src) s = .next (t.opEnd ch 0 (((t.boot.log.drop r.offset).take (r.len / 48)).flatMap LogEntry.bytes))) ∧
    (∀ src ch r t, s.opTake src 0x04 = some (ch, r, t) →
      ((r.arg < 8 ∨ 15 < r.arg) → exec (.extend src) s = .next (t.opEnd ch 8 [])) ∧
      (8 ≤ r.arg → r.arg ≤ 15 → exec (.extend src) s =
        .next ((t.measure r.arg (beNat ((r.input ++ List.replicate 32 0).take 32))).opEnd ch 0 []))) ∧
    (∀ src ch r t, s.opTake src 0x20 = some (ch, r, t) →
      let addr := fieldAt r.input 0 8
      let target := fieldAt r.input 8 8
      let home := locality t.hws.indexValid t.hws.index addr = .here
      (ch = .ch1 → r.arg < 64 → (t.kwait r.arg).state ≠ .armed → target.testBit 63 = false → (home ∨ t.feature 3 = true) → addr % 8 = 0 →
        exec (.knotArm src) s = .next ((t.modKwait r.arg (fun x => { x with
          state := .armed, addr := addr, target := target, irq := fieldAt r.input 16 2 % 512, due := true })).opEnd ch 0 [])) ∧
      ((ch ≠ .ch1 ∨ 64 ≤ r.arg ∨ (t.kwait r.arg).state = .armed ∨ target.testBit 63 = true ∨ ¬ home ∧ t.feature 3 = false ∨ addr % 8 ≠ 0) →
        exec (.knotArm src) s = .next (t.opEnd ch 8 []))) ∧
    (∀ src ch r t, s.opTake src 0x21 = some (ch, r, t) →
      ((ch ≠ .ch1 ∨ 64 ≤ r.arg) → exec (.knotDisarm src) s = .next (t.opEnd ch 8 [])) ∧
      (ch = .ch1 → r.arg < 64 → (t.kwait r.arg).state ≠ .armed → exec (.knotDisarm src) s = .next (t.opEnd ch 0 [])) ∧
      (ch = .ch1 → r.arg < 64 → (t.kwait r.arg).state = .armed →
        let u := (t.dropWatch 2 r.arg).modKwait r.arg (fun x => { x with state := .idle, due := false })
        exec (.knotDisarm src) s = .next (({ u with hws := { u.hws with
          reqs := u.hws.reqs.filter (fun q => decide (q.who ≠ .knot (.slot r.arg))) } } : State).opEnd ch 0 []))) ∧
    (s.pins.rails = true → ∀ ch,
      (∀ r n, (s.mbx ch).outcome = some (r, n) → exec (.mbxOpDone ch) s = .next (s.modMbx ch (fun m =>
        { m with busy := false, result := r, length := n, running := none, outcome := none }))) ∧
      (∀ r, (s.mbx ch).outcome = none → (s.mbx ch).running = some r → r.op ∉ [0x01, 0x02, 0x03, 0x04, 0x10, 0x11, 0x12, 0x13, 0x20, 0x21] →
        exec (.mbxOpDone ch) s = .next (s.modMbx ch (fun m => { m with busy := false, result := 8, length := 0, running := none }))))

/-- Flash, fuses and SPDM (R671 to R675, R682, R685, R686). -/
def Obligations.FlashFusesAndSpdm : Prop :=
  ∀ (s : State),
    (∀ src ch r t, s.opTake src 0x10 = some (ch, r, t) →
      let b := t.inactiveSlot r.arg
      ((r.arg = 0 ∨ 3 < r.arg ∨ (t.flash.slot r.arg b).size < r.offset + r.len) → exec (.flashWrite src) s = .next (t.opEnd ch 8 [])) ∧
      (0 < r.arg → r.arg ≤ 3 → r.offset + r.len ≤ (t.flash.slot r.arg b).size →
        (t.flash.answers = false → exec (.flashWrite src) s = .next (t.opEnd ch 9 [])) ∧
        (t.flash.answers = true → exec (.flashWrite src) s =
          .next (({ t with flash := t.flash.modSlot r.arg b (fun f => { f with
            bytes := ((r.input.take r.len).zip (List.range r.len)).foldl (fun m e => Tbl.set 0 m (r.offset + e.2) e.1) f.bytes }) } : State).opEnd
              ch 0 [])))) ∧
    (∀ src ch r t, s.opTake src 0x11 = some (ch, r, t) → t.flash.answers = true →
      let b := t.inactiveSlot r.arg
      (∀ code, r.arg = 1 → t.slotCheck r.arg (t.flash.slot r.arg b) = (code, none) → exec (.flashActivate src) s = .next (t.opEnd ch code [])) ∧
      (∀ code i, r.arg = 1 → t.slotCheck r.arg (t.flash.slot r.arg b) = (code, some i) → exec (.flashActivate src) s =
        .next (({ t with flash := (t.flash.modSlot r.arg b (fun f => { f with preferred := true })).modSlot r.arg (!b) (fun f =>
          { f with preferred := false }) } : State).opEnd ch 0 [])) ∧
      (r.arg = 3 → (t.fritCheck false (t.flash.fritB.read t.flash.fritB.size)).1 = 0 → exec (.flashActivate src) s =
        .next (({ t with flash := { t.flash with fritA := t.flash.fritB, fritB := t.flash.fritA } } : State).opEnd ch 0 []))) ∧
    (∀ src ch r t, s.opTake src 0x12 = some (ch, r, t) →
      ((r.arg ≠ 1 ∧ (r.arg ≠ 2 ∨ t.boot.nodeState ≠ 1)) → exec (.commitSvn src) s = .next (t.opEnd ch 8 [])) ∧
      (r.arg = 1 ∨ r.arg = 2 ∧ t.boot.nodeState = 1 → ∃ u, exec (.commitSvn src) s = .next u ∧
        u.fuses = { t.fuses with words := u.fuses.words
                                 countMarver := if r.arg = 1 then max t.fuses.countMarver (min 64 t.boot.svnMarver) else t.fuses.countMarver
                                 countNode := if r.arg = 1 then t.fuses.countNode else max t.fuses.countNode (min 64 t.boot.svnNode) } ∧
        u.fuses.words.length = t.fuses.words.length ∧ u.flash = t.flash ∧ u.mem = t.mem ∧ (u.mbx ch).outcome = some (0, 0))) ∧
    (∀ src ch r t, s.opTake src 0x13 = some (ch, r, t) →
      let others := (List.range 4).filter (fun k => decide (k ≠ r.arg) && t.fuses.ownerLive k)
      let signed := 96 ≤ r.len ∧ sigBlockOk (others.map (fun k => t.fuses.ownerKeys.getD k 0)) (r.input.take (r.len - 96))
        ((r.input.drop (r.len - 96)).take 96) = true
      ((3 < r.arg ∨ t.fuses.ownerLive r.arg = false ∨ others = []) → exec (.revoke src) s = .next (t.opEnd ch 8 [])) ∧
      (r.arg ≤ 3 → t.fuses.ownerLive r.arg = true → others ≠ [] → ¬ signed → exec (.revoke src) s = .next (t.opEnd ch 1 [])) ∧
      (r.arg ≤ 3 → t.fuses.ownerLive r.arg = true → others ≠ [] → signed → ∃ u, exec (.revoke src) s = .next u ∧
        (∀ k < 4, u.fuses.ownerRevoked.getLsbD k = true ↔ t.fuses.ownerRevoked.getLsbD k = true ∨ k = r.arg) ∧
        u.fuses.countMarver = t.fuses.countMarver ∧ u.fuses.countNode = t.fuses.countNode ∧ u.fuses.ownerKeys = t.fuses.ownerKeys ∧
        u.flash = t.flash ∧ (u.mbx ch).outcome = some (0, 0))) ∧
    (s.pins.rails = true → s.boot.secretLocked = true → s.hpt.linkUp = true → ∀ q r signed t, s.spdmReply q = (r, signed, t) →
      let before := if fieldAt q 1 1 = 0x84 then [] else s.hpt.spdm
      let full := if signed then r ++ Config.spdmSign t.boot.aliasSeed (before ++ q ++ r) else r
      exec (.spdmRequest q) s = .next { t with hpt := { t.hpt with doe := full, spdm := before ++ q ++ full } })

/-- Node cores (R688 to R694). Where an instruction completes, the program counter is a free value (notes/assumptions/3.md). -/
def Obligations.NodeInstructionsExecute : Prop :=
  ∀ (h : Nat) (s : State), s.alive = true → h < 96 → (s.hart h).state = .running →
    (exec (.mtimecmpExpiry h) s = .next (s.modHart h (fun k => { k with
      mtip := decide (Tbl.get (2 ^ 64 - 1) s.ncc.mtimecmp h ≤ s.now / 36), stip := decide (k.stimecmp ≤ s.now / 36) }))) ∧
    ((s.hart h).wait = none → s.lhr.stage = 0 →
      let s1 := s.modHart h (fun x => { x with trap := none })
      let cc := 256 + h / 8
      let stays := fun (o : NodeOp) (t : State) => exec (.nodeCoreInstruction h o) s = .next t
      let done := fun (o : NodeOp) (t : State) => stays o (({ t with free := t.free + 1 } : State).modHart h (fun x =>
        { x with pc := (Config.freeWord t.free).toNat % 2 ^ 64 }))
      let fault := fun (o : NodeOp) (va cause : Nat) (t : State) => stays o (t.hartTrap h cause va)
      let ask := fun (o : NodeOp) (pa p : Nat) (k : Packet) (t : State) =>
        stays o ((t.modHart h (fun x => { x with wait := some (o, pa) })).remoteRequest (.hart h) p k)
      let goes := fun (va n : Nat) (fetch write : Bool) (pa : Nat) (nc : Bool) (t : State) =>
        s1.nodeXlate h va n fetch write = (.at_ [(pa, n)] nc, t)
      ((s.hart h).accessPriv false = 3 → ∀ va n write, 0 < n → va % 4096 + n ≤ 4096 → va < 2 ^ 56 → goes va n false write va false s1) ∧
      (∀ rd va n sg, let o : NodeOp := .load rd va n sg
        (∀ page t, s1.nodeXlate h va n false false = (.fault page, t) → fault o va (if page then 13 else 5) t) ∧
        (∀ pa nc t, goes va n false false pa nc t →
          (t.nodeRoute h pa n = .fault → fault o va 5 t) ∧
          (∀ a, t.nodeRoute h pa n = .memory a → nc = false →
            (∀ bs u, t.cachedRead cc h (pa % 2 ^ 42) n false = (.ok bs, u) → done o (u.hartPut h rd (regLoaded rd n sg bs))) ∧
            (∀ u, t.cachedRead cc h (pa % 2 ^ 42) n false = (.poisoned, u) → fault o va 5 (u.poisonUse 4 (h / 8) (pa % 2 ^ 42)))) ∧
          (∀ a bs u, t.nodeRoute h pa n = .memory a → nc = true → t.bytesRead cc (pa % 2 ^ 42) n true = (.ok bs, u) →
            done o (u.hartPut h rd (regLoaded rd n sg bs))) ∧
          (∀ p, t.nodeRoute h pa n = .remote p → pa % 128 + n ≤ 128 → ask o pa p (rdPacket (paLocal pa)) t))) ∧
      (∀ va n v, let o : NodeOp := .store va n v
        (∀ page t, s1.nodeXlate h va n false true = (.fault page, t) → fault o va (if page then 15 else 7) t) ∧
        (∀ pa nc t, goes va n false true pa nc t →
          (t.nodeRoute h pa n = .fault → fault o va 7 t) ∧
          (∀ a u, t.nodeRoute h pa n = .memory a → nc = false → t.cachedWrite cc h (pa % 2 ^ 42) (leBytes n v) = (true, u) → done o u) ∧
          (∀ off, t.nodeRoute h pa n = .register off → done o (t.regWrite (.hart h) off n v)) ∧
          (∀ p, t.nodeRoute h pa n = .remote p → pa % 128 + n ≤ 128 →
            ask o pa p (wrPacket (paLocal pa) (linePlace (pa % 128) (leBytes n v)) (byteMask (pa % 128) n)) t))) ∧
      (∀ va pa nc t, goes va 4 true false pa nc t →
        (t.nodeRoute h pa 4 = .fault → fault (.fetch va) va 1 t) ∧
        (∀ a bs u, t.nodeRoute h pa 4 = .memory a → nc = false → t.cachedRead cc h (pa % 2 ^ 42) 4 true = (.ok bs, u) → stays (.fetch va) u)) ∧
      (∀ n, (n = 4 ∨ n = 8) → ∀ rd va,
        (∀ op v, 8 ≤ op → op ≤ 0x10 → let o : NodeOp := .amo rd va n op v
          (va % n ≠ 0 → fault o va 6 s1) ∧
          (va % n = 0 → ∀ pa t a l u d, goes va n false true pa false t → t.nodeRoute h pa n = .memory a →
            (t.linesOf (segments a n)).head? = some l → t.gain cc (t.linesOf (segments a n)) true = (true, u) → (u.linesOf (segments a n)).head? = some l →
            u.agentData cc l = some (d, false) →
            let r := lineAtomic d (a % 128) n op v 0
            let w := match r.2 with | some d => u.agentWrite cc l d false | none => u
            done o (((w.coresLose (h / 8) (some h) l).coreUse h [l] false).hartSet h rd (loadValue n true (leBytes n r.1))))) ∧
        (va % n = 0 → ∀ pa nc t a bs u, goes va n false false pa nc t → t.nodeRoute h pa n = .memory a →
          t.cachedRead cc h a n false = (.ok bs, u) →
          done (.lr rd va n) ((u.hartSet h rd (loadValue n true bs)).modHart h (fun x => { x with resv := u.lineAt a }))) ∧
        (∀ v, va % n = 0 → ∀ pa nc t a, goes va n false true pa nc t → t.nodeRoute h pa n = .memory a →
          ((t.hart h).resv = none ∨ (t.hart h).resv ≠ t.lineAt a →
            done (.sc rd va n v) ((t.hartSet h rd 1).modHart h (fun x => { x with resv := none }))) ∧
          (∀ l u, (t.hart h).resv = some l → t.lineAt a = some l → t.gain cc (t.linesOf (segments a n)) true = (true, u) →
            (u.hart h).resv = some l → u.lineAt a = some l →
            done (.sc rd va n v) (((u.cachedWrite cc h a (leBytes n v)).2.hartSet h rd 0).modHart h (fun x => { x with resv := none }))))) ∧
      done .fence s1 ∧ (∀ rd v, done (.other rd v) (s1.hartPut h rd v)) ∧
      (∀ rd, ∀ e ∈ [(0xCC0, s.frm.count), (0xCC1, s.phase % 2 ^ 32), (0xC01, s.now / 36), (0xF14, h), (0x14D, (s.hart h).stimecmp),
          (0x350, (s.hart h).misel), (0x150, (s.hart h).sisel)],
        (e.1 / 256 % 4 ≤ (s.hart h).priv → done (.csrRead rd e.1) (s1.hartSet h rd e.2)) ∧
        ((s.hart h).priv < e.1 / 256 % 4 → fault (.csrRead rd e.1) 0 2 s1)) ∧
      (∀ csr v, csr / 1024 % 4 = 3 → fault (.csrWrite csr v) 0 2 s1) ∧
      (∀ v, (s.hart h).priv = 3 → done (.csrWrite 0x350 v) (s1.modHart h (fun x => { x with misel := v % 2 ^ 64 }))) ∧
      (∀ op fmt rd a b c rm, let o : NodeOp := .fp op fmt rd a b c rm
        (∀ k, (s1.hart h).fp op fmt rd a b c rm = some k → done o (s1.modHart h (fun _ => k))) ∧
        ((s1.hart h).fp op fmt rd a b c rm = none → fault o 0 2 s1)) ∧
      fault .ecall 0 (8 + (s.hart h).priv) s1 ∧ ((s.hart h).priv = 3 → stays .mret (s1.modHart h Hart.mret)))

/-- FRAME_TICK (R42). -/
def Obligations.FrameTicksActInOrder : Prop :=
  ∀ (i : TickIn) (s : State), s.pins.rails = true → s.lhr.stage < 4 →
    let s1 := s.tickCount
    let s2 := if s1.alive then s1.applyFrit else s1
    let s3 := if s1.boot.releaseDue && s2.alive then s2.hostRelease else s2
    (∀ kind index, emergencyOf i = some (kind, index) → exec (.frameTick i) s = .next (s3.emergencyStop kind index 0)) ∧
    (emergencyOf i = none →
      let s4 := s3.epochFrame
      let s5 := if s4.frm.count % 16 = 0 then s4.epochStart else s4
      let s6 := ((s5.readings i).hints.idleGate.grants i).rails
      let s7 := if s6.frm.count % 16 = 2 then s6.jobApply else s6
      let s8 := s7.tickBeacon.claimMaster.creditEpoch
      let s9 := ({ s8 with coh := { s8.coh with cleat := s8.coh.cleatNext } } : State).dlkTick
      let s10 := if s9.alive then s9.tickWork.polls else s9
      exec (.frameTick i) s = .next (if s10.alive then s10.stageTick.beaconSend else s10)) ∧
    (s.frm.pendingCount = none → s1.frm.count = (s.frm.count + 1) % 2 ^ 64 ∧ s1.err.thisFrame = [] ∧ s1.err.bank3 = s.err.bank3) ∧
    (∀ n, s.frm.pendingCount = some n → s1.frm.count = n ∧ s1.frm.pendingCount = none ∧ s1.frm.steps = min (s.frm.steps + 1) (2 ^ 16 - 1)) ∧
    (s.frm.state ≠ .holdover → s1.frm.adjust = s.frm.nextAdjust) ∧ (s.frm.state = .holdover → s1.frm.adjust = s.frm.adjust)

/-- The sharing of R601 and the limit of R602. -/
def Obligations.GrantsStayWithinBudgetAndDemand : Prop :=
  (∀ (n : Nat) (l : List Share) (b : Nat), (∀ e ∈ l, e.got ≤ e.want) →
    let r := shareOut n l b
    r.map (fun e => (e.dom, e.w, e.want)) = l.map (fun e => (e.dom, e.w, e.want)) ∧
    (∀ e ∈ r, e.got ≤ e.want) ∧ (∀ e ∈ r.zip l, e.2.got ≤ e.1.got) ∧
    (r.map (fun e => e.got)).sum ≤ (l.map (fun e => e.got)).sum + b) ∧
  (∀ g d : Nat, 1 ≤ limitOf g d ∧ limitOf g d ≤ 64 ∧ (d ≤ g → limitOf g d = 64) ∧ (0 < d → g < d → limitOf g d < 64))

/-- The beacon discipline and elections (R45 to R54). -/
def Obligations.BeaconsAndElectionsKeepTheFrame : Prop :=
  ∀ (s : State), s.alive = true →
    (∀ p m count body send, (s.hws.indexValid = false ∨ m ≠ s.hws.index) → s.beaconPort m = some p →
      let lower := s.hws.indexValid = false ∨ m < s.hws.index
      let heard := fun (t : State) => exec (.beacon p m count body send) s =
        .next (if body.period = s.period then t.takeBeacon p m count send else t.mismatched m)
      (s.frm.isMaster = false → s.role ≠ 2 → heard s) ∧
      (s.role = 2 → s.hws.indexValid = true → body.byRole = true → m < s.hws.index → heard { s with frm := { s.frm with roleConflict := true } }) ∧
      (s.role = 2 → s.hws.indexValid = true → (body.byRole = false ∨ ¬ lower) → exec (.beacon p m count body send) s = .next s) ∧
      (s.frm.isMaster = true → s.role = 1 → body.byRole = false → ¬ lower → exec (.beacon p m count body send) s = .next s)) ∧
    (∀ p count body send, s.hws.indexValid = true → exec (.beacon p s.hws.index count body send) s = .next s) ∧
    (∀ p m count body send, s.beaconPort m ≠ some p → exec (.beacon p m count body send) s = .next s) ∧
    (s.frm.isMaster = false → 4 ≤ s.frm.missed → (s.frm.state = .acquiring ∨ s.frm.state = .locked) →
      exec .beaconMiss s = .next { s with frm := { s.frm with state := .holdover, inTol := 0, heldFrames := 0
                                                              lockLosses := if s.frm.state = .locked then min (s.frm.lockLosses + 1) (2 ^ 16 - 1) else s.frm.lockLosses } }) ∧
    (s.frm.isMaster = false → s.frm.state = .acquiring → 16 ≤ s.frm.inTol → exec .frameLock s = .next { s with frm := { s.frm with state := .locked } }) ∧
    (s.electable = true → s.frm.election = none → (s.frm.state = .holdover → 16 ≤ s.frm.heldFrames) →
      exec .electionStart s = .next (({ s with frm := { s.frm with election := some (s.prio, s.hws.index) } } : State).broadcast
        { ty := 0x24, cls := 0, aux := s.prio })) ∧
    (∀ src prio b, s.electable = true → s.frm.election = some b → exec (.elect src prio) s = .next { s with frm := { s.frm with
      alone := 0, election := some (if b.1 < prio ∨ prio = b.1 ∧ src < b.2 then (prio, src) else b) } }) ∧
    (∀ b, s.frm.election = some b → b.2 = s.hws.index → ∃ t, exec .electionEnd s = .next t ∧
      t.frm.state = .locked ∧ t.frm.isMaster = true ∧ t.frm.election = none ∧ t.frm.count = s.frm.count ∧ t.frm.tickAt = s.frm.tickAt ∧
      t.frm.roleConflict = false ∧ t.hws = s.hws ∧ t.err = s.err ∧ (s.hws.indexValid = true → t.frm.masterValid = true ∧ t.frm.masterIndex = s.hws.index)) ∧
    (∀ b, s.frm.election = some b → b.2 ≠ s.hws.index → exec .electionEnd s = .next { s with frm := { s.frm with election := none, heldFrames := 0 } })

/-- The frit image and feature negotiation (R66, R67, R78, R80, R87, R88). -/
def Obligations.ImagesReloadAndFeaturesCommit : Prop :=
  ∀ (s : State), s.alive = true →
    (s.frt.busy = true → ∀ m, exec (.reload m) s = .next { s with frt := { s.frt with refused := true } }) ∧
    (s.frt.busy = false →
      exec (.reload .host) s = .next { s with frt := { s.frt with busy := true, refused := false, checking := some s.mbx0.image } } ∧
      ∀ h, exec (.reload (.hart h)) s = .next { s with frt := { s.frt with busy := true, refused := false, checking := some s.mbx1.image } }) ∧
    (s.depart = none → s.frt.pending = none → (s.boot.stage = .waitFrit ∨ s.boot.stage = .released) → ∀ img, s.frt.checking = some img →
      (∀ r, s.fritCheck s.frt.active.isSome img = (r, none) → exec .fritVerifyEnd s =
        .next { s with frt := { s.frt with busy := false, checking := none, lastResult := r } }) ∧
      (∀ r f, s.fritCheck s.frt.active.isSome img = (r, some f) →
        let waits := fun (t : State) => (let u := t.measure 4 f.digest
          ({ u with frt := { u.frt with checking := none, pending := some f } } : State))
        (s.frt.active = none → exec .fritVerifyEnd s = .next (waits { s with boot := { s.boot with fritSrc := 2 } })) ∧
        (∀ a, s.frt.active = some a → 5 ∉ changed a.bodies f.bodies → exec .fritVerifyEnd s = .next (waits s)) ∧
        (∀ a, s.frt.active = some a → 5 ∈ changed a.bodies f.bodies → s.upPorts ≠ [] → exec .fritVerifyEnd s =
          .next (({ s with depart := some .fabric, hws := { s.hws with departing := true } } : State).broadcast { ty := 0x21, cls := 0 })))) ∧
    (s.fea.locked = true → exec .commit s = .next s) ∧
    (s.fea.locked = false → exec .commit s = .next { s with fea := { s.fea with active := s.fea.accept &&& s.feaOffer, locked := true } })

/-- Register writes (R25; beside it R6, R26, R87, R440, R565, R709, R726). -/
def Obligations.RegisterWritesAct : Prop :=
  ∀ (m : Master) (s : State), s.reaches m = true →
    (∀ off size v, off < 2 ^ 28 → ¬ ((size = 4 ∨ size = 8) ∧ off % size = 0) →
      ∃ detail, let source := match m with | .host => (11, 0) | .hart h => (4, h / 8)
        let t := s.logErr .event 0x01 source.1 source.2 detail (0x3F000000000 + off)
        exec (.registerWrite m off size v) s = .next t ∧ s.regRead m off size = (0, t)) ∧
    (s.released m = true → s.err.fatal = false → ∀ v,
      (s.fea.locked = true → exec (.registerWrite m 0x20 8 v) s = .next s ∧ exec (.registerWrite m 0x28 8 v) s = .next s) ∧
      (s.fea.locked = false → ∃ t, exec (.registerWrite m 0x20 8 v) s = .next t ∧ t = { s with fea := { s.fea with accept := t.fea.accept } } ∧
        t.fea.accept.toNat % 2 ^ 64 = v % 2 ^ 64 ∧ t.fea.accept.toNat / 2 ^ 64 = s.fea.accept.toNat / 2 ^ 64) ∧
      (∀ q < 2048, (s.queue q).state ≠ .disabled → ∀ o ∈ [0x00, 0x08, 0x10, 0x18, 0x20],
        exec (.registerWrite m (0x100000 + 0x40 * q + o) 8 v) s = .next s) ∧
      (∀ q < 2048, (s.queue q).state = .disabled →
        exec (.registerWrite m (0x100000 + 0x40 * q + 0x18) 8 v) s = .next (s.modQueue q (fun k => { k with asroot := v % 2 ^ 64 }))) ∧
      exec (.registerWrite m 0xA08000 8 v) s = .next { s with jobAddr := v / 2 ^ 6 % 2 ^ 36, jobEn := v.testBit 63 } ∧
      exec (.registerWrite m 0x40 8 1) s = exec .commit s ∧ exec (.registerWrite m 0x10108 8 1) s = exec (.reload m) s ∧
      exec (.registerWrite m 0x40018 8 1) s = exec .warmReset s ∧
      exec (.registerWrite m 0x20018 8 v) s = exec (.stageRequest (v % 8)) s ∧
      (∀ q < 2048, exec (.registerWrite m (0x120000 + 0x40 * q) 8 2) s = exec (.qdtCancel q) s ∧
        exec (.registerWrite m (0x120000 + 0x40 * q) 8 4) s = exec (.qdtResume q) s ∧
        exec (.registerWrite m (0x120000 + 0x40 * q) 8 1) s = exec (.qdtEnable q) s ∧
        exec (.registerWrite m (0x120000 + 0x40 * q) 8 0) s = exec (.qdtDisable q) s) ∧
      (∀ off, 0x500000 ≤ off → off < 0x800000 → off % 8 = 0 → exec (.registerWrite m off 8 v) s = .next s))

/-- The queue (the idle step is the model's choice: notes/assumptions/5.md). -/
def Obligations.StepTakesTheFrontCommand : Prop :=
  (∀ (c : Instr) (rest : List Instr) (s : State), step { s with pending := c :: rest } = exec c { s with pending := rest }) ∧
  (∀ (c : Instr) (s : State), ∃ t, exec c s = .next t) ∧
  (∀ s : State, s.pending = [] → ∃ t, step s = .next t ∧ t.now = s.now + 1 ∧ t.pending = [] ∧ t.mem = s.mem ∧ t.queues = s.queues)

/-- The state after reset (R707). -/
def Obligations.ResetLeavesTheStatedValues : Prop :=
  let s := State.reset
  Canonical s ∧ s.pending = [] ∧ s.cmds = [] ∧ (∀ q, (s.queue q).state = .disabled) ∧ (∀ p, (s.port p).state = .disabled) ∧
    (∀ i, (s.peer i).state = .absent) ∧ s.frm.state = .free ∧ s.frm.isMaster = false ∧ s.fea.locked = false ∧ s.fea.active = 0 ∧
    s.fea.accept = 0 ∧ (∀ b < 4, s.err.bank b = {}) ∧ s.err.occUc = 0 ∧ s.err.occDe = 0 ∧ s.err.occCe = 0 ∧ s.err.occEvent = 0 ∧
    s.err.fatal = false ∧ s.err.fmUnit = 0 ∧ s.err.fmCluster = 0 ∧ s.err.fmRegion = 0 ∧ s.err.fmCc = 0 ∧ s.err.fmDie = 0 ∧
    s.boot.stage = .rom ∧ s.boot.result = 0 ∧ s.frt.active = none ∧ s.frt.busy = false ∧ s.hpt.linkUp = false ∧ s.hpt.attached = false ∧
    (∀ h, (s.hart h).state = .held) ∧ (∀ k, (s.kwait k).state = .idle) ∧ (∀ k, (s.stack k).state = .untrained) ∧
    s.coh.cleat = 128 ∧ s.coh.spill = false ∧ s.coh.reclaim = false ∧ s.net = [] ∧ s.pins.pwrGood = false ∧ s.pins.rails = true

/-- The invariant of the state's form; that it holds at reset is part of ResetLeavesTheStatedValues. -/
def Obligations.EveryStepKeepsCanonicalForm : Prop :=
  ∀ s t : State, step s = .next t → (Canonical s → Canonical t) ∧ t.pending = s.pending.tail

/-- What persists (R657, R673, R675). -/
def Obligations.FusesOnlyBlowAndFencesStay : Prop :=
  ∀ s t : State, step s = .next t → Fuses.only s.fuses t.fuses ∧
    ((∀ c, s.pending.head? = some c → cutsIsland c = false) → Err.fencesStay s.err t.err)

/-- Error records (R644 to R650, R662). -/
def Obligations.ErrorRecordsAreCountedMergedAndKept : Prop :=
  ∀ (s : State) (cls : ErrClass) (code kind index detail addr : Nat),
    let t := s.logErr cls code kind index detail addr
    let one := fun (c : ErrClass) (x : Nat) => if cls = c then (x + 1) % 2 ^ 16 else x
    (t.err.occFe = one .fe s.err.occFe ∧ t.err.occUc = one .uc s.err.occUc ∧ t.err.occDe = one .de s.err.occDe ∧
      t.err.occCe = one .ce s.err.occCe ∧ t.err.occEvent = one .event s.err.occEvent) ∧
    (t.err.fatal = (s.err.fatal || cls == .fe) ∧ t.err.fUc = (s.err.fUc || cls == .uc) ∧ t.err.fDe = (s.err.fDe || cls == .de) ∧
      t.err.fCe = (s.err.fCe || cls == .ce) ∧ t.err.fEvent = (s.err.fEvent || cls == .event)) ∧
    (let b := match cls with | .fe => 0 | .uc => 1 | .de => 2 | _ => 3
     let size := match cls with | .fe => 16 | .uc => 64 | .de => 256 | _ => 1024
     let k := s.err.bank b
     let new := (kind, index, code) ∉ s.err.thisFrame
     let full := (k.tail + 2 ^ 32 - k.head) % 2 ^ 32 = size;
     (∀ c < 4, c ≠ b → t.err.bank c = s.err.bank c) ∧
     (new → ¬ full → (t.err.bank b).tail = (k.tail + 1) % 2 ^ 32 ∧ (t.err.bank b).overflow = k.overflow ∧ (t.err.bank b).head = k.head ∧
       (∃ r, (t.err.bank b).at? (k.tail % size) = some r ∧ r.seq = k.tail ∧ r.cls = cls ∧ r.code = code ∧ r.srcKind = kind ∧ r.srcIndex = index ∧
         r.frame = s.frm.count ∧ r.addr = addr ∧ r.merged = 0) ∧
       (∀ p, p ≠ k.tail % size → (t.err.bank b).at? p = k.at? p) ∧ (kind, index, code) ∈ t.err.thisFrame) ∧
     (new → full → t.err.bank b = { k with overflow := min (k.overflow + 1) (2 ^ 16 - 1) }) ∧
     (¬ new → let at' := (k.tail + 2 ^ 32 - 1) % 2 ^ 32 % size
       (∀ r, k.at? at' = some r → r.srcKind = kind → r.srcIndex = index → r.code = code → r.frame = s.frm.count →
         (t.err.bank b).at? at' = some { r with merged := min (r.merged + 1) (2 ^ 8 - 1) } ∧ (t.err.bank b).tail = k.tail ∧
           (t.err.bank b).overflow = k.overflow) ∧
       ((∀ r, k.at? at' = some r → r.srcKind ≠ kind ∨ r.srcIndex ≠ index ∨ r.code ≠ code ∨ r.frame ≠ s.frm.count) →
         t.err.bank b = { k with overflow := min (k.overflow + 1) (2 ^ 16 - 1) }))) ∧
    t = { s with err := t.err, hpt := t.hpt, ncc := t.ncc, free := t.free }
end

