-- ==== Sys2Proof/Laws/Table.lean ====
section
/-! SUPPORT. The laws of sparse arrays: reading after writing, and that a write keeps the canonical form. -/

namespace Sys2Proof

variable {α : Type}

@[simp] theorem Tbl.get_nil (d : α) (i : Nat) : Tbl.get d [] i = d := rfl

theorem Tbl.get_cons (d : α) (e : Nat × α) (t : Tbl α) (i : Nat) :
    Tbl.get d (e :: t) i = if e.1 = i then e.2 else Tbl.get d t i := by
  cases e; rfl

theorem Tbl.get_eq_default (d : α) (t : Tbl α) (i : Nat) (h : ∀ e ∈ t, i < e.1) : Tbl.get d t i = d := by
  induction t with
  | nil => rfl
  | cons e t ih =>
    have := h e (by simp)
    rw [Tbl.get_cons, if_neg (by omega)]
    exact ih (fun e he => h e (by simp [he]))

variable [DecidableEq α]

@[simp] theorem Tbl.wf_nil (d : α) : Tbl.wf d ([] : Tbl α) = true := rfl

theorem Tbl.wf_cons (d : α) (k : Nat) (v : α) (t : Tbl α) :
    Tbl.wf d ((k, v) :: t) = true ↔ v ≠ d ∧ Tbl.wf d t = true ∧ (∀ e ∈ t, k < e.1) := by
  induction t generalizing k v with
  | nil => simp [Tbl.wf]
  | cons e t ih =>
    obtain ⟨k', v'⟩ := e
    simp only [Tbl.wf, Bool.and_eq_true, decide_eq_true_eq, List.forall_mem_cons]
    constructor
    · rintro ⟨⟨hv, hk⟩, hw⟩
      exact ⟨hv, hw, hk, fun e he => hk.trans (((ih k' v').1 hw).2.2 e he)⟩
    · rintro ⟨hv, hw, hk, _⟩
      exact ⟨⟨hv, hk⟩, hw⟩

theorem Tbl.mem_set (d : α) (t : Tbl α) (i : Nat) (x : α) (e : Nat × α) (h : e ∈ Tbl.set d t i x) : e.1 = i ∨ e ∈ t := by
  induction t with
  | nil => simp only [Tbl.set] at h; split at h <;> simp_all
  | cons p t ih =>
    obtain ⟨k, v⟩ := p
    simp only [Tbl.set] at h
    split at h <;> [split at h; split at h <;> [split at h; skip]] <;> simp only [List.mem_cons] at h ⊢ <;> aesop

/-- A write keeps the canonical form. -/
theorem Tbl.wf_set (d : α) (t : Tbl α) (i : Nat) (x : α) (h : Tbl.wf d t = true) : Tbl.wf d (Tbl.set d t i x) = true := by
  induction t with
  | nil => simp only [Tbl.set]; split <;> simp_all [Tbl.wf]
  | cons p t ih =>
    obtain ⟨k, v⟩ := p
    have hw := (Tbl.wf_cons d k v t).1 h
    simp only [Tbl.set]
    split
    · split
      · exact h
      · rw [Tbl.wf_cons]
        refine ⟨by assumption, h, ?_⟩
        simp only [List.forall_mem_cons]
        exact ⟨by assumption, fun e he => lt_trans (by assumption) (hw.2.2 e he)⟩
    · split
      · subst i
        split
        · exact hw.2.1
        · exact (Tbl.wf_cons _ _ _ _).2 ⟨by assumption, hw.2⟩
      · rw [Tbl.wf_cons]
        refine ⟨hw.1, ih hw.2.1, fun e he => ?_⟩
        rcases Tbl.mem_set _ _ _ _ _ he with h1 | h1
        · omega
        · exact hw.2.2 e h1

/-- Leaving elements out keeps the canonical form. -/
theorem Tbl.wf_filter (d : α) (t : Tbl α) (p : Nat × α → Bool) (h : Tbl.wf d t = true) : Tbl.wf d (t.filter p) = true := by
  induction t with
  | nil => rfl
  | cons e t ih =>
    obtain ⟨k, v⟩ := e
    have hw := (Tbl.wf_cons d k v t).1 h
    rw [List.filter_cons]
    split
    · exact (Tbl.wf_cons _ _ _ _).2 ⟨hw.1, ih hw.2.1, fun e he => hw.2.2 e (List.mem_of_mem_filter he)⟩
    · exact ih hw.2.1

/-- Reading after a write. -/
theorem Tbl.get_set (d : α) (t : Tbl α) (i j : Nat) (x : α) (h : Tbl.wf d t = true) :
    Tbl.get d (Tbl.set d t i x) j = if j = i then x else Tbl.get d t j := by
  induction t with
  | nil => simp only [Tbl.set]; split <;> simp_all [Tbl.get_cons, eq_comm]
  | cons p t ih =>
    obtain ⟨k, v⟩ := p
    have hw := (Tbl.wf_cons d k v t).1 h
    have below (m : Nat) (hm : m < k) : Tbl.get d ((k, v) :: t) m = d :=
      Tbl.get_eq_default d _ m (by simpa using ⟨hm, fun a b hab => lt_trans hm (hw.2.2 _ hab)⟩)
    simp only [Tbl.set]
    split
    · split
      · split
        · subst j; subst x; exact below _ (by assumption)
        · rfl
      · rw [Tbl.get_cons]; simp only [eq_comm]
    · split
      · subst i
        split
        · by_cases hj : j = k
          · subst j; subst x; simp only [if_true]; exact Tbl.get_eq_default d _ _ hw.2.2
          · rw [if_neg hj, Tbl.get_cons]; simp only; rw [if_neg (Ne.symm hj)]
        · by_cases hj : j = k
          · subst j; simp [Tbl.get_cons]
          · simp only [Tbl.get_cons, if_neg hj, if_neg (Ne.symm hj)]
      · simp only [Tbl.get_cons]
        split
        · rw [if_neg (by omega)]
        · exact ih hw.2.1

theorem Tbl.wf_upd (d : α) (t : Tbl α) (i : Nat) (f : α → α) (h : Tbl.wf d t = true) : Tbl.wf d (Tbl.upd d t i f) = true :=
  Tbl.wf_set d t i _ h

theorem Tbl.get_upd (d : α) (t : Tbl α) (i j : Nat) (f : α → α) (h : Tbl.wf d t = true) :
    Tbl.get d (Tbl.upd d t i f) j = if j = i then f (Tbl.get d t i) else Tbl.get d t j :=
  Tbl.get_set d t i j _ h

/-- Two canonical arrays that read alike are equal. -/
theorem Tbl.ext_get (d : α) (t r : Tbl α) (ht : Tbl.wf d t = true) (hr : Tbl.wf d r = true)
    (h : ∀ i, Tbl.get d t i = Tbl.get d r i) : t = r := by
  induction t generalizing r with
  | nil =>
    cases r with
    | nil => rfl
    | cons e r =>
      have hw := (Tbl.wf_cons d e.1 e.2 r).1 hr
      have := h e.1
      rw [Tbl.get_cons, if_pos rfl, Tbl.get_nil] at this
      exact absurd this.symm hw.1
  | cons e t ih =>
    have hw := (Tbl.wf_cons d e.1 e.2 t).1 ht
    cases r with
    | nil =>
      have := h e.1
      rw [Tbl.get_cons, if_pos rfl, Tbl.get_nil] at this
      exact absurd this hw.1
    | cons e' r =>
      have hw' := (Tbl.wf_cons d e'.1 e'.2 r).1 hr
      have key : e.1 = e'.1 := by
        by_contra hne
        rcases Nat.lt_or_gt_of_ne hne with hlt | hlt
        · have := h e.1
          rw [Tbl.get_cons, if_pos rfl, Tbl.get_eq_default d (e' :: r) e.1
            (by simp only [List.forall_mem_cons]; exact ⟨hlt, fun x hx => hlt.trans (hw'.2.2 x hx)⟩)] at this
          exact hw.1 this
        · have := h e'.1
          rw [Tbl.get_cons (e := e'), if_pos rfl, Tbl.get_eq_default d (e :: t) e'.1
            (by simp only [List.forall_mem_cons]; exact ⟨hlt, fun x hx => hlt.trans (hw.2.2 x hx)⟩)] at this
          exact hw'.1 this.symm
      have val : e.2 = e'.2 := by
        have := h e.1
        rwa [Tbl.get_cons, if_pos rfl, Tbl.get_cons, if_pos key.symm] at this
      have tail := ih r hw.2.1 hw'.2.1 (fun i => by
        by_cases hi : i = e.1
        · subst hi
          rw [Tbl.get_eq_default d t _ hw.2.2, Tbl.get_eq_default d r _ (key ▸ hw'.2.2)]
        · have := h i
          rwa [Tbl.get_cons, if_neg (Ne.symm hi), Tbl.get_cons, if_neg (fun q => hi (q.symm.trans key.symm))] at this)
      cases e; cases e'; simp_all

end Sys2Proof
end

