-- ==== Sys2Proof/Laws/Memory.lean ====
section
/-! SUPPORT. HBM as a list of cells: every operation keeps its canonical form, and reading after a write. -/

namespace Sys2Proof.Machine

open Sys2Proof

theorem Memory.wf_nil : Memory.wf [] = true := rfl

theorem Memory.wf_reset : Memory.wf State.reset.mem = true := rfl

theorem Memory.wf_write (m : List Host.Cell) (a : Nat) (b : Byte) (h : Memory.wf m = true) : Memory.wf (Memory.write m a b) = true :=
  Tbl.wf_set _ _ _ _ h

theorem Memory.wf_writes (m : List Host.Cell) (a : Nat) (bs : List Byte) (h : Memory.wf m = true) :
    Memory.wf (Memory.writes m a bs) = true := by
  induction bs generalizing m a with
  | nil => exact h
  | cons b t ih => exact ih _ _ (Memory.wf_write m a b h)

/-- Reading one byte after writing one byte. -/
theorem Memory.read_write (m : List Host.Cell) (a x : Nat) (b : Byte) (h : Memory.wf m = true) :
    Memory.read (Memory.write m a b) x = if x = a then b else Memory.read m x := Tbl.get_set _ _ _ _ _ h

/-- Reading one byte after writing successive bytes: the byte that was put there, or what stood there. -/
theorem Memory.read_writes (m : List Host.Cell) (a x : Nat) (bs : List Byte) (h : Memory.wf m = true) :
    Memory.read (Memory.writes m a bs) x = if a ≤ x ∧ x < a + bs.length then bs.getD (x - a) 0 else Memory.read m x := by
  induction bs generalizing m a with
  | nil => simp only [Memory.writes, List.length_nil, Nat.add_zero]; rw [if_neg (by omega)]
  | cons b t ih =>
    simp only [Memory.writes, List.length_cons]
    rw [ih _ _ (Memory.wf_write m a b h), Memory.read_write m a x b h]
    by_cases h1 : x = a
    · subst h1
      rw [if_neg (by omega), if_pos rfl, if_pos (by omega)]
      simp
    · by_cases h2 : a + 1 ≤ x ∧ x < a + 1 + t.length
      · rw [if_pos h2, if_pos (by omega)]
        obtain ⟨n, rfl⟩ : ∃ n, x = a + 1 + n := ⟨x - (a + 1), by omega⟩
        rw [show a + 1 + n - (a + 1) = n by omega, show a + 1 + n - a = n + 1 by omega]
        simp
      · rw [if_neg h2, if_neg h1, if_neg (by omega)]

/-- Equal memories are equal data: two canonical lists that read alike are the same list. -/
theorem Memory.ext_read (m n : List Host.Cell) (hm : Memory.wf m = true) (hn : Memory.wf n = true)
    (h : ∀ a, Memory.read m a = Memory.read n a) : m = n := Tbl.ext_get _ _ _ hm hn h

theorem State.hbmPut_wf (s : State) (l : Nat) (d : LineData) (p : Bool) (h : Memory.wf s.mem = true) :
    Memory.wf (s.hbmPut l d p).mem = true := by
  unfold State.hbmPut
  generalize lineBytes d = b
  exact Memory.wf_writes _ _ _ h

end Sys2Proof.Machine
end

