-- ==== Sys2Proof/Laws/Keeps.lean ====
section
/-! SUPPORT. What every operation keeps: the waiting commands, the canonical form of tables and memory, blown fuses and
fences. The files KeepsMemory, KeepsUnit, KeepsCommands, KeepsFabric, KeepsPower, KeepsBoot and KeepsAlu follow in that order. -/

namespace Sys2Proof.Machine

open Sys2Proof

theorem Fuses.only_refl (f : Fuses) : Fuses.only f f := ⟨le_rfl, le_rfl, fun _ h => h, rfl⟩

theorem Fuses.only_trans {f g h : Fuses} (a : Fuses.only f g) (b : Fuses.only g h) : Fuses.only f h := by
  obtain ⟨a1, a2, a3, a4⟩ := a
  obtain ⟨b1, b2, b3, b4⟩ := b
  refine ⟨a1.trans b1, a2.trans b2, fun k x => b3 k (a3 k x), ?_⟩
  rw [b4, a4]

theorem Err.fencesStay_refl (e : Err) : Err.fencesStay e e := ⟨fun _ h => h, fun _ h => h, fun _ h => h, fun _ h => h, fun _ h => h⟩

theorem Err.fencesStay_trans {e f g : Err} (a : Err.fencesStay e f) (b : Err.fencesStay f g) : Err.fencesStay e g :=
  ⟨fun i h => b.1 i (a.1 i h), fun i h => b.2.1 i (a.2.1 i h), fun i h => b.2.2.1 i (a.2.2.1 i h),
   fun i h => b.2.2.2.1 i (a.2.2.2.1 i h), fun i h => b.2.2.2.2 i (a.2.2.2.2 i h)⟩

theorem Keeps.refl (s : State) : Keeps s s := ⟨rfl, id, Fuses.only_refl _, Err.fencesStay_refl _⟩

theorem Keeps.trans {s t u : State} (a : Keeps s t) (b : Keeps t u) : Keeps s u :=
  ⟨b.queue.trans a.queue, fun h => b.form (a.form h), Fuses.only_trans a.fuses b.fuses, Err.fencesStay_trans a.fences b.fences⟩

/-- The parts of the state that `Keeps` speaks of. -/
abbrev State.core (s : State) :=
  ((s.pending, s.fuses, s.mem), (s.err.fmUnit, s.err.fmCluster, s.err.fmRegion, s.err.fmCc, s.err.fmDie),
   (s.units, s.clusters, s.agents, s.slices, s.hbm, s.queues, s.dma, s.bends, s.dlk, s.lastUnit, s.nextQueue, s.scratch),
   (s.hws.ports, s.hws.peers, s.lhr.doms, s.lhr.dies, s.ncc.harts, s.ncc.kwait))

/-- A state with the same core as another keeps what it keeps. -/
theorem Keeps.core {s0 s t : State} (h : Keeps s0 s) (e : t.core = s.core) : Keeps s0 t := by
  simp only [State.core, Prod.mk.injEq] at e
  obtain ⟨⟨e1, e2, e3⟩, ⟨f1, f2, f3, f4, f5⟩, ⟨g1, g2, g3, g4, g5, g6, g7, g8, g9, g10, g11, g12⟩, k1, k2, k3, k4, k5, k6⟩ := e
  refine h.trans ⟨e1, fun c => ?_, by rw [e2]; exact Fuses.only_refl _, ?_⟩
  · simpa only [Canonical, Tables, e3, g1, g2, g3, g4, g5, g6, g7, g8, g9, g10, g11, g12, k1, k2, k3, k4, k5, k6] using c
  · simp only [Err.fencesStay, f1, f2, f3, f4, f5]; exact ⟨fun _ h => h, fun _ h => h, fun _ h => h, fun _ h => h, fun _ h => h⟩

/-- A record update that leaves the core alone keeps what the state keeps. -/
theorem mk_keeps {s0 s : State} {a1 a3 a4 a5 a6 a7 a8 a9 a10 a11 a12 a13 a14 a15 a16 a17 a18 a19 a20 a21 a22 a23 a24 a25 a26 a27 a28 a29 a30 a31 a32
      a33 a34 a35 a36 a37 a38 a39 a40 a41 a42}
    (e : (State.mk a1 s.pending a3 a4 a5 a6 a7 a8 a9 a10 a11 a12 a13 a14 a15 a16 a17 a18 a19 a20 a21 a22 a23 a24 a25 a26 a27 a28
      a29 a30 a31 a32 a33 a34 a35 a36 a37 a38 a39 a40 a41 a42).core = s.core) :
    Keeps s0 (State.mk a1 s.pending a3 a4 a5 a6 a7 a8 a9 a10 a11 a12 a13 a14 a15 a16 a17 a18 a19 a20 a21 a22 a23 a24 a25 a26 a27 a28
      a29 a30 a31 a32 a33 a34 a35 a36 a37 a38 a39 a40 a41 a42) ↔ Keeps s0 s :=
  ⟨fun h => h.core e.symm, fun h => h.core e⟩

/-- A change that leaves fuses and error state alone and keeps the canonical form. -/
theorem Keeps.only {s0 s t : State} (h : Keeps s0 s) (q : t.pending = s.pending) (w : Canonical s → Canonical t)
    (f : t.fuses = s.fuses) (e : t.err = s.err) : Keeps s0 t :=
  h.trans ⟨q, w, by rw [f]; exact Fuses.only_refl _, by rw [e]; exact Err.fencesStay_refl _⟩

theorem State.modUnit_keeps {s0 s : State} (h : Keeps s0 s) (i) (f) : Keeps s0 (s.modUnit i f) :=
  h.only rfl (fun c => by simp only [Canonical, Tables, State.modUnit] at c ⊢; simp only [c, Tbl.wf_upd, and_self]) rfl rfl

theorem State.modCluster_keeps {s0 s : State} (h : Keeps s0 s) (i) (f) : Keeps s0 (s.modCluster i f) :=
  h.only rfl (fun c => by simp only [Canonical, Tables, State.modCluster] at c ⊢; simp only [c, Tbl.wf_upd, and_self]) rfl rfl

theorem State.modAgent_keeps {s0 s : State} (h : Keeps s0 s) (i) (f) : Keeps s0 (s.modAgent i f) :=
  h.only rfl (fun c => by simp only [Canonical, Tables, State.modAgent] at c ⊢; simp only [c, Tbl.wf_upd, and_self]) rfl rfl

theorem State.modSlice_keeps {s0 s : State} (h : Keeps s0 s) (i) (f) : Keeps s0 (s.modSlice i f) :=
  h.only rfl (fun c => by simp only [Canonical, Tables, State.modSlice] at c ⊢; simp only [c, Tbl.wf_upd, and_self]) rfl rfl

theorem State.modStack_keeps {s0 s : State} (h : Keeps s0 s) (i) (f) : Keeps s0 (s.modStack i f) :=
  h.only rfl (fun c => by simp only [Canonical, Tables, State.modStack] at c ⊢; simp only [c, Tbl.wf_upd, and_self]) rfl rfl

theorem State.modQueue_keeps {s0 s : State} (h : Keeps s0 s) (i) (f) : Keeps s0 (s.modQueue i f) :=
  h.only rfl (fun c => by simp only [Canonical, Tables, State.modQueue] at c ⊢; simp only [c, Tbl.wf_upd, and_self]) rfl rfl

theorem State.modDma_keeps {s0 s : State} (h : Keeps s0 s) (i) (f) : Keeps s0 (s.modDma i f) :=
  h.only rfl (fun c => by simp only [Canonical, Tables, State.modDma] at c ⊢; simp only [c, Tbl.wf_upd, and_self]) rfl rfl

theorem State.modPort_keeps {s0 s : State} (h : Keeps s0 s) (i) (f) : Keeps s0 (s.modPort i f) :=
  h.only rfl (fun c => by simp only [Canonical, Tables, State.modPort] at c ⊢; simp only [c, Tbl.wf_upd, and_self]) rfl rfl

theorem State.modPeer_keeps {s0 s : State} (h : Keeps s0 s) (i) (f) : Keeps s0 (s.modPeer i f) :=
  h.only rfl (fun c => by simp only [Canonical, Tables, State.modPeer] at c ⊢; simp only [c, Tbl.wf_upd, and_self]) rfl rfl

theorem State.modBend_keeps {s0 s : State} (h : Keeps s0 s) (i) (f) : Keeps s0 (s.modBend i f) :=
  h.only rfl (fun c => by simp only [Canonical, Tables, State.modBend] at c ⊢; simp only [c, Tbl.wf_upd, and_self]) rfl rfl

theorem State.modBundle_keeps {s0 s : State} (h : Keeps s0 s) (i) (f) : Keeps s0 (s.modBundle i f) :=
  h.only rfl (fun c => by simp only [Canonical, Tables, State.modBundle] at c ⊢; simp only [c, Tbl.wf_upd, and_self]) rfl rfl

theorem State.modDom_keeps {s0 s : State} (h : Keeps s0 s) (i) (f) : Keeps s0 (s.modDom i f) :=
  h.only rfl (fun c => by simp only [Canonical, Tables, State.modDom] at c ⊢; simp only [c, Tbl.wf_upd, and_self]) rfl rfl

theorem State.modDie_keeps {s0 s : State} (h : Keeps s0 s) (i) (f) : Keeps s0 (s.modDie i f) :=
  h.only rfl (fun c => by simp only [Canonical, Tables, State.modDie] at c ⊢; simp only [c, Tbl.wf_upd, and_self]) rfl rfl

theorem State.modHart_keeps {s0 s : State} (h : Keeps s0 s) (i) (f) : Keeps s0 (s.modHart i f) :=
  h.only rfl (fun c => by simp only [Canonical, Tables, State.modHart] at c ⊢; simp only [c, Tbl.wf_upd, and_self]) rfl rfl

theorem State.modKwait_keeps {s0 s : State} (h : Keeps s0 s) (i) (f) : Keeps s0 (s.modKwait i f) :=
  h.only rfl (fun c => by simp only [Canonical, Tables, State.modKwait] at c ⊢; simp only [c, Tbl.wf_upd, and_self]) rfl rfl

theorem lastUnit_keeps {s0 s : State} (h : Keeps s0 s) (i x) : Keeps s0 { s with lastUnit := Tbl.set 0 s.lastUnit i x } :=
  h.only rfl (fun c => by simp only [Canonical, Tables] at c ⊢; simp only [c, Tbl.wf_set, and_self]) rfl rfl

theorem nextQueue_keeps {s0 s : State} (h : Keeps s0 s) (i x) : Keeps s0 { s with nextQueue := Tbl.set 0 s.nextQueue i x } :=
  h.only rfl (fun c => by simp only [Canonical, Tables] at c ⊢; simp only [c, Tbl.wf_set, and_self]) rfl rfl

/-- Scratchpad as writes leave it, whatever else of the core stays. -/
theorem scratch_keeps {s0 s t : State} (h : Keeps s0 s) (w : Tbl.wf 0 s.scratch = true → Tbl.wf 0 t.scratch = true)
    (e : t.core = ({ s with scratch := t.scratch } : State).core) : Keeps s0 t := by
  refine Keeps.core (h.only (t := { s with scratch := t.scratch }) rfl (fun c => ?_) rfl rfl) e
  simp only [Canonical, Tables] at c ⊢
  simp only [c, w, and_self]

theorem hbm_keeps {s0 s : State} {k : Tbl Stack} (h : Keeps s0 s) (w : Tbl.wf {} s.hbm = true → Tbl.wf {} k = true) :
    Keeps s0 { s with hbm := k } :=
  h.only rfl (fun c => by simp only [Canonical, Tables] at c ⊢; simp only [c, w, and_self]) rfl rfl

theorem err_keeps {s0 s : State} {e : Err} (h : Keeps s0 s) (w : Err.fencesStay s.err e) : Keeps s0 { s with err := e } :=
  h.trans ⟨rfl, id, Fuses.only_refl _, w⟩

theorem fuses_keeps {s0 s : State} {f : Fuses} (h : Keeps s0 s) (w : Fuses.only s.fuses f) : Keeps s0 { s with fuses := f } :=
  h.trans ⟨rfl, id, w, Err.fencesStay_refl _⟩

/-- Logging leaves the fence map alone. -/
theorem Err.setBank_fences (e : Err) (b : Nat) (k : ErrBank) : Err.fencesStay e (e.setBank b k) := by
  unfold Err.setBank
  split <;> exact ⟨fun _ h => h, fun _ h => h, fun _ h => h, fun _ h => h, fun _ h => h⟩

theorem Err.occur_fences (e : Err) (c : ErrClass) : Err.fencesStay e (e.occur c) := by
  unfold Err.occur
  split <;> exact ⟨fun _ h => h, fun _ h => h, fun _ h => h, fun _ h => h, fun _ h => h⟩

theorem Err.store_fences (e : Err) (r : ErrRec) : Err.fencesStay e (e.store r) := by
  have k (b) (x : ErrBank) (y) : Err.fencesStay e { e.setBank b x with thisFrame := y } := by
    obtain ⟨h1, h2, h3, h4, h5⟩ := Err.setBank_fences e b x
    exact ⟨h1, h2, h3, h4, h5⟩
  unfold Err.store
  dsimp only
  repeat' (first | with_reducible exact Err.setBank_fences _ _ _ | with_reducible exact k _ _ _ | split)

theorem ite_keeps {s0 a b : State} {c : Prop} [Decidable c] (ha : Keeps s0 a) (hb : Keeps s0 b) : Keeps s0 (if c then a else b) := by
  split
  · exact ha
  · exact hb

theorem foldl_keeps {s0 s : State} {α : Type} (l : List α) (f : State → α → State) (h : Keeps s0 s)
    (hf : ∀ s a, Keeps s0 s → Keeps s0 (f s a)) : Keeps s0 (l.foldl f s) := by
  induction l generalizing s with
  | nil => exact h
  | cons a t ih => exact ih (hf s a h)

theorem foldl_snd_keeps {s0 : State} {α β : Type} (l : List α) (f : β × State → α → β × State) (p : β × State) (h : Keeps s0 p.2)
    (hf : ∀ p a, Keeps s0 p.2 → Keeps s0 (f p a).2) : Keeps s0 (l.foldl f p).2 := by
  induction l generalizing p with
  | nil => exact h
  | cons a t ih => exact ih _ (hf p a h)

theorem snd_keeps {s0 s : State} {β : Type} {p : β × State} {b : β} (e : p = (b, s)) (h : Keeps s0 p.2) : Keeps s0 s := by
  rw [e] at h; exact h

theorem snd2_keeps {s0 s : State} {β γ : Type} {p : β × γ × State} {b : β} {c : γ} (e : p = (b, c, s)) (h : Keeps s0 p.2.2) :
    Keeps s0 s := by
  rw [e] at h; exact h

theorem some_snd_keeps {s0 s : State} {β : Type} {o : Option (β × State)} {b : β} (e : o = some (b, s))
    (h : ∀ t, o = some t → Keeps s0 t.2) : Keeps s0 s := h _ e

theorem some_snd2_keeps {s0 s : State} {β γ : Type} {o : Option (β × γ × State)} {b : β} {c : γ} (e : o = some (b, c, s))
    (h : ∀ t, o = some t → Keeps s0 t.2.2) : Keeps s0 s := h _ e

theorem foldl_snd2_keeps {s0 : State} {α β γ : Type} (l : List α) (f : β × γ × State → α → β × γ × State) (p : β × γ × State)
    (h : Keeps s0 p.2.2) (hf : ∀ p a, Keeps s0 p.2.2 → Keeps s0 (f p a).2.2) : Keeps s0 (l.foldl f p).2.2 := by
  induction l generalizing p with
  | nil => exact h
  | cons a t ih => exact ih _ (hf p a h)

theorem foldl_fst_keeps {s0 : State} {α β : Type} (l : List α) (f : State × β → α → State × β) (p : State × β) (h : Keeps s0 p.1)
    (hf : ∀ p a, Keeps s0 p.1 → Keeps s0 (f p a).1) : Keeps s0 (l.foldl f p).1 := by
  induction l generalizing p with
  | nil => exact h
  | cons a t ih => exact ih _ (hf p a h)

/-- A state that may not be there keeps it where it is. -/
def KeepsOpt (s0 : State) (o : Option State) : Prop := ∀ t, o = some t → Keeps s0 t

theorem some_keeps {s0 s : State} {o : Option State} (e : o = some s) (h : KeepsOpt s0 o) : Keeps s0 s := h s e

theorem is_some_keeps {s0 s : State} (h : Keeps s0 s) : KeepsOpt s0 (some s) := by
  intro t e; cases e; exact h

theorem none_keeps {s0 : State} : KeepsOpt s0 none := by intro t e; cases e

theorem map_keeps {s0 : State} {α : Type} {o : Option α} {f : α → State} (h : ∀ a, Keeps s0 (f a)) : KeepsOpt s0 (o.map f) := by
  intro t e
  cases o with
  | none => cases e
  | some a => cases e; exact h a

theorem findSome_keeps {s0 : State} {α : Type} {l : List α} {f : α → Option State} (h : ∀ a, KeepsOpt s0 (f a)) :
    KeepsOpt s0 (l.findSome? f) := by
  induction l with
  | nil => exact none_keeps
  | cons a l ih =>
    rw [List.findSome?_cons]
    split
    · rename_i t e
      intro u hu
      cases hu
      exact h a t e
    · exact ih

/-- A state that may not be there, changed where it is. -/
theorem map_state_keeps {s0 : State} {o : Option State} {f : State → State} (ho : KeepsOpt s0 o)
    (h : ∀ t, Keeps s0 t → Keeps s0 (f t)) : KeepsOpt s0 (o.map f) := by
  cases o with
  | none => exact none_keeps
  | some t => exact is_some_keeps (h t (ho t rfl))

/-- Steps that may fail, one after another. -/
theorem foldl_bind_keeps {s0 : State} {α : Type} (l : List α) (f : α → State → Option State) {o : Option State} (ho : KeepsOpt s0 o)
    (hf : ∀ a s, Keeps s0 s → KeepsOpt s0 (f a s)) : KeepsOpt s0 (l.foldl (fun acc a => acc.bind (f a)) o) := by
  induction l generalizing o with
  | nil => exact ho
  | cons a l ih =>
    refine ih ?_
    cases o with
    | none => exact none_keeps
    | some t => exact hf a t (ho t rfl)

theorem getD_keeps {s0 s : State} {o : Option State} (h : KeepsOpt s0 o) (k : Keeps s0 s) : Keeps s0 (o.getD s) := by
  cases o with
  | none => exact k
  | some t => exact h t rfl

/-- However a read of a spill set comes out, its state keeps it. -/
def KeepsSpill (s0 : State) : SpillSet → Prop
  | .words _ s => Keeps s0 s
  | .lost s => Keeps s0 s
  | .held => True

theorem words_keeps {s0 s : State} {x : SpillSet} {ws : List Nat} (e : x = .words ws s) (h : KeepsSpill s0 x) : Keeps s0 s := by
  rw [e] at h; exact h

theorem lost_keeps {s0 s : State} {x : SpillSet} (e : x = .lost s) (h : KeepsSpill s0 x) : Keeps s0 s := by
  rw [e] at h; exact h

theorem is_words_keeps {s0 s : State} {ws : List Nat} (h : Keeps s0 s) : KeepsSpill s0 (.words ws s) := h

theorem is_lost_keeps {s0 s : State} (h : Keeps s0 s) : KeepsSpill s0 (.lost s) := h

theorem held_spill_keeps {s0 : State} : KeepsSpill s0 .held := trivial

/-- However a home's read of a line comes out, its state keeps it. -/
def KeepsRead (s0 : State) : HomeRead → Prop
  | .data _ s => Keeps s0 s
  | .fill s => Keeps s0 s
  | .held => True

theorem data_keeps {s0 s : State} {x : HomeRead} {d : LineData × Bool} (e : x = .data d s) (h : KeepsRead s0 x) : Keeps s0 s := by
  rw [e] at h; exact h

theorem fill_keeps {s0 s : State} {x : HomeRead} (e : x = .fill s) (h : KeepsRead s0 x) : Keeps s0 s := by
  rw [e] at h; exact h

theorem is_data_keeps {s0 s : State} {d : LineData × Bool} (h : Keeps s0 s) : KeepsRead s0 (.data d s) := h

theorem is_fill_keeps {s0 s : State} (h : Keeps s0 s) : KeepsRead s0 (.fill s) := h

theorem held_read_keeps {s0 : State} : KeepsRead s0 .held := trivial

/-- The outcome of a command that keeps what every command keeps. -/
def KeepsOut (s : State) (o : Out State) : Prop := ∃ t, o = .next t ∧ Keeps s t

theorem next_keeps {s t : State} (h : Keeps s t) : KeepsOut s (.next t) := ⟨t, rfl, h⟩

/-- The body of an instruction keeps it where it succeeds. -/
def KeepsBody (s : State) (x : Except Stop State) : Prop := ∀ t, x = .ok t → Keeps s t

theorem of_ok_keeps {s0 s : State} {x : Except Stop State} (e : x = .ok s) (h : KeepsBody s0 x) : Keeps s0 s := h s e

theorem ok_keeps {s t : State} (h : Keeps s t) : KeepsBody s (.ok t) := by
  intro u e; cases e; exact h

theorem error_keeps {s : State} (e : Stop) : KeepsBody s (.error e) := by intro t h; cases h

theorem throw_keeps {s : State} (e : Stop) : KeepsBody s (throw e) := by intro t h; cases h

theorem pure_keeps {s t : State} (h : Keeps s t) : KeepsBody s (pure t) := ok_keeps h

theorem bind_keeps {s : State} {α : Type} (x : Except Stop α) (f : α → Except Stop State) (h : ∀ a, x = .ok a → KeepsBody s (f a)) :
    KeepsBody s (x >>= f) := by
  intro t e
  cases x with
  | error e' => cases e
  | ok a => exact h a rfl t e

end Sys2Proof.Machine
end

