-- ==== Sys2Proof/Laws/KeepsMemory.lean ====
section
/-! SUPPORT. The operations on the state, memory and coherence, and accesses. Each keeps what `Keeps` says. -/

namespace Sys2Proof.Machine

open Sys2Proof

theorem State.modDmaCh_keeps {s0 s : State} (hs : Keeps s0 s) (e) (c) (f) : Keeps s0 (State.modDmaCh s e c f) := by
  unfold State.modDmaCh
  try dsimp only
  repeat' (first | with_reducible assumption | with_reducible apply State.modDma_keeps)

theorem State.modMbx_keeps {s0 s : State} (hs : Keeps s0 s) (c) (f) : Keeps s0 (State.modMbx s c f) := by
  unfold State.modMbx
  try dsimp only
  repeat' (first | with_reducible assumption | (simp (disch := rfl) only [↓mk_keeps]) | split)

theorem State.modCmd_keeps {s0 s : State} (hs : Keeps s0 s) (id) (f) : Keeps s0 (State.modCmd s id f) := by
  unfold State.modCmd
  try dsimp only
  repeat' (first | with_reducible assumption | (simp (disch := rfl) only [↓mk_keeps]))

theorem State.freeVal_keeps {s0 s : State} (hs : Keeps s0 s) (w) : Keeps s0 (State.freeVal s w).2 := by
  unfold State.freeVal
  try dsimp only
  repeat' (first | with_reducible assumption | (simp (disch := rfl) only [↓mk_keeps]))

theorem State.freeChoice_keeps {s0 s : State} (hs : Keeps s0 s) : Keeps s0 (State.freeChoice s).2 := by
  unfold State.freeChoice
  try dsimp only
  repeat' (first | with_reducible assumption | (simp (disch := rfl) only [↓mk_keeps]))

theorem State.raiseMsix_keeps {s0 s : State} (hs : Keeps s0 s) (v) : Keeps s0 (State.raiseMsix s v) := by
  unfold State.raiseMsix
  try dsimp only
  repeat' (first | with_reducible assumption | (simp (disch := rfl) only [↓mk_keeps]) | with_reducible apply ite_keeps)

theorem State.raiseRoute_keeps {s0 s : State} (hs : Keeps s0 s) (n) : Keeps s0 (State.raiseRoute s n) := by
  unfold State.raiseRoute
  try dsimp only
  repeat' (first | with_reducible assumption | (simp (disch := rfl) only [↓mk_keeps]) | with_reducible apply ite_keeps)

theorem State.raiseIrq_keeps {s0 s : State} (hs : Keeps s0 s) (dest) (n) : Keeps s0 (State.raiseIrq s dest n) := by
  unfold State.raiseIrq
  try dsimp only
  repeat' (first
    | with_reducible assumption | with_reducible apply State.raiseMsix_keeps | with_reducible apply State.raiseRoute_keeps
    | with_reducible apply ite_keeps)

theorem State.logErr_keeps {s0 s : State} (h : Keeps s0 s) (cls) (code) (kind) (index) (detail) (addr) :
    Keeps s0 (State.logErr s cls code kind index detail addr) := by
  have k (s : State) (h : Keeps s0 s) (r : ErrRec) : Keeps s0 { s with err := (s.err.occur cls).store r } :=
    err_keeps h (Err.fencesStay_trans (Err.occur_fences _ _) (Err.store_fences _ _))
  unfold State.logErr
  dsimp only
  repeat' (first | exact k _ (by assumption) _ | exact k _ (State.freeVal_keeps h _) _ | apply State.raiseIrq_keeps | split)

theorem State.portSend_keeps {s0 s : State} (hs : Keeps s0 s) (p) (k) : Keeps s0 (State.portSend s p k) := by
  unfold State.portSend
  try dsimp only
  repeat' (first
    | with_reducible assumption | with_reducible apply State.modPort_keeps | (simp (disch := rfl) only [↓mk_keeps]))

theorem State.broadcast_keeps {s0 s : State} (hs : Keeps s0 s) (k) : Keeps s0 (State.broadcast s k) := by
  unfold State.broadcast
  try dsimp only
  repeat' (first
    | with_reducible assumption | with_reducible apply State.portSend_keeps
    | (with_reducible apply foldl_keeps <;> (try intro _ _ _)))

theorem State.fatal_keeps {s0 s : State} (hs : Keeps s0 s) (code) (kind) (index) (detail) (addr) : Keeps s0 (State.fatal s
    code kind index detail addr) := by
  unfold State.fatal
  try dsimp only
  repeat' (first
    | with_reducible assumption | with_reducible apply State.logErr_keeps | with_reducible apply State.broadcast_keeps
    | (simp (disch := rfl) only [↓mk_keeps]) | with_reducible apply ite_keeps)

theorem State.hbmPut_keeps {s0 s : State} (h : Keeps s0 s) (l) (d) (poison) : Keeps s0 (s.hbmPut l d poison) := by
  unfold State.hbmPut
  generalize lineBytes d = b
  exact h.only rfl (fun c => ⟨c.1, Memory.wf_writes _ _ _ c.2⟩) rfl rfl

theorem State.scratchPut_keeps {s0 s : State} (hs : Keeps s0 s) (o) (d) (poison) : Keeps s0 (State.scratchPut s o d poison) :=
  scratch_keeps hs (Tbl.wf_set _ _ _ _) rfl

theorem State.hbmStore_keeps {s0 s : State} (hs : Keeps s0 s) (l) (d) (poison) : Keeps s0 (State.hbmStore s l d poison) := by
  unfold State.hbmStore
  try dsimp only
  repeat' (first
    | with_reducible assumption | with_reducible apply State.modStack_keeps | with_reducible apply State.hbmPut_keeps
    | with_reducible apply ite_keeps)

theorem State.flushHeld_keeps {s0 s : State} (hs : Keeps s0 s) (st) : Keeps s0 (State.flushHeld s st) := by
  unfold State.flushHeld
  try dsimp only
  repeat' (first
    | with_reducible assumption | with_reducible apply State.hbmPut_keeps | with_reducible apply State.modStack_keeps
    | (with_reducible apply foldl_keeps <;> (try intro _ _ _)))

theorem State.remapStart_keeps {s0 s : State} (hs : Keeps s0 s) (st) (ch) (pch) (bank) (row) : Keeps s0 (State.remapStart s st
    ch pch bank row) := by
  unfold State.remapStart
  try dsimp only
  repeat' (first
    | with_reducible assumption | with_reducible apply State.modStack_keeps | with_reducible apply ite_keeps | split)

theorem State.readEvents_keeps {s0 s : State} (hs : Keeps s0 s) (l) (r) : Keeps s0 (State.readEvents s l r).2 := by
  unfold State.readEvents
  try dsimp only
  repeat' (first
    | with_reducible assumption | with_reducible apply State.modStack_keeps | with_reducible apply State.hbmPut_keeps
    | with_reducible apply State.logErr_keeps | with_reducible apply State.remapStart_keeps | with_reducible apply ite_keeps
    | split)

theorem State.sliceAlloc_keeps {s0 s : State} (hs : Keeps s0 s) (n) (x) (mru) : Keeps s0 (State.sliceAlloc s n x mru) := by
  unfold State.sliceAlloc
  try dsimp only
  repeat' (first
    | with_reducible assumption | with_reducible apply State.modSlice_keeps | with_reducible apply State.hbmStore_keeps
    | with_reducible apply ite_keeps | split)

theorem State.homeWrite_keeps {s0 s : State} (hs : Keeps s0 s) (l) (d) (poison) : Keeps s0 (State.homeWrite s l d poison) :=
    by
  unfold State.homeWrite
  try dsimp only
  repeat' (first
    | with_reducible assumption | with_reducible apply State.scratchPut_keeps | with_reducible apply State.hbmStore_keeps
    | with_reducible apply State.sliceAlloc_keeps | with_reducible apply ite_keeps)

theorem State.homeWriteInPlace_keeps {s0 s : State} (hs : Keeps s0 s) (l) (d) (poison) : Keeps s0 (State.homeWriteInPlace s l
    d poison) := by
  unfold State.homeWriteInPlace
  try dsimp only
  repeat' (first
    | with_reducible assumption | with_reducible apply State.scratchPut_keeps | with_reducible apply State.modSlice_keeps
    | with_reducible apply State.hbmStore_keeps | with_reducible apply ite_keeps | split)

theorem State.prefetch_keeps {s0 s : State} (hs : Keeps s0 s) (n) (miss) (ln) : Keeps s0 (State.prefetch s n miss ln) := by
  unfold State.prefetch
  try dsimp only
  repeat' (first | with_reducible assumption | with_reducible apply State.modSlice_keeps | with_reducible apply ite_keeps)

theorem State.homeRead_keeps {s0 s : State} (hs : Keeps s0 s) (l) (q) (nc) (demand) : KeepsRead s0 (State.homeRead s l q nc
    demand) := by
  unfold State.homeRead
  try dsimp only
  repeat' (first
    | with_reducible assumption | with_reducible apply State.modSlice_keeps | with_reducible apply State.prefetch_keeps
    | with_reducible apply is_data_keeps | with_reducible apply is_fill_keeps | with_reducible exact held_read_keeps
    | (with_reducible apply foldl_keeps <;> (try intro _ _ _)) | with_reducible apply ite_keeps | split)

theorem State.hartPut_keeps {s0 s : State} (hs : Keeps s0 s) (h) (r) (v) : Keeps s0 (State.hartPut s h r v) := by
  unfold State.hartPut
  try dsimp only
  repeat' (first | with_reducible assumption | with_reducible apply State.modHart_keeps)

theorem State.hartSet_keeps {s0 s : State} (hs : Keeps s0 s) (h) (rd) (v) : Keeps s0 (State.hartSet s h rd v) := by
  unfold State.hartSet
  try dsimp only
  repeat' (first | with_reducible assumption | with_reducible apply State.hartPut_keeps)

theorem State.hartNext_keeps {s0 s : State} (hs : Keeps s0 s) (h) : Keeps s0 (State.hartNext s h) := by
  unfold State.hartNext
  try dsimp only
  repeat' (first
    | with_reducible assumption | with_reducible apply State.freeVal_keeps | with_reducible apply State.modHart_keeps)

theorem State.hartTrap_keeps {s0 s : State} (hs : Keeps s0 s) (h) (cause) (tval) : Keeps s0 (State.hartTrap s h cause tval) :=
    by
  unfold State.hartTrap
  try dsimp only
  repeat' (first | with_reducible assumption | with_reducible apply State.modHart_keeps)

theorem State.nodeFault_keeps {s0 s : State} (hs : Keeps s0 s) (h) (o) : Keeps s0 (State.nodeFault s h o) := by
  unfold State.nodeFault
  try dsimp only
  repeat' (first | with_reducible assumption | with_reducible apply State.hartTrap_keeps)

theorem State.hartFault_keeps {s0 s : State} (hs : Keeps s0 s) (h) : Keeps s0 (State.hartFault s h) := by
  unfold State.hartFault
  try dsimp only
  repeat' (first | with_reducible assumption | with_reducible apply State.nodeFault_keeps | split)

theorem State.coresLose_keeps {s0 s : State} (hs : Keeps s0 s) (cc) (keep) (l) : Keeps s0 (State.coresLose s cc keep l) := by
  unfold State.coresLose
  try dsimp only
  repeat' (first
    | with_reducible assumption | with_reducible apply State.modHart_keeps
    | (with_reducible apply foldl_keeps <;> (try intro _ _ _)) | with_reducible apply ite_keeps)

theorem State.send_keeps {s0 s : State} (hs : Keeps s0 s) (m) : Keeps s0 (State.send s m) := by
  unfold State.send
  try dsimp only
  repeat' (first | with_reducible assumption | (simp (disch := rfl) only [↓mk_keeps]))

theorem State.dropResv_keeps {s0 s : State} (hs : Keeps s0 s) (a) (l) : Keeps s0 (State.dropResv s a l) := by
  unfold State.dropResv
  try dsimp only
  repeat' (first | with_reducible assumption | with_reducible apply State.coresLose_keeps | with_reducible apply ite_keeps)

theorem State.agentRoom_keeps {s0 s : State} (hs : Keeps s0 s) (a) (l) : KeepsOpt s0 (State.agentRoom s a l) := by
  unfold State.agentRoom
  try dsimp only
  repeat' (first
    | with_reducible assumption | with_reducible apply State.send_keeps | with_reducible apply State.modAgent_keeps
    | with_reducible apply State.dropResv_keeps | with_reducible apply is_some_keeps | with_reducible exact none_keeps
    | split)

theorem State.agentMiss_keeps {s0 s : State} (hs : Keeps s0 s) (a) (l) (write) : Keeps s0 (State.agentMiss s a l write) := by
  unfold State.agentMiss
  try dsimp only
  repeat' (first
    | with_reducible assumption | with_reducible apply State.agentRoom_keeps | with_reducible apply State.send_keeps
    | with_reducible apply State.modAgent_keeps | with_reducible refine some_keeps (by assumption) ?_ | split)

theorem State.protocol_keeps {s0 s : State} (hs : Keeps s0 s) (kind) (index) (l) : Keeps s0 (State.protocol s kind index l) :=
    by
  unfold State.protocol
  try dsimp only
  repeat' (first | with_reducible assumption | with_reducible apply State.fatal_keeps)

theorem State.stashOffer_keeps {s0 s : State} (hs : Keeps s0 s) (m) : Keeps s0 (State.stashOffer s m) := by
  unfold State.stashOffer
  try dsimp only
  repeat' (first
    | with_reducible assumption | with_reducible apply State.protocol_keeps | with_reducible apply State.freeChoice_keeps
    | with_reducible apply State.send_keeps | with_reducible apply State.agentRoom_keeps
    | with_reducible apply State.modAgent_keeps | with_reducible refine some_keeps (by assumption) ?_
    | with_reducible apply ite_keeps | split)

theorem State.agentApply_keeps {s0 s : State} (hs : Keeps s0 s) (m) (ev) : Keeps s0 (State.agentApply s m ev) := by
  unfold State.agentApply
  try dsimp only
  repeat' (first
    | with_reducible assumption | with_reducible apply State.protocol_keeps | with_reducible apply State.modAgent_keeps
    | with_reducible apply State.dropResv_keeps | with_reducible apply State.send_keeps | with_reducible apply ite_keeps
    | split)

theorem State.agentReceive_keeps {s0 s : State} (hs : Keeps s0 s) (m) : Keeps s0 (State.agentReceive s m) := by
  unfold State.agentReceive
  try dsimp only
  repeat' (first
    | with_reducible assumption | with_reducible apply State.stashOffer_keeps | with_reducible apply State.protocol_keeps
    | with_reducible apply State.modAgent_keeps | with_reducible apply State.agentApply_keeps
    | with_reducible apply ite_keeps | split)

theorem State.answerHeld_keeps {s0 s : State} (hs : Keeps s0 s) (a) (l) : Keeps s0 (State.answerHeld s a l) := by
  unfold State.answerHeld
  try dsimp only
  repeat' (first
    | with_reducible assumption | with_reducible apply State.agentApply_keeps | with_reducible apply State.modAgent_keeps
    | split)

theorem State.agentDone_keeps {s0 s : State} (hs : Keeps s0 s) (a) (l) : Keeps s0 (State.agentDone s a l) := by
  unfold State.agentDone
  try dsimp only
  repeat' (first | with_reducible assumption | with_reducible apply State.modAgent_keeps | split)

theorem State.wakeOne_keeps {s0 s : State} (hs : Keeps s0 s) (w) : Keeps s0 (State.wakeOne s w) := by
  unfold State.wakeOne
  try dsimp only
  repeat' (first
    | with_reducible assumption | with_reducible apply State.modQueue_keeps | with_reducible apply State.modCmd_keeps
    | with_reducible apply State.modKwait_keeps | with_reducible apply State.modDmaCh_keeps
    | (simp (disch := rfl) only [↓mk_keeps]) | split)

theorem State.wake_keeps {s0 s : State} (hs : Keeps s0 s) (l) : Keeps s0 (State.wake s l) := by
  unfold State.wake
  try dsimp only
  repeat' (first
    | with_reducible assumption | with_reducible apply State.wakeOne_keeps
    | (with_reducible apply foldl_keeps <;> (try intro _ _ _)))

theorem State.addWatch_keeps {s0 s : State} (hs : Keeps s0 s) (l) (kind) (index) : Keeps s0 (State.addWatch s l kind index).2
    := by
  unfold State.addWatch
  try dsimp only
  repeat' (first | with_reducible assumption | with_reducible apply State.modSlice_keeps | split)

theorem State.dropWatch_keeps {s0 s : State} (hs : Keeps s0 s) (kind) (index) : Keeps s0 (State.dropWatch s kind index) := by
  unfold State.dropWatch
  try dsimp only
  repeat' (first
    | with_reducible assumption | with_reducible apply State.modSlice_keeps
    | (with_reducible apply foldl_keeps <;> (try intro _ _ _)))

theorem State.setBusy_keeps {s0 s : State} (hs : Keeps s0 s) (b) : Keeps s0 (State.setBusy s b) := by
  unfold State.setBusy
  try dsimp only
  repeat' (first | with_reducible assumption | with_reducible apply State.modSlice_keeps)

theorem State.clearBusy_keeps {s0 s : State} (hs : Keeps s0 s) (l) : Keeps s0 (State.clearBusy s l) := by
  unfold State.clearBusy
  try dsimp only
  repeat' (first | with_reducible assumption | with_reducible apply State.modSlice_keeps)

theorem State.snoops_keeps {s0 s : State} (hs : Keeps s0 s) (l) (txn) (ty) (dsts) : Keeps s0 (State.snoops s l txn ty dsts) :=
    by
  unfold State.snoops
  try dsimp only
  repeat' (first
    | with_reducible assumption | with_reducible apply State.send_keeps | with_reducible apply State.modSlice_keeps
    | (with_reducible apply foldl_keeps <;> (try intro _ _ _)))

theorem State.setDir_keeps {s0 s : State} (hs : Keeps s0 s) (l) (e) : Keeps s0 (State.setDir s l e) := by
  unfold State.setDir
  try dsimp only
  repeat' (first
    | with_reducible assumption | with_reducible apply State.modSlice_keeps | with_reducible apply State.spillEntry_keeps
    | with_reducible apply State.force_keeps | with_reducible apply ite_keeps | split)

theorem State.changeDir_keeps {s0 s : State} (hs : Keeps s0 s) (l) (e) : Keeps s0 (State.changeDir s l e) := by
  unfold State.changeDir
  try dsimp only
  repeat' (first | with_reducible assumption | with_reducible apply State.modSlice_keeps)

theorem State.readSpill_keeps {s0 s : State} (hs : Keeps s0 s) (n) (k) (a) (err) : KeepsSpill s0 (State.readSpill s n k a err) := by
  unfold State.readSpill
  split
  · exact hs
  · split
    · exact held_spill_keeps
    · extract_lets t r
      have ht : Keeps s0 t := State.modSlice_keeps hs _ _
      split
      · exact State.fatal_keeps (State.modStack_keeps ht _ _) _ _ _ _ _
      · have hr : Keeps s0 (t.readEvents a r).2 := State.readEvents_keeps ht _ _
        revert hr
        generalize t.readEvents a r = p
        exact id

theorem State.writeSpill_keeps {s0 s : State} (hs : Keeps s0 s) (n) (k) (a) (ws) (order) : Keeps s0 (State.writeSpill s n k a
    ws order) := by
  unfold State.writeSpill
  try dsimp only
  repeat' (first
    | with_reducible assumption | with_reducible apply State.modSlice_keeps | with_reducible apply State.hbmStore_keeps)

theorem State.emptySpill_keeps {s0 s : State} (hs : Keeps s0 s) (n) (k) (a) (ws) (j) : Keeps s0 (State.emptySpill s n k a ws
    j) := by
  unfold State.emptySpill
  try dsimp only
  repeat' (first | with_reducible assumption | with_reducible apply State.writeSpill_keeps)

theorem State.freeEntry_keeps {s0 s : State} (hs : Keeps s0 s) (l) : Keeps s0 (State.freeEntry s l) := by
  unfold State.freeEntry
  try dsimp only
  repeat' (first
    | with_reducible assumption | with_reducible apply State.setDir_keeps | with_reducible apply State.emptySpill_keeps
    | with_reducible apply ite_keeps | split)

theorem State.force_keeps {s0 s : State} (hs : Keeps s0 s) (e) : Keeps s0 (State.force s e) := by
  unfold State.force
  try dsimp only
  repeat' (first
    | with_reducible assumption | with_reducible apply State.modSlice_keeps | with_reducible apply State.freeEntry_keeps
    | with_reducible apply State.setBusy_keeps | with_reducible apply State.snoops_keeps | with_reducible apply ite_keeps)

theorem State.spillOut_keeps {s0 s : State} (hs : Keeps s0 s) (n) (v) (k) (a) : KeepsOpt s0 (State.spillOut s n v k a) := by
  unfold State.spillOut
  try dsimp only
  repeat' (first
    | with_reducible assumption | with_reducible apply State.readSpill_keeps | with_reducible apply State.modSlice_keeps
    | with_reducible apply State.setDir_keeps | with_reducible apply State.writeSpill_keeps
    | with_reducible apply State.force_keeps | with_reducible refine words_keeps (by assumption) ?_
    | with_reducible refine lost_keeps (by assumption) ?_ | with_reducible apply is_some_keeps
    | with_reducible exact none_keeps | split)

theorem State.reply_keeps {s0 s : State} (hs : Keeps s0 s) (m) (r) : Keeps s0 (State.reply s m r) := by
  unfold State.reply
  try dsimp only
  repeat' (first | with_reducible assumption | with_reducible apply State.send_keeps | with_reducible apply ite_keeps)

theorem State.finishLine_keeps {s0 s : State} (hs : Keeps s0 s) (b) (d) : Keeps s0 (State.finishLine s b d) := by
  unfold State.finishLine
  try dsimp only
  repeat' (first
    | with_reducible assumption | with_reducible apply State.reply_keeps | with_reducible apply State.modSlice_keeps
    | with_reducible apply State.homeWrite_keeps | with_reducible apply State.clearBusy_keeps
    | with_reducible apply State.freeEntry_keeps | with_reducible apply State.setDir_keeps
    | with_reducible apply State.homeWriteInPlace_keeps | with_reducible apply State.setBusy_keeps
    | with_reducible apply State.send_keeps | with_reducible apply ite_keeps | split)

theorem State.progress_keeps {s0 s : State} (hs : Keeps s0 s) (b) : Keeps s0 (State.progress s b) := by
  unfold State.progress
  try dsimp only
  repeat' (first
    | with_reducible assumption | with_reducible apply State.setBusy_keeps | with_reducible apply State.finishLine_keeps
    | with_reducible apply State.homeRead_keeps | with_reducible refine data_keeps (by assumption) ?_
    | with_reducible refine fill_keeps (by assumption) ?_ | with_reducible apply ite_keeps | split)

theorem State.act_keeps {s0 s : State} (hs : Keeps s0 s) (m) (e) : Keeps s0 (State.act s m e) := by
  unfold State.act
  try dsimp only
  repeat' (first
    | with_reducible assumption | with_reducible apply State.wake_keeps | with_reducible apply State.snoops_keeps
    | with_reducible apply State.progress_keeps | (simp (disch := rfl) only [↓mk_keeps]) | with_reducible apply ite_keeps
    | split)

theorem State.scrub_keeps {s0 s : State} (hs : Keeps s0 s) (e) : Keeps s0 (State.scrub s e).2 := by
  unfold State.scrub
  try dsimp only
  repeat' (first
    | with_reducible assumption | with_reducible apply State.homeWrite_keeps | with_reducible apply State.snoops_keeps
    | with_reducible apply State.setBusy_keeps | (simp (disch := rfl) only [↓mk_keeps]) | with_reducible apply ite_keeps
    | split)

theorem State.makeRoom_keeps {s0 s : State} (hs : Keeps s0 s) (l) : KeepsOpt s0 (State.makeRoom s l) := by
  unfold State.makeRoom
  try dsimp only
  repeat' (first
    | with_reducible assumption | with_reducible apply State.scrub_keeps | with_reducible apply State.changeDir_keeps
    | with_reducible apply State.spillOut_keeps | with_reducible apply State.force_keeps | with_reducible apply is_some_keeps
    | with_reducible exact none_keeps | split)

theorem State.serve_keeps {s0 s : State} (hs : Keeps s0 s) (m) : Keeps s0 (State.serve s m) := by
  unfold State.serve
  try dsimp only
  repeat' (first
    | with_reducible assumption | with_reducible apply State.scrub_keeps | with_reducible apply State.setDir_keeps
    | with_reducible apply State.modSlice_keeps | with_reducible apply State.act_keeps
    | with_reducible apply State.setBusy_keeps | with_reducible apply ite_keeps | split)

theorem State.pumpWaiting_keeps {s0 s : State} (hs : Keeps s0 s) (n) (ahead) (rest) : KeepsOpt s0 (State.pumpWaiting s n ahead
    rest) := by
  induction rest generalizing ahead with
  | nil =>
    unfold State.pumpWaiting
    try dsimp only
    repeat' (first
      | with_reducible assumption
      | with_reducible exact none_keeps)
  | cons b t ih =>
    unfold State.pumpWaiting
    try dsimp only
    repeat' (first
      | with_reducible apply ih
      | with_reducible assumption
      | (with_reducible apply State.serve_keeps)
      | (with_reducible apply State.modSlice_keeps)
      | (with_reducible apply State.makeRoom_keeps)
      | with_reducible refine some_keeps (by assumption) ?_
      | (with_reducible apply is_some_keeps)
      | with_reducible exact none_keeps
      | split)

theorem State.pumpStep_keeps {s0 s : State} (hs : Keeps s0 s) (n) : KeepsOpt s0 (State.pumpStep s n) := by
  unfold State.pumpStep
  try dsimp only
  repeat' (first
    | with_reducible assumption | with_reducible apply State.progress_keeps | with_reducible apply State.pumpWaiting_keeps
    | with_reducible apply is_some_keeps | split)

theorem State.drainHome_keeps {s0 x1 : State} (hs : Keeps s0 x1) (x0) (x2) : Keeps s0 (State.drainHome x0 x1 x2) := by
  induction x0 generalizing x1 with
  | zero =>
    unfold State.drainHome
    try dsimp only
    repeat' (first
      | with_reducible assumption)
  | succ n ih =>
    unfold State.drainHome
    try dsimp only
    repeat' (first
      | with_reducible apply ih
      | with_reducible assumption
      | (with_reducible apply State.pumpStep_keeps)
      | with_reducible refine some_keeps (by assumption) ?_
      | split)

theorem State.pumpHome_keeps {s0 s : State} (hs : Keeps s0 s) (n) : Keeps s0 (State.pumpHome s n) := by
  unfold State.pumpHome
  try dsimp only
  repeat' (first | with_reducible assumption | with_reducible apply State.drainHome_keeps)

theorem State.homeRequest_keeps {s0 s : State} (hs : Keeps s0 s) (m) : Keeps s0 (State.homeRequest s m) := by
  unfold State.homeRequest
  try dsimp only
  repeat' (first
    | with_reducible assumption | with_reducible apply State.pumpHome_keeps | with_reducible apply State.serve_keeps
    | with_reducible apply State.modSlice_keeps | with_reducible apply ite_keeps)

theorem State.homeResponse_keeps {s0 s : State} (hs : Keeps s0 s) (m) : Keeps s0 (State.homeResponse s m) := by
  unfold State.homeResponse
  try dsimp only
  repeat' (first
    | with_reducible assumption | with_reducible apply State.protocol_keeps | with_reducible apply State.clearBusy_keeps
    | with_reducible apply State.setDir_keeps | with_reducible apply State.pumpHome_keeps
    | with_reducible apply State.modSlice_keeps | with_reducible apply State.progress_keeps
    | with_reducible apply State.homeWrite_keeps | with_reducible apply ite_keeps | split)

theorem State.hbmRead_keeps {s0 s : State} (hs : Keeps s0 s) (l) (e) : Keeps s0 (State.hbmRead s l e) := by
  unfold State.hbmRead
  try dsimp only
  repeat' (first
    | with_reducible assumption | with_reducible apply State.readEvents_keeps | with_reducible apply State.modSlice_keeps
    | with_reducible apply ite_keeps | split)

theorem State.fillComplete_keeps {s0 s : State} (hs : Keeps s0 s) (l) : Keeps s0 (State.fillComplete s l) := by
  unfold State.fillComplete
  try dsimp only
  repeat' (first
    | with_reducible assumption | with_reducible apply State.modSlice_keeps | with_reducible apply State.sliceAlloc_keeps
    | with_reducible apply State.pumpHome_keeps | with_reducible apply State.finishLine_keeps
    | with_reducible apply ite_keeps | split)

theorem State.spillRead_keeps {s0 s : State} (hs : Keeps s0 s) (l) (e) : Keeps s0 (State.spillRead s l e) := by
  unfold State.spillRead
  try dsimp only
  repeat' (first
    | with_reducible assumption | with_reducible apply State.readSpill_keeps | with_reducible apply State.clearBusy_keeps
    | with_reducible apply State.pumpHome_keeps | with_reducible apply State.act_keeps
    | with_reducible apply State.serve_keeps | with_reducible apply State.setDir_keeps
    | with_reducible apply State.emptySpill_keeps | with_reducible refine words_keeps (by assumption) ?_
    | with_reducible refine lost_keeps (by assumption) ?_ | with_reducible apply ite_keeps | split)

theorem State.arrive_keeps {s0 s : State} (hs : Keeps s0 s) (m) : Keeps s0 (State.arrive s m) := by
  unfold State.arrive
  try dsimp only
  repeat' (first
    | with_reducible assumption | with_reducible apply State.homeRequest_keeps
    | with_reducible apply State.homeResponse_keeps | with_reducible apply State.agentReceive_keeps
    | (simp (disch := rfl) only [↓mk_keeps]) | with_reducible apply ite_keeps)

theorem State.settleStep_keeps {s0 s : State} (hs : Keeps s0 s) (l) : KeepsOpt s0 (State.settleStep s l) := by
  unfold State.settleStep
  try dsimp only
  repeat' (first
    | with_reducible assumption | with_reducible apply State.arrive_keeps | with_reducible apply State.spillRead_keeps
    | with_reducible apply State.fillComplete_keeps | with_reducible apply State.hbmRead_keeps
    | with_reducible apply State.answerHeld_keeps | with_reducible apply is_some_keeps | with_reducible exact none_keeps
    | split)

theorem State.settleGo_keeps {s0 x1 : State} (hs : Keeps s0 x1) (x0) (x2) : Keeps s0 (State.settleGo x0 x1 x2) := by
  induction x0 generalizing x1 with
  | zero =>
    unfold State.settleGo
    try dsimp only
    repeat' (first
      | with_reducible assumption)
  | succ n ih =>
    unfold State.settleGo
    try dsimp only
    repeat' (first
      | with_reducible apply ih
      | with_reducible assumption
      | (with_reducible apply State.settleStep_keeps)
      | with_reducible refine some_keeps (by assumption) ?_
      | split)

theorem State.settle_keeps {s0 s : State} (hs : Keeps s0 s) (l) : Keeps s0 (State.settle s l) := by
  unfold State.settle
  try dsimp only
  repeat' (first | with_reducible assumption | with_reducible apply State.settleGo_keeps)

theorem State.transact_keeps {s0 s : State} (hs : Keeps s0 s) (m) : Keeps s0 (State.transact s m).2 := by
  unfold State.transact
  try dsimp only
  repeat' (first
    | with_reducible assumption | with_reducible apply State.arrive_keeps | with_reducible apply State.settle_keeps
    | with_reducible apply State.homeRequest_keeps | (simp (disch := rfl) only [↓mk_keeps])
    | (with_reducible apply foldl_keeps <;> (try intro _ _ _)) | split)

theorem State.cohRead_keeps {s0 s : State} (hs : Keeps s0 s) (agent) (l) (nc) : Keeps s0 (State.cohRead s agent l nc).2 := by
  unfold State.cohRead
  try dsimp only
  repeat' (first
    | with_reducible assumption | with_reducible apply State.transact_keeps | (simp (disch := rfl) only [↓mk_keeps])
    | with_reducible refine snd_keeps (by assumption) ?_ | split)

theorem State.cohWrite_keeps {s0 s : State} (hs : Keeps s0 s) (agent) (l) (d) (mask) (nc) (poison) : Keeps s0 (State.cohWrite
    s agent l d mask nc poison) := by
  unfold State.cohWrite
  try dsimp only
  repeat' (first | with_reducible assumption | with_reducible apply State.transact_keeps)

theorem State.cohPut_keeps {s0 s : State} (hs : Keeps s0 s) (agent) (l) (d) (mask) (nc) (poison) : KeepsOpt s0 (State.cohPut s
    agent l d mask nc poison) := by
  unfold State.cohPut
  try dsimp only
  repeat' (first
    | with_reducible assumption | with_reducible apply State.cohWrite_keeps | with_reducible apply is_some_keeps
    | with_reducible exact none_keeps | split)

theorem State.cohAtomic_keeps {s0 s : State} (hs : Keeps s0 s) (agent) (l) (off) (n) (op) (src) (cmp) (nc) : Keeps s0
    (State.cohAtomic s agent l off n op src cmp nc).2 := by
  unfold State.cohAtomic
  try dsimp only
  repeat' (first
    | with_reducible assumption | with_reducible apply State.transact_keeps | (simp (disch := rfl) only [↓mk_keeps])
    | with_reducible refine snd_keeps (by assumption) ?_ | split)

theorem State.obtain_keeps {s0 s : State} (hs : Keeps s0 s) (a) (l) (write) : Keeps s0 (State.obtain s a l write) := by
  unfold State.obtain
  try dsimp only
  repeat' (first
    | with_reducible assumption | with_reducible apply State.settle_keeps | with_reducible apply State.agentMiss_keeps
    | with_reducible apply ite_keeps)

theorem State.agentWrite_keeps {s0 s : State} (hs : Keeps s0 s) (a) (l) (d) (poison) : Keeps s0 (State.agentWrite s a l d
    poison) := by
  unfold State.agentWrite
  try dsimp only
  repeat' (first
    | with_reducible assumption | with_reducible apply State.modAgent_keeps | with_reducible apply ite_keeps | split)

theorem State.attempt_keeps {s0 s t : State} (hs : Keeps s0 s) (hs1 : Keeps s0 t) : Keeps s0 (State.attempt s t) := by
  unfold State.attempt
  try dsimp only
  repeat' (first | with_reducible assumption | with_reducible apply ite_keeps)

theorem State.bytesRead_keeps {s0 s : State} (hs : Keeps s0 s) (agent) (a) (n) (nc) : Keeps s0 (State.bytesRead s agent a n
    nc).2 := by
  unfold State.bytesRead
  try dsimp only
  repeat' (first
    | with_reducible assumption | with_reducible apply State.cohRead_keeps | (simp (disch := rfl) only [↓mk_keeps])
    | with_reducible refine snd_keeps (by assumption) ?_ | (with_reducible apply foldl_snd_keeps <;> (try intro _ _ _))
    | split)

theorem State.bytesWrite_keeps {s0 s : State} (hs : Keeps s0 s) (agent) (a) (bs) (nc) :
    Keeps s0 (State.bytesWrite s agent a bs nc).2 := by
  unfold State.bytesWrite
  extract_lets segs
  split
  · exact hs
  · split
    · refine some_keeps (by assumption) (foldl_bind_keeps _ _ (is_some_keeps hs) (fun g s h => ?_))
      split
      · exact is_some_keeps h
      · exact State.cohPut_keeps h _ _ _ _ _ _
    · exact hs.core rfl

theorem State.bytesSend_keeps {s0 s : State} (hs : Keeps s0 s) (agent) (a) (bs) : Keeps s0 (State.bytesSend s agent a bs) :=
    by
  unfold State.bytesSend
  try dsimp only
  repeat' (first
    | with_reducible assumption | with_reducible apply State.cohWrite_keeps
    | (with_reducible apply foldl_keeps <;> (try intro _ _ _)) | split)

theorem State.atomWord_keeps {s0 s : State} (hs : Keeps s0 s) (agent) (a) (op) (v) (cmp) (nc) (n) : Keeps s0 (State.atomWord s
    agent a op v cmp nc n).2 := by
  unfold State.atomWord
  try dsimp only
  repeat' (first
    | with_reducible assumption | with_reducible apply State.cohAtomic_keeps | (simp (disch := rfl) only [↓mk_keeps])
    | with_reducible refine snd_keeps (by assumption) ?_ | split)

theorem State.packageWrite_keeps {s0 s : State} (hs : Keeps s0 s) (agent) (a) (bs) : Keeps s0 (State.packageWrite s agent a
    bs) := by
  unfold State.packageWrite
  try dsimp only
  repeat' (first | with_reducible assumption | with_reducible apply State.bytesSend_keeps | with_reducible apply ite_keeps)

theorem walkGo_keeps {s0 x8 : State} (hs : Keeps s0 x8) (rd : State → Nat → ReadBack Nat × State) (hrd : ∀ s a, Keeps s0 s →
    Keeps s0 (rd s a).2) (coil) (asid) (va) (n) (table) (glob) (x7) : Keeps s0 (walkGo rd coil asid va n table glob x7 x8).2.2 := by
  induction n generalizing table glob x7 x8 with
  | zero =>
    unfold walkGo
    try dsimp only
    repeat' (first
      | with_reducible assumption)
  | succ n ih =>
    unfold walkGo
    try dsimp only
    repeat' (first
      | with_reducible apply ih
      | with_reducible assumption
      | with_reducible apply hrd
      | (simp (disch := rfl) only [↓mk_keeps])
      | with_reducible refine snd_keeps (by assumption) ?_
      | split)

theorem walk_keeps {s0 s : State} (hs : Keeps s0 s) (rd : State → Nat → ReadBack Nat × State) (hrd : ∀ s a, Keeps s0 s → Keeps
    s0 (rd s a).2) (coil) (asroot) (va) (cached) : Keeps s0 (walk rd coil asroot va cached s).2.2 := by
  unfold walk
  try dsimp only
  repeat' (first | with_reducible assumption | with_reducible apply walkGo_keeps | split)

theorem pteReader_keeps {s0 s : State} (hs : Keeps s0 s) (agent) (a) : Keeps s0 (pteReader agent s a).2 := by
  unfold pteReader
  try dsimp only
  repeat' (first
    | with_reducible assumption | with_reducible apply State.bytesRead_keeps | (simp (disch := rfl) only [↓mk_keeps])
    | with_reducible refine snd_keeps (by assumption) ?_ | split)

theorem State.xlate_keeps {s0 s : State} (hs : Keeps s0 s) (agent) (coil) (asroot) (va) (k) : Keeps s0 (State.xlate s agent
    coil asroot va k).2 := by
  unfold State.xlate
  try dsimp only
  repeat' (first
    | with_reducible assumption | with_reducible apply walk_keeps | with_reducible apply pteReader_keeps
    | (simp (disch := rfl) only [↓mk_keeps]) | with_reducible refine snd2_keeps (by assumption) ?_ | with_reducible intro _ _
    | with_reducible intro _ | split)

theorem State.poisonUse_keeps {s0 s : State} (hs : Keeps s0 s) (kind) (index) (a) : Keeps s0 (State.poisonUse s kind index a)
    := by
  unfold State.poisonUse
  try dsimp only
  repeat' (first | with_reducible assumption | with_reducible apply State.logErr_keeps)

theorem State.portFor_keeps {s0 s : State} (hs : Keeps s0 s) (k) : Keeps s0 (State.portFor s k).2 := by
  unfold State.portFor
  try dsimp only
  repeat' (first | with_reducible assumption | (simp (disch := rfl) only [↓mk_keeps]) | split)

theorem State.sendPacket_keeps {s0 s : State} (hs : Keeps s0 s) (k) : Keeps s0 (State.sendPacket s k) := by
  unfold State.sendPacket
  try dsimp only
  repeat' (first
    | with_reducible assumption | with_reducible apply State.portFor_keeps | with_reducible apply State.portSend_keeps
    | with_reducible apply State.modPeer_keeps | with_reducible refine snd_keeps (by assumption) ?_
    | with_reducible apply ite_keeps | split)

theorem State.remoteRequest_keeps {s0 s : State} (hs : Keeps s0 s) (who) (peer) (k) (site) : Keeps s0 (State.remoteRequest s
    who peer k site) := by
  unfold State.remoteRequest
  try dsimp only
  repeat' (first
    | with_reducible assumption | with_reducible apply State.sendPacket_keeps | (simp (disch := rfl) only [↓mk_keeps])
    | with_reducible apply ite_keeps)

theorem State.hwsEvent_keeps {s0 s : State} (hs : Keeps s0 s) (ty) (new) (old) (cause) (num) (inc) : Keeps s0 (State.hwsEvent
    s ty new old cause num inc) := by
  unfold State.hwsEvent
  try dsimp only
  repeat' (first
    | with_reducible assumption | with_reducible apply State.packageWrite_keeps | with_reducible apply State.raiseIrq_keeps
    | (simp (disch := rfl) only [↓mk_keeps]) | with_reducible apply ite_keeps)

end Sys2Proof.Machine
end

