-- ==== Sys2Proof/Laws/KeepsUnit.lean ====
section
/-! SUPPORT. Tensor units: issue, control, memory instructions, copies and waiting. Each keeps what `Keeps` says. -/

namespace Sys2Proof.Machine

open Sys2Proof

theorem State.markStale_keeps {s0 s : State} (hs : Keeps s0 s) (u) (p) : Keeps s0 (State.markStale s u p) := by
  unfold State.markStale
  try dsimp only
  repeat' (first | with_reducible assumption | (simp (disch := rfl) only [↓mk_keeps]))

theorem State.l1Acquire_keeps {s0 s : State} (hs : Keeps s0 s) (u) : Keeps s0 (State.l1Acquire s u) := by
  unfold State.l1Acquire
  try dsimp only
  repeat' (first
    | with_reducible assumption | with_reducible apply State.markStale_keeps | with_reducible apply State.modUnit_keeps)

theorem State.tlbLookup_keeps {s0 s : State} (hs : Keeps s0 s) (u) (asid) (va) : Keeps s0 (State.tlbLookup s u asid va).2 :=
    by
  unfold State.tlbLookup
  try dsimp only
  repeat' (first
    | with_reducible assumption | with_reducible apply State.modUnit_keeps | with_reducible apply State.modCluster_keeps
    | split)

theorem State.askWalk_keeps {s0 s : State} (hs : Keeps s0 s) (u) (slot) (va) (k) (pc) : Keeps s0 (State.askWalk s u slot va k
    pc) := by
  unfold State.askWalk
  try dsimp only
  repeat' (first | with_reducible assumption | with_reducible apply State.modCluster_keeps)

theorem State.drainEntry_keeps {s0 s : State} (hs : Keeps s0 s) (u) (e) : Keeps s0 (State.drainEntry s u e) := by
  unfold State.drainEntry
  try dsimp only
  repeat' (first
    | with_reducible assumption | with_reducible apply State.modUnit_keeps | with_reducible apply State.markStale_keeps
    | with_reducible apply State.remoteRequest_keeps | with_reducible apply State.obtain_keeps
    | with_reducible apply State.agentWrite_keeps | with_reducible apply ite_keeps | split)

theorem State.drainLine_keeps {s0 s : State} (hs : Keeps s0 s) (u) (tag) : KeepsOpt s0 (State.drainLine s u tag) := by
  unfold State.drainLine
  try dsimp only
  repeat' (first
    | with_reducible assumption | with_reducible apply State.drainEntry_keeps | with_reducible apply is_some_keeps
    | with_reducible exact none_keeps | split)

theorem State.drainWc_keeps {s0 s : State} (hs : Keeps s0 s) (u) : Keeps s0 (State.drainWc s u) := by
  unfold State.drainWc
  try dsimp only
  repeat' (first
    | with_reducible assumption | with_reducible apply State.drainEntry_keeps
    | (with_reducible apply foldl_keeps <;> (try intro _ _ _)))

theorem State.modHank_keeps {s0 s : State} (hs : Keeps s0 s) (u) (launch) (index) (f) : Keeps s0 (State.modHank s u launch
    index f) := by
  unfold State.modHank
  try dsimp only
  repeat' (first | with_reducible assumption | with_reducible apply State.modUnit_keeps)

theorem State.setStrand_keeps {s0 s : State} (hs : Keeps s0 s) (c) (t) : Keeps s0 (State.setStrand s c t) := by
  unfold State.setStrand
  try dsimp only
  repeat' (first | with_reducible assumption | with_reducible apply State.modHank_keeps)

theorem State.onHank_keeps {s0 s : State} (hs : Keeps s0 s) (c) (f) : Keeps s0 (State.onHank s c f) := by
  unfold State.onHank
  try dsimp only
  repeat' (first | with_reducible assumption | with_reducible apply State.modHank_keeps)

theorem State.fetchLine_keeps {s0 s : State} (hs : Keeps s0 s) (c) (pa) (pbmt) : Keeps s0 (State.fetchLine s c pa pbmt).2 :=
    by
  unfold State.fetchLine
  try dsimp only
  repeat' (first
    | with_reducible assumption | with_reducible apply State.modUnit_keeps | with_reducible apply State.remoteRequest_keeps
    | with_reducible apply State.markStale_keeps | with_reducible apply State.cohRead_keeps
    | with_reducible apply State.agentMiss_keeps | (simp (disch := rfl) only [↓mk_keeps])
    | with_reducible refine snd_keeps (by assumption) ?_ | with_reducible apply ite_keeps | split)

theorem State.lookAhead_keeps {s0 s : State} (hs : Keeps s0 s) (c) (pc) : Keeps s0 (State.lookAhead s c pc) := by
  unfold State.lookAhead
  try dsimp only
  repeat' (first
    | with_reducible assumption | with_reducible apply State.tlbLookup_keeps | with_reducible apply State.askWalk_keeps
    | with_reducible apply State.fetchLine_keeps | with_reducible refine snd_keeps (by assumption) ?_
    | with_reducible apply ite_keeps | split)

theorem State.copyIssue_keeps {s0 s : State} (hs : Keeps s0 s) (c) (k) : Keeps s0 (State.copyIssue s c k) := by
  unfold State.copyIssue
  try dsimp only
  repeat' (first
    | with_reducible assumption | with_reducible apply State.modUnit_keeps | with_reducible apply State.onHank_keeps)

theorem State.startCopyWaiter_keeps {s0 s : State} (hs : Keeps s0 s) (u) : Keeps s0 (State.startCopyWaiter s u) := by
  unfold State.startCopyWaiter
  try dsimp only
  repeat' (first
    | with_reducible assumption | with_reducible apply State.lookAhead_keeps | with_reducible apply State.setStrand_keeps
    | with_reducible apply State.copyIssue_keeps | with_reducible apply ite_keeps | split)

theorem State.startCopyWaiters_keeps {s0 s : State} (hs : Keeps s0 s) (u) : Keeps s0 (State.startCopyWaiters s u) := by
  unfold State.startCopyWaiters
  try dsimp only
  repeat' (first
    | with_reducible assumption | with_reducible apply State.startCopyWaiter_keeps
    | (with_reducible apply foldl_keeps <;> (try intro _ _ _)))

theorem State.modLaunch_keeps {s0 s : State} (hs : Keeps s0 s) (id) (f) : Keeps s0 (State.modLaunch s id f) := by
  unfold State.modLaunch
  try dsimp only
  repeat' (first | with_reducible assumption | with_reducible apply State.modCmd_keeps)

theorem State.freeHank_keeps {s0 s : State} (hs : Keeps s0 s) (u) (h) : Keeps s0 (State.freeHank s u h) := by
  unfold State.freeHank
  try dsimp only
  repeat' (first
    | with_reducible assumption | with_reducible apply State.modUnit_keeps | with_reducible apply State.modCluster_keeps
    | (simp (disch := rfl) only [↓mk_keeps]))

theorem State.stopHanks_keeps {s0 s : State} (hs : Keeps s0 s) (id) : Keeps s0 (State.stopHanks s id) := by
  unfold State.stopHanks
  try dsimp only
  repeat' (first
    | with_reducible assumption | with_reducible apply State.startCopyWaiters_keeps
    | with_reducible apply State.drainWc_keeps | with_reducible apply State.freeHank_keeps
    | with_reducible apply State.modLaunch_keeps | (with_reducible apply foldl_keeps <;> (try intro _ _ _))
    | with_reducible apply ite_keeps)

theorem State.endCmd_keeps {s0 s : State} (hs : Keeps s0 s) (id) (e) : Keeps s0 (State.endCmd s id e) := by
  unfold State.endCmd
  try dsimp only
  repeat' (first | with_reducible assumption | with_reducible apply State.modCmd_keeps)

theorem State.endLaunch_keeps {s0 s : State} (hs : Keeps s0 s) (id) (e) : Keeps s0 (State.endLaunch s id e) := by
  unfold State.endLaunch
  try dsimp only
  repeat' (first
    | with_reducible assumption | with_reducible apply State.endCmd_keeps | with_reducible apply State.stopHanks_keeps
    | with_reducible apply ite_keeps | split)

theorem State.raise_keeps {s0 s : State} (hs : Keeps s0 s) (c) (status) (code) (kind) (addr) : Keeps s0 (State.raise s c
    status code kind addr) := by
  unfold State.raise
  try dsimp only
  repeat' (first | with_reducible assumption | with_reducible apply State.endLaunch_keeps)

theorem State.fetchAhead_keeps {s0 s : State} (hs : Keeps s0 s) (c) (pc) : Keeps s0 (State.fetchAhead s c pc) := by
  unfold State.fetchAhead
  try dsimp only
  repeat' (first
    | with_reducible assumption | with_reducible apply State.tlbLookup_keeps | with_reducible apply State.askWalk_keeps
    | with_reducible apply State.raise_keeps | with_reducible apply State.fetchLine_keeps
    | with_reducible apply State.poisonUse_keeps | with_reducible refine snd_keeps (by assumption) ?_ | split)

theorem State.retire_keeps {s0 s : State} (hs : Keeps s0 s) (c) (t) : Keeps s0 (State.retire s c t) := by
  unfold State.retire
  try dsimp only
  repeat' (first
    | with_reducible assumption | with_reducible apply State.fetchAhead_keeps | with_reducible apply State.setStrand_keeps)

theorem State.took_keeps {s0 s : State} (hs : Keeps s0 s) (u) (slot) : Keeps s0 (State.took s u slot) := by
  unfold State.took
  try dsimp only
  repeat' (first | with_reducible assumption | with_reducible apply State.modUnit_keeps)

theorem State.issue_keeps {s0 s : State} (hs : Keeps s0 s) (body : Ctx → Except Stop State) (hbody : ∀ c, KeepsBody s0 (body
    c)) (u) (slot) : Keeps s0 (State.issue s u slot body) := by
  unfold State.issue
  try dsimp only
  repeat' (first
    | with_reducible assumption | with_reducible apply State.took_keeps | with_reducible apply State.raise_keeps
    | with_reducible apply hbody | with_reducible refine of_ok_keeps (by assumption) ?_ | split)

theorem State.countVts_keeps {s0 s : State} (hs : Keeps s0 s) (u) (e) : Keeps s0 (State.countVts s u e) := by
  unfold State.countVts
  try dsimp only
  repeat' (first | with_reducible assumption | with_reducible apply State.modUnit_keeps)

theorem State.settleBelays_keeps {s0 s : State} (hs : Keeps s0 s) (c) : Keeps s0 (State.settleBelays s c) := by
  unfold State.settleBelays
  try dsimp only
  repeat' (first
    | with_reducible assumption | with_reducible apply State.onHank_keeps | with_reducible apply State.fetchAhead_keeps
    | (with_reducible apply foldl_keeps <;> (try intro _ _ _)) | with_reducible apply ite_keeps | split)

theorem ctl_keeps {s0 s : State} (hs : Keeps s0 s) (u) (slot) (f) (usesReg) (usesTarget) (regMax) (body) : Keeps s0 (ctl u
    slot f usesReg usesTarget regMax body s) := by
  unfold ctl
  try dsimp only
  repeat' (first
    | with_reducible assumption | with_reducible apply State.issue_keeps | with_reducible apply State.retire_keeps
    | with_reducible apply ok_keeps | (with_reducible apply bind_keeps; intro _ _) | with_reducible intro _)

theorem execNop_keeps {s0 s : State} (hs : Keeps s0 s) (u) (slot) (f) : KeepsOut s0 (execNop u slot f s) := by
  unfold execNop
  try dsimp only
  repeat' (first | with_reducible assumption | with_reducible apply ctl_keeps | with_reducible apply next_keeps)

theorem execBra_keeps {s0 s : State} (hs : Keeps s0 s) (u) (slot) (f) : KeepsOut s0 (execBra u slot f s) := by
  unfold execBra
  try dsimp only
  repeat' (first | with_reducible assumption | with_reducible apply ctl_keeps | with_reducible apply next_keeps)

theorem execBru_keeps {s0 s : State} (hs : Keeps s0 s) (u) (slot) (f) : KeepsOut s0 (execBru u slot f s) := by
  unfold execBru
  try dsimp only
  repeat' (first | with_reducible assumption | with_reducible apply ctl_keeps | with_reducible apply next_keeps)

theorem execBrc_keeps {s0 s : State} (hs : Keeps s0 s) (u) (slot) (f) : KeepsOut s0 (execBrc u slot f s) := by
  unfold execBrc
  try dsimp only
  repeat' (first | with_reducible assumption | with_reducible apply ctl_keeps | with_reducible apply next_keeps)

theorem execDivPush_keeps {s0 s : State} (hs : Keeps s0 s) (u) (slot) (f) : KeepsOut s0 (execDivPush u slot f s) := by
  unfold execDivPush
  try dsimp only
  repeat' (first | with_reducible assumption | with_reducible apply ctl_keeps | with_reducible apply next_keeps)

theorem execRcv_keeps {s0 s : State} (hs : Keeps s0 s) (u) (slot) (f) : KeepsOut s0 (execRcv u slot f s) := by
  unfold execRcv
  try dsimp only
  repeat' (first | with_reducible assumption | with_reducible apply ctl_keeps | with_reducible apply next_keeps)

theorem execCall_keeps {s0 s : State} (hs : Keeps s0 s) (u) (slot) (f) : KeepsOut s0 (execCall u slot f s) := by
  unfold execCall
  try dsimp only
  repeat' (first | with_reducible assumption | with_reducible apply ctl_keeps | with_reducible apply next_keeps)

theorem execRet_keeps {s0 s : State} (hs : Keeps s0 s) (u) (slot) (f) : KeepsOut s0 (execRet u slot f s) := by
  unfold execRet
  try dsimp only
  repeat' (first | with_reducible assumption | with_reducible apply ctl_keeps | with_reducible apply next_keeps)

theorem execCollEnter_keeps {s0 s : State} (hs : Keeps s0 s) (u) (slot) (f) : KeepsOut s0 (execCollEnter u slot f s) := by
  unfold execCollEnter
  try dsimp only
  repeat' (first | with_reducible assumption | with_reducible apply ctl_keeps | with_reducible apply next_keeps)

theorem execCollExit_keeps {s0 s : State} (hs : Keeps s0 s) (u) (slot) (f) : KeepsOut s0 (execCollExit u slot f s) := by
  unfold execCollExit
  try dsimp only
  repeat' (first | with_reducible assumption | with_reducible apply ctl_keeps | with_reducible apply next_keeps)

theorem execExit_keeps {s0 s : State} (hs : Keeps s0 s) (u) (slot) (f) : KeepsOut s0 (execExit u slot f s) := by
  unfold execExit
  try dsimp only
  repeat' (first
    | with_reducible assumption | with_reducible apply State.issue_keeps | with_reducible apply State.setStrand_keeps
    | with_reducible apply State.retire_keeps | with_reducible apply State.onHank_keeps
    | with_reducible apply State.settleBelays_keeps | with_reducible apply next_keeps | with_reducible apply ok_keeps
    | (with_reducible apply bind_keeps; intro _ _) | with_reducible intro _ | with_reducible apply ite_keeps)

theorem State.raisePoison_keeps {s0 s : State} (hs : Keeps s0 s) (c) (k) (va) (pa) : Keeps s0 (State.raisePoison s c k va pa)
    := by
  unfold State.raisePoison
  try dsimp only
  repeat' (first
    | with_reducible assumption | with_reducible apply State.raise_keeps | with_reducible apply State.poisonUse_keeps)

theorem clusterReader_keeps {s0 s : State} (hs : Keeps s0 s) (cl) (a) : Keeps s0 (clusterReader cl s a).2 := by
  unfold clusterReader
  try dsimp only
  repeat' (first
    | with_reducible assumption | with_reducible apply State.obtain_keeps | with_reducible apply State.agentDone_keeps
    | with_reducible apply State.modAgent_keeps | split)

theorem State.unitXlate_keeps {s0 s : State} (hs : Keeps s0 s) (c) (k) (va) : Keeps s0 (State.unitXlate s c k va).2 := by
  unfold State.unitXlate
  try dsimp only
  repeat' (first
    | with_reducible assumption | with_reducible apply State.tlbLookup_keeps | with_reducible apply State.askWalk_keeps
    | (simp (disch := rfl) only [↓mk_keeps]) | with_reducible refine snd_keeps (by assumption) ?_ | split)

theorem State.vreadSeg_keeps {s0 s : State} (hs : Keeps s0 s) (c) (k) (va) (n) : Keeps s0 (State.vreadSeg s c k va n).2 := by
  unfold State.vreadSeg
  try dsimp only
  repeat' (first
    | with_reducible assumption | with_reducible apply State.unitXlate_keeps | with_reducible apply State.remoteRequest_keeps
    | with_reducible apply State.cohRead_keeps | with_reducible apply State.obtain_keeps
    | with_reducible apply State.agentDone_keeps | with_reducible apply State.modAgent_keeps
    | (simp (disch := rfl) only [↓mk_keeps]) | with_reducible refine snd_keeps (by assumption) ?_
    | with_reducible apply ite_keeps | split)

theorem State.vread_keeps {s0 s : State} (hs : Keeps s0 s) (c) (k) (va) (n) : Keeps s0 (State.vread s c k va n).2 := by
  unfold State.vread
  try dsimp only
  repeat' (first
    | with_reducible assumption | with_reducible apply State.vreadSeg_keeps | (simp (disch := rfl) only [↓mk_keeps])
    | with_reducible refine snd_keeps (by assumption) ?_ | (with_reducible apply foldl_snd_keeps <;> (try intro _ _ _))
    | split)

theorem State.copyRead_keeps {s0 s : State} (hs : Keeps s0 s) (c) (k) : Keeps s0 (State.copyRead s c k).2 := by
  unfold State.copyRead
  try dsimp only
  repeat' (first
    | with_reducible assumption | with_reducible apply State.vread_keeps | (simp (disch := rfl) only [↓mk_keeps])
    | with_reducible refine snd_keeps (by assumption) ?_ | (with_reducible apply foldl_snd_keeps <;> (try intro _ _ _))
    | split)

theorem State.viewTiles_keeps {s0 s : State} (hs : Keeps s0 s) (c) (ts) : Keeps s0 (State.viewTiles s c ts).2 := by
  unfold State.viewTiles
  try dsimp only
  repeat' (first
    | with_reducible assumption | with_reducible apply State.copyRead_keeps | with_reducible apply State.freeChoice_keeps
    | (simp (disch := rfl) only [↓mk_keeps]) | with_reducible refine snd_keeps (by assumption) ?_
    | (with_reducible apply foldl_snd_keeps <;> (try intro _ _ _)) | split)

theorem State.viewHmem_keeps {s0 s : State} (hs : Keeps s0 s) (c) (h) (a) (n) : Keeps s0 (State.viewHmem s c h a n).2 := by
  unfold State.viewHmem
  try dsimp only
  repeat' (first
    | with_reducible assumption | with_reducible apply State.copyRead_keeps | with_reducible apply State.freeChoice_keeps
    | (simp (disch := rfl) only [↓mk_keeps]) | with_reducible refine snd_keeps (by assumption) ?_
    | (with_reducible apply foldl_snd_keeps <;> (try intro _ _ _)) | split)

theorem State.touchHmem_keeps {s0 s : State} (hs : Keeps s0 s) (c) (a) (n) : Keeps s0 (State.touchHmem s c a n) := by
  unfold State.touchHmem
  try dsimp only
  repeat' (first | with_reducible assumption | with_reducible apply State.modUnit_keeps | with_reducible apply ite_keeps)

theorem State.touchTile_keeps {s0 s : State} (hs : Keeps s0 s) (c) (t) (rows) (side) : Keeps s0 (State.touchTile s c t rows
    side) := by
  unfold State.touchTile
  try dsimp only
  repeat' (first | with_reducible assumption | with_reducible apply State.modUnit_keeps | with_reducible apply ite_keeps)

theorem State.memWait_keeps {s0 s : State} (hs : Keeps s0 s) (c) (o) : Keeps s0 (State.memWait s c o) := by
  unfold State.memWait
  try dsimp only
  repeat' (first | with_reducible assumption | with_reducible apply State.setStrand_keeps)

theorem State.atomicSeen_keeps {s0 s : State} (hs : Keeps s0 s) (u) (tag) (pa) (o) (p) (old) : Keeps s0 (State.atomicSeen s u
    tag pa o p old) := by
  unfold State.atomicSeen
  try dsimp only
  repeat' (first
    | with_reducible assumption | with_reducible apply State.markStale_keeps | with_reducible apply State.modUnit_keeps
    | split)

theorem State.memFinish_keeps {s0 s : State} (hs : Keeps s0 s) (c) (o) : Keeps s0 (State.memFinish s c o) := by
  unfold State.memFinish
  try dsimp only
  repeat' (first
    | with_reducible assumption | with_reducible apply State.onHank_keeps | with_reducible apply State.touchTile_keeps
    | with_reducible apply State.l1Acquire_keeps | with_reducible apply State.retire_keeps | with_reducible apply ite_keeps
    | split)

theorem State.releasing_keeps {s0 s : State} (hs : Keeps s0 s) (c) (o) : Keeps s0 (State.releasing s c o).2 := by
  unfold State.releasing
  try dsimp only
  repeat' (first | with_reducible assumption | with_reducible apply State.drainWc_keeps)

/-- However a part of a memory instruction goes on, its state keeps it. -/
def KeepsGoing {α : Type} (s0 : State) : Going α → Prop
  | .ok s _ => Keeps s0 s
  | .waits s _ => Keeps s0 s
  | .ended s => Keeps s0 s

theorem translatePieces_keeps {s0 s : State} (h : Keeps s0 s) (c k l o) : KeepsGoing s0 (translatePieces c k l o s) := by
  induction l generalizing o s with
  | nil => exact h
  | cons n rest ih =>
    unfold translatePieces
    try dsimp only
    repeat' (first
      | with_reducible assumption
      | with_reducible apply ih
      | with_reducible apply State.askWalk_keeps
      | with_reducible apply State.raise_keeps
      | with_reducible apply State.tlbLookup_keeps
      | with_reducible refine snd_keeps (by assumption) ?_
      | split
      | (unfold KeepsGoing; dsimp only))

theorem State.loadPiece_keeps {s0 s : State} (h : Keeps s0 s) (c o p) : KeepsGoing s0 (s.loadPiece c o p) := by
  unfold State.loadPiece
  try dsimp only
  repeat' (first
    | with_reducible assumption
    | with_reducible apply State.modUnit_keeps
    | with_reducible apply State.remoteRequest_keeps
    | with_reducible apply State.cohRead_keeps
    | with_reducible apply State.agentMiss_keeps
    | with_reducible apply State.poisonUse_keeps
    | with_reducible refine snd_keeps (by assumption) ?_
    | split
    | (unfold KeepsGoing; dsimp only))

theorem State.combine_keeps {s0 s : State} (h : Keeps s0 s) (c tag d m p site) :
    KeepsGoing s0 (State.storePiece.combine s c tag d m p site) := by
  unfold State.storePiece.combine
  try dsimp only
  repeat' (first
    | with_reducible assumption
    | with_reducible apply State.modUnit_keeps
    | with_reducible apply State.drainEntry_keeps
    | with_reducible apply State.drainLine_keeps
    | with_reducible apply is_some_keeps
    | with_reducible refine some_keeps (by assumption) ?_
    | split
    | (unfold KeepsGoing; dsimp only))

theorem State.storePiece_keeps {s0 s : State} (h : Keeps s0 s) (c p) : KeepsGoing s0 (s.storePiece c p) := by
  unfold State.storePiece
  try dsimp only
  repeat' (first
    | with_reducible assumption
    | with_reducible apply State.modUnit_keeps
    | with_reducible apply State.remoteRequest_keeps
    | with_reducible apply State.cohPut_keeps
    | with_reducible apply State.drainLine_keeps
    | with_reducible apply State.markStale_keeps
    | with_reducible apply State.combine_keeps
    | with_reducible refine some_keeps (by assumption) ?_
    | split
    | (unfold KeepsGoing; dsimp only))

theorem State.atomPiece_keeps {s0 s : State} (h : Keeps s0 s) (c o p) : KeepsGoing s0 (s.atomPiece c o p) := by
  unfold State.atomPiece
  split
  · exact h
  · split
    · exact h
    · extract_lets src cmp
      split
      · exact h
      · rename_i t ht
        have h1 : Keeps s0 t := some_keeps ht (State.drainLine_keeps h _ _)
        split
        · show Keeps s0 _
          split
          · exact h1
          · exact State.remoteRequest_keeps h1 _ _ _ _
        · split
          · split
            · exact snd_keeps (by assumption) (State.cohAtomic_keeps h1 _ _ _ _ _ _ _ _)
            · exact State.raisePoison_keeps (snd_keeps (by assumption) (State.cohAtomic_keeps h1 _ _ _ _ _ _ _ _)) _ _ _ _
            · exact State.atomicSeen_keeps (snd_keeps (by assumption) (State.cohAtomic_keeps h1 _ _ _ _ _ _ _ _)) _ _ _ _ _ _
          · split
            · split
              · split
                · exact State.raisePoison_keeps (State.agentDone_keeps h1 _ _) _ _ _ _
                · show Keeps s0 _
                  split
                  · exact State.modUnit_keeps (State.agentWrite_keeps h1 _ _ _ _) _ _
                  · exact State.agentDone_keeps (State.modAgent_keeps h1 _ _) _ _
              · exact State.agentMiss_keeps h1 _ _ _
            · exact State.agentMiss_keeps h1 _ _ _

theorem performPieces_keeps {s0 s : State} (h : Keeps s0 s) (c l o w) : KeepsGoing s0 (performPieces c l o s w) := by
  induction l generalizing o s w with
  | nil => unfold performPieces; split <;> exact h
  | cons n rest ih =>
    have hp (p : Piece) : KeepsGoing s0 (if o.kind.loads then s.loadPiece c o p
        else if o.kind = .atom then s.atomPiece c o p else s.storePiece c p) := by
      split
      · exact State.loadPiece_keeps h c o p
      · split
        · exact State.atomPiece_keeps h c o p
        · exact State.storePiece_keeps h c p
    unfold performPieces
    split
    · exact ih h _ _
    · rename_i p _
      split
      · exact ih h _ _
      · split
        · split
          · exact h
          · dsimp only
            repeat' (first
              | with_reducible assumption
              | with_reducible apply ih
              | with_reducible apply State.touchHmem_keeps
              | with_reducible apply State.onHank_keeps
              | with_reducible apply State.viewHmem_keeps
              | with_reducible refine snd_keeps (by assumption) ?_
              | dsimp only
              | split)
        · have hq := hp p
          revert hq
          dsimp only
          generalize (if o.kind.loads = true then s.loadPiece c o p
            else if o.kind = .atom then s.atomPiece c o p else s.storePiece c p) = r
          intro hq
          cases r with
          | ok t x => exact ih hq _ _
          | ended t => exact hq
          | waits t x =>
            dsimp only
            split
            · exact ih hq _ _
            · exact hq

theorem State.memGo_keeps {s0 s : State} (h : Keeps s0 s) (c) (o) : Keeps s0 (State.memGo s c o) := by
  unfold State.memGo
  extract_lets rel
  have h1 : Keeps s0 (if rel then s.releasing c o else (o, s)).2 := by
    split
    · exact State.releasing_keeps h _ _
    · exact h
  revert h1
  generalize (if rel then s.releasing c o else (o, s)) = p
  obtain ⟨o1, t⟩ := p
  intro h1
  dsimp only
  split
  · exact State.memWait_keeps h1 _ _
  · have h2 : KeepsGoing s0 (if o1.hmem then .ok t { o1 with released := true }
        else translatePieces c o1.kind.access ({ o1 with released := true } : MemOp).byAddress { o1 with released := true } t) := by
      split
      · exact h1
      · exact translatePieces_keeps h1 _ _ _ _
    revert h2
    generalize (if o1.hmem = true then Going.ok t { o1 with released := true }
      else translatePieces c o1.kind.access ({ o1 with released := true } : MemOp).byAddress { o1 with released := true } t) = r
    intro h2
    cases r with
    | ended u => exact h2
    | waits u x => exact State.memWait_keeps h2 _ _
    | ok u x =>
      have h2 : Keeps s0 u := h2
      dsimp only
      split
      · exact State.raise_keeps h2 _ _ _ _ _
      · split
        · split
          · exact State.raise_keeps h2 _ _ _ _ _
          · exact h2
        · have h3 := performPieces_keeps h2 c x.order x false
          revert h3
          generalize performPieces c x.order x u false = q
          intro h3
          cases q with
          | ended v => exact h3
          | waits v y => exact State.memWait_keeps h3 _ _
          | ok v y =>
            dsimp only
            split
            · exact State.raise_keeps h3 _ _ _ _ _
            · exact State.memFinish_keeps h3 _ _

theorem State.memResume_keeps {s0 s : State} (hs : Keeps s0 s) (u) (slot) : Keeps s0 (State.memResume s u slot) := by
  unfold State.memResume
  try dsimp only
  repeat' (first | with_reducible assumption | with_reducible apply State.memGo_keeps | split)

theorem State.pumpUnit_keeps {s0 s : State} (hs : Keeps s0 s) (u) : Keeps s0 (State.pumpUnit s u) := by
  unfold State.pumpUnit
  try dsimp only
  repeat' (first
    | with_reducible assumption | with_reducible apply State.memResume_keeps
    | (with_reducible apply foldl_keeps <;> (try intro _ _ _)))

theorem State.pumpCluster_keeps {s0 s : State} (hs : Keeps s0 s) (cl) : Keeps s0 (State.pumpCluster s cl) := by
  unfold State.pumpCluster
  try dsimp only
  repeat' (first
    | with_reducible assumption | with_reducible apply State.pumpUnit_keeps
    | (with_reducible apply foldl_keeps <;> (try intro _ _ _)))

theorem State.memStart_keeps {s0 s : State} (hs : Keeps s0 s) (c) (o) : Keeps s0 (State.memStart s c o) := by
  unfold State.memStart
  try dsimp only
  repeat' (first | with_reducible assumption | with_reducible apply State.memGo_keeps)

theorem ldst_keeps {s0 s : State} (hs : Keeps s0 s) (store) (u) (slot) (f) : Keeps s0 (ldst store u slot f s) := by
  unfold ldst
  try dsimp only
  repeat' (first
    | with_reducible assumption | with_reducible apply State.issue_keeps | with_reducible apply State.memStart_keeps
    | with_reducible apply ok_keeps | (with_reducible apply bind_keeps; intro _ _) | with_reducible intro _)

theorem execLd_keeps {s0 s : State} (hs : Keeps s0 s) (u) (slot) (f) : KeepsOut s0 (execLd u slot f s) := by
  unfold execLd
  try dsimp only
  repeat' (first | with_reducible assumption | with_reducible apply ldst_keeps | with_reducible apply next_keeps)

theorem execSt_keeps {s0 s : State} (hs : Keeps s0 s) (u) (slot) (f) : KeepsOut s0 (execSt u slot f s) := by
  unfold execSt
  try dsimp only
  repeat' (first | with_reducible assumption | with_reducible apply ldst_keeps | with_reducible apply next_keeps)

theorem execUld_keeps {s0 s : State} (hs : Keeps s0 s) (u) (slot) (f) : KeepsOut s0 (execUld u slot f s) := by
  unfold execUld
  try dsimp only
  repeat' (first
    | with_reducible assumption | with_reducible apply State.issue_keeps | with_reducible apply State.memStart_keeps
    | with_reducible apply next_keeps | with_reducible apply ok_keeps | (with_reducible apply bind_keeps; intro _ _)
    | with_reducible intro _)

theorem atom_keeps {s0 s : State} (hs : Keeps s0 s) (op) (u) (slot) (f) : Keeps s0 (atom op u slot f s) := by
  unfold atom
  try dsimp only
  repeat' (first
    | with_reducible assumption | with_reducible apply State.issue_keeps | with_reducible apply State.memStart_keeps
    | with_reducible apply ok_keeps | (with_reducible apply bind_keeps; intro _ _) | with_reducible intro _)

theorem execAtomAdd_keeps {s0 s : State} (hs : Keeps s0 s) (u) (slot) (f) : KeepsOut s0 (execAtomAdd u slot f s) := by
  unfold execAtomAdd
  try dsimp only
  repeat' (first | with_reducible assumption | with_reducible apply atom_keeps | with_reducible apply next_keeps)

theorem execAtomSmin_keeps {s0 s : State} (hs : Keeps s0 s) (u) (slot) (f) : KeepsOut s0 (execAtomSmin u slot f s) := by
  unfold execAtomSmin
  try dsimp only
  repeat' (first | with_reducible assumption | with_reducible apply atom_keeps | with_reducible apply next_keeps)

theorem execAtomSmax_keeps {s0 s : State} (hs : Keeps s0 s) (u) (slot) (f) : KeepsOut s0 (execAtomSmax u slot f s) := by
  unfold execAtomSmax
  try dsimp only
  repeat' (first | with_reducible assumption | with_reducible apply atom_keeps | with_reducible apply next_keeps)

theorem execAtomUmin_keeps {s0 s : State} (hs : Keeps s0 s) (u) (slot) (f) : KeepsOut s0 (execAtomUmin u slot f s) := by
  unfold execAtomUmin
  try dsimp only
  repeat' (first | with_reducible assumption | with_reducible apply atom_keeps | with_reducible apply next_keeps)

theorem execAtomUmax_keeps {s0 s : State} (hs : Keeps s0 s) (u) (slot) (f) : KeepsOut s0 (execAtomUmax u slot f s) := by
  unfold execAtomUmax
  try dsimp only
  repeat' (first | with_reducible assumption | with_reducible apply atom_keeps | with_reducible apply next_keeps)

theorem execAtomAnd_keeps {s0 s : State} (hs : Keeps s0 s) (u) (slot) (f) : KeepsOut s0 (execAtomAnd u slot f s) := by
  unfold execAtomAnd
  try dsimp only
  repeat' (first | with_reducible assumption | with_reducible apply atom_keeps | with_reducible apply next_keeps)

theorem execAtomOr_keeps {s0 s : State} (hs : Keeps s0 s) (u) (slot) (f) : KeepsOut s0 (execAtomOr u slot f s) := by
  unfold execAtomOr
  try dsimp only
  repeat' (first | with_reducible assumption | with_reducible apply atom_keeps | with_reducible apply next_keeps)

theorem execAtomXor_keeps {s0 s : State} (hs : Keeps s0 s) (u) (slot) (f) : KeepsOut s0 (execAtomXor u slot f s) := by
  unfold execAtomXor
  try dsimp only
  repeat' (first | with_reducible assumption | with_reducible apply atom_keeps | with_reducible apply next_keeps)

theorem execAtomExch_keeps {s0 s : State} (hs : Keeps s0 s) (u) (slot) (f) : KeepsOut s0 (execAtomExch u slot f s) := by
  unfold execAtomExch
  try dsimp only
  repeat' (first | with_reducible assumption | with_reducible apply atom_keeps | with_reducible apply next_keeps)

theorem execAtomCas_keeps {s0 s : State} (hs : Keeps s0 s) (u) (slot) (f) : KeepsOut s0 (execAtomCas u slot f s) := by
  unfold execAtomCas
  try dsimp only
  repeat' (first | with_reducible assumption | with_reducible apply atom_keeps | with_reducible apply next_keeps)

theorem execAtomFadd_keeps {s0 s : State} (hs : Keeps s0 s) (u) (slot) (f) : KeepsOut s0 (execAtomFadd u slot f s) := by
  unfold execAtomFadd
  try dsimp only
  repeat' (first | with_reducible assumption | with_reducible apply atom_keeps | with_reducible apply next_keeps)

theorem fence_keeps {s0 s : State} (hs : Keeps s0 s) (ord) (u) (slot) (f) : Keeps s0 (fence ord u slot f s) := by
  unfold fence
  try dsimp only
  repeat' (first
    | with_reducible assumption | with_reducible apply State.issue_keeps | with_reducible apply State.memStart_keeps
    | with_reducible apply ok_keeps | (with_reducible apply bind_keeps; intro _ _) | with_reducible intro _)

theorem execFenceAcq_keeps {s0 s : State} (hs : Keeps s0 s) (u) (slot) (f) : KeepsOut s0 (execFenceAcq u slot f s) := by
  unfold execFenceAcq
  try dsimp only
  repeat' (first | with_reducible assumption | with_reducible apply fence_keeps | with_reducible apply next_keeps)

theorem execFenceRel_keeps {s0 s : State} (hs : Keeps s0 s) (u) (slot) (f) : KeepsOut s0 (execFenceRel u slot f s) := by
  unfold execFenceRel
  try dsimp only
  repeat' (first | with_reducible assumption | with_reducible apply fence_keeps | with_reducible apply next_keeps)

theorem execFenceAr_keeps {s0 s : State} (hs : Keeps s0 s) (u) (slot) (f) : KeepsOut s0 (execFenceAr u slot f s) := by
  unfold execFenceAr
  try dsimp only
  repeat' (first | with_reducible assumption | with_reducible apply fence_keeps | with_reducible apply next_keeps)

theorem tileRows_keeps {s0 s : State} (hs : Keeps s0 s) (store) (u) (slot) (f) : Keeps s0 (tileRows store u slot f s) := by
  unfold tileRows
  try dsimp only
  repeat' (first
    | with_reducible assumption | with_reducible apply State.issue_keeps | with_reducible apply State.viewTiles_keeps
    | with_reducible apply State.memStart_keeps | (simp (disch := rfl) only [↓mk_keeps]) | with_reducible apply ok_keeps
    | with_reducible exact error_keeps _ | (with_reducible apply bind_keeps; intro _ _) | with_reducible intro _ | split)

theorem execTld_keeps {s0 s : State} (hs : Keeps s0 s) (u) (slot) (f) : KeepsOut s0 (execTld u slot f s) := by
  unfold execTld
  try dsimp only
  repeat' (first | with_reducible assumption | with_reducible apply tileRows_keeps | with_reducible apply next_keeps)

theorem execTst_keeps {s0 s : State} (hs : Keeps s0 s) (u) (slot) (f) : KeepsOut s0 (execTst u slot f s) := by
  unfold execTst
  try dsimp only
  repeat' (first | with_reducible assumption | with_reducible apply tileRows_keeps | with_reducible apply next_keeps)

theorem sideFile_keeps {s0 s : State} (hs : Keeps s0 s) (store) (u) (slot) (f) : Keeps s0 (sideFile store u slot f s) := by
  unfold sideFile
  try dsimp only
  repeat' (first
    | with_reducible assumption | with_reducible apply State.issue_keeps | with_reducible apply State.viewTiles_keeps
    | with_reducible apply State.memStart_keeps | (simp (disch := rfl) only [↓mk_keeps]) | with_reducible apply ok_keeps
    | with_reducible exact error_keeps _ | (with_reducible apply bind_keeps; intro _ _) | with_reducible intro _ | split)

theorem execTldSf_keeps {s0 s : State} (hs : Keeps s0 s) (u) (slot) (f) : KeepsOut s0 (execTldSf u slot f s) := by
  unfold execTldSf
  try dsimp only
  repeat' (first | with_reducible assumption | with_reducible apply sideFile_keeps | with_reducible apply next_keeps)

theorem execTstSf_keeps {s0 s : State} (hs : Keeps s0 s) (u) (slot) (f) : KeepsOut s0 (execTstSf u slot f s) := by
  unfold execTstSf
  try dsimp only
  repeat' (first | with_reducible assumption | with_reducible apply sideFile_keeps | with_reducible apply next_keeps)

theorem State.fetched_keeps {s0 s : State} (hs : Keeps s0 s) (u) (tag) (poison) (only) : Keeps s0 (State.fetched s u tag
    poison only) := by
  unfold State.fetched
  try dsimp only
  repeat' (first
    | with_reducible assumption | with_reducible apply State.modUnit_keeps | with_reducible apply State.raisePoison_keeps
    | (with_reducible apply foldl_keeps <;> (try intro _ _ _)) | with_reducible apply ite_keeps | split)

theorem State.fillUnit_keeps {s0 s : State} (hs : Keeps s0 s) (u) (tag) (d) (poison) (alloc) (only) : Keeps s0 (State.fillUnit
    s u tag d poison alloc only) := by
  unfold State.fillUnit
  try dsimp only
  repeat' (first
    | with_reducible assumption | with_reducible apply State.modUnit_keeps | with_reducible apply State.fetched_keeps
    | with_reducible apply State.memGo_keeps | with_reducible apply State.poisonUse_keeps
    | (with_reducible apply foldl_keeps <;> (try intro _ _ _)) | with_reducible apply ite_keeps | split)

theorem execL1Fill_keeps {s0 s : State} (hs : Keeps s0 s) (u) (line) : KeepsOut s0 (execL1Fill u line s) := by
  unfold execL1Fill
  try dsimp only
  repeat' (first
    | with_reducible assumption | with_reducible apply State.agentMiss_keeps | with_reducible apply State.agentDone_keeps
    | with_reducible apply State.modAgent_keeps | with_reducible apply State.modUnit_keeps
    | with_reducible apply State.fillUnit_keeps | with_reducible apply next_keeps | with_reducible apply ite_keeps | split)

theorem execWalkComplete_keeps {s0 s : State} (hs : Keeps s0 s) (cl) (i) : KeepsOut s0 (execWalkComplete cl i s) := by
  unfold execWalkComplete
  try dsimp only
  repeat' (first
    | with_reducible assumption | with_reducible apply State.modCluster_keeps | with_reducible apply walk_keeps
    | with_reducible apply clusterReader_keeps | with_reducible apply State.memGo_keeps
    | with_reducible apply State.raise_keeps | with_reducible apply State.poisonUse_keeps
    | with_reducible apply State.modUnit_keeps | with_reducible apply State.fetchAhead_keeps
    | with_reducible apply State.memResume_keeps | with_reducible apply next_keeps
    | with_reducible refine snd2_keeps (by assumption) ?_ | with_reducible intro _ _ | with_reducible intro _
    | with_reducible apply ite_keeps | split)

theorem execWriteCombiningDrain_keeps {s0 s : State} (hs : Keeps s0 s) (u) (line) : KeepsOut s0 (execWriteCombiningDrain u
    line s) := by
  unfold execWriteCombiningDrain
  try dsimp only
  repeat' (first
    | with_reducible assumption | with_reducible apply State.pumpUnit_keeps | with_reducible apply State.drainEntry_keeps
    | with_reducible apply next_keeps | with_reducible apply ite_keeps | split)

theorem acpy_keeps {s0 s : State} (hs : Keeps s0 s) (kind) (u) (slot) (f) : Keeps s0 (acpy kind u slot f s) := by
  unfold acpy
  try dsimp only
  repeat' (first
    | with_reducible assumption | with_reducible apply State.issue_keeps | with_reducible apply State.modUnit_keeps
    | with_reducible apply State.retire_keeps | with_reducible apply State.copyIssue_keeps
    | with_reducible apply State.setStrand_keeps | with_reducible apply ok_keeps
    | (with_reducible apply bind_keeps; intro _ _) | with_reducible intro _ | with_reducible apply ite_keeps)

theorem execAcpyH_keeps {s0 s : State} (hs : Keeps s0 s) (u) (slot) (f) : KeepsOut s0 (execAcpyH u slot f s) := by
  unfold execAcpyH
  try dsimp only
  repeat' (first | with_reducible assumption | with_reducible apply acpy_keeps | with_reducible apply next_keeps)

theorem execAcpyT_keeps {s0 s : State} (hs : Keeps s0 s) (u) (slot) (f) : KeepsOut s0 (execAcpyT u slot f s) := by
  unfold execAcpyT
  try dsimp only
  repeat' (first | with_reducible assumption | with_reducible apply acpy_keeps | with_reducible apply next_keeps)

theorem execAcpySf_keeps {s0 s : State} (hs : Keeps s0 s) (u) (slot) (f) : KeepsOut s0 (execAcpySf u slot f s) := by
  unfold execAcpySf
  try dsimp only
  repeat' (first | with_reducible assumption | with_reducible apply acpy_keeps | with_reducible apply next_keeps)

theorem execAcpyQ_keeps {s0 s : State} (hs : Keeps s0 s) (u) (slot) (f) : KeepsOut s0 (execAcpyQ u slot f s) := by
  unfold execAcpyQ
  try dsimp only
  repeat' (first | with_reducible assumption | with_reducible apply acpy_keeps | with_reducible apply next_keeps)

theorem State.takes_keeps {s0 s : State} (hs : Keeps s0 s) (touched) : Keeps s0 (State.takes s touched).2 := by
  unfold State.takes
  try dsimp only
  repeat' (first | with_reducible assumption | with_reducible apply State.freeChoice_keeps | split)

theorem copyBytes_keeps {s0 x5 : State} (hs : Keeps s0 x5) (k) (later) (x2) (x3) (x4) : Keeps s0 (copyBytes k later x2 x3 x4
    x5).2 := by
  induction x2 generalizing x3 x4 x5 with
  | nil =>
    unfold copyBytes
    try dsimp only
    repeat' (first
      | with_reducible assumption)
  | cons b t ih =>
    unfold copyBytes
    try dsimp only
    repeat' (first
      | with_reducible apply ih
      | with_reducible assumption
      | (with_reducible apply State.takes_keeps))

theorem copyRows_keeps {s0 x5 : State} (hs : Keeps s0 x5) (k) (tile) (rows) (v) (x4) : Keeps s0 (copyRows k tile rows v x4
    x5).2 := by
  unfold copyRows
  try dsimp only
  repeat' (first
    | with_reducible assumption | with_reducible apply State.takes_keeps
    | (with_reducible apply foldl_snd_keeps <;> (try intro _ _ _)))

theorem State.copyWrite_keeps {s0 s : State} (hs : Keeps s0 s) (k) (later) (d) (h) : Keeps s0 (State.copyWrite s k later d
    h).2 := by
  unfold State.copyWrite
  try dsimp only
  repeat' (first
    | with_reducible assumption | with_reducible apply copyBytes_keeps | with_reducible apply copyRows_keeps
    | (simp (disch := rfl) only [↓mk_keeps]) | split)

theorem State.wakeCounters_keeps {s0 s : State} (hs : Keeps s0 s) (c) : Keeps s0 (State.wakeCounters s c) := by
  unfold State.wakeCounters
  try dsimp only
  repeat' (first
    | with_reducible assumption | with_reducible apply State.retire_keeps
    | (with_reducible apply foldl_keeps <;> (try intro _ _ _)) | split)

theorem State.copyGo_keeps {s0 s : State} (hs : Keeps s0 s) (u) (i) : Keeps s0 (State.copyGo s u i) := by
  unfold State.copyGo
  try dsimp only
  repeat' (first
    | with_reducible assumption | with_reducible apply State.copyRead_keeps | with_reducible apply State.raise_keeps
    | with_reducible apply State.raisePoison_keeps | with_reducible apply State.copyWrite_keeps
    | with_reducible apply State.onHank_keeps | with_reducible apply State.modUnit_keeps
    | with_reducible apply State.countVts_keeps | with_reducible apply State.startCopyWaiter_keeps
    | with_reducible apply State.wakeCounters_keeps | with_reducible refine snd_keeps (by assumption) ?_
    | with_reducible apply ite_keeps | split)

theorem execCopyComplete_keeps {s0 s : State} (hs : Keeps s0 s) (u) (i) : KeepsOut s0 (execCopyComplete u i s) := by
  unfold execCopyComplete
  try dsimp only
  repeat' (first | with_reducible assumption | with_reducible apply State.copyGo_keeps | with_reducible apply next_keeps)

theorem execAcwait_keeps {s0 s : State} (hs : Keeps s0 s) (u) (slot) (f) : KeepsOut s0 (execAcwait u slot f s) := by
  unfold execAcwait
  try dsimp only
  repeat' (first
    | with_reducible assumption | with_reducible apply State.issue_keeps | with_reducible apply State.retire_keeps
    | with_reducible apply State.onHank_keeps | with_reducible apply State.setStrand_keeps | with_reducible apply next_keeps
    | with_reducible apply ok_keeps | (with_reducible apply bind_keeps; intro _ _) | with_reducible intro _ | split)

theorem execAcread_keeps {s0 s : State} (hs : Keeps s0 s) (u) (slot) (f) : KeepsOut s0 (execAcread u slot f s) := by
  unfold execAcread
  try dsimp only
  repeat' (first
    | with_reducible assumption | with_reducible apply State.issue_keeps | with_reducible apply State.retire_keeps
    | with_reducible apply next_keeps | with_reducible apply ok_keeps | (with_reducible apply bind_keeps; intro _ _)
    | with_reducible intro _)

theorem blyArrive_keeps {s0 s : State} (hs : Keeps s0 s) (sync) (u) (slot) (f) : Keeps s0 (blyArrive sync u slot f s) := by
  unfold blyArrive
  try dsimp only
  repeat' (first
    | with_reducible assumption | with_reducible apply State.issue_keeps | with_reducible apply State.drainWc_keeps
    | with_reducible apply State.onHank_keeps | with_reducible apply State.setStrand_keeps
    | with_reducible apply State.retire_keeps | with_reducible apply State.settleBelays_keeps | with_reducible apply ok_keeps
    | (with_reducible apply bind_keeps; intro _ _) | with_reducible intro _ | with_reducible apply ite_keeps | split)

theorem execBlyArrive_keeps {s0 s : State} (hs : Keeps s0 s) (u) (slot) (f) : KeepsOut s0 (execBlyArrive u slot f s) := by
  unfold execBlyArrive
  try dsimp only
  repeat' (first | with_reducible assumption | with_reducible apply blyArrive_keeps | with_reducible apply next_keeps)

theorem execBlySync_keeps {s0 s : State} (hs : Keeps s0 s) (u) (slot) (f) : KeepsOut s0 (execBlySync u slot f s) := by
  unfold execBlySync
  try dsimp only
  repeat' (first | with_reducible assumption | with_reducible apply blyArrive_keeps | with_reducible apply next_keeps)

theorem execBlyWait_keeps {s0 s : State} (hs : Keeps s0 s) (u) (slot) (f) : KeepsOut s0 (execBlyWait u slot f s) := by
  unfold execBlyWait
  try dsimp only
  repeat' (first
    | with_reducible assumption | with_reducible apply State.issue_keeps | with_reducible apply State.retire_keeps
    | with_reducible apply State.onHank_keeps | with_reducible apply State.setStrand_keeps | with_reducible apply next_keeps
    | with_reducible apply ok_keeps | (with_reducible apply bind_keeps; intro _ _) | with_reducible intro _ | split)

theorem execStall_keeps {s0 s : State} (hs : Keeps s0 s) (u) (launch) (hank) : KeepsOut s0 (execStall u launch hank s) := by
  unfold execStall
  try dsimp only
  repeat' (first
    | with_reducible assumption | with_reducible apply State.endLaunch_keeps | with_reducible apply next_keeps
    | with_reducible apply ite_keeps | split)

end Sys2Proof.Machine
end

