-- ==== Sys2Proof/Laws/KeepsCommands.lean ====
section
/-! SUPPORT. Coherence messages, HBM, DMA and bend engines, and commands. Each keeps what `Keeps` says. -/

namespace Sys2Proof.Machine

open Sys2Proof

theorem State.deliver_keeps {s0 s : State} (hs : Keeps s0 s) (m) : Keeps s0 (State.deliver s m) := by
  unfold State.deliver
  try dsimp only
  repeat' (first
    | with_reducible assumption | with_reducible apply State.arrive_keeps | with_reducible apply State.pumpCluster_keeps
    | with_reducible apply ite_keeps)

theorem execRds_keeps {s0 s : State} (hs : Keeps s0 s) (m) : KeepsOut s0 (execRds m s) := by
  unfold execRds
  try dsimp only
  repeat' (first | with_reducible assumption | with_reducible apply State.deliver_keeps | with_reducible apply next_keeps)

theorem execRdo_keeps {s0 s : State} (hs : Keeps s0 s) (m) : KeepsOut s0 (execRdo m s) := by
  unfold execRdo
  try dsimp only
  repeat' (first | with_reducible assumption | with_reducible apply State.deliver_keeps | with_reducible apply next_keeps)

theorem execUpg_keeps {s0 s : State} (hs : Keeps s0 s) (m) : KeepsOut s0 (execUpg m s) := by
  unfold execUpg
  try dsimp only
  repeat' (first | with_reducible assumption | with_reducible apply State.deliver_keeps | with_reducible apply next_keeps)

theorem execWbk_keeps {s0 s : State} (hs : Keeps s0 s) (m) : KeepsOut s0 (execWbk m s) := by
  unfold execWbk
  try dsimp only
  repeat' (first | with_reducible assumption | with_reducible apply State.deliver_keeps | with_reducible apply next_keeps)

theorem execEvc_keeps {s0 s : State} (hs : Keeps s0 s) (m) : KeepsOut s0 (execEvc m s) := by
  unfold execEvc
  try dsimp only
  repeat' (first | with_reducible assumption | with_reducible apply State.deliver_keeps | with_reducible apply next_keeps)

theorem execSth_keeps {s0 s : State} (hs : Keeps s0 s) (m) : KeepsOut s0 (execSth m s) := by
  unfold execSth
  try dsimp only
  repeat' (first | with_reducible assumption | with_reducible apply State.deliver_keeps | with_reducible apply next_keeps)

theorem execWnc_keeps {s0 s : State} (hs : Keeps s0 s) (m) : KeepsOut s0 (execWnc m s) := by
  unfold execWnc
  try dsimp only
  repeat' (first | with_reducible assumption | with_reducible apply State.deliver_keeps | with_reducible apply next_keeps)

theorem execRnc_keeps {s0 s : State} (hs : Keeps s0 s) (m) : KeepsOut s0 (execRnc m s) := by
  unfold execRnc
  try dsimp only
  repeat' (first | with_reducible assumption | with_reducible apply State.deliver_keeps | with_reducible apply next_keeps)

theorem execAnc_keeps {s0 s : State} (hs : Keeps s0 s) (m) : KeepsOut s0 (execAnc m s) := by
  unfold execAnc
  try dsimp only
  repeat' (first | with_reducible assumption | with_reducible apply State.deliver_keeps | with_reducible apply next_keeps)

theorem execSns_keeps {s0 s : State} (hs : Keeps s0 s) (m) : KeepsOut s0 (execSns m s) := by
  unfold execSns
  try dsimp only
  repeat' (first | with_reducible assumption | with_reducible apply State.deliver_keeps | with_reducible apply next_keeps)

theorem execSni_keeps {s0 s : State} (hs : Keeps s0 s) (m) : KeepsOut s0 (execSni m s) := by
  unfold execSni
  try dsimp only
  repeat' (first | with_reducible assumption | with_reducible apply State.deliver_keeps | with_reducible apply next_keeps)

theorem execSno_keeps {s0 s : State} (hs : Keeps s0 s) (m) : KeepsOut s0 (execSno m s) := by
  unfold execSno
  try dsimp only
  repeat' (first | with_reducible assumption | with_reducible apply State.deliver_keeps | with_reducible apply next_keeps)

theorem execDat_keeps {s0 s : State} (hs : Keeps s0 s) (m) : KeepsOut s0 (execDat m s) := by
  unfold execDat
  try dsimp only
  repeat' (first | with_reducible assumption | with_reducible apply State.deliver_keeps | with_reducible apply next_keeps)

theorem execDatd_keeps {s0 s : State} (hs : Keeps s0 s) (m) : KeepsOut s0 (execDatd m s) := by
  unfold execDatd
  try dsimp only
  repeat' (first | with_reducible assumption | with_reducible apply State.deliver_keeps | with_reducible apply next_keeps)

theorem execAck_keeps {s0 s : State} (hs : Keeps s0 s) (m) : KeepsOut s0 (execAck m s) := by
  unfold execAck
  try dsimp only
  repeat' (first | with_reducible assumption | with_reducible apply State.deliver_keeps | with_reducible apply next_keeps)

theorem execFillComplete_keeps {s0 s : State} (hs : Keeps s0 s) (line) : KeepsOut s0 (execFillComplete line s) := by
  unfold execFillComplete
  try dsimp only
  repeat' (first
    | with_reducible assumption | with_reducible apply State.fillComplete_keeps | with_reducible apply next_keeps
    | with_reducible apply ite_keeps)

theorem execSpillRead_keeps {s0 s : State} (hs : Keeps s0 s) (line) (err) : KeepsOut s0 (execSpillRead line err s) := by
  unfold execSpillRead
  try dsimp only
  repeat' (first
    | with_reducible assumption | with_reducible apply State.spillRead_keeps | with_reducible apply next_keeps
    | with_reducible apply ite_keeps)

theorem execCleatExpiry_keeps {s0 s : State} (hs : Keeps s0 s) (agent) (line) : KeepsOut s0 (execCleatExpiry agent line s) :=
    by
  unfold execCleatExpiry
  try dsimp only
  repeat' (first
    | with_reducible assumption | with_reducible apply State.pumpCluster_keeps | with_reducible apply State.answerHeld_keeps
    | with_reducible apply next_keeps | with_reducible apply ite_keeps | split)

theorem State.resolveDead_keeps {s0 s : State} (hs : Keeps s0 s) (d) (b) : Keeps s0 (State.resolveDead s d b) := by
  unfold State.resolveDead
  try dsimp only
  repeat' (first
    | with_reducible assumption | with_reducible apply State.modSlice_keeps | with_reducible apply State.setDir_keeps
    | with_reducible apply State.clearBusy_keeps | with_reducible apply State.homeWrite_keeps
    | with_reducible apply State.progress_keeps | with_reducible apply State.snoops_keeps
    | (simp (disch := rfl) only [↓mk_keeps]) | with_reducible apply ite_keeps)

theorem State.declareDead_keeps {s0 s : State} (hs : Keeps s0 s) (ids) : Keeps s0 (State.declareDead s ids) := by
  unfold State.declareDead
  try dsimp only
  repeat' (first
    | with_reducible assumption | with_reducible apply State.modAgent_keeps | with_reducible apply State.modSlice_keeps
    | with_reducible apply State.resolveDead_keeps | with_reducible apply State.pumpHome_keeps
    | (simp (disch := rfl) only [↓mk_keeps]) | (with_reducible apply foldl_keeps <;> (try intro _ _ _)) | split)

theorem State.scrubSpill_keeps {s0 s : State} (hs : Keeps s0 s) (n) (k) : Keeps s0 (State.scrubSpill s n k) := by
  unfold State.scrubSpill
  try dsimp only
  repeat' (first
    | with_reducible assumption | with_reducible apply State.readSpill_keeps | with_reducible apply State.scrub_keeps
    | with_reducible apply State.writeSpill_keeps | with_reducible apply State.emptySpill_keeps
    | with_reducible refine words_keeps (by assumption) ?_ | with_reducible refine lost_keeps (by assumption) ?_
    | (with_reducible apply foldl_keeps <;> (try intro _ _ _)) | with_reducible apply ite_keeps | split)

theorem State.scanSlice_keeps {s0 s : State} (hs : Keeps s0 s) (n) : Keeps s0 (State.scanSlice s n) := by
  unfold State.scanSlice
  try dsimp only
  repeat' (first
    | with_reducible assumption | with_reducible apply State.scrub_keeps | with_reducible apply State.changeDir_keeps
    | with_reducible apply State.scrubSpill_keeps | (with_reducible apply foldl_keeps <;> (try intro _ _ _))
    | with_reducible apply ite_keeps)

theorem execReclaimEnd_keeps {s0 s : State} (hs : Keeps s0 s) : KeepsOut s0 (execReclaimEnd s) := by
  unfold execReclaimEnd
  try dsimp only
  repeat' (first
    | with_reducible assumption | with_reducible apply State.scanSlice_keeps | with_reducible apply State.pumpHome_keeps
    | with_reducible apply next_keeps | (simp (disch := rfl) only [↓mk_keeps])
    | (with_reducible apply foldl_keeps <;> (try intro _ _ _)) | with_reducible apply ite_keeps)

theorem State.removeXlt_keeps {s0 s : State} (hs : Keeps s0 s) : Keeps s0 (State.removeXlt s) := by
  unfold State.removeXlt
  try dsimp only
  repeat' (first
    | with_reducible assumption | with_reducible apply State.modUnit_keeps | with_reducible apply State.modCluster_keeps
    | with_reducible apply State.modDma_keeps | (with_reducible apply foldl_keeps <;> (try intro _ _ _)))

theorem State.untranslate_keeps {s0 s : State} (hs : Keeps s0 s) : Keeps s0 (State.untranslate s) := by
  unfold State.untranslate
  try dsimp only
  repeat' (first
    | with_reducible assumption | with_reducible apply State.modUnit_keeps
    | (with_reducible apply foldl_keeps <;> (try intro _ _ _)))

theorem execXltInvGo_keeps {s0 s : State} (hs : Keeps s0 s) : KeepsOut s0 (execXltInvGo s) := by
  unfold execXltInvGo
  try dsimp only
  repeat' (first
    | with_reducible assumption | with_reducible apply State.untranslate_keeps | with_reducible apply State.removeXlt_keeps
    | with_reducible apply next_keeps | (simp (disch := rfl) only [↓mk_keeps]) | with_reducible apply ite_keeps)

theorem execXltInvDone_keeps {s0 s : State} (hs : Keeps s0 s) : KeepsOut s0 (execXltInvDone s) := by
  unfold execXltInvDone
  try dsimp only
  repeat' (first
    | with_reducible assumption | with_reducible apply State.drainWc_keeps | with_reducible apply State.removeXlt_keeps
    | with_reducible apply next_keeps | (simp (disch := rfl) only [↓mk_keeps])
    | (with_reducible apply foldl_keeps <;> (try intro _ _ _)) | with_reducible apply ite_keeps)

theorem execUniVtsClear_keeps {s0 s : State} (hs : Keeps s0 s) (u) (value) : KeepsOut s0 (execUniVtsClear u value s) := by
  unfold execUniVtsClear
  try dsimp only
  repeat' (first | with_reducible assumption | with_reducible apply State.modUnit_keeps | with_reducible apply next_keeps)

theorem execLlmCntClear_keeps {s0 s : State} (hs : Keeps s0 s) (n) (value) : KeepsOut s0 (execLlmCntClear n value s) := by
  unfold execLlmCntClear
  try dsimp only
  repeat' (first | with_reducible assumption | with_reducible apply State.modSlice_keeps | with_reducible apply next_keeps)

theorem execCohCntClear_keeps {s0 s : State} (hs : Keeps s0 s) (n) (value) : KeepsOut s0 (execCohCntClear n value s) := by
  unfold execCohCntClear
  try dsimp only
  repeat' (first | with_reducible assumption | with_reducible apply State.modSlice_keeps | with_reducible apply next_keeps)

theorem execHbmRead_keeps {s0 s : State} (hs : Keeps s0 s) (line) (err) : KeepsOut s0 (execHbmRead line err s) := by
  unfold execHbmRead
  try dsimp only
  repeat' (first
    | with_reducible assumption | with_reducible apply State.hbmRead_keeps | with_reducible apply next_keeps
    | with_reducible apply ite_keeps)

theorem State.scrubChannel_keeps {s0 s : State} (hs : Keeps s0 s) (stack) (ch) (err) : Keeps s0 (State.scrubChannel s stack ch
    err) := by
  unfold State.scrubChannel
  try dsimp only
  repeat' (first
    | with_reducible assumption | with_reducible apply State.modStack_keeps | with_reducible apply State.readEvents_keeps
    | with_reducible apply ite_keeps | split)

theorem State.scrubSlice_keeps {s0 s : State} (hs : Keeps s0 s) (n) (err) : Keeps s0 (State.scrubSlice s n err) := by
  unfold State.scrubSlice
  try dsimp only
  repeat' (first
    | with_reducible assumption | with_reducible apply State.modSlice_keeps | with_reducible apply State.logErr_keeps
    | with_reducible apply State.scratchPut_keeps | with_reducible apply ite_keeps | split)

theorem execScrubRead_keeps {s0 s : State} (hs : Keeps s0 s) (stack) (ch) (err) : KeepsOut s0 (execScrubRead stack ch err s)
    := by
  unfold execScrubRead
  try dsimp only
  repeat' (first
    | with_reducible assumption | with_reducible apply State.scrubChannel_keeps | with_reducible apply State.scrubSlice_keeps
    | with_reducible apply next_keeps | with_reducible apply ite_keeps)

theorem execTrackerFree_keeps {s0 s : State} (hs : Keeps s0 s) (stack) (ch) (pch) (bank) (row) : KeepsOut s0 (execTrackerFree
    stack ch pch bank row s) := by
  unfold execTrackerFree
  try dsimp only
  repeat' (first
    | with_reducible assumption | with_reducible apply State.modStack_keeps | with_reducible apply next_keeps | split)

theorem State.copyLine_keeps {s0 s : State} (hs : Keeps s0 s) (l) (err) : Keeps s0 (State.copyLine s l err) := by
  unfold State.copyLine
  try dsimp only
  repeat' (first | with_reducible assumption | with_reducible apply State.readEvents_keeps)

theorem execRemapComplete_keeps {s0 s : State} (hs : Keeps s0 s) (stack) (ch) (i) (errs) : KeepsOut s0 (execRemapComplete
    stack ch i errs s) := by
  unfold execRemapComplete
  try dsimp only
  repeat' (first
    | with_reducible assumption | with_reducible apply State.copyLine_keeps | with_reducible apply State.modStack_keeps
    | with_reducible apply State.logErr_keeps | with_reducible apply State.flushHeld_keeps | with_reducible apply next_keeps
    | (with_reducible apply foldl_keeps <;> (try intro _ _ _)) | with_reducible apply ite_keeps | split)

theorem execEyeTrack_keeps {s0 s : State} (hs : Keeps s0 s) (stack) (ch) : KeepsOut s0 (execEyeTrack stack ch s) := by
  unfold execEyeTrack
  try dsimp only
  repeat' (first
    | with_reducible assumption | with_reducible apply State.modStack_keeps | with_reducible apply next_keeps
    | with_reducible apply ite_keeps)

theorem State.modTg_keeps {s0 s : State} (hs : Keeps s0 s) (stack) (ch) (f) : Keeps s0 (State.modTg s stack ch f) := by
  unfold State.modTg
  try dsimp only
  repeat' (first | with_reducible assumption | with_reducible apply State.modStack_keeps)

theorem execTgGo_keeps {s0 s : State} (hs : Keeps s0 s) (stack) (ch) : KeepsOut s0 (execTgGo stack ch s) := by
  unfold execTgGo
  try dsimp only
  repeat' (first
    | with_reducible assumption | with_reducible apply State.modTg_keeps | with_reducible apply next_keeps
    | with_reducible apply ite_keeps)

theorem execTgStop_keeps {s0 s : State} (hs : Keeps s0 s) (stack) (ch) : KeepsOut s0 (execTgStop stack ch s) := by
  unfold execTgStop
  try dsimp only
  repeat' (first | with_reducible assumption | with_reducible apply State.modTg_keeps | with_reducible apply next_keeps)

theorem State.tgWrite_keeps {s0 s : State} (hs : Keeps s0 s) (stack) (ch) (pass) (n) : Keeps s0 (State.tgWrite s stack ch pass
    n) := by
  unfold State.tgWrite
  try dsimp only
  repeat' (first | with_reducible assumption | with_reducible apply State.hbmPut_keeps)

theorem State.tgRead_keeps {s0 s : State} (hs : Keeps s0 s) (stack) (ch) (pass) (n) (check) (err) : Keeps s0 (State.tgRead s
    stack ch pass n check err) := by
  unfold State.tgRead
  try dsimp only
  repeat' (first
    | with_reducible assumption | with_reducible apply State.hbmPut_keeps | with_reducible apply State.modTg_keeps
    | with_reducible apply ite_keeps)

theorem State.tgPass_keeps {s0 s : State} (hs : Keeps s0 s) (stack) (ch) (pass) (k) (errs) : Keeps s0 (State.tgPass s stack ch
    pass k errs) := by
  unfold State.tgPass
  try dsimp only
  repeat' (first
    | with_reducible assumption | with_reducible apply State.tgWrite_keeps | with_reducible apply State.tgRead_keeps
    | (with_reducible apply foldl_keeps <;> (try intro _ _ _)))

theorem execTgDone_keeps {s0 s : State} (hs : Keeps s0 s) (stack) (ch) (errs) : KeepsOut s0 (execTgDone stack ch errs s) := by
  unfold execTgDone
  try dsimp only
  repeat' (first
    | with_reducible assumption | with_reducible apply State.freeVal_keeps | with_reducible apply State.tgPass_keeps
    | with_reducible apply State.modTg_keeps | with_reducible apply next_keeps
    | (with_reducible apply foldl_keeps <;> (try intro _ _ _)) | with_reducible apply ite_keeps | split)

theorem execHbmStkClear_keeps {s0 s : State} (hs : Keeps s0 s) (stack) (value) : KeepsOut s0 (execHbmStkClear stack value s)
    := by
  unfold execHbmStkClear
  try dsimp only
  repeat' (first
    | with_reducible assumption | with_reducible apply State.modStack_keeps | with_reducible apply next_keeps
    | with_reducible apply ite_keeps)

theorem execHbmChCntClear_keeps {s0 s : State} (hs : Keeps s0 s) (stack) (ch) (value) : KeepsOut s0 (execHbmChCntClear stack
    ch value s) := by
  unfold execHbmChCntClear
  try dsimp only
  repeat' (first | with_reducible assumption | with_reducible apply State.modStack_keeps | with_reducible apply next_keeps)

theorem State.vmRead_keeps {s0 s : State} (hs : Keeps s0 s) (agent) (coil) (asroot) (va) (n) (k) : Keeps s0 (State.vmRead s
    agent coil asroot va n k).2 := by
  unfold State.vmRead
  try dsimp only
  repeat' (first
    | with_reducible assumption | with_reducible apply State.xlate_keeps | with_reducible apply State.bytesRead_keeps
    | (simp (disch := rfl) only [↓mk_keeps]) | with_reducible refine snd_keeps (by assumption) ?_
    | (with_reducible apply foldl_snd_keeps <;> (try intro _ _ _)) | split)

theorem State.vmPoison_keeps {s0 s : State} (hs : Keeps s0 s) (agent) (e) : Keeps s0 (State.vmPoison s agent e) := by
  unfold State.vmPoison
  try dsimp only
  repeat' (first | with_reducible assumption | with_reducible apply State.poisonUse_keeps | split)

theorem State.vmWrite_keeps {s0 s : State} (hs : Keeps s0 s) (c) (va) (bs) (k) : Keeps s0 (State.vmWrite s c va bs k).2 := by
  unfold State.vmWrite
  try dsimp only
  repeat' (first
    | with_reducible assumption | with_reducible apply State.xlate_keeps | with_reducible apply State.bytesWrite_keeps
    | with_reducible apply State.remoteRequest_keeps | with_reducible apply State.vmPoison_keeps
    | (simp (disch := rfl) only [↓mk_keeps]) | with_reducible refine snd_keeps (by assumption) ?_
    | (with_reducible apply foldl_keeps <;> (try intro _ _ _)) | (with_reducible apply foldl_snd_keeps <;> (try intro _ _ _))
    | split)

theorem State.queueFault_keeps {s0 s : State} (hs : Keeps s0 s) (q) (seq) (f) : Keeps s0 (State.queueFault s q seq f) := by
  unfold State.queueFault
  try dsimp only
  repeat' (first | with_reducible assumption | with_reducible apply State.modQueue_keeps)

theorem State.halt_keeps {s0 s : State} (hs : Keeps s0 s) (q) : Keeps s0 (State.halt s q) := by
  unfold State.halt
  try dsimp only
  repeat' (first | with_reducible assumption | with_reducible apply State.modQueue_keeps)

theorem State.settleQueue_keeps {s0 s : State} (hs : Keeps s0 s) (q) : Keeps s0 (State.settleQueue s q) := by
  unfold State.settleQueue
  try dsimp only
  repeat' (first
    | with_reducible assumption | with_reducible apply State.modQueue_keeps | with_reducible apply State.dropWatch_keeps
    | with_reducible apply ite_keeps)

theorem State.knotOps_keeps {s0 s : State} (hs : Keeps s0 s) (c) (va) (ops) : Keeps s0 (State.knotOps s c va ops).2 := by
  unfold State.knotOps
  try dsimp only
  repeat' (first
    | with_reducible assumption | with_reducible apply State.xlate_keeps | with_reducible apply State.atomWord_keeps
    | with_reducible apply State.poisonUse_keeps | with_reducible apply State.remoteRequest_keeps
    | (simp (disch := rfl) only [↓mk_keeps]) | with_reducible refine snd_keeps (by assumption) ?_
    | (with_reducible apply foldl_keeps <;> (try intro _ _ _)) | (with_reducible apply foldl_snd_keeps <;> (try intro _ _ _))
    | split)

theorem State.signalKnot_keeps {s0 s : State} (hs : Keeps s0 s) (c) (va) (v) (err) : Keeps s0 (State.signalKnot s c va v
    err).2 := by
  unfold State.signalKnot
  try dsimp only
  repeat' (first | with_reducible assumption | with_reducible apply State.knotOps_keeps)

theorem State.knotCheck_keeps {s0 s : State} (hs : Keeps s0 s) (c) (va) : Keeps s0 (State.knotCheck s c va).2 := by
  unfold State.knotCheck
  try dsimp only
  repeat' (first
    | with_reducible assumption | with_reducible apply State.xlate_keeps | with_reducible apply State.vmPoison_keeps
    | (simp (disch := rfl) only [↓mk_keeps]) | with_reducible refine snd_keeps (by assumption) ?_ | split)

theorem State.parkRecord_keeps {s0 s : State} (hs : Keeps s0 s) (park) (bs) : Keeps s0 (State.parkRecord s park bs) := by
  unfold State.parkRecord
  try dsimp only
  repeat' (first
    | with_reducible assumption | with_reducible apply State.logErr_keeps | (simp (disch := rfl) only [↓mk_keeps])
    | with_reducible apply ite_keeps)

theorem State.putRecord_keeps {s0 s : State} (hs : Keeps s0 s) (c) (r) : Keeps s0 (State.putRecord s c r) := by
  unfold State.putRecord
  try dsimp only
  repeat' (first
    | with_reducible assumption | with_reducible apply State.parkRecord_keeps | with_reducible apply State.bytesWrite_keeps
    | (simp (disch := rfl) only [↓mk_keeps]) | with_reducible apply ite_keeps)

theorem State.dmaXlate_keeps {s0 s : State} (hs : Keeps s0 s) (e) (c) (x) (va) (k) : Keeps s0 (State.dmaXlate s e c x va k).2
    := by
  unfold State.dmaXlate
  try dsimp only
  repeat' (first
    | with_reducible assumption | with_reducible apply State.modDma_keeps | with_reducible apply walk_keeps
    | with_reducible apply pteReader_keeps | (simp (disch := rfl) only [↓mk_keeps])
    | with_reducible refine snd2_keeps (by assumption) ?_ | with_reducible intro _ _ | with_reducible intro _ | split)

theorem State.dmaUnread_keeps {s0 s : State} (hs : Keeps s0 s) (e) (c) : Keeps s0 (State.dmaUnread s e c) := by
  unfold State.dmaUnread
  try dsimp only
  repeat' (first | with_reducible assumption | (simp (disch := rfl) only [↓mk_keeps]))

theorem State.dmaDrop_keeps {s0 s : State} (hs : Keeps s0 s) (e) (c) : Keeps s0 (State.dmaDrop s e c) := by
  unfold State.dmaDrop
  try dsimp only
  repeat' (first
    | with_reducible assumption | with_reducible apply State.modDmaCh_keeps | with_reducible apply State.dmaUnread_keeps
    | with_reducible apply State.dropWatch_keeps | (simp (disch := rfl) only [↓mk_keeps]) | split)

theorem State.dmaEnd_keeps {s0 s : State} (hs : Keeps s0 s) (e) (c) (en) : Keeps s0 (State.dmaEnd s e c en) := by
  unfold State.dmaEnd
  try dsimp only
  repeat' (first
    | with_reducible assumption | with_reducible apply State.endCmd_keeps | with_reducible apply State.dmaDrop_keeps | split)

theorem State.dmaBusError_keeps {s0 s : State} (hs : Keeps s0 s) (e) (a) : Keeps s0 (State.dmaBusError s e a) := by
  unfold State.dmaBusError
  try dsimp only
  repeat' (first
    | with_reducible assumption | with_reducible apply State.modDma_keeps | with_reducible apply State.logErr_keeps
    | with_reducible apply State.dmaEnd_keeps | (with_reducible apply foldl_keeps <;> (try intro _ _ _)))

theorem State.dmaFail_keeps {s0 s : State} (hs : Keeps s0 s) (e) (c) (va) (k) (x5) : Keeps s0 (State.dmaFail s e c va k x5) :=
    by
  unfold State.dmaFail
  try dsimp only
  repeat' (first
    | with_reducible assumption | with_reducible apply State.dmaEnd_keeps | with_reducible apply State.dmaBusError_keeps
    | with_reducible apply State.poisonUse_keeps | split)

theorem State.dmaParts_keeps {s0 s : State} (hs : Keeps s0 s) (e) (c) (x) (second) (hostArea) (n) (va) (len) : Keeps s0
    (State.dmaParts s e c x second hostArea n va len).2 := by
  unfold State.dmaParts
  try dsimp only
  repeat' (first
    | with_reducible assumption | with_reducible apply State.dmaXlate_keeps | (simp (disch := rfl) only [↓mk_keeps])
    | with_reducible refine snd_keeps (by assumption) ?_ | (with_reducible apply foldl_snd_keeps <;> (try intro _ _ _))
    | split)

theorem State.dmaAsk_keeps {s0 s : State} (hs : Keeps s0 s) (e) (c) (ps) : Keeps s0 (State.dmaAsk s e c ps) := by
  unfold State.dmaAsk
  try dsimp only
  repeat' (first
    | with_reducible assumption | with_reducible apply State.remoteRequest_keeps
    | (with_reducible apply foldl_keeps <;> (try intro _ _ _)) | split)

theorem State.dmaIssue_keeps {s0 s : State} (hs : Keeps s0 s) (e) (c) (x) : KeepsOpt s0 (State.dmaIssue s e c x) := by
  unfold State.dmaIssue
  try dsimp only
  repeat' (first
    | with_reducible assumption | with_reducible apply State.modDmaCh_keeps | with_reducible apply State.dmaAsk_keeps
    | with_reducible apply State.dmaParts_keeps | with_reducible apply State.dmaFail_keeps
    | with_reducible refine snd_keeps (by assumption) ?_ | with_reducible apply is_some_keeps
    | with_reducible exact none_keeps | split)

theorem State.dmaPace_keeps {s0 s : State} (hs : Keeps s0 s) (e) (c) : Keeps s0 (State.dmaPace s e c) := by
  unfold State.dmaPace
  try dsimp only
  repeat' (first
    | with_reducible assumption | with_reducible apply State.modDmaCh_keeps | with_reducible apply State.dmaBusError_keeps
    | with_reducible apply State.bytesRead_keeps | with_reducible apply State.dmaEnd_keeps
    | with_reducible apply State.poisonUse_keeps | with_reducible refine snd_keeps (by assumption) ?_
    | with_reducible apply ite_keeps | split)

theorem State.dmaActivate_keeps {s0 s : State} (hs : Keeps s0 s) (e) (c) (x) : Keeps s0 (State.dmaActivate s e c x) := by
  unfold State.dmaActivate
  try dsimp only
  repeat' (first
    | with_reducible assumption | with_reducible apply State.modDmaCh_keeps | with_reducible apply State.dmaEnd_keeps
    | with_reducible apply State.addWatch_keeps | with_reducible apply State.dmaPace_keeps | with_reducible apply ite_keeps
    | split)

theorem State.dmaStep_keeps {s0 s : State} (hs : Keeps s0 s) (e) (c) : KeepsOpt s0 (State.dmaStep s e c) := by
  unfold State.dmaStep
  try dsimp only
  repeat' (first
    | with_reducible assumption | with_reducible apply State.modDmaCh_keeps | with_reducible apply State.dmaActivate_keeps
    | with_reducible apply State.dmaIssue_keeps | with_reducible apply is_some_keeps | with_reducible exact none_keeps
    | split)

theorem State.dmaRunGo_keeps {s0 x3 : State} (hs : Keeps s0 x3) (e) (c) (x2) : Keeps s0 (State.dmaRunGo e c x2 x3) := by
  induction x2 generalizing x3 with
  | zero =>
    unfold State.dmaRunGo
    try dsimp only
    repeat' (first
      | with_reducible assumption)
  | succ n ih =>
    unfold State.dmaRunGo
    try dsimp only
    repeat' (first
      | with_reducible apply ih
      | with_reducible assumption
      | (with_reducible apply State.dmaStep_keeps)
      | with_reducible refine some_keeps (by assumption) ?_
      | split)

theorem State.dmaRun_keeps {s0 s : State} (hs : Keeps s0 s) (e) (c) : Keeps s0 (State.dmaRun s e c) := by
  unfold State.dmaRun
  try dsimp only
  repeat' (first | with_reducible assumption | with_reducible apply State.dmaRunGo_keeps)

theorem State.freeBytes_keeps {s0 x1 : State} (hs : Keeps s0 x1) (x0) : Keeps s0 (State.freeBytes x0 x1).2 := by
  induction x0 generalizing x1 with
  | zero =>
    unfold State.freeBytes
    try dsimp only
    repeat' (first
      | with_reducible assumption)
  | succ n ih =>
    unfold State.freeBytes
    try dsimp only
    repeat' (first
      | with_reducible apply ih
      | with_reducible assumption
      | (with_reducible apply State.freeVal_keeps))

theorem State.dmaLine_keeps {s0 s : State} (hs : Keeps s0 s) (e) (x) (a) (nc) (bs) : Keeps s0 (State.dmaLine s e x a nc bs) :=
    by
  unfold State.dmaLine
  try dsimp only
  repeat' (first
    | with_reducible assumption | with_reducible apply State.transact_keeps | with_reducible apply State.bytesWrite_keeps
    | (simp (disch := rfl) only [↓mk_keeps]) | with_reducible apply ite_keeps | split)

theorem State.dmaWrite_keeps {s0 s : State} (hs : Keeps s0 s) (e) (c) (x) (n) (bs) : Keeps s0 (State.dmaWrite s e c x n bs).2
    := by
  unfold State.dmaWrite
  try dsimp only
  repeat' (first
    | with_reducible assumption | with_reducible apply State.dmaXlate_keeps | with_reducible apply State.dmaLine_keeps
    | with_reducible apply State.remoteRequest_keeps | with_reducible apply State.dmaFail_keeps
    | (simp (disch := rfl) only [↓mk_keeps]) | with_reducible refine snd_keeps (by assumption) ?_
    | (with_reducible apply foldl_keeps <;> (try intro _ _ _)) | (with_reducible apply foldl_snd_keeps <;> (try intro _ _ _))
    | split)

theorem State.dmaPoison_keeps {s0 s : State} (hs : Keeps s0 s) (e) (c) (x) (p) : Keeps s0 (State.dmaPoison s e c x p) := by
  unfold State.dmaPoison
  try dsimp only
  repeat' (first | with_reducible assumption | with_reducible apply State.dmaFail_keeps)

theorem State.dmaLand_keeps {s0 s : State} (hs : Keeps s0 s) (e) (c) (x) (b) : Keeps s0 (State.dmaLand s e c x b).2 := by
  unfold State.dmaLand
  try dsimp only
  repeat' (first
    | with_reducible assumption | with_reducible apply State.modDmaCh_keeps | with_reducible apply State.dmaWrite_keeps
    | with_reducible apply State.freeBytes_keeps | with_reducible apply State.dmaPoison_keeps
    | with_reducible apply State.dmaUnread_keeps | (simp (disch := rfl) only [↓mk_keeps])
    | with_reducible refine snd_keeps (by assumption) ?_ | split)

theorem State.dmaDrain_keeps {s0 x3 : State} (hs : Keeps s0 x3) (e) (c) (x2) : Keeps s0 (State.dmaDrain e c x2 x3) := by
  induction x2 generalizing x3 with
  | zero =>
    unfold State.dmaDrain
    try dsimp only
    repeat' (first
      | with_reducible assumption)
  | succ n ih =>
    unfold State.dmaDrain
    try dsimp only
    repeat' (first
      | with_reducible apply ih
      | with_reducible assumption
      | (with_reducible apply State.dmaLand_keeps)
      | with_reducible refine snd_keeps (by assumption) ?_
      | split)

theorem State.dmaSubmit_keeps {s0 s : State} (hs : Keeps s0 s) (e) (c) (x) : Keeps s0 (State.dmaSubmit s e c x) := by
  unfold State.dmaSubmit
  try dsimp only
  repeat' (first
    | with_reducible assumption | with_reducible apply State.endCmd_keeps | with_reducible apply State.dmaRun_keeps
    | with_reducible apply State.modDmaCh_keeps | with_reducible apply ite_keeps)

theorem State.dmaStop_keeps {s0 s : State} (hs : Keeps s0 s) (e) (c) (id) : Keeps s0 (State.dmaStop s e c id) := by
  unfold State.dmaStop
  try dsimp only
  repeat' (first
    | with_reducible assumption | with_reducible apply State.dmaDrop_keeps | with_reducible apply State.dmaRun_keeps
    | with_reducible apply State.modDmaCh_keeps | with_reducible apply ite_keeps)

theorem State.dmaFill_keeps {s0 x3 : State} (hs : Keeps s0 x3) (e) (c) (x2) : Keeps s0 (State.dmaFill e c x2 x3) := by
  induction x2 generalizing x3 with
  | zero =>
    unfold State.dmaFill
    try dsimp only
    repeat' (first
      | with_reducible assumption)
  | succ n ih =>
    unfold State.dmaFill
    try dsimp only
    repeat' (first
      | with_reducible apply ih
      | with_reducible assumption
      | (with_reducible apply State.dmaRun_keeps)
      | (with_reducible apply State.dmaDrain_keeps)
      | with_reducible apply ite_keeps)

theorem State.dmaFinish_keeps {s0 s : State} (hs : Keeps s0 s) (e) (c) : Keeps s0 (State.dmaFinish s e c) := by
  unfold State.dmaFinish
  try dsimp only
  repeat' (first
    | with_reducible assumption | with_reducible apply State.modDmaCh_keeps | with_reducible apply State.dmaEnd_keeps
    | with_reducible apply ite_keeps | split)

theorem State.dmaPart_keeps {s0 s : State} (hs : Keeps s0 s) (e) (c) (ext) (p) : Keeps s0 (State.dmaPart s e c ext p).2.2 :=
    by
  unfold State.dmaPart
  try dsimp only
  repeat' (first
    | with_reducible assumption | with_reducible apply State.bytesRead_keeps | (simp (disch := rfl) only [↓mk_keeps])
    | with_reducible refine snd_keeps (by assumption) ?_ | split)

theorem State.dmaArrived_keeps {s0 s : State} (hs : Keeps s0 s) (e) (c) : Keeps s0 (State.dmaArrived s e c) := by
  unfold State.dmaArrived
  try dsimp only
  repeat' (first
    | with_reducible assumption | with_reducible apply State.modDmaCh_keeps | with_reducible apply State.dmaRun_keeps
    | with_reducible apply State.dmaDrain_keeps)

theorem execDmaBurstData_keeps {s0 s : State} (hs : Keeps s0 s) (e) (c) (i) (ext) : KeepsOut s0 (execDmaBurstData e c i ext s)
    := by
  unfold execDmaBurstData
  try dsimp only
  repeat' (first
    | with_reducible assumption | with_reducible apply State.dmaBusError_keeps | with_reducible apply State.dmaPart_keeps
    | with_reducible apply State.modDmaCh_keeps | with_reducible apply State.dmaArrived_keeps
    | with_reducible apply next_keeps | (with_reducible apply foldl_snd2_keeps <;> (try intro _ _ _))
    | with_reducible apply ite_keeps | split)

theorem execDmaTransferComplete_keeps {s0 s : State} (hs : Keeps s0 s) (e) (c) : KeepsOut s0 (execDmaTransferComplete e c s)
    := by
  unfold execDmaTransferComplete
  try dsimp only
  repeat' (first
    | with_reducible assumption | with_reducible apply State.dmaFill_keeps | with_reducible apply State.dmaRun_keeps
    | with_reducible apply State.dmaFinish_keeps | with_reducible apply next_keeps | with_reducible apply ite_keeps | split)

theorem execDmaBusError_keeps {s0 s : State} (hs : Keeps s0 s) (e) (addr) : KeepsOut s0 (execDmaBusError e addr s) := by
  unfold execDmaBusError
  try dsimp only
  repeat' (first
    | with_reducible assumption | with_reducible apply State.dmaBusError_keeps | with_reducible apply next_keeps
    | with_reducible apply ite_keeps)

theorem execDmaBusErrDrain_keeps {s0 s : State} (hs : Keeps s0 s) (e) : KeepsOut s0 (execDmaBusErrDrain e s) := by
  unfold execDmaBusErrDrain
  try dsimp only
  repeat' (first
    | with_reducible assumption | with_reducible apply State.dmaRun_keeps | with_reducible apply State.modDma_keeps
    | with_reducible apply next_keeps | (with_reducible apply foldl_keeps <;> (try intro _ _ _))
    | with_reducible apply ite_keeps)

theorem execStarved_keeps {s0 s : State} (hs : Keeps s0 s) (e) (c) : KeepsOut s0 (execStarved e c s) := by
  unfold execStarved
  try dsimp only
  repeat' (first
    | with_reducible assumption | with_reducible apply State.logErr_keeps | with_reducible apply State.modDmaCh_keeps
    | with_reducible apply next_keeps | with_reducible apply ite_keeps)

theorem execPaceRead_keeps {s0 s : State} (hs : Keeps s0 s) (e) (c) : KeepsOut s0 (execPaceRead e c s) := by
  unfold execPaceRead
  try dsimp only
  repeat' (first
    | with_reducible assumption | with_reducible apply State.dmaRun_keeps | with_reducible apply State.attempt_keeps
    | with_reducible apply State.dmaPace_keeps | with_reducible apply next_keeps | with_reducible apply ite_keeps)

theorem execDmaChDisable_keeps {s0 s : State} (hs : Keeps s0 s) (e) (c) : KeepsOut s0 (execDmaChDisable e c s) := by
  unfold execDmaChDisable
  try dsimp only
  repeat' (first
    | with_reducible assumption | with_reducible apply State.dmaFinish_keeps | with_reducible apply State.modDmaCh_keeps
    | with_reducible apply State.dmaEnd_keeps | with_reducible apply State.endCmd_keeps
    | with_reducible apply State.freeVal_keeps | with_reducible apply next_keeps | with_reducible apply ite_keeps | split)

theorem execDmaChEnable_keeps {s0 s : State} (hs : Keeps s0 s) (e) (c) : KeepsOut s0 (execDmaChEnable e c s) := by
  unfold execDmaChEnable
  try dsimp only
  repeat' (first
    | with_reducible assumption | with_reducible apply State.dmaRun_keeps | with_reducible apply State.modDmaCh_keeps
    | with_reducible apply next_keeps)

theorem State.bendAbort_keeps {s0 s : State} (hs : Keeps s0 s) (b) (k) (status) : Keeps s0 (State.bendAbort s b k status) :=
    by
  unfold State.bendAbort
  try dsimp only
  repeat' (first
    | with_reducible assumption | with_reducible apply State.sendPacket_keeps | with_reducible apply State.modBend_keeps
    | (with_reducible apply foldl_keeps <;> (try intro _ _ _)) | with_reducible apply ite_keeps)

theorem State.bendFail_keeps {s0 s : State} (hs : Keeps s0 s) (b) (k) (e) : Keeps s0 (State.bendFail s b k e) := by
  unfold State.bendFail
  try dsimp only
  repeat' (first
    | with_reducible assumption | with_reducible apply State.endCmd_keeps | with_reducible apply State.bendAbort_keeps
    | with_reducible apply State.modBend_keeps)

theorem State.bendTake_keeps {s0 s : State} (hs : Keeps s0 s) (b) (k) (x) : Keeps s0 (State.bendTake s b k x) := by
  unfold State.bendTake
  try dsimp only
  repeat' (first
    | with_reducible assumption | with_reducible apply State.bendFail_keeps | with_reducible apply State.modBend_keeps
    | with_reducible apply ite_keeps)

theorem State.bendStart_keeps {s0 s : State} (hs : Keeps s0 s) (b) (k) : Keeps s0 (State.bendStart s b k) := by
  unfold State.bendStart
  try dsimp only
  repeat' (first
    | with_reducible assumption | with_reducible apply State.vmRead_keeps | with_reducible apply State.sendPacket_keeps
    | with_reducible apply State.modBend_keeps | with_reducible apply State.bendTake_keeps
    | with_reducible apply State.bendFail_keeps | with_reducible apply State.vmPoison_keeps
    | with_reducible refine snd_keeps (by assumption) ?_ | (with_reducible apply foldl_keeps <;> (try intro _ _ _))
    | with_reducible apply ite_keeps | split)

theorem State.bendStep_keeps {s0 s : State} (hs : Keeps s0 s) (b) : KeepsOpt s0 (State.bendStep s b) := by
  unfold State.bendStep
  try dsimp only
  repeat' (first
    | with_reducible assumption | with_reducible apply State.modBend_keeps | with_reducible apply State.bendStart_keeps
    | with_reducible apply is_some_keeps | with_reducible exact none_keeps | with_reducible apply findSome_keeps
    | with_reducible intro _ | split)

theorem State.bendRunGo_keeps {s0 x2 : State} (hs : Keeps s0 x2) (b) (x1) : Keeps s0 (State.bendRunGo b x1 x2) := by
  induction x1 generalizing x2 with
  | zero =>
    unfold State.bendRunGo
    try dsimp only
    repeat' (first
      | with_reducible assumption)
  | succ n ih =>
    unfold State.bendRunGo
    try dsimp only
    repeat' (first
      | with_reducible apply ih
      | with_reducible assumption
      | (with_reducible apply State.bendStep_keeps)
      | with_reducible refine some_keeps (by assumption) ?_
      | split)

theorem State.bendRun_keeps {s0 s : State} (hs : Keeps s0 s) (b) : Keeps s0 (State.bendRun s b) := by
  unfold State.bendRun
  try dsimp only
  repeat' (first | with_reducible assumption | with_reducible apply State.bendRunGo_keeps)

theorem State.bendRange_keeps {s0 s : State} (hs : Keeps s0 s) (c) (va) (n) (k) : Keeps s0 (State.bendRange s c va n k).2 :=
    by
  unfold State.bendRange
  try dsimp only
  repeat' (first
    | with_reducible assumption | with_reducible apply State.xlate_keeps | with_reducible apply State.vmPoison_keeps
    | (simp (disch := rfl) only [↓mk_keeps]) | with_reducible refine snd_keeps (by assumption) ?_
    | (with_reducible apply foldl_snd_keeps <;> (try intro _ _ _)) | split)

theorem State.bendSubmit_keeps {s0 s : State} (hs : Keeps s0 s) (b) (c) (body) : Keeps s0 (State.bendSubmit s b c body) := by
  unfold State.bendSubmit
  try dsimp only
  repeat' (first
    | with_reducible assumption | with_reducible apply State.endCmd_keeps | with_reducible apply State.xlate_keeps
    | with_reducible apply State.vmRead_keeps | with_reducible apply State.bendRange_keeps
    | with_reducible apply State.atomWord_keeps | with_reducible apply State.vmPoison_keeps
    | with_reducible apply State.modBend_keeps | with_reducible apply State.bendFail_keeps
    | with_reducible apply State.bendRun_keeps | with_reducible refine snd_keeps (by assumption) ?_
    | with_reducible apply ite_keeps | split)

theorem State.bendStop_keeps {s0 s : State} (hs : Keeps s0 s) (b) (cmd) (status) : Keeps s0 (State.bendStop s b cmd status) :=
    by
  unfold State.bendStop
  try dsimp only
  repeat' (first
    | with_reducible assumption | with_reducible apply State.bendRun_keeps | with_reducible apply State.bendAbort_keeps
    | with_reducible apply State.modBend_keeps | split)

theorem State.bendPeerGone_keeps {s0 s : State} (hs : Keeps s0 s) (p) : Keeps s0 (State.bendPeerGone s p) := by
  unfold State.bendPeerGone
  try dsimp only
  repeat' (first
    | with_reducible assumption | with_reducible apply State.bendRun_keeps | with_reducible apply State.bendFail_keeps
    | (with_reducible apply foldl_keeps <;> (try intro _ _ _)))

theorem State.bendAborted_keeps {s0 s : State} (hs : Keeps s0 s) (b) (group) (tag) (number) : Keeps s0 (State.bendAborted s b
    group tag number) := by
  unfold State.bendAborted
  try dsimp only
  repeat' (first
    | with_reducible assumption | with_reducible apply State.bendRun_keeps | with_reducible apply State.bendFail_keeps
    | with_reducible apply State.modBend_keeps | split)

theorem State.bendArrive_keeps {s0 s : State} (hs : Keeps s0 s) (b) (x) : Keeps s0 (State.bendArrive s b x) := by
  unfold State.bendArrive
  try dsimp only
  repeat' (first
    | with_reducible assumption | with_reducible apply State.bendRun_keeps | with_reducible apply State.bendTake_keeps
    | with_reducible apply State.modBend_keeps | with_reducible apply ite_keeps | split)

theorem State.bendPart_keeps {s0 s : State} (hs : Keeps s0 s) (b) (payload) : Keeps s0 (State.bendPart s b payload) := by
  unfold State.bendPart
  try dsimp only
  repeat' (first
    | with_reducible assumption | with_reducible apply State.modBend_keeps | with_reducible apply State.bendArrive_keeps
    | with_reducible apply ite_keeps)

theorem execBendPacket_keeps {s0 s : State} (hs : Keeps s0 s) (b) (x) : KeepsOut s0 (execBendPacket b x s) := by
  unfold execBendPacket
  try dsimp only
  repeat' (first
    | with_reducible assumption | with_reducible apply State.bendArrive_keeps | with_reducible apply next_keeps
    | with_reducible apply ite_keeps)

theorem execAbort_keeps {s0 s : State} (hs : Keeps s0 s) (b) (group) (tag) (number) (status) : KeepsOut s0 (execAbort b group
    tag number status s) := by
  unfold execAbort
  try dsimp only
  repeat' (first
    | with_reducible assumption | with_reducible apply State.bendAborted_keeps | with_reducible apply next_keeps
    | with_reducible apply ite_keeps)

theorem execCollectiveComplete_keeps {s0 s : State} (hs : Keeps s0 s) (b) (cmd) : KeepsOut s0 (execCollectiveComplete b cmd s)
    := by
  unfold execCollectiveComplete
  try dsimp only
  repeat' (first
    | with_reducible assumption | with_reducible apply State.attempt_keeps | with_reducible apply State.bendRun_keeps
    | with_reducible apply State.vmWrite_keeps | with_reducible apply State.endCmd_keeps
    | with_reducible apply State.modBend_keeps | with_reducible apply State.bendFail_keeps | with_reducible apply next_keeps
    | with_reducible refine snd_keeps (by assumption) ?_ | with_reducible apply ite_keeps | split)

theorem execBndCntClear_keeps {s0 s : State} (hs : Keeps s0 s) (b) (value) : KeepsOut s0 (execBndCntClear b value s) := by
  unfold execBndCntClear
  try dsimp only
  repeat' (first | with_reducible assumption | with_reducible apply State.modBend_keeps | with_reducible apply next_keeps)

theorem State.changeSplit_keeps {s0 s : State} (hs : Keeps s0 s) (u) (code) : Keeps s0 (State.changeSplit s u code) := by
  unfold State.changeSplit
  try dsimp only
  repeat' (first | with_reducible assumption | with_reducible apply State.modUnit_keeps | with_reducible apply ite_keeps)

theorem execHankDispatch_keeps {s0 s : State} (hs : Keeps s0 s) (cmd) : KeepsOut s0 (execHankDispatch cmd s) := by
  unfold execHankDispatch
  try dsimp only
  repeat' (first
    | with_reducible assumption | with_reducible apply State.drainWc_keeps | with_reducible apply State.changeSplit_keeps
    | with_reducible apply State.l1Acquire_keeps | with_reducible apply State.modUnit_keeps
    | with_reducible apply State.modLaunch_keeps | with_reducible apply State.modDom_keeps
    | with_reducible apply State.fetchAhead_keeps | with_reducible apply next_keeps | with_reducible apply lastUnit_keeps
    | (with_reducible apply foldl_keeps <;> (try intro _ _ _)) | with_reducible apply ite_keeps | split)

theorem execHankEnd_keeps {s0 s : State} (hs : Keeps s0 s) (u) (launch) (hank) : KeepsOut s0 (execHankEnd u launch hank s) :=
    by
  unfold execHankEnd
  try dsimp only
  repeat' (first
    | with_reducible assumption | with_reducible apply State.drainWc_keeps | with_reducible apply State.modLaunch_keeps
    | with_reducible apply State.freeHank_keeps | with_reducible apply State.endCmd_keeps | with_reducible apply next_keeps
    | with_reducible apply ite_keeps | split)

theorem State.admitCheck_keeps {s0 s : State} (hs : Keeps s0 s) (op) (c) (k) (kind) : Keeps s0 (State.admitCheck s op c k
    kind).2 := by
  unfold State.admitCheck
  try dsimp only
  repeat' (first
    | with_reducible assumption | with_reducible apply State.knotCheck_keeps
    | (with_reducible apply foldl_snd_keeps <;> (try intro _ _ _)) | split)

theorem State.launchWith_keeps {s0 s : State} (hs : Keeps s0 s) (id) (bytes) (args) (hankCount) (rerun) : Keeps s0
    (State.launchWith s id bytes args hankCount rerun) := by
  unfold State.launchWith
  try dsimp only
  repeat' (first
    | with_reducible assumption | with_reducible apply State.modCmd_keeps | with_reducible apply State.endCmd_keeps
    | with_reducible apply ite_keeps | split)

theorem State.launchAdmit_keeps {s0 s : State} (hs : Keeps s0 s) (k) (c) : Keeps s0 (State.launchAdmit s k c) := by
  unfold State.launchAdmit
  try dsimp only
  repeat' (first
    | with_reducible assumption | with_reducible apply State.vmRead_keeps | with_reducible apply State.launchWith_keeps
    | with_reducible apply State.endCmd_keeps | with_reducible apply State.remoteRequest_keeps
    | with_reducible apply State.modCmd_keeps | with_reducible apply State.vmPoison_keeps
    | with_reducible refine snd_keeps (by assumption) ?_ | with_reducible apply ite_keeps | split)

theorem State.markGo_keeps {s0 s : State} (hs : Keeps s0 s) (k) (va) : Keeps s0 (State.markGo s k va) := by
  unfold State.markGo
  try dsimp only
  repeat' (first
    | with_reducible assumption | with_reducible apply State.vmWrite_keeps | with_reducible apply State.endCmd_keeps
    | with_reducible refine snd_keeps (by assumption) ?_ | split)

theorem State.hintGo_keeps {s0 s : State} (hs : Keeps s0 s) (k) (c) (heavy) : Keeps s0 (State.hintGo s k c heavy) := by
  unfold State.hintGo
  try dsimp only
  repeat' (first
    | with_reducible assumption | with_reducible apply State.endCmd_keeps | (simp (disch := rfl) only [↓mk_keeps]))

theorem State.caneAt_keeps {s0 s : State} (hs : Keeps s0 s) (k) (va) (acc) : Keeps s0 (State.caneAt s k va acc).2 := by
  unfold State.caneAt
  try dsimp only
  repeat' (first
    | with_reducible assumption | with_reducible apply State.xlate_keeps | with_reducible apply State.vmPoison_keeps
    | with_reducible apply walk_keeps | with_reducible apply pteReader_keeps | (simp (disch := rfl) only [↓mk_keeps])
    | with_reducible refine snd_keeps (by assumption) ?_ | with_reducible refine snd2_keeps (by assumption) ?_
    | with_reducible intro _ _ | with_reducible intro _ | split)

theorem State.readNode_keeps {s0 s : State} (hs : Keeps s0 s) (k) (nodes) (va) : Keeps s0 (State.readNode s k nodes va).2 :=
    by
  unfold State.readNode
  try dsimp only
  repeat' (first
    | with_reducible assumption | with_reducible apply State.vmRead_keeps | with_reducible apply State.vmPoison_keeps
    | (simp (disch := rfl) only [↓mk_keeps]) | with_reducible refine snd_keeps (by assumption) ?_ | split)

theorem State.zeroKnots_keeps {s0 s : State} (hs : Keeps s0 s) (k) (va) (nodes) : Keeps s0 (State.zeroKnots s k va nodes).2 :=
    by
  unfold State.zeroKnots
  try dsimp only
  repeat' (first | with_reducible assumption | with_reducible apply State.vmWrite_keeps)

theorem State.scratchAt_keeps {s0 s : State} (hs : Keeps s0 s) (k) (va) (nodes) : Keeps s0 (State.scratchAt s k va nodes).2 :=
    by
  unfold State.scratchAt
  try dsimp only
  repeat' (first
    | with_reducible assumption | with_reducible apply State.caneAt_keeps | (simp (disch := rfl) only [↓mk_keeps])
    | with_reducible refine snd_keeps (by assumption) ?_ | (with_reducible apply foldl_snd_keeps <;> (try intro _ _ _))
    | split)

theorem State.caneRetire_keeps {s0 s : State} (hs : Keeps s0 s) (k) (header) (nc) (slot) : Keeps s0 (State.caneRetire s k
    header nc slot) := by
  unfold State.caneRetire
  try dsimp only
  repeat' (first
    | with_reducible assumption | with_reducible apply State.bytesWrite_keeps | with_reducible apply State.bytesRead_keeps
    | with_reducible apply State.signalKnot_keeps | with_reducible refine snd_keeps (by assumption) ?_
    | with_reducible apply ite_keeps | split)

theorem State.caneRelease_keeps {s0 s : State} (hs : Keeps s0 s) (k) (header) (nc) (slot) (retire) : Keeps s0
    (State.caneRelease s k header nc slot retire) := by
  unfold State.caneRelease
  try dsimp only
  repeat' (first
    | with_reducible assumption | with_reducible apply State.atomWord_keeps | with_reducible apply State.caneRetire_keeps
    | with_reducible refine snd_keeps (by assumption) ?_ | with_reducible apply ite_keeps | split)

theorem State.caneAdmit_keeps {s0 s : State} (hs : Keeps s0 s) (k) (c) : Keeps s0 (State.caneAdmit s k c) := by
  unfold State.caneAdmit
  try dsimp only
  repeat' (first
    | with_reducible assumption | with_reducible apply State.caneAt_keeps | with_reducible apply State.endCmd_keeps
    | with_reducible apply State.bytesRead_keeps | with_reducible apply State.atomWord_keeps
    | with_reducible apply State.caneRelease_keeps | with_reducible apply State.scratchAt_keeps
    | with_reducible apply State.vmRead_keeps | with_reducible apply State.zeroKnots_keeps
    | with_reducible apply State.readNode_keeps | with_reducible apply State.modCmd_keeps
    | with_reducible apply State.vmPoison_keeps | (simp (disch := rfl) only [↓mk_keeps])
    | with_reducible refine snd_keeps (by assumption) ?_ | (with_reducible apply foldl_snd_keeps <;> (try intro _ _ _))
    | with_reducible apply ite_keeps | split)

theorem State.canePublish_keeps {s0 s : State} (hs : Keeps s0 s) (k) (c) : Keeps s0 (State.canePublish s k c) := by
  unfold State.canePublish
  try dsimp only
  repeat' (first
    | with_reducible assumption | with_reducible apply State.caneAt_keeps | with_reducible apply State.endCmd_keeps
    | with_reducible apply State.bytesRead_keeps | with_reducible apply State.atomWord_keeps
    | with_reducible apply State.caneRetire_keeps | with_reducible apply State.vmPoison_keeps
    | with_reducible refine snd_keeps (by assumption) ?_ | with_reducible apply ite_keeps | split)

theorem State.closeWindow_keeps {s0 s : State} (hs : Keeps s0 s) (q) : Keeps s0 (State.closeWindow s q).2 := by
  unfold State.closeWindow
  try dsimp only
  repeat' (first | with_reducible assumption | with_reducible apply State.modQueue_keeps)

theorem State.admitAct_keeps {s0 s : State} (hs : Keeps s0 s) (op) (c) (k) : Keeps s0 (State.admitAct s op c k) := by
  unfold State.admitAct
  try dsimp only
  repeat' (first
    | with_reducible assumption | with_reducible apply State.modCmd_keeps | with_reducible apply State.launchAdmit_keeps
    | with_reducible apply State.caneAdmit_keeps | with_reducible apply State.canePublish_keeps
    | with_reducible apply State.endCmd_keeps | with_reducible apply State.dmaSubmit_keeps
    | with_reducible apply State.bendSubmit_keeps | with_reducible apply State.closeWindow_keeps
    | with_reducible apply State.hintGo_keeps | with_reducible apply State.markGo_keeps | with_reducible apply ite_keeps
    | split)

theorem State.admitGo_keeps {s0 s : State} (hs : Keeps s0 s) (op) (c) (k) (kind) : Keeps s0 (State.admitGo s op c k kind) :=
    by
  unfold State.admitGo
  try dsimp only
  repeat' (first
    | with_reducible assumption | with_reducible apply State.admitCheck_keeps | with_reducible apply State.modCmd_keeps
    | with_reducible apply State.endCmd_keeps | with_reducible apply State.admitAct_keeps
    | with_reducible refine snd_keeps (by assumption) ?_ | with_reducible apply ite_keeps | split)

theorem State.addCmd_keeps {s0 s : State} (hs : Keeps s0 s) (k) : Keeps s0 (State.addCmd s k) := by
  unfold State.addCmd
  try dsimp only
  repeat' (first | with_reducible assumption | (simp (disch := rfl) only [↓mk_keeps]))

theorem State.passTurn_keeps {s0 s : State} (hs : Keeps s0 s) (q) : Keeps s0 (State.passTurn s q) := by
  unfold State.passTurn
  try dsimp only
  repeat' (first | with_reducible assumption | with_reducible apply nextQueue_keeps)

theorem State.modCane_keeps {s0 s : State} (hs : Keeps s0 s) (id) (f) : Keeps s0 (State.modCane s id f) := by
  unfold State.modCane
  try dsimp only
  repeat' (first | with_reducible assumption | with_reducible apply State.modCmd_keeps)

theorem State.modNode_keeps {s0 s : State} (hs : Keeps s0 s) (id) (i) (f) : Keeps s0 (State.modNode s id i f) := by
  unfold State.modNode
  try dsimp only
  repeat' (first | with_reducible assumption | with_reducible apply State.modCane_keeps)

theorem State.startNode_keeps {s0 s : State} (hs : Keeps s0 s) (id) (i) : Keeps s0 (State.startNode s id i) := by
  unfold State.startNode
  try dsimp only
  repeat' (first
    | with_reducible assumption | with_reducible apply State.modNode_keeps | with_reducible apply State.addCmd_keeps
    | with_reducible apply State.attempt_keeps | with_reducible apply State.endCmd_keeps
    | with_reducible apply State.admitGo_keeps | with_reducible apply ite_keeps | split)

theorem State.startNodes_keeps {s0 s : State} (hs : Keeps s0 s) (id) : Keeps s0 (State.startNodes s id) := by
  unfold State.startNodes
  try dsimp only
  repeat' (first
    | with_reducible assumption | with_reducible apply State.startNode_keeps
    | (with_reducible apply foldl_keeps <;> (try intro _ _ _)) | split)

theorem State.admitCmd_keeps {s0 s : State} (hs : Keeps s0 s) (q) (op) (c) : Keeps s0 (State.admitCmd s q op c) := by
  unfold State.admitCmd
  try dsimp only
  repeat' (first
    | with_reducible assumption | with_reducible apply State.passTurn_keeps | with_reducible apply State.modQueue_keeps
    | with_reducible apply State.addCmd_keeps | with_reducible apply State.startNodes_keeps
    | with_reducible apply State.attempt_keeps | with_reducible apply State.admitGo_keeps | with_reducible apply ite_keeps)

theorem State.writeReport_keeps {s0 s : State} (hs : Keeps s0 s) (c) (l) : Keeps s0 (State.writeReport s c l) := by
  unfold State.writeReport
  try dsimp only
  repeat' (first
    | with_reducible assumption | with_reducible apply State.vmWrite_keeps | with_reducible apply State.modCmd_keeps
    | with_reducible refine snd_keeps (by assumption) ?_ | with_reducible apply ite_keeps | split)

theorem State.cancelNode_keeps {s0 s : State} (hs : Keeps s0 s) (k) (i) (n) : Keeps s0 (State.cancelNode s k i n) := by
  unfold State.cancelNode
  try dsimp only
  repeat' (first
    | with_reducible assumption | with_reducible apply State.signalKnot_keeps | with_reducible apply State.modNode_keeps
    | split)

theorem State.feedNode_keeps {s0 s : State} (hs : Keeps s0 s) (k) (scratch) (j) : Keeps s0 (State.feedNode s k scratch j) :=
    by
  unfold State.feedNode
  try dsimp only
  repeat' (first
    | with_reducible assumption | with_reducible apply State.xlate_keeps | with_reducible apply State.atomWord_keeps
    | with_reducible apply State.modNode_keeps | with_reducible refine snd_keeps (by assumption) ?_ | split)

theorem State.caneCheck_keeps {s0 s : State} (hs : Keeps s0 s) (id) : Keeps s0 (State.caneCheck s id) := by
  unfold State.caneCheck
  try dsimp only
  repeat' (first
    | with_reducible assumption | with_reducible apply State.endCmd_keeps | with_reducible apply ite_keeps | split)

theorem State.nodeDone_keeps {s0 s : State} (hs : Keeps s0 s) (x) (id) (i) (e) (rw) (wit) : Keeps s0 (State.nodeDone s x id i
    e rw wit) := by
  unfold State.nodeDone
  try dsimp only
  repeat' (first
    | with_reducible assumption | with_reducible apply State.modCane_keeps | with_reducible apply State.modNode_keeps
    | with_reducible apply State.feedNode_keeps | with_reducible apply State.cancelNode_keeps
    | with_reducible apply State.caneCheck_keeps | with_reducible apply State.startNodes_keeps
    | (simp (disch := rfl) only [↓mk_keeps]) | (with_reducible apply foldl_keeps <;> (try intro _ _ _))
    | with_reducible apply ite_keeps | split)

theorem State.flushGo_keeps {s0 x2 : State} (hs : Keeps s0 x2) (q) (x1) : Keeps s0 (State.flushGo q x1 x2) := by
  induction x1 generalizing x2 with
  | zero =>
    unfold State.flushGo
    try dsimp only
    repeat' (first
      | with_reducible assumption)
  | succ n ih =>
    unfold State.flushGo
    try dsimp only
    repeat' (first
      | with_reducible apply ih
      | with_reducible assumption
      | (with_reducible apply State.putRecord_keeps)
      | (with_reducible apply State.modQueue_keeps)
      | (with_reducible apply State.raiseIrq_keeps)
      | (simp (disch := rfl) only [↓mk_keeps])
      | with_reducible apply ite_keeps
      | split)

theorem State.flushRecords_keeps {s0 s : State} (hs : Keeps s0 s) (q) : Keeps s0 (State.flushRecords s q) := by
  unfold State.flushRecords
  try dsimp only
  repeat' (first
    | with_reducible assumption | with_reducible apply State.settleQueue_keeps | with_reducible apply State.flushGo_keeps
    | with_reducible apply State.startNodes_keeps | (with_reducible apply foldl_keeps <;> (try intro _ _ _)))

theorem State.orderedWork_keeps {s0 s : State} (hs : Keeps s0 s) (id) : Keeps s0 (State.orderedWork s id) := by
  unfold State.orderedWork
  try dsimp only
  repeat' (first
    | with_reducible assumption | with_reducible apply State.endCmd_keeps | with_reducible apply State.markGo_keeps
    | with_reducible apply ite_keeps | split)

theorem State.stageReport_keeps {s0 s : State} (hs : Keeps s0 s) (id) : Keeps s0 (State.stageReport s id) := by
  unfold State.stageReport
  try dsimp only
  repeat' (first
    | with_reducible assumption | with_reducible apply State.writeReport_keeps | with_reducible apply State.caneRelease_keeps
    | with_reducible apply State.modCmd_keeps | with_reducible apply ite_keeps | split)

theorem State.signalOne_keeps {s0 s : State} (hs : Keeps s0 s) (id) (va) (v) (err) : Keeps s0 (State.signalOne s id va v err)
    := by
  unfold State.signalOne
  try dsimp only
  repeat' (first
    | with_reducible assumption | with_reducible apply State.signalKnot_keeps | with_reducible apply State.modCmd_keeps
    | with_reducible refine snd_keeps (by assumption) ?_ | split)

theorem State.stageSignal_keeps {s0 s : State} (hs : Keeps s0 s) (id) : Keeps s0 (State.stageSignal s id) := by
  unfold State.stageSignal
  try dsimp only
  repeat' (first
    | with_reducible assumption | with_reducible apply State.signalOne_keeps | with_reducible apply State.modCmd_keeps
    | with_reducible apply ite_keeps | split)

theorem State.windowFail_keeps {s0 s : State} (hs : Keeps s0 s) (c) : Keeps s0 (State.windowFail s c) := by
  unfold State.windowFail
  try dsimp only
  repeat' (first
    | with_reducible assumption | with_reducible apply State.modQueue_keeps | (simp (disch := rfl) only [↓mk_keeps]))

theorem State.stageDone_keeps {s0 s : State} (hs : Keeps s0 s) (id) : Keeps s0 (State.stageDone s id) := by
  unfold State.stageDone
  try dsimp only
  repeat' (first
    | with_reducible assumption | with_reducible apply State.nodeDone_keeps | with_reducible apply State.modCmd_keeps
    | with_reducible apply State.modQueue_keeps | with_reducible apply State.queueFault_keeps
    | with_reducible apply State.windowFail_keeps | with_reducible apply State.halt_keeps | with_reducible apply ite_keeps
    | split)

theorem State.stopWork_keeps {s0 s : State} (hs : Keeps s0 s) (c) (status) : Keeps s0 (State.stopWork s c status) := by
  unfold State.stopWork
  try dsimp only
  repeat' (first
    | with_reducible assumption | with_reducible apply State.stopHanks_keeps | with_reducible apply State.dmaStop_keeps
    | with_reducible apply State.bendStop_keeps | with_reducible apply State.dropWatch_keeps
    | (simp (disch := rfl) only [↓mk_keeps]) | with_reducible apply ite_keeps | split)

theorem State.stopOne_keeps {s0 s : State} (hs : Keeps s0 s) (c) (status) : Keeps s0 (State.stopOne s c status) := by
  unfold State.stopOne
  try dsimp only
  repeat' (first
    | with_reducible assumption | with_reducible apply State.modCmd_keeps | with_reducible apply State.stopWork_keeps)

theorem State.stopCane_keeps {s0 s : State} (hs : Keeps s0 s) (k) : Keeps s0 (State.stopCane s k) := by
  unfold State.stopCane
  try dsimp only
  repeat' (first
    | with_reducible assumption | with_reducible apply State.stopOne_keeps | with_reducible apply State.cancelNode_keeps
    | (with_reducible apply foldl_keeps <;> (try intro _ _ _)) | with_reducible apply ite_keeps | split)

theorem State.stopCmd_keeps {s0 s : State} (hs : Keeps s0 s) (id) (status) : Keeps s0 (State.stopCmd s id status) := by
  unfold State.stopCmd
  try dsimp only
  repeat' (first
    | with_reducible assumption | with_reducible apply State.stopOne_keeps | with_reducible apply State.stopCane_keeps
    | with_reducible apply ite_keeps | split)

theorem State.stopAgain_keeps {s0 s : State} (hs : Keeps s0 s) (id) : Keeps s0 (State.stopAgain s id) := by
  unfold State.stopAgain
  try dsimp only
  repeat' (first
    | with_reducible assumption | with_reducible apply State.stopCmd_keeps | with_reducible apply ite_keeps | split)

theorem State.finishCmd_keeps {s0 s : State} (hs : Keeps s0 s) (id) : Keeps s0 (State.finishCmd s id) := by
  unfold State.finishCmd
  try dsimp only
  repeat' (first
    | with_reducible assumption | with_reducible apply State.attempt_keeps | with_reducible apply State.stopAgain_keeps
    | with_reducible apply State.orderedWork_keeps | with_reducible apply State.stageReport_keeps
    | with_reducible apply State.stageSignal_keeps | with_reducible apply State.flushRecords_keeps
    | with_reducible apply State.stageDone_keeps | split)

theorem State.knotCmd_keeps {s0 s : State} (hs : Keeps s0 s) (id) (knot) (target) (v) : Keeps s0 (State.knotCmd s id knot
    target v) := by
  unfold State.knotCmd
  try dsimp only
  repeat' (first
    | with_reducible assumption | with_reducible apply State.endCmd_keeps | with_reducible apply State.dropWatch_keeps
    | with_reducible apply ite_keeps | split)

theorem State.fireSlot_keeps {s0 s : State} (hs : Keeps s0 s) (k) (result) : Keeps s0 (State.fireSlot s k result) := by
  unfold State.fireSlot
  try dsimp only
  repeat' (first
    | with_reducible assumption | with_reducible apply State.raiseRoute_keeps | with_reducible apply State.modKwait_keeps
    | with_reducible apply State.dropWatch_keeps)

theorem State.knotSlot_keeps {s0 s : State} (hs : Keeps s0 s) (k) (v) : Keeps s0 (State.knotSlot s k v) := by
  unfold State.knotSlot
  try dsimp only
  repeat' (first
    | with_reducible assumption | with_reducible apply State.fireSlot_keeps | with_reducible apply ite_keeps | split)

theorem State.knotLocal_keeps {s0 s : State} (hs : Keeps s0 s) (w) (agent) (a) (nc) : Keeps s0 (State.knotLocal s w agent a
    nc).2 := by
  unfold State.knotLocal
  try dsimp only
  repeat' (first
    | with_reducible assumption | with_reducible apply State.addWatch_keeps | with_reducible apply State.bytesRead_keeps
    | with_reducible apply State.poisonUse_keeps | (simp (disch := rfl) only [↓mk_keeps])
    | with_reducible refine snd_keeps (by assumption) ?_ | split)

theorem State.takeKnotReq_keeps {s0 s : State} (hs : Keeps s0 s) (w) : KeepsOpt s0 (State.takeKnotReq s w) := by
  unfold State.takeKnotReq
  try dsimp only
  repeat' (first
    | with_reducible assumption | (simp (disch := rfl) only [↓mk_keeps]) | with_reducible apply map_keeps
    | with_reducible intro _)

theorem State.knotReadGo_keeps {s0 s : State} (hs : Keeps s0 s) (w) (remote) : Keeps s0 (State.knotReadGo s w remote) := by
  unfold State.knotReadGo
  try dsimp only
  repeat' (first
    | with_reducible assumption | with_reducible apply State.takeKnotReq_keeps | with_reducible apply State.knotCmd_keeps
    | with_reducible apply State.knotSlot_keeps | with_reducible apply State.xlate_keeps
    | with_reducible apply State.modCmd_keeps | with_reducible apply State.knotLocal_keeps
    | with_reducible apply State.endCmd_keeps | with_reducible apply State.vmPoison_keeps
    | with_reducible apply State.fireSlot_keeps | with_reducible apply State.modKwait_keeps
    | with_reducible refine snd_keeps (by assumption) ?_ | with_reducible refine some_keeps (by assumption) ?_
    | with_reducible apply ite_keeps | split)

theorem State.knotRead_keeps {s0 s : State} (hs : Keeps s0 s) (w) (remote) : Keeps s0 (State.knotRead s w remote) := by
  unfold State.knotRead
  try dsimp only
  repeat' (first
    | with_reducible assumption | with_reducible apply State.attempt_keeps | with_reducible apply State.knotReadGo_keeps
    | with_reducible apply ite_keeps)

theorem State.knotPollGo_keeps {s0 s : State} (hs : Keeps s0 s) (w) : Keeps s0 (State.knotPollGo s w) := by
  unfold State.knotPollGo
  try dsimp only
  repeat' (first
    | with_reducible assumption | with_reducible apply State.xlate_keeps | with_reducible apply State.endCmd_keeps
    | with_reducible apply State.knotCmd_keeps | with_reducible apply State.remoteRequest_keeps
    | with_reducible apply State.modCmd_keeps | with_reducible apply State.fireSlot_keeps
    | with_reducible apply State.modKwait_keeps | with_reducible refine snd_keeps (by assumption) ?_
    | with_reducible apply ite_keeps | split)

theorem State.knotPoll_keeps {s0 s : State} (hs : Keeps s0 s) (w) : Keeps s0 (State.knotPoll s w) := by
  unfold State.knotPoll
  try dsimp only
  repeat' (first
    | with_reducible assumption | with_reducible apply State.attempt_keeps | with_reducible apply State.knotPollGo_keeps)

theorem State.watchTail_keeps {s0 s : State} (hs : Keeps s0 s) (q) : Keeps s0 (State.watchTail s q) := by
  unfold State.watchTail
  try dsimp only
  repeat' (first
    | with_reducible assumption | with_reducible apply State.addWatch_keeps | with_reducible apply State.modQueue_keeps
    | with_reducible apply ite_keeps | split)

theorem execQdtEnable_keeps {s0 s : State} (hs : Keeps s0 s) (q) : KeepsOut s0 (execQdtEnable q s) := by
  unfold execQdtEnable
  try dsimp only
  repeat' (first
    | with_reducible assumption | with_reducible apply State.modQueue_keeps | with_reducible apply State.watchTail_keeps
    | with_reducible apply next_keeps | with_reducible apply ite_keeps)

theorem execQdtDisable_keeps {s0 s : State} (hs : Keeps s0 s) (q) : KeepsOut s0 (execQdtDisable q s) := by
  unfold execQdtDisable
  try dsimp only
  repeat' (first
    | with_reducible assumption | with_reducible apply State.modQueue_keeps | with_reducible apply State.settleQueue_keeps
    | with_reducible apply State.stopCmd_keeps | with_reducible apply next_keeps
    | (with_reducible apply foldl_keeps <;> (try intro _ _ _)) | with_reducible apply ite_keeps)

theorem execQdtCancel_keeps {s0 s : State} (hs : Keeps s0 s) (q) : KeepsOut s0 (execQdtCancel q s) := by
  unfold execQdtCancel
  try dsimp only
  repeat' (first
    | with_reducible assumption | with_reducible apply State.modQueue_keeps | with_reducible apply State.settleQueue_keeps
    | with_reducible apply State.attempt_keeps | with_reducible apply State.stopCmd_keeps | with_reducible apply next_keeps
    | (with_reducible apply foldl_keeps <;> (try intro _ _ _)) | with_reducible apply ite_keeps)

theorem execQdtResume_keeps {s0 s : State} (hs : Keeps s0 s) (q) : KeepsOut s0 (execQdtResume q s) := by
  unfold execQdtResume
  try dsimp only
  repeat' (first
    | with_reducible assumption | with_reducible apply State.modQueue_keeps | with_reducible apply next_keeps
    | with_reducible apply ite_keeps)

theorem State.tailFault_keeps {s0 s : State} (hs : Keeps s0 s) (q) (cause) : Keeps s0 (State.tailFault s q cause) := by
  unfold State.tailFault
  try dsimp only
  repeat' (first
    | with_reducible assumption | with_reducible apply State.halt_keeps | with_reducible apply State.queueFault_keeps)

theorem execTailRead_keeps {s0 s : State} (hs : Keeps s0 s) (q) (host) : KeepsOut s0 (execTailRead q host s) := by
  unfold execTailRead
  try dsimp only
  repeat' (first
    | with_reducible assumption | with_reducible apply State.modQueue_keeps | with_reducible apply State.bytesRead_keeps
    | with_reducible apply State.tailFault_keeps | with_reducible apply next_keeps | (simp (disch := rfl) only [↓mk_keeps])
    | with_reducible refine snd_keeps (by assumption) ?_ | with_reducible apply ite_keeps | split)

theorem State.fetchFault_keeps {s0 s : State} (hs : Keeps s0 s) (q) : Keeps s0 (State.fetchFault s q) := by
  unfold State.fetchFault
  try dsimp only
  repeat' (first
    | with_reducible assumption | with_reducible apply State.modQueue_keeps | with_reducible apply State.addCmd_keeps
    | with_reducible apply State.passTurn_keeps | with_reducible apply State.halt_keeps
    | with_reducible apply State.endCmd_keeps)

theorem execCommandFetch_keeps {s0 s : State} (hs : Keeps s0 s) (q) (host) : KeepsOut s0 (execCommandFetch q host s) := by
  unfold execCommandFetch
  try dsimp only
  repeat' (first
    | with_reducible assumption | with_reducible apply State.bytesRead_keeps | with_reducible apply State.admitCmd_keeps
    | with_reducible apply State.passTurn_keeps | with_reducible apply State.fetchFault_keeps
    | with_reducible apply next_keeps | with_reducible apply ite_keeps | split)

theorem execCmdNop_keeps {s0 s : State} (hs : Keeps s0 s) (q) (c) : KeepsOut s0 (execCmdNop q c s) := by
  unfold execCmdNop
  try dsimp only
  repeat' (first | with_reducible assumption | with_reducible apply State.admitCmd_keeps | with_reducible apply next_keeps)

theorem execLaunch_keeps {s0 s : State} (hs : Keeps s0 s) (q) (c) : KeepsOut s0 (execLaunch q c s) := by
  unfold execLaunch
  try dsimp only
  repeat' (first | with_reducible assumption | with_reducible apply State.admitCmd_keeps | with_reducible apply next_keeps)

theorem execCane_keeps {s0 s : State} (hs : Keeps s0 s) (q) (c) : KeepsOut s0 (execCane q c s) := by
  unfold execCane
  try dsimp only
  repeat' (first | with_reducible assumption | with_reducible apply State.admitCmd_keeps | with_reducible apply next_keeps)

theorem execCanePublish_keeps {s0 s : State} (hs : Keeps s0 s) (q) (c) : KeepsOut s0 (execCanePublish q c s) := by
  unfold execCanePublish
  try dsimp only
  repeat' (first | with_reducible assumption | with_reducible apply State.admitCmd_keeps | with_reducible apply next_keeps)

theorem execDma_keeps {s0 s : State} (hs : Keeps s0 s) (q) (c) : KeepsOut s0 (execDma q c s) := by
  unfold execDma
  try dsimp only
  repeat' (first | with_reducible assumption | with_reducible apply State.admitCmd_keeps | with_reducible apply next_keeps)

theorem execBend_keeps {s0 s : State} (hs : Keeps s0 s) (q) (c) : KeepsOut s0 (execBend q c s) := by
  unfold execBend
  try dsimp only
  repeat' (first | with_reducible assumption | with_reducible apply State.admitCmd_keeps | with_reducible apply next_keeps)

theorem execKnotSignal_keeps {s0 s : State} (hs : Keeps s0 s) (q) (c) : KeepsOut s0 (execKnotSignal q c s) := by
  unfold execKnotSignal
  try dsimp only
  repeat' (first | with_reducible assumption | with_reducible apply State.admitCmd_keeps | with_reducible apply next_keeps)

theorem execKnotWait_keeps {s0 s : State} (hs : Keeps s0 s) (q) (c) : KeepsOut s0 (execKnotWait q c s) := by
  unfold execKnotWait
  try dsimp only
  repeat' (first | with_reducible assumption | with_reducible apply State.admitCmd_keeps | with_reducible apply next_keeps)

theorem execQfence_keeps {s0 s : State} (hs : Keeps s0 s) (q) (c) : KeepsOut s0 (execQfence q c s) := by
  unfold execQfence
  try dsimp only
  repeat' (first | with_reducible assumption | with_reducible apply State.admitCmd_keeps | with_reducible apply next_keeps)

theorem execHintHeavy_keeps {s0 s : State} (hs : Keeps s0 s) (q) (c) : KeepsOut s0 (execHintHeavy q c s) := by
  unfold execHintHeavy
  try dsimp only
  repeat' (first | with_reducible assumption | with_reducible apply State.admitCmd_keeps | with_reducible apply next_keeps)

theorem execHintLight_keeps {s0 s : State} (hs : Keeps s0 s) (q) (c) : KeepsOut s0 (execHintLight q c s) := by
  unfold execHintLight
  try dsimp only
  repeat' (first | with_reducible assumption | with_reducible apply State.admitCmd_keeps | with_reducible apply next_keeps)

theorem execMark_keeps {s0 s : State} (hs : Keeps s0 s) (q) (c) : KeepsOut s0 (execMark q c s) := by
  unfold execMark
  try dsimp only
  repeat' (first | with_reducible assumption | with_reducible apply State.admitCmd_keeps | with_reducible apply next_keeps)

theorem execKnotRead_keeps {s0 s : State} (hs : Keeps s0 s) (w) (remote) : KeepsOut s0 (execKnotRead w remote s) := by
  unfold execKnotRead
  try dsimp only
  repeat' (first
    | with_reducible assumption | with_reducible apply State.knotRead_keeps | with_reducible apply next_keeps
    | with_reducible apply ite_keeps)

theorem execCommandComplete_keeps {s0 s : State} (hs : Keeps s0 s) (cmd) : KeepsOut s0 (execCommandComplete cmd s) := by
  unfold execCommandComplete
  try dsimp only
  repeat' (first
    | with_reducible assumption | with_reducible apply State.finishCmd_keeps | with_reducible apply next_keeps
    | with_reducible apply ite_keeps)

theorem execTimeout_keeps {s0 s : State} (hs : Keeps s0 s) (cmd) : KeepsOut s0 (execTimeout cmd s) := by
  unfold execTimeout
  try dsimp only
  repeat' (first
    | with_reducible assumption | with_reducible apply State.attempt_keeps | with_reducible apply State.stopCmd_keeps
    | with_reducible apply next_keeps | with_reducible apply ite_keeps | split)

end Sys2Proof.Machine
end

