-- ==== Sys2Proof/Laws/KeepsFabric.lean ====
section
/-! SUPPORT. The Hawser fabric and fences. Each keeps what `Keeps` says. -/

namespace Sys2Proof.Machine

open Sys2Proof

theorem State.sendKept_keeps {s0 s : State} (hs : Keeps s0 s) (i) (cls) : Keeps s0 (State.sendKept s i cls) := by
  unfold State.sendKept
  try dsimp only
  repeat' (first
    | with_reducible assumption | with_reducible apply State.portFor_keeps | with_reducible apply State.portSend_keeps
    | with_reducible apply State.modPeer_keeps | with_reducible refine snd_keeps (by assumption) ?_
    | (with_reducible apply foldl_keeps <;> (try intro _ _ _)) | split)

theorem State.sendAllKept_keeps {s0 s : State} (hs : Keeps s0 s) : Keeps s0 (State.sendAllKept s) := by
  unfold State.sendAllKept
  try dsimp only
  repeat' (first
    | with_reducible assumption | with_reducible apply State.sendKept_keeps
    | (with_reducible apply foldl_keeps <;> (try intro _ _ _)))

theorem State.resend_keeps {s0 s : State} (hs : Keeps s0 s) (p) : Keeps s0 (State.resend s p) := by
  unfold State.resend
  try dsimp only
  repeat' (first
    | with_reducible assumption | with_reducible apply State.modPeer_keeps | with_reducible apply State.sendAllKept_keeps
    | with_reducible apply State.modPort_keeps | (with_reducible apply foldl_keeps <;> (try intro _ _ _)))

theorem State.setPort_keeps {s0 s : State} (hs : Keeps s0 s) (p) (st) (cause) : Keeps s0 (State.setPort s p st cause) := by
  unfold State.setPort
  try dsimp only
  repeat' (first
    | with_reducible assumption | with_reducible apply State.modPort_keeps | with_reducible apply State.logErr_keeps
    | with_reducible apply State.hwsEvent_keeps | with_reducible apply ite_keeps)

theorem State.replay_keeps {s0 s : State} (hs : Keeps s0 s) (p) : Keeps s0 (State.replay s p) := by
  unfold State.replay
  try dsimp only
  repeat' (first
    | with_reducible assumption | with_reducible apply State.modPort_keeps | (simp (disch := rfl) only [↓mk_keeps]))

theorem State.dropReq_keeps {s0 s : State} (hs : Keeps s0 s) (r) : Keeps s0 (State.dropReq s r) := by
  unfold State.dropReq
  try dsimp only
  repeat' (first | with_reducible assumption | (simp (disch := rfl) only [↓mk_keeps]))

theorem State.endStored_keeps {s0 s : State} (hs : Keeps s0 s) (id) (u) (site) (status) (cause) : Keeps s0 (State.endStored s
    id u site status cause) := by
  unfold State.endStored
  try dsimp only
  repeat' (first
    | with_reducible assumption | with_reducible apply State.endLaunch_keeps | with_reducible apply State.modCmd_keeps
    | with_reducible apply ite_keeps | split)

theorem State.endOwn_keeps {s0 s : State} (hs : Keeps s0 s) (id) (r) (status) (cause) : Keeps s0 (State.endOwn s id r status
    cause) := by
  unfold State.endOwn
  try dsimp only
  repeat' (first
    | with_reducible assumption | with_reducible apply State.endCmd_keeps | with_reducible apply State.finishCmd_keeps
    | with_reducible apply State.modCmd_keeps | split)

theorem State.endRequest_keeps {s0 s : State} (hs : Keeps s0 s) (r) (unbacked) : Keeps s0 (State.endRequest s r unbacked) :=
    by
  unfold State.endRequest
  try dsimp only
  repeat' (first
    | with_reducible assumption | with_reducible apply State.dropReq_keeps | with_reducible apply State.memGo_keeps
    | with_reducible apply State.raise_keeps | with_reducible apply State.pumpUnit_keeps
    | with_reducible apply State.endStored_keeps | with_reducible apply State.modUnit_keeps
    | with_reducible apply State.copyGo_keeps | with_reducible apply State.dmaBusError_keeps
    | with_reducible apply State.dmaRun_keeps | with_reducible apply State.dmaEnd_keeps
    | with_reducible apply State.hartFault_keeps | with_reducible apply State.endOwn_keeps
    | with_reducible apply State.endCmd_keeps | with_reducible apply State.dropWatch_keeps
    | with_reducible apply State.fireSlot_keeps | with_reducible apply ite_keeps | split)

theorem State.setPeer_keeps {s0 s : State} (hs : Keeps s0 s) (i) (st) : Keeps s0 (State.setPeer s i st) := by
  unfold State.setPeer
  try dsimp only
  repeat' (first
    | with_reducible assumption | with_reducible apply State.hwsEvent_keeps | with_reducible apply State.modPeer_keeps
    | with_reducible apply ite_keeps)

theorem State.peerLost_keeps {s0 s : State} (hs : Keeps s0 s) (i) : Keeps s0 (State.peerLost s i) := by
  unfold State.peerLost
  try dsimp only
  repeat' (first
    | with_reducible assumption | with_reducible apply State.modPeer_keeps | with_reducible apply State.setPeer_keeps
    | with_reducible apply State.endRequest_keeps | with_reducible apply State.bendPeerGone_keeps
    | (simp (disch := rfl) only [↓mk_keeps]) | (with_reducible apply foldl_keeps <;> (try intro _ _ _))
    | with_reducible apply ite_keeps)

theorem State.peerBack_keeps {s0 s : State} (hs : Keeps s0 s) (i) : Keeps s0 (State.peerBack s i) := by
  unfold State.peerBack
  try dsimp only
  repeat' (first
    | with_reducible assumption | with_reducible apply State.modPeer_keeps | with_reducible apply State.setPeer_keeps
    | with_reducible apply State.sendPacket_keeps | with_reducible apply State.bendRun_keeps
    | (simp (disch := rfl) only [↓mk_keeps]) | (with_reducible apply foldl_keeps <;> (try intro _ _ _)))

theorem State.planeLost_keeps {s0 s : State} (hs : Keeps s0 s) (i) (p) : Keeps s0 (State.planeLost s i p) := by
  unfold State.planeLost
  try dsimp only
  repeat' (first
    | with_reducible assumption | with_reducible apply State.modPeer_keeps | with_reducible apply State.setPeer_keeps
    | with_reducible apply ite_keeps)

theorem State.portLost_keeps {s0 s : State} (hs : Keeps s0 s) (p) (st) (cause) : Keeps s0 (State.portLost s p st cause) := by
  unfold State.portLost
  try dsimp only
  repeat' (first
    | with_reducible assumption | with_reducible apply State.modPort_keeps | with_reducible apply State.setPort_keeps
    | with_reducible apply State.planeLost_keeps | with_reducible apply State.resend_keeps
    | (with_reducible apply foldl_keeps <;> (try intro _ _ _)))

theorem State.sendJoin_keeps {s0 s : State} (hs : Keeps s0 s) (p) : Keeps s0 (State.sendJoin s p) := by
  unfold State.sendJoin
  try dsimp only
  repeat' (first | with_reducible assumption | with_reducible apply State.portSend_keeps)

theorem State.setIndex_keeps {s0 s : State} (hs : Keeps s0 s) (valid) (conflict) : Keeps s0 (State.setIndex s valid conflict)
    := by
  unfold State.setIndex
  try dsimp only
  repeat' (first
    | with_reducible assumption | with_reducible apply State.hwsEvent_keeps | (simp (disch := rfl) only [↓mk_keeps])
    | with_reducible apply ite_keeps)

theorem State.chooseIndex_keeps {s0 s : State} (hs : Keeps s0 s) : Keeps s0 (State.chooseIndex s) := by
  unfold State.chooseIndex
  try dsimp only
  repeat' (first
    | with_reducible assumption | with_reducible apply State.portLost_keeps | with_reducible apply State.sendJoin_keeps
    | (simp (disch := rfl) only [↓mk_keeps]) | (with_reducible apply foldl_keeps <;> (try intro _ _ _))
    | with_reducible apply ite_keeps | split)

theorem State.portTrained_keeps {s0 s : State} (hs : Keeps s0 s) (p) : Keeps s0 (State.portTrained s p) := by
  unfold State.portTrained
  try dsimp only
  repeat' (first
    | with_reducible assumption | with_reducible apply State.portLost_keeps | with_reducible apply State.setPort_keeps
    | with_reducible apply State.modPort_keeps | with_reducible apply State.sendJoin_keeps
    | with_reducible apply State.sendAllKept_keeps | with_reducible apply ite_keeps)

theorem State.joined_keeps {s0 s : State} (hs : Keeps s0 s) (p) (j) : Keeps s0 (State.joined s p j) := by
  unfold State.joined
  try dsimp only
  repeat' (first
    | with_reducible assumption | with_reducible apply State.modPeer_keeps | with_reducible apply State.peerBack_keeps
    | with_reducible apply State.peerLost_keeps | with_reducible apply ite_keeps | split)

theorem State.becomeMaster_keeps {s0 s : State} (hs : Keeps s0 s) : Keeps s0 (State.becomeMaster s) := by
  unfold State.becomeMaster
  try dsimp only
  repeat' (first | with_reducible assumption | (simp (disch := rfl) only [↓mk_keeps]))

theorem State.claimMaster_keeps {s0 s : State} (hs : Keeps s0 s) : Keeps s0 (State.claimMaster s) := by
  unfold State.claimMaster
  try dsimp only
  repeat' (first | with_reducible assumption | with_reducible apply State.becomeMaster_keeps | with_reducible apply ite_keeps)

theorem State.lackIn_keeps {s0 s : State} (hs : Keeps s0 s) (p) (seq) : Keeps s0 (State.lackIn s p seq) := by
  unfold State.lackIn
  try dsimp only
  repeat' (first | with_reducible assumption | with_reducible apply State.modPort_keeps)

theorem execLack_keeps {s0 s : State} (hs : Keeps s0 s) (p) (seq) : KeepsOut s0 (execLack p seq s) := by
  unfold execLack
  try dsimp only
  repeat' (first
    | with_reducible assumption | with_reducible apply State.lackIn_keeps | with_reducible apply next_keeps
    | with_reducible apply ite_keeps)

theorem State.lnakIn_keeps {s0 s : State} (hs : Keeps s0 s) (p) (seq) : Keeps s0 (State.lnakIn s p seq) := by
  unfold State.lnakIn
  try dsimp only
  repeat' (first
    | with_reducible assumption | with_reducible apply State.replay_keeps | with_reducible apply State.modPort_keeps
    | with_reducible apply ite_keeps)

theorem execLnak_keeps {s0 s : State} (hs : Keeps s0 s) (p) (seq) : KeepsOut s0 (execLnak p seq s) := by
  unfold execLnak
  try dsimp only
  repeat' (first
    | with_reducible assumption | with_reducible apply State.lnakIn_keeps | with_reducible apply next_keeps
    | with_reducible apply ite_keeps)

theorem State.lcredIn_keeps {s0 s : State} (hs : Keeps s0 s) (p) (cls) (n) : Keeps s0 (State.lcredIn s p cls n) := by
  unfold State.lcredIn
  try dsimp only
  repeat' (first | with_reducible assumption | with_reducible apply State.modPort_keeps)

theorem execLcred_keeps {s0 s : State} (hs : Keeps s0 s) (p) (cls) (n) : KeepsOut s0 (execLcred p cls n s) := by
  unfold execLcred
  try dsimp only
  repeat' (first
    | with_reducible assumption | with_reducible apply State.lcredIn_keeps | with_reducible apply next_keeps
    | with_reducible apply ite_keeps)

theorem execLinkAckDue_keeps {s0 s : State} (hs : Keeps s0 s) (p) : KeepsOut s0 (execLinkAckDue p s) := by
  unfold execLinkAckDue
  try dsimp only
  repeat' (first
    | with_reducible assumption | with_reducible apply State.portSend_keeps | with_reducible apply State.modPort_keeps
    | with_reducible apply next_keeps | with_reducible apply ite_keeps)

theorem execE2eackDue_keeps {s0 s : State} (hs : Keeps s0 s) (peer) (cls) : KeepsOut s0 (execE2eackDue peer cls s) := by
  unfold execE2eackDue
  try dsimp only
  repeat' (first
    | with_reducible assumption | with_reducible apply State.sendPacket_keeps | with_reducible apply State.modPeer_keeps
    | with_reducible apply next_keeps | with_reducible apply ite_keeps)

theorem State.e2eackIn_keeps {s0 s : State} (hs : Keeps s0 s) (peer) (cls) (tseq) : Keeps s0 (State.e2eackIn s peer cls tseq)
    := by
  unfold State.e2eackIn
  try dsimp only
  repeat' (first
    | with_reducible assumption | with_reducible apply State.sendKept_keeps | with_reducible apply State.modPeer_keeps
    | with_reducible apply ite_keeps)

theorem execE2eack_keeps {s0 s : State} (hs : Keeps s0 s) (peer) (cls) (tseq) : KeepsOut s0 (execE2eack peer cls tseq s) := by
  unfold execE2eack
  try dsimp only
  repeat' (first
    | with_reducible assumption | with_reducible apply State.e2eackIn_keeps | with_reducible apply next_keeps
    | with_reducible apply ite_keeps)

theorem State.answer_keeps {s0 s : State} (hs : Keeps s0 s) (k) (ty) (aux) (payload) (poison) : Keeps s0 (State.answer s k ty
    aux payload poison) := by
  unfold State.answer
  try dsimp only
  repeat' (first | with_reducible assumption | with_reducible apply State.sendPacket_keeps)

theorem State.perform_keeps {s0 s : State} (hs : Keeps s0 s) (p) (k) : KeepsOpt s0 (State.perform s p k) := by
  unfold State.perform
  extract_lets agent
  split
  · exact is_some_keeps hs
  · split
    · split
      · exact is_some_keeps (State.answer_keeps (snd_keeps (by assumption) (State.cohRead_keeps hs _ _ _)) _ _ _ _ _)
      · exact none_keeps
    · split
      · split
        · exact is_some_keeps (State.answer_keeps (snd_keeps (by assumption) (State.cohAtomic_keeps hs _ _ _ _ _ _ _ _)) _ _ _ _ _)
        · exact none_keeps
      · refine map_state_keeps ?_ (fun t h => State.answer_keeps h _ _ _ _ _)
        split
        · exact State.cohPut_keeps hs _ _ _ _ _ _
        · refine foldl_bind_keeps _ _ (is_some_keeps hs) (fun g s h => ?_)
          split
          · exact State.cohPut_keeps h _ _ _ _ _ _
          · exact is_some_keeps h

theorem State.answerHome_keeps {s0 s : State} (hs : Keeps s0 s) (r) : KeepsOpt s0 (State.answerHome s r) := by
  unfold State.answerHome
  try dsimp only
  repeat' (first
    | with_reducible assumption | with_reducible apply State.answer_keeps | with_reducible apply State.perform_keeps
    | with_reducible apply is_some_keeps | with_reducible exact none_keeps | split)

theorem State.retryHome_keeps {s0 s : State} (hs : Keeps s0 s) : Keeps s0 (State.retryHome s) := by
  unfold State.retryHome
  try dsimp only
  repeat' (first
    | with_reducible assumption | with_reducible apply State.answerHome_keeps | (simp (disch := rfl) only [↓mk_keeps])
    | with_reducible refine some_keeps (by assumption) ?_ | (with_reducible apply foldl_keeps <;> (try intro _ _ _))
    | with_reducible apply ite_keeps | split)

theorem State.homeRequestIn_keeps {s0 s : State} (hs : Keeps s0 s) (p) (k) : Keeps s0 (State.homeRequestIn s p k) := by
  unfold State.homeRequestIn
  try dsimp only
  repeat' (first
    | with_reducible assumption | with_reducible apply State.answerHome_keeps | (simp (disch := rfl) only [↓mk_keeps])
    | with_reducible refine some_keeps (by assumption) ?_ | with_reducible apply ite_keeps | split)

theorem State.pieceDone_keeps {s0 s : State} (hs : Keeps s0 s) (c) (o) (p) (bs) : Keeps s0 (State.pieceDone s c o p bs) := by
  unfold State.pieceDone
  try dsimp only
  repeat' (first | with_reducible assumption | with_reducible apply State.memGo_keeps)

theorem State.unitData_keeps {s0 s : State} (hs : Keeps s0 s) (r) (u) (slot) (k) : Keeps s0 (State.unitData s r u slot k) :=
    by
  unfold State.unitData
  try dsimp only
  repeat' (first
    | with_reducible assumption | with_reducible apply State.raisePoison_keeps | with_reducible apply State.pieceDone_keeps
    | with_reducible apply State.atomicSeen_keeps | with_reducible apply State.fillUnit_keeps
    | with_reducible apply ite_keeps | split)

theorem State.dmaData_keeps {s0 s : State} (hs : Keeps s0 s) (r) (e) (c) (k) : Keeps s0 (State.dmaData s r e c k) := by
  unfold State.dmaData
  try dsimp only
  repeat' (first
    | with_reducible assumption | with_reducible apply State.dmaArrived_keeps | with_reducible apply State.modDmaCh_keeps
    | split)

theorem State.hartData_keeps {s0 s : State} (hs : Keeps s0 s) (h) (k) : Keeps s0 (State.hartData s h k) := by
  unfold State.hartData
  try dsimp only
  repeat' (first
    | with_reducible assumption | with_reducible apply State.nodeFault_keeps | with_reducible apply State.poisonUse_keeps
    | with_reducible apply State.hartNext_keeps | with_reducible apply State.hartPut_keeps
    | with_reducible apply State.hartSet_keeps | with_reducible apply State.modHart_keeps | with_reducible apply ite_keeps
    | split)

theorem State.cmdData_keeps {s0 s : State} (hs : Keeps s0 s) (r) (id) (k) : Keeps s0 (State.cmdData s r id k) := by
  unfold State.cmdData
  try dsimp only
  repeat' (first
    | with_reducible assumption | with_reducible apply State.endCmd_keeps | with_reducible apply State.poisonUse_keeps
    | with_reducible apply State.launchWith_keeps | with_reducible apply State.finishCmd_keeps
    | with_reducible apply State.modCmd_keeps | with_reducible apply ite_keeps | split)

theorem State.dataIn_keeps {s0 s : State} (hs : Keeps s0 s) (k) : Keeps s0 (State.dataIn s k) := by
  unfold State.dataIn
  try dsimp only
  repeat' (first
    | with_reducible assumption | with_reducible apply State.unitData_keeps | with_reducible apply State.dropReq_keeps
    | with_reducible apply State.modUnit_keeps | with_reducible apply State.dmaData_keeps
    | with_reducible apply State.hartData_keeps | with_reducible apply State.cmdData_keeps
    | with_reducible apply State.knotRead_keeps | split)

theorem State.ackIn_keeps {s0 s : State} (hs : Keeps s0 s) (k) : Keeps s0 (State.ackIn s k) := by
  unfold State.ackIn
  try dsimp only
  repeat' (first
    | with_reducible assumption | with_reducible apply State.dropReq_keeps | with_reducible apply State.pieceDone_keeps
    | with_reducible apply State.pumpUnit_keeps | with_reducible apply State.modUnit_keeps
    | with_reducible apply State.hartNext_keeps | with_reducible apply State.modHart_keeps
    | with_reducible apply State.finishCmd_keeps | split)

theorem State.refuseIn_keeps {s0 s : State} (hs : Keeps s0 s) (k) : Keeps s0 (State.refuseIn s k) := by
  unfold State.refuseIn
  try dsimp only
  repeat' (first
    | with_reducible assumption | with_reducible apply State.endRequest_keeps | with_reducible apply ite_keeps | split)

theorem State.packetIn_keeps {s0 s : State} (hs : Keeps s0 s) (p) (k) : Keeps s0 (State.packetIn s p k) := by
  unfold State.packetIn
  try dsimp only
  repeat' (first
    | with_reducible assumption | with_reducible apply State.homeRequestIn_keeps | with_reducible apply State.retryHome_keeps
    | with_reducible apply State.dataIn_keeps | with_reducible apply State.ackIn_keeps
    | with_reducible apply State.refuseIn_keeps | with_reducible apply State.bendPart_keeps | with_reducible apply ite_keeps)

theorem State.oweAck_keeps {s0 s : State} (hs : Keeps s0 s) (i) (cls) : Keeps s0 (State.oweAck s i cls) := by
  unfold State.oweAck
  try dsimp only
  repeat' (first | with_reducible assumption | with_reducible apply State.modPeer_keeps)

theorem State.deliverNext_keeps {s0 x4 : State} (hs : Keeps s0 x4) (act : State → Nat → Packet → State) (hact : ∀ s p k, Keeps
    s0 s → Keeps s0 (act s p k)) (i) (cls) (x3) : Keeps s0 (State.deliverNext act i cls x3 x4) := by
  induction x3 generalizing x4 with
  | zero =>
    unfold State.deliverNext
    try dsimp only
    repeat' (first
      | with_reducible assumption)
  | succ n ih =>
    unfold State.deliverNext
    try dsimp only
    repeat' (first
      | with_reducible apply ih
      | with_reducible assumption
      | (with_reducible apply State.modPeer_keeps)
      | (with_reducible apply State.oweAck_keeps)
      | with_reducible apply hact
      | split)

theorem State.unicastIn_keeps {s0 s : State} (hs : Keeps s0 s) (act : State → Nat → Packet → State) (hact : ∀ s p k, Keeps s0
    s → Keeps s0 (act s p k)) (p) (k) : Keeps s0 (State.unicastIn act s p k) := by
  unfold State.unicastIn
  try dsimp only
  repeat' (first
    | with_reducible assumption | with_reducible apply State.oweAck_keeps | with_reducible apply State.modPeer_keeps
    | with_reducible apply State.deliverNext_keeps | with_reducible apply ite_keeps)

theorem State.packetRow_keeps {s0 s : State} (hs : Keeps s0 s) (p) (ty) (cls) (k) : Keeps s0 (State.packetRow s p ty cls k) :=
    by
  unfold State.packetRow
  try dsimp only
  repeat' (first
    | with_reducible assumption | with_reducible apply State.unicastIn_keeps | with_reducible apply State.packetIn_keeps
    | with_reducible intro _ _ | with_reducible apply ite_keeps)

theorem execRd_keeps {s0 s : State} (hs : Keeps s0 s) (p) (k) : KeepsOut s0 (execRd p k s) := by
  unfold execRd
  try dsimp only
  repeat' (first | with_reducible assumption | with_reducible apply State.packetRow_keeps | with_reducible apply next_keeps)

theorem execWr_keeps {s0 s : State} (hs : Keeps s0 s) (p) (k) : KeepsOut s0 (execWr p k s) := by
  unfold execWr
  try dsimp only
  repeat' (first | with_reducible assumption | with_reducible apply State.packetRow_keeps | with_reducible apply next_keeps)

theorem execAtomicPacket_keeps {s0 s : State} (hs : Keeps s0 s) (p) (k) : KeepsOut s0 (execAtomicPacket p k s) := by
  unfold execAtomicPacket
  try dsimp only
  repeat' (first | with_reducible assumption | with_reducible apply State.packetRow_keeps | with_reducible apply next_keeps)

theorem execBwr_keeps {s0 s : State} (hs : Keeps s0 s) (p) (k) : KeepsOut s0 (execBwr p k s) := by
  unfold execBwr
  try dsimp only
  repeat' (first | with_reducible assumption | with_reducible apply State.packetRow_keeps | with_reducible apply next_keeps)

theorem execData_keeps {s0 s : State} (hs : Keeps s0 s) (p) (k) : KeepsOut s0 (execData p k s) := by
  unfold execData
  try dsimp only
  repeat' (first | with_reducible assumption | with_reducible apply State.packetRow_keeps | with_reducible apply next_keeps)

theorem execAckPacket_keeps {s0 s : State} (hs : Keeps s0 s) (p) (k) : KeepsOut s0 (execAckPacket p k s) := by
  unfold execAckPacket
  try dsimp only
  repeat' (first | with_reducible assumption | with_reducible apply State.packetRow_keeps | with_reducible apply next_keeps)

theorem execRefuse_keeps {s0 s : State} (hs : Keeps s0 s) (p) (k) : KeepsOut s0 (execRefuse p k s) := by
  unfold execRefuse
  try dsimp only
  repeat' (first | with_reducible assumption | with_reducible apply State.packetRow_keeps | with_reducible apply next_keeps)

theorem State.joinIn_keeps {s0 s : State} (hs : Keeps s0 s) (p) (j) : Keeps s0 (State.joinIn s p j) := by
  unfold State.joinIn
  try dsimp only
  repeat' (first
    | with_reducible assumption | with_reducible apply State.portSend_keeps | with_reducible apply State.logErr_keeps
    | with_reducible apply State.setIndex_keeps | with_reducible apply State.joined_keeps
    | with_reducible apply State.sendPacket_keeps | with_reducible apply ite_keeps)

theorem execJoin_keeps {s0 s : State} (hs : Keeps s0 s) (p) (j) : KeepsOut s0 (execJoin p j s) := by
  unfold execJoin
  try dsimp only
  repeat' (first
    | with_reducible assumption | with_reducible apply State.joinIn_keeps | with_reducible apply next_keeps
    | with_reducible apply ite_keeps)

theorem State.drainIn_keeps {s0 s : State} (hs : Keeps s0 s) (src) : Keeps s0 (State.drainIn s src) := by
  unfold State.drainIn
  try dsimp only
  repeat' (first
    | with_reducible assumption | with_reducible apply State.modPeer_keeps | with_reducible apply State.setPeer_keeps
    | with_reducible apply ite_keeps)

theorem execDrain_keeps {s0 s : State} (hs : Keeps s0 s) (src) : KeepsOut s0 (execDrain src s) := by
  unfold execDrain
  try dsimp only
  repeat' (first
    | with_reducible assumption | with_reducible apply State.drainIn_keeps | with_reducible apply next_keeps
    | with_reducible apply ite_keeps)

theorem State.leaveIn_keeps {s0 s : State} (hs : Keeps s0 s) (src) : Keeps s0 (State.leaveIn s src) := by
  unfold State.leaveIn
  try dsimp only
  repeat' (first | with_reducible assumption | with_reducible apply State.peerLost_keeps | with_reducible apply ite_keeps)

theorem execLeave_keeps {s0 s : State} (hs : Keeps s0 s) (src) : KeepsOut s0 (execLeave src s) := by
  unfold execLeave
  try dsimp only
  repeat' (first
    | with_reducible assumption | with_reducible apply State.leaveIn_keeps | with_reducible apply next_keeps
    | with_reducible apply ite_keeps)

theorem execAbsenceLimit_keeps {s0 s : State} (hs : Keeps s0 s) (peer) : KeepsOut s0 (execAbsenceLimit peer s) := by
  unfold execAbsenceLimit
  try dsimp only
  repeat' (first
    | with_reducible assumption | with_reducible apply State.peerLost_keeps | with_reducible apply next_keeps
    | with_reducible apply ite_keeps)

theorem execLeafReport_keeps {s0 s : State} (hs : Keeps s0 s) (p) (leaf) (joined) : KeepsOut s0 (execLeafReport p leaf joined
    s) := by
  unfold execLeafReport
  try dsimp only
  repeat' (first
    | with_reducible assumption | with_reducible apply State.planeLost_keeps | with_reducible apply next_keeps
    | with_reducible apply ite_keeps)

theorem execIndexValid_keeps {s0 s : State} (hs : Keeps s0 s) : KeepsOut s0 (execIndexValid s) := by
  unfold execIndexValid
  try dsimp only
  repeat' (first
    | with_reducible assumption | with_reducible apply State.retryHome_keeps | with_reducible apply State.setIndex_keeps
    | with_reducible apply State.claimMaster_keeps | with_reducible apply next_keeps | (simp (disch := rfl) only [↓mk_keeps])
    | with_reducible apply ite_keeps)

theorem execLaneLockLoss_keeps {s0 s : State} (hs : Keeps s0 s) (p) : KeepsOut s0 (execLaneLockLoss p s) := by
  unfold execLaneLockLoss
  try dsimp only
  repeat' (first
    | with_reducible assumption | with_reducible apply State.modPort_keeps | with_reducible apply State.setPort_keeps
    | with_reducible apply next_keeps | with_reducible apply ite_keeps)

theorem execLaserLoss_keeps {s0 s : State} (hs : Keeps s0 s) (p) : KeepsOut s0 (execLaserLoss p s) := by
  unfold execLaserLoss
  try dsimp only
  repeat' (first
    | with_reducible assumption | with_reducible apply State.modPort_keeps | with_reducible apply State.chooseIndex_keeps
    | with_reducible apply State.portLost_keeps | with_reducible apply next_keeps | with_reducible apply ite_keeps)

theorem State.startRetrain_keeps {s0 s : State} (hs : Keeps s0 s) (p) : Keeps s0 (State.startRetrain s p) := by
  unfold State.startRetrain
  try dsimp only
  repeat' (first
    | with_reducible assumption | with_reducible apply State.modPort_keeps | with_reducible apply State.setPort_keeps)

theorem execRetrainStart_keeps {s0 s : State} (hs : Keeps s0 s) (p) : KeepsOut s0 (execRetrainStart p s) := by
  unfold execRetrainStart
  try dsimp only
  repeat' (first
    | with_reducible assumption | with_reducible apply State.startRetrain_keeps | with_reducible apply next_keeps
    | with_reducible apply ite_keeps)

theorem execRetrainEnd_keeps {s0 s : State} (hs : Keeps s0 s) (p) (ok) : KeepsOut s0 (execRetrainEnd p ok s) := by
  unfold execRetrainEnd
  try dsimp only
  repeat' (first
    | with_reducible assumption | with_reducible apply State.sendAllKept_keeps | with_reducible apply State.replay_keeps
    | with_reducible apply State.modPort_keeps | with_reducible apply State.setPort_keeps
    | with_reducible apply State.portLost_keeps | with_reducible apply State.chooseIndex_keeps
    | with_reducible apply next_keeps | with_reducible apply ite_keeps)

theorem execPortTrained_keeps {s0 s : State} (hs : Keeps s0 s) (p) (plane) (leaf) (transit) (halfTrip) : KeepsOut s0
    (execPortTrained p plane leaf transit halfTrip s) := by
  unfold execPortTrained
  try dsimp only
  repeat' (first
    | with_reducible assumption | with_reducible apply State.chooseIndex_keeps | with_reducible apply State.portTrained_keeps
    | with_reducible apply State.modPort_keeps | with_reducible apply next_keeps | with_reducible apply ite_keeps)

theorem execPortRetry_keeps {s0 s : State} (hs : Keeps s0 s) (p) : KeepsOut s0 (execPortRetry p s) := by
  unfold execPortRetry
  try dsimp only
  repeat' (first
    | with_reducible assumption | with_reducible apply State.setPort_keeps | with_reducible apply next_keeps
    | with_reducible apply ite_keeps)

theorem execRetrain_keeps {s0 s : State} (hs : Keeps s0 s) (p) : KeepsOut s0 (execRetrain p s) := by
  unfold execRetrain
  try dsimp only
  repeat' (first
    | with_reducible assumption | with_reducible apply State.startRetrain_keeps | with_reducible apply State.setPort_keeps
    | with_reducible apply next_keeps | with_reducible apply ite_keeps | split)

theorem execHwsPortCntClear_keeps {s0 s : State} (hs : Keeps s0 s) (p) (value) : KeepsOut s0 (execHwsPortCntClear p value s)
    := by
  unfold execHwsPortCntClear
  try dsimp only
  repeat' (first | with_reducible assumption | with_reducible apply State.modPort_keeps | with_reducible apply next_keeps)

theorem State.leaveNow_keeps {s0 s : State} (hs : Keeps s0 s) : Keeps s0 (State.leaveNow s) := by
  unfold State.leaveNow
  try dsimp only
  repeat' (first | with_reducible assumption | with_reducible apply State.broadcast_keeps)

theorem State.measure_keeps {s0 s : State} (hs : Keeps s0 s) (i) (digest) : Keeps s0 (State.measure s i digest) := by
  unfold State.measure
  try dsimp only
  repeat' (first | with_reducible assumption | (simp (disch := rfl) only [↓mk_keeps]) | with_reducible apply ite_keeps)

theorem State.fenceUnit_keeps {s0 s : State} (hs : Keeps s0 s) (u) : Keeps s0 (State.fenceUnit s u) := by
  unfold State.fenceUnit
  try dsimp only
  repeat' (first
    | with_reducible assumption | with_reducible apply State.freeHank_keeps | with_reducible apply State.modUnit_keeps
    | with_reducible apply State.modLaunch_keeps | with_reducible apply State.endLaunch_keeps
    | (simp (disch := rfl) only [↓mk_keeps]) | (with_reducible apply foldl_keeps <;> (try intro _ _ _))
    | with_reducible apply ite_keeps | split)

theorem State.endStranded_keeps {s0 s : State} (hs : Keeps s0 s) : Keeps s0 (State.endStranded s) := by
  unfold State.endStranded
  try dsimp only
  repeat' (first
    | with_reducible assumption | with_reducible apply State.endLaunch_keeps
    | (with_reducible apply foldl_keeps <;> (try intro _ _ _)) | with_reducible apply ite_keeps | split)

theorem State.fenceCc_keeps {s0 s : State} (hs : Keeps s0 s) (k) : Keeps s0 (State.fenceCc s k) := by
  unfold State.fenceCc
  try dsimp only
  repeat' (first
    | with_reducible assumption | with_reducible apply State.modHart_keeps | (simp (disch := rfl) only [↓mk_keeps])
    | (with_reducible apply foldl_keeps <;> (try intro _ _ _)))

/-- Marking pieces fenced leaves fenced what is. -/
theorem setAll_stays {n : Nat} (v : BitVec n) (l : List Nat) (i : Nat) (h : v.getLsbD i = true) : (setAll v l).getLsbD i = true := by
  unfold setAll
  induction l generalizing v with
  | nil => exact h
  | cons a t ih => exact ih _ (by simp [h])

theorem State.fence_keeps {s0 s : State} (h : Keeps s0 s) (kind) (index) (code) : Keeps s0 (State.fence s kind index code) := by
  have k (f : Fenced) (n : Nat) : Keeps s0 { s with err := { s.err with
      fmUnit := setAll s.err.fmUnit f.units, fmCluster := setAll s.err.fmCluster f.clusters
      fmRegion := setAll s.err.fmRegion f.regions, fmCc := setAll s.err.fmCc f.ccs, fmDie := setAll s.err.fmDie f.dies
      fenceCount := n } } :=
    err_keeps h ⟨fun i => setAll_stays _ _ i, fun i => setAll_stays _ _ i, fun i => setAll_stays _ _ i, fun i => setAll_stays _ _ i,
      fun i => setAll_stays _ _ i⟩
  unfold State.fence
  dsimp only
  repeat' (first
    | with_reducible assumption
    | with_reducible apply State.measure_keeps
    | with_reducible apply State.declareDead_keeps
    | with_reducible apply State.endStranded_keeps
    | with_reducible apply State.logErr_keeps
    | with_reducible apply State.fenceUnit_keeps
    | with_reducible apply State.fenceCc_keeps
    | with_reducible exact k _ _
    | (with_reducible apply foldl_keeps <;> (try intro _ _ _))
    | split)

theorem State.pass_keeps {s0 s : State} (hs : Keeps s0 s) (n) : Keeps s0 (State.pass s n) := by
  unfold State.pass
  try dsimp only
  repeat' (first
    | with_reducible assumption | with_reducible apply State.modUnit_keeps | with_reducible apply State.modDom_keeps
    | with_reducible apply State.modSlice_keeps | (simp (disch := rfl) only [↓mk_keeps])
    | (with_reducible apply foldl_keeps <;> (try intro _ _ _)))

theorem State.idle_keeps {s0 s : State} (hs : Keeps s0 s) : Keeps s0 (State.idle s) := by
  unfold State.idle
  try dsimp only
  repeat' (first | with_reducible assumption | with_reducible apply State.pass_keeps)

end Sys2Proof.Machine
end

