-- ==== Sys2Proof/Laws/KeepsPower.lean ====
section
/-! SUPPORT. Resets, the Lehr, frames, matrix instructions, die links and error records. Each keeps what `Keeps` says. -/

namespace Sys2Proof.Machine

open Sys2Proof

/-- What a command keeps at which the standby island is without power: all but the fences. -/
structure KeepsOff (s t : State) : Prop where
  queue : t.pending = s.pending
  form : Canonical s → Canonical t
  fuses : Fuses.only s.fuses t.fuses

theorem Keeps.off {s t : State} (h : Keeps s t) : KeepsOff s t := ⟨h.queue, h.form, h.fuses⟩

theorem canonical_empty : Canonical {} := by
  refine ⟨?_, rfl⟩
  simp only [Tables, Tbl.wf_nil, and_self]

theorem State.unpowered_off (s : State) : KeepsOff s s.unpowered := by
  refine ⟨rfl, fun _ => ⟨?_, rfl⟩, Fuses.only_refl _⟩
  simp only [State.unpowered, Tables, Tbl.wf_nil, and_self]

/-- Changing every entry keeps the canonical form. -/
theorem Tbl.wf_each {α : Type} [DecidableEq α] (d : α) (f : α → α) (t : Tbl α) (h : Tbl.wf d t = true) :
    Tbl.wf d (Tbl.each d f t) = true := by
  unfold Tbl.each
  induction t with
  | nil => rfl
  | cons e t ih =>
    obtain ⟨k, v⟩ := e
    rw [Tbl.wf_cons] at h
    simp only [List.map_cons, List.filter_cons]
    split
    · rename_i hd
      rw [Tbl.wf_cons]
      refine ⟨by simpa using hd, ih h.2.1, ?_⟩
      intro e he
      simp only [List.mem_filter, List.mem_map] at he
      obtain ⟨⟨x, hx, rfl⟩, -⟩ := he
      exact h.2.2 x hx
    · exact ih h.2.1

theorem State.island_keeps {s0 s : State} (h : Keeps s0 s) : Keeps s0 s.island := by
  refine h.trans ⟨rfl, fun c => ⟨?_, rfl⟩, Fuses.only_refl _, Err.fencesStay_refl _⟩
  have w := Tbl.wf_each {} (fun k : Stack => { repair := k.repair }) s.hbm c.1.2.2.2.2.1
  simp only [State.island, Tables, Tbl.wf_nil, and_self, w]

theorem State.eventP_keeps {s0 s : State} (hs : Keeps s0 s) (warm) : Keeps s0 (State.eventP s warm) := by
  unfold State.eventP
  try dsimp only
  repeat' (first
    | with_reducible assumption | with_reducible apply State.freeVal_keeps | with_reducible apply State.measure_keeps
    | (simp (disch := rfl) only [↓mk_keeps]))

theorem State.advance_keeps {s0 s : State} (hs : Keeps s0 s) : Keeps s0 (State.advance s) := by
  unfold State.advance
  try dsimp only
  repeat' (first | with_reducible assumption | (simp (disch := rfl) only [↓mk_keeps]))

theorem State.restart_keeps {s0 s : State} (hs : Keeps s0 s) : Keeps s0 (State.restart s) := by
  unfold State.restart
  try dsimp only
  repeat' (first
    | with_reducible assumption | with_reducible apply State.eventP_keeps | with_reducible apply State.advance_keeps
    | with_reducible apply State.island_keeps)

theorem State.coldRestart_keeps {s0 s : State} (hs : Keeps s0 s) : Keeps s0 (State.coldRestart s) := by
  unfold State.coldRestart
  try dsimp only
  repeat' (first
    | with_reducible assumption | with_reducible apply State.island_keeps | (simp (disch := rfl) only [↓mk_keeps]))

theorem State.emergencyStop_keeps {s0 s : State} (hs : Keeps s0 s) (kind) (index) (detail) : Keeps s0 (State.emergencyStop s
    kind index detail) := by
  unfold State.emergencyStop
  try dsimp only
  repeat' (first
    | with_reducible assumption | with_reducible apply State.island_keeps | with_reducible apply State.logErr_keeps
    | (simp (disch := rfl) only [↓mk_keeps]))

theorem State.announce_keeps {s0 s : State} (hs : Keeps s0 s) (d) : Keeps s0 (State.announce s d) := by
  unfold State.announce
  try dsimp only
  repeat' (first
    | with_reducible assumption | with_reducible apply State.broadcast_keeps | (simp (disch := rfl) only [↓mk_keeps]))

theorem State.forgetPeers_keeps {s0 s : State} (hs : Keeps s0 s) : Keeps s0 (State.forgetPeers s) := by
  unfold State.forgetPeers
  try dsimp only
  repeat' (first
    | with_reducible assumption | with_reducible apply State.peerLost_keeps
    | (with_reducible apply foldl_keeps <;> (try intro _ _ _)) | with_reducible apply ite_keeps)

theorem State.powerDown_keeps {s0 s : State} (h : Keeps s0 s) : Keeps s0 s.powerDown := by
  refine h.only rfl (fun c => ⟨?_, rfl⟩) rfl rfl
  have c := c.1
  simp only [Tables] at c
  simp only [State.powerDown, Tables, Tbl.wf_nil, Tbl.wf_each, c, and_self]

theorem State.enterStage_keeps {s0 s : State} (hs : Keeps s0 s) (t) : Keeps s0 (State.enterStage s t) := by
  unfold State.enterStage
  try dsimp only
  repeat' (first
    | with_reducible assumption | with_reducible apply State.modStack_keeps | with_reducible apply State.powerDown_keeps
    | (simp (disch := rfl) only [↓mk_keeps]) | (with_reducible apply foldl_keeps <;> (try intro _ _ _))
    | with_reducible apply ite_keeps)

theorem State.wakeUp_keeps {s0 s : State} (hs : Keeps s0 s) : Keeps s0 (State.wakeUp s) := by
  unfold State.wakeUp
  try dsimp only
  repeat' (first | with_reducible assumption | (simp (disch := rfl) only [↓mk_keeps]) | with_reducible apply ite_keeps)

theorem State.accept_keeps {s0 s : State} (hs : Keeps s0 s) (f) : Keeps s0 (State.accept s f) := by
  unfold State.accept
  try dsimp only
  repeat' (first
    | with_reducible assumption | with_reducible apply State.measure_keeps | (simp (disch := rfl) only [↓mk_keeps]))

theorem State.verifyEnd_keeps {s0 s : State} (hs : Keeps s0 s) (announced) : Keeps s0 (State.verifyEnd s announced) := by
  unfold State.verifyEnd
  try dsimp only
  repeat' (first
    | with_reducible assumption | with_reducible apply State.announce_keeps | with_reducible apply State.accept_keeps
    | with_reducible apply State.forgetPeers_keeps | (simp (disch := rfl) only [↓mk_keeps]) | with_reducible apply ite_keeps
    | split)

theorem State.departed_keeps {s0 s : State} (hs : Keeps s0 s) : Keeps s0 (State.departed s) := by
  unfold State.departed
  try dsimp only
  repeat' (first
    | with_reducible assumption | with_reducible apply State.leaveNow_keeps | with_reducible apply State.restart_keeps
    | with_reducible apply State.enterStage_keeps | with_reducible apply State.forgetPeers_keeps
    | with_reducible apply State.verifyEnd_keeps | (simp (disch := rfl) only [↓mk_keeps]) | split)

theorem State.departFor_keeps {s0 s : State} (hs : Keeps s0 s) (d) : Keeps s0 (State.departFor s d) := by
  unfold State.departFor
  try dsimp only
  repeat' (first
    | with_reducible assumption | with_reducible apply State.announce_keeps | with_reducible apply State.departed_keeps
    | with_reducible apply ite_keeps)

theorem execLeaveBroadcast_keeps {s0 s : State} (hs : Keeps s0 s) : KeepsOut s0 (execLeaveBroadcast s) := by
  unfold execLeaveBroadcast
  try dsimp only
  repeat' (first
    | with_reducible assumption | with_reducible apply State.departed_keeps | with_reducible apply next_keeps
    | with_reducible apply ite_keeps)

theorem State.warmReset_keeps {s0 s : State} (hs : Keeps s0 s) : Keeps s0 (State.warmReset s) := by
  unfold State.warmReset
  try dsimp only
  repeat' (first
    | with_reducible assumption | with_reducible apply State.departFor_keeps | with_reducible apply State.restart_keeps
    | with_reducible apply ite_keeps)

theorem execWarmReset_keeps {s0 s : State} (hs : Keeps s0 s) : KeepsOut s0 (execWarmReset s) := by
  unfold execWarmReset
  try dsimp only
  repeat' (first
    | with_reducible assumption | with_reducible apply State.warmReset_keeps | with_reducible apply next_keeps
    | with_reducible apply ite_keeps)

theorem State.beginSpill_keeps {s0 s t : State} (_hs : Keeps s0 s) (hs1 : Keeps s0 t) : Keeps s0 (State.beginSpill s t) := by
  unfold State.beginSpill
  refine hs1.only rfl (fun c => ?_) rfl rfl
  exact ⟨c.1, Tbl.wf_filter _ _ _ c.2⟩

theorem State.applyMemory_keeps {s0 s t : State} (h : Keeps s0 s) (h1 : Keeps s0 t) : Keeps s0 (State.applyMemory s t) := by
  unfold State.applyMemory
  extract_lets same dirty t1 base move c0 t2 t3
  have k1 : Keeps s0 t1 := foldl_keeps _ _ h1 (fun s x k => State.hbmStore_keeps k _ _ _)
  have k2 : Keeps s0 t2 := by
    refine scratch_keeps k1 (fun _ => ?_) rfl
    have w (l : List (Nat × LineData)) (m : Tbl LineData) (hm : Tbl.wf 0 m = true) :
        Tbl.wf (0 : LineData) (l.foldl (fun (m : Tbl LineData) e => match move e.1 with | some o => Tbl.set (0 : LineData) m o e.2 | none => m) m) = true := by
      induction l generalizing m with
      | nil => exact hm
      | cons e l ih =>
        refine ih _ ?_
        beta_reduce
        generalize move e.1 = x
        cases x with
        | none => exact hm
        | some o => exact Tbl.wf_set _ _ _ _ hm
    exact w _ _ rfl
  exact foldl_keeps _ _ (State.beginSpill_keeps h k2) (fun s n k => State.modSlice_keeps k _ _)

theorem State.remapListed_keeps {s0 s : State} (hs : Keeps s0 s) : Keeps s0 (State.remapListed s) := by
  unfold State.remapListed
  try dsimp only
  repeat' (first
    | with_reducible assumption | with_reducible apply State.remapStart_keeps
    | (with_reducible apply foldl_keeps <;> (try intro _ _ _)) | with_reducible apply ite_keeps)

theorem State.applyPorts_keeps {s0 s : State} (hs : Keeps s0 s) : Keeps s0 (State.applyPorts s) := by
  unfold State.applyPorts
  try dsimp only
  repeat' (first
    | with_reducible assumption | with_reducible apply State.portLost_keeps | with_reducible apply State.setPort_keeps
    | (with_reducible apply foldl_keeps <;> (try intro _ _ _)) | with_reducible apply ite_keeps)

theorem State.applyFabric_keeps {s0 s : State} (hs : Keeps s0 s) : Keeps s0 (State.applyFabric s) := by
  unfold State.applyFabric
  try dsimp only
  repeat' (first
    | with_reducible assumption | with_reducible apply State.applyPorts_keeps | with_reducible apply State.sendJoin_keeps
    | with_reducible apply State.chooseIndex_keeps | with_reducible apply State.setIndex_keeps
    | (simp (disch := rfl) only [↓mk_keeps]) | (with_reducible apply foldl_keeps <;> (try intro _ _ _))
    | with_reducible apply ite_keeps)

theorem State.applyStruct_keeps {s0 s t : State} (hs : Keeps s0 s) (hs1 : Keeps s0 t) : Keeps s0 (State.applyStruct s t) := by
  unfold State.applyStruct
  try dsimp only
  repeat' (first
    | with_reducible assumption | with_reducible apply State.modDom_keeps
    | (with_reducible apply foldl_keeps <;> (try intro _ _ _)) | with_reducible apply ite_keeps)

theorem State.applyFrit_keeps {s0 s : State} (hs : Keeps s0 s) : Keeps s0 (State.applyFrit s) := by
  unfold State.applyFrit
  try dsimp only
  repeat' (first
    | with_reducible assumption | with_reducible apply State.applyStruct_keeps | with_reducible apply State.applyMemory_keeps
    | with_reducible apply State.remapListed_keeps | with_reducible apply State.chooseIndex_keeps
    | with_reducible apply State.applyPorts_keeps | with_reducible apply State.applyFabric_keeps
    | (simp (disch := rfl) only [↓mk_keeps]) | with_reducible apply ite_keeps | split)

theorem State.takeFrit_keeps {s0 s : State} (hs : Keeps s0 s) : Keeps s0 (State.takeFrit s) := by
  unfold State.takeFrit
  try dsimp only
  repeat' (first
    | with_reducible assumption | with_reducible apply State.accept_keeps | (simp (disch := rfl) only [↓mk_keeps])
    | (with_reducible apply foldl_keeps <;> (try intro _ _ _)) | with_reducible apply ite_keeps | split)

theorem State.hostRelease_keeps {s0 s : State} (hs : Keeps s0 s) : Keeps s0 (State.hostRelease s) := by
  unfold State.hostRelease
  try dsimp only
  repeat' (first
    | with_reducible assumption | with_reducible apply State.fenceCc_keeps | with_reducible apply State.measure_keeps
    | (simp (disch := rfl) only [↓mk_keeps]) | (with_reducible apply foldl_keeps <;> (try intro _ _ _)))

theorem State.dieReading_keeps {s0 s : State} (hs : Keeps s0 s) (n) (temp) : Keeps s0 (State.dieReading s n temp) := by
  unfold State.dieReading
  try dsimp only
  repeat' (first
    | with_reducible assumption | with_reducible apply State.modDie_keeps | (simp (disch := rfl) only [↓mk_keeps]))

theorem State.setHold_keeps {s0 s : State} (h : Keeps s0 s) (k) (on) : Keeps s0 (State.setHold s k on) := by
  unfold State.setHold
  have h1 (f) : Keeps s0 ((s.modStack k f).logErr .event 0x15 7 (32 * k)) := State.logErr_keeps (State.modStack_keeps h k f) _ _ _ _ _ _
  dsimp only
  split
  · exact h
  · split
    · exact (State.modStack_keeps (h1 _) k (fun y => { y with deferred := (s.stack k).deferred })).core rfl
    · exact foldl_keeps _ _ (State.flushHeld_keeps (h1 _) _) (fun s r k => State.remapStart_keeps k _ _ _ _ _)

theorem State.stackReading_keeps {s0 s : State} (hs : Keeps s0 s) (k) (temp) : Keeps s0 (State.stackReading s k temp) := by
  unfold State.stackReading
  try dsimp only
  repeat' (first
    | with_reducible assumption | with_reducible apply State.modStack_keeps | with_reducible apply State.setHold_keeps
    | with_reducible apply ite_keeps)

theorem State.readings_keeps {s0 s : State} (hs : Keeps s0 s) (t) : Keeps s0 (State.readings s t) := by
  unfold State.readings
  try dsimp only
  repeat' (first
    | with_reducible assumption | with_reducible apply State.dieReading_keeps | with_reducible apply State.stackReading_keeps
    | (with_reducible apply foldl_keeps <;> (try intro _ _ _)))

theorem State.applyHint_keeps {s0 s : State} (hs : Keeps s0 s) (h) : Keeps s0 (State.applyHint s h) := by
  unfold State.applyHint
  try dsimp only
  repeat' (first
    | with_reducible assumption | with_reducible apply State.modDom_keeps
    | (with_reducible apply foldl_keeps <;> (try intro _ _ _)))

theorem State.hints_keeps {s0 s : State} (hs : Keeps s0 s) : Keeps s0 (State.hints s) := by
  unfold State.hints
  try dsimp only
  repeat' (first
    | with_reducible assumption | with_reducible apply State.modDom_keeps | with_reducible apply State.applyHint_keeps
    | (simp (disch := rfl) only [↓mk_keeps]) | (with_reducible apply foldl_keeps <;> (try intro _ _ _)))

theorem State.grants_keeps {s0 s : State} (hs : Keeps s0 s) (t) : Keeps s0 (State.grants s t) := by
  unfold State.grants
  try dsimp only
  repeat' (first
    | with_reducible assumption | with_reducible apply State.modDom_keeps | (simp (disch := rfl) only [↓mk_keeps])
    | (with_reducible apply foldl_keeps <;> (try intro _ _ _)))

theorem State.rails_keeps {s0 s : State} (hs : Keeps s0 s) : Keeps s0 (State.rails s) := by
  unfold State.rails
  try dsimp only
  repeat' (first
    | with_reducible assumption | with_reducible apply State.modDom_keeps
    | (with_reducible apply foldl_keeps <;> (try intro _ _ _)))

theorem State.epochFrame_keeps {s0 s : State} (hs : Keeps s0 s) : Keeps s0 (State.epochFrame s) := by
  unfold State.epochFrame
  try dsimp only
  repeat' (first
    | with_reducible assumption | with_reducible apply State.modDom_keeps | (simp (disch := rfl) only [↓mk_keeps])
    | (with_reducible apply foldl_keeps <;> (try intro _ _ _)))

theorem State.epochStart_keeps {s0 s : State} (hs : Keeps s0 s) : Keeps s0 (State.epochStart s) := by
  unfold State.epochStart
  try dsimp only
  repeat' (first | with_reducible assumption | (simp (disch := rfl) only [↓mk_keeps]))

theorem State.jobApply_keeps {s0 s : State} (hs : Keeps s0 s) : Keeps s0 (State.jobApply s) := by
  unfold State.jobApply
  try dsimp only
  repeat' (first | with_reducible assumption | (simp (disch := rfl) only [↓mk_keeps]) | split)

theorem State.idleGate_keeps {s0 s : State} (hs : Keeps s0 s) : Keeps s0 (State.idleGate s) := by
  unfold State.idleGate
  try dsimp only
  repeat' (first
    | with_reducible assumption | with_reducible apply State.modDom_keeps
    | (with_reducible apply foldl_keeps <;> (try intro _ _ _)))

theorem State.tickCount_keeps {s0 s : State} (hs : Keeps s0 s) : Keeps s0 (State.tickCount s) := by
  unfold State.tickCount
  try dsimp only
  repeat' (first
    | with_reducible assumption | with_reducible apply State.pass_keeps | with_reducible apply State.logErr_keeps
    | (simp (disch := rfl) only [↓mk_keeps]) | with_reducible apply ite_keeps)

theorem State.tickBeacon_keeps {s0 s : State} (hs : Keeps s0 s) : Keeps s0 (State.tickBeacon s) := by
  unfold State.tickBeacon
  try dsimp only
  repeat' (first | with_reducible assumption | (simp (disch := rfl) only [↓mk_keeps]))

theorem State.bundleDown_keeps {s0 s : State} (hs : Keeps s0 s) (n) : Keeps s0 (State.bundleDown s n) := by
  unfold State.bundleDown
  try dsimp only
  repeat' (first
    | with_reducible assumption | with_reducible apply State.modBundle_keeps | with_reducible apply State.fence_keeps
    | with_reducible apply State.fatal_keeps | with_reducible apply ite_keeps)

theorem State.dlkMonitor_keeps {s0 s : State} (hs : Keeps s0 s) (n) : Keeps s0 (State.dlkMonitor s n) := by
  unfold State.dlkMonitor
  try dsimp only
  repeat' (first
    | with_reducible assumption | with_reducible apply State.modBundle_keeps | with_reducible apply State.logErr_keeps
    | with_reducible apply State.bundleDown_keeps | with_reducible apply ite_keeps | split)

theorem State.dlkTick_keeps {s0 s : State} (hs : Keeps s0 s) : Keeps s0 (State.dlkTick s) := by
  unfold State.dlkTick
  try dsimp only
  repeat' (first
    | with_reducible assumption | with_reducible apply State.dlkMonitor_keeps
    | (with_reducible apply foldl_keeps <;> (try intro _ _ _)))

theorem State.stageTick_keeps {s0 s : State} (hs : Keeps s0 s) : Keeps s0 (State.stageTick s) := by
  unfold State.stageTick
  try dsimp only
  repeat' (first
    | with_reducible assumption | with_reducible apply State.enterStage_keeps | with_reducible apply State.departFor_keeps
    | (simp (disch := rfl) only [↓mk_keeps]) | with_reducible apply ite_keeps | split)

theorem State.polls_keeps {s0 s : State} (hs : Keeps s0 s) : Keeps s0 (State.polls s) := by
  unfold State.polls
  try dsimp only
  repeat' (first
    | with_reducible assumption | with_reducible apply State.modQueue_keeps | with_reducible apply State.watchTail_keeps
    | with_reducible apply State.knotPoll_keeps | with_reducible apply State.modDmaCh_keeps
    | (with_reducible apply foldl_keeps <;> (try intro _ _ _)) | with_reducible apply ite_keeps)

theorem State.tickWork_keeps {s0 s : State} (hs : Keeps s0 s) : Keeps s0 (State.tickWork s) := by
  unfold State.tickWork
  try dsimp only
  repeat' (first
    | with_reducible assumption | with_reducible apply State.modDmaCh_keeps | with_reducible apply State.modPeer_keeps
    | (simp (disch := rfl) only [↓mk_keeps]) | (with_reducible apply foldl_keeps <;> (try intro _ _ _))
    | with_reducible apply ite_keeps)

theorem State.creditEpoch_keeps {s0 s : State} (hs : Keeps s0 s) : Keeps s0 (State.creditEpoch s) := by
  unfold State.creditEpoch
  try dsimp only
  repeat' (first
    | with_reducible assumption | with_reducible apply State.modPort_keeps
    | (with_reducible apply foldl_keeps <;> (try intro _ _ _)) | with_reducible apply ite_keeps)

theorem State.beaconSend_keeps {s0 s : State} (hs : Keeps s0 s) : Keeps s0 (State.beaconSend s) := by
  unfold State.beaconSend
  try dsimp only
  repeat' (first | with_reducible assumption | with_reducible apply State.broadcast_keeps | with_reducible apply ite_keeps)

theorem execFrameTick_keeps {s0 s : State} (h : Keeps s0 s) (t) : KeepsOut s0 (execFrameTick t s) := by
  have step (s : State) (h : Keeps s0 s) : Keeps s0 (if s.alive then s.stageTick.beaconSend else s) := by
    split
    · exact State.beaconSend_keeps (State.stageTick_keeps h)
    · exact h
  have work (s : State) (h : Keeps s0 s) : Keeps s0 (if s.alive then s.tickWork.polls else s) := by
    split
    · exact State.polls_keeps (State.tickWork_keeps h)
    · exact h
  have job (s : State) (h : Keeps s0 s) : Keeps s0 (if s.frm.count % 16 = 2 then s.jobApply else s) := by
    split
    · exact State.jobApply_keeps h
    · exact h
  have start (s : State) (h : Keeps s0 s) : Keeps s0 (if s.frm.count % 16 = 0 then s.epochStart else s) := by
    split
    · exact State.epochStart_keeps h
    · exact h
  have release (b : Bool) (s : State) (h : Keeps s0 s) : Keeps s0 (if b && s.alive then s.hostRelease else s) := by
    split
    · exact State.hostRelease_keeps h
    · exact h
  have frit (s : State) (h : Keeps s0 s) : Keeps s0 (if s.alive then s.applyFrit else s) := by
    split
    · exact State.applyFrit_keeps h
    · exact h
  have cleat (s : State) (h : Keeps s0 s) : Keeps s0 { s with coh := { s.coh with cleat := s.coh.cleatNext } } := h.core rfl
  unfold execFrameTick
  apply next_keeps
  split
  · exact h
  · extract_lets s1 r s2 s3 a b c d e src f g i
    have h2 : Keeps s0 s2 := frit _ (State.tickCount_keeps h)
    clear_value s2
    have h3 : Keeps s0 s3 := release r s2 h2
    clear_value s3
    split
    · exact State.emergencyStop_keeps h3 _ _ _
    · have hb : Keeps s0 b := start _ (State.epochFrame_keeps h3)
      clear_value b
      have hc : Keeps s0 c :=
        State.rails_keeps (State.grants_keeps (State.idleGate_keeps (State.hints_keeps (State.readings_keeps hb t))) t)
      clear_value c
      have hd : Keeps s0 d := job c hc
      clear_value d
      have he : Keeps s0 e := State.creditEpoch_keeps (State.claimMaster_keeps (State.tickBeacon_keeps hd))
      clear_value e
      have hf : Keeps s0 f := cleat e he
      clear_value f
      have hi : Keeps s0 i := work g (State.dlkTick_keeps hf)
      exact step i hi

theorem State.takeBeacon_keeps {s0 s : State} (hs : Keeps s0 s) (p) (m) (count) (send) : Keeps s0 (State.takeBeacon s p m
    count send) := by
  unfold State.takeBeacon
  try dsimp only
  repeat' (first | with_reducible assumption | (simp (disch := rfl) only [↓mk_keeps]))

theorem State.mismatched_keeps {s0 s : State} (hs : Keeps s0 s) (m) : Keeps s0 (State.mismatched s m) := by
  unfold State.mismatched
  try dsimp only
  repeat' (first | with_reducible assumption | (simp (disch := rfl) only [↓mk_keeps]))

theorem State.beaconIn_keeps {s0 s : State} (hs : Keeps s0 s) (port) (master) (count) (b) (send) : Keeps s0 (State.beaconIn s
    port master count b send) := by
  unfold State.beaconIn
  try dsimp only
  repeat' (first
    | with_reducible assumption | with_reducible apply State.mismatched_keeps | with_reducible apply State.takeBeacon_keeps
    | (simp (disch := rfl) only [↓mk_keeps]) | with_reducible apply ite_keeps)

theorem execBeacon_keeps {s0 s : State} (hs : Keeps s0 s) (port) (master) (count) (body) (sendDelay) : KeepsOut s0 (execBeacon
    port master count body sendDelay s) := by
  unfold execBeacon
  try dsimp only
  repeat' (first | with_reducible assumption | with_reducible apply State.beaconIn_keeps | with_reducible apply next_keeps)

theorem execBeaconMiss_keeps {s0 s : State} (hs : Keeps s0 s) : KeepsOut s0 (execBeaconMiss s) := by
  unfold execBeaconMiss
  try dsimp only
  repeat' (first
    | with_reducible assumption | with_reducible apply next_keeps | (simp (disch := rfl) only [↓mk_keeps])
    | with_reducible apply ite_keeps)

theorem execFrameLock_keeps {s0 s : State} (hs : Keeps s0 s) : KeepsOut s0 (execFrameLock s) := by
  unfold execFrameLock
  try dsimp only
  repeat' (first
    | with_reducible assumption | with_reducible apply next_keeps | (simp (disch := rfl) only [↓mk_keeps])
    | with_reducible apply ite_keeps)

theorem State.startElection_keeps {s0 s : State} (hs : Keeps s0 s) : Keeps s0 (State.startElection s) := by
  unfold State.startElection
  try dsimp only
  repeat' (first
    | with_reducible assumption | with_reducible apply State.broadcast_keeps | (simp (disch := rfl) only [↓mk_keeps]))

theorem execElectionStart_keeps {s0 s : State} (hs : Keeps s0 s) : KeepsOut s0 (execElectionStart s) := by
  unfold execElectionStart
  try dsimp only
  repeat' (first
    | with_reducible assumption | with_reducible apply State.startElection_keeps | with_reducible apply next_keeps
    | with_reducible apply ite_keeps)

theorem State.electIn_keeps {s0 s : State} (hs : Keeps s0 s) (src) (prio) : Keeps s0 (State.electIn s src prio) := by
  unfold State.electIn
  try dsimp only
  repeat' (first
    | with_reducible assumption | with_reducible apply State.startElection_keeps | (simp (disch := rfl) only [↓mk_keeps])
    | with_reducible apply ite_keeps)

theorem execElect_keeps {s0 s : State} (hs : Keeps s0 s) (src) (prio) : KeepsOut s0 (execElect src prio s) := by
  unfold execElect
  try dsimp only
  repeat' (first | with_reducible assumption | with_reducible apply State.electIn_keeps | with_reducible apply next_keeps)

theorem execElectionEnd_keeps {s0 s : State} (hs : Keeps s0 s) : KeepsOut s0 (execElectionEnd s) := by
  unfold execElectionEnd
  try dsimp only
  repeat' (first
    | with_reducible assumption | with_reducible apply State.becomeMaster_keeps | with_reducible apply next_keeps
    | (simp (disch := rfl) only [↓mk_keeps]) | with_reducible apply ite_keeps | split)

theorem execFtrefLoss_keeps {s0 s : State} (hs : Keeps s0 s) : KeepsOut s0 (execFtrefLoss s) := by
  unfold execFtrefLoss
  try dsimp only
  repeat' (first | with_reducible assumption | with_reducible apply next_keeps | (simp (disch := rfl) only [↓mk_keeps]))

theorem execFtrefReturn_keeps {s0 s : State} (hs : Keeps s0 s) : KeepsOut s0 (execFtrefReturn s) := by
  unfold execFtrefReturn
  try dsimp only
  repeat' (first
    | with_reducible assumption | with_reducible apply next_keeps | (simp (disch := rfl) only [↓mk_keeps])
    | with_reducible apply ite_keeps)

theorem execReload_keeps {s0 s : State} (hs : Keeps s0 s) (m) : KeepsOut s0 (execReload m s) := by
  unfold execReload
  try dsimp only
  repeat' (first
    | with_reducible assumption | with_reducible apply next_keeps | (simp (disch := rfl) only [↓mk_keeps])
    | with_reducible apply ite_keeps)

theorem execFritVerifyEnd_keeps {s0 s : State} (hs : Keeps s0 s) : KeepsOut s0 (execFritVerifyEnd s) := by
  unfold execFritVerifyEnd
  try dsimp only
  repeat' (first
    | with_reducible assumption | with_reducible apply State.verifyEnd_keeps | with_reducible apply next_keeps
    | with_reducible apply ite_keeps)

theorem execCommit_keeps {s0 s : State} (hs : Keeps s0 s) : KeepsOut s0 (execCommit s) := by
  unfold execCommit
  try dsimp only
  repeat' (first
    | with_reducible assumption | with_reducible apply next_keeps | (simp (disch := rfl) only [↓mk_keeps])
    | with_reducible apply ite_keeps)

theorem State.askRamp_keeps {s0 s : State} (hs : Keeps s0 s) (r) : Keeps s0 (State.askRamp s r) := by
  unfold State.askRamp
  try dsimp only
  repeat' (first | with_reducible assumption | (simp (disch := rfl) only [↓mk_keeps]) | with_reducible apply ite_keeps)

theorem execTmma_keeps {s0 s : State} (hs : Keeps s0 s) (u) (slot) (f) : KeepsOut s0 (execTmma u slot f s) := by
  unfold execTmma
  try dsimp only
  repeat' (first
    | with_reducible assumption | with_reducible apply State.issue_keeps | with_reducible apply State.modUnit_keeps
    | with_reducible apply State.askRamp_keeps | with_reducible apply State.retire_keeps | with_reducible apply next_keeps
    | with_reducible apply ok_keeps | with_reducible exact error_keeps _ | (with_reducible apply bind_keeps; intro _ _)
    | with_reducible intro _ | with_reducible apply ite_keeps | split)

theorem execTmmaStart_keeps {s0 s : State} (hs : Keeps s0 s) (u) : KeepsOut s0 (execTmmaStart u s) := by
  unfold execTmmaStart
  try dsimp only
  repeat' (first
    | with_reducible assumption | with_reducible apply State.viewTiles_keeps | with_reducible apply State.onHank_keeps
    | with_reducible apply State.touchTile_keeps | with_reducible apply State.countVts_keeps
    | with_reducible apply State.modUnit_keeps | with_reducible apply State.modDom_keeps | with_reducible apply next_keeps
    | (with_reducible apply foldl_keeps <;> (try intro _ _ _)) | with_reducible apply ite_keeps | split)

theorem execWtile_keeps {s0 s : State} (hs : Keeps s0 s) (u) (slot) (f) : KeepsOut s0 (execWtile u slot f s) := by
  unfold execWtile
  try dsimp only
  repeat' (first
    | with_reducible assumption | with_reducible apply State.issue_keeps | with_reducible apply State.retire_keeps
    | with_reducible apply State.viewTiles_keeps | with_reducible apply State.onHank_keeps
    | with_reducible apply State.modUnit_keeps | with_reducible apply next_keeps | with_reducible apply ok_keeps
    | with_reducible exact error_keeps _ | (with_reducible apply bind_keeps; intro _ _) | with_reducible intro _ | split)

theorem execWchk_keeps {s0 s : State} (hs : Keeps s0 s) (u) (slot) (f) : KeepsOut s0 (execWchk u slot f s) := by
  unfold execWchk
  try dsimp only
  repeat' (first
    | with_reducible assumption | with_reducible apply State.issue_keeps | with_reducible apply State.retire_keeps
    | with_reducible apply State.viewTiles_keeps | with_reducible apply State.onHank_keeps
    | with_reducible apply State.modUnit_keeps | with_reducible apply next_keeps | with_reducible apply ok_keeps
    | with_reducible exact error_keeps _ | (with_reducible apply bind_keeps; intro _ _) | with_reducible intro _ | split)

theorem execHintExpiry_keeps {s0 s : State} (hs : Keeps s0 s) (coil) : KeepsOut s0 (execHintExpiry coil s) := by
  unfold execHintExpiry
  try dsimp only
  repeat' (first
    | with_reducible assumption | with_reducible apply State.modDom_keeps | with_reducible apply next_keeps
    | (with_reducible apply foldl_keeps <;> (try intro _ _ _)))

theorem execJobfreqResult_keeps {s0 s : State} (hs : Keeps s0 s) (epoch) (level) : KeepsOut s0 (execJobfreqResult epoch level
    s) := by
  unfold execJobfreqResult
  try dsimp only
  repeat' (first
    | with_reducible assumption | with_reducible apply next_keeps | (simp (disch := rfl) only [↓mk_keeps])
    | with_reducible apply ite_keeps)

theorem execOverpower_keeps {s0 s : State} (hs : Keeps s0 s) : KeepsOut s0 (execOverpower s) := by
  unfold execOverpower
  try dsimp only
  repeat' (first
    | with_reducible assumption | with_reducible apply State.modDom_keeps | with_reducible apply State.logErr_keeps
    | with_reducible apply next_keeps | (simp (disch := rfl) only [↓mk_keeps])
    | (with_reducible apply foldl_keeps <;> (try intro _ _ _)) | with_reducible apply ite_keeps)

theorem execDroop_keeps {s0 s : State} (hs : Keeps s0 s) (region) (level) : KeepsOut s0 (execDroop region level s) := by
  unfold execDroop
  try dsimp only
  repeat' (first
    | with_reducible assumption | with_reducible apply State.modDom_keeps | with_reducible apply next_keeps
    | (simp (disch := rfl) only [↓mk_keeps]) | with_reducible apply ite_keeps)

theorem execDroopRelax_keeps {s0 s : State} (hs : Keeps s0 s) (region) : KeepsOut s0 (execDroopRelax region s) := by
  unfold execDroopRelax
  try dsimp only
  repeat' (first
    | with_reducible assumption | with_reducible apply State.modDom_keeps | with_reducible apply next_keeps
    | with_reducible apply ite_keeps)

theorem execRampGrant_keeps {s0 s : State} (hs : Keeps s0 s) (region) : KeepsOut s0 (execRampGrant region s) := by
  unfold execRampGrant
  try dsimp only
  repeat' (first
    | with_reducible assumption | with_reducible apply State.modDom_keeps | with_reducible apply next_keeps
    | (simp (disch := rfl) only [↓mk_keeps]) | with_reducible apply ite_keeps)

theorem execRampStep_keeps {s0 s : State} (hs : Keeps s0 s) (region) : KeepsOut s0 (execRampStep region s) := by
  unfold execRampStep
  try dsimp only
  repeat' (first
    | with_reducible assumption | with_reducible apply State.modDom_keeps | with_reducible apply next_keeps
    | with_reducible apply ite_keeps)

theorem execRegionQuiet_keeps {s0 s : State} (hs : Keeps s0 s) (region) : KeepsOut s0 (execRegionQuiet region s) := by
  unfold execRegionQuiet
  try dsimp only
  repeat' (first
    | with_reducible assumption | with_reducible apply State.modDom_keeps | with_reducible apply State.askRamp_keeps
    | with_reducible apply next_keeps | with_reducible apply ite_keeps)

theorem execStageRequest_keeps {s0 s : State} (hs : Keeps s0 s) (target) : KeepsOut s0 (execStageRequest target s) := by
  unfold execStageRequest
  try dsimp only
  repeat' (first
    | with_reducible assumption | with_reducible apply State.wakeUp_keeps | with_reducible apply next_keeps
    | (simp (disch := rfl) only [↓mk_keeps]) | with_reducible apply ite_keeps)

theorem execStageExit_keeps {s0 s : State} (hs : Keeps s0 s) : KeepsOut s0 (execStageExit s) := by
  unfold execStageExit
  try dsimp only
  repeat' (first
    | with_reducible assumption | with_reducible apply State.flushHeld_keeps | with_reducible apply State.modStack_keeps
    | with_reducible apply State.retryHome_keeps | with_reducible apply State.chooseIndex_keeps
    | with_reducible apply State.applyPorts_keeps | with_reducible apply next_keeps | (simp (disch := rfl) only [↓mk_keeps])
    | (with_reducible apply foldl_keeps <;> (try intro _ _ _)) | with_reducible apply ite_keeps)

theorem execMemReady_keeps {s0 s : State} (hs : Keeps s0 s) : KeepsOut s0 (execMemReady s) := by
  unfold execMemReady
  try dsimp only
  repeat' (first
    | with_reducible assumption | with_reducible apply State.flushHeld_keeps | with_reducible apply State.retryHome_keeps
    | with_reducible apply State.pumpHome_keeps | with_reducible apply next_keeps | (simp (disch := rfl) only [↓mk_keeps])
    | (with_reducible apply foldl_keeps <;> (try intro _ _ _)) | with_reducible apply ite_keeps)

theorem execDlkFlit_keeps {s0 s : State} (hs : Keeps s0 s) (n) (half) (bytes) : KeepsOut s0 (execDlkFlit n half bytes s) := by
  unfold execDlkFlit
  try dsimp only
  repeat' (first
    | with_reducible assumption | with_reducible apply State.modBundle_keeps | with_reducible apply next_keeps
    | with_reducible apply ite_keeps)

theorem execDlkNak_keeps {s0 s : State} (hs : Keeps s0 s) (n) (seq) : KeepsOut s0 (execDlkNak n seq s) := by
  unfold execDlkNak
  try dsimp only
  repeat' (first
    | with_reducible assumption | with_reducible apply State.modBundle_keeps | with_reducible apply State.bundleDown_keeps
    | with_reducible apply next_keeps | with_reducible apply ite_keeps)

theorem execDlkCntClear_keeps {s0 s : State} (hs : Keeps s0 s) (n) (value) : KeepsOut s0 (execDlkCntClear n value s) := by
  unfold execDlkCntClear
  try dsimp only
  repeat' (first | with_reducible assumption | with_reducible apply State.modBundle_keeps | with_reducible apply next_keeps)

theorem execUnitSram_keeps {s0 s : State} (hs : Keeps s0 s) (u) : KeepsOut s0 (execUnitSram u s) := by
  unfold execUnitSram
  try dsimp only
  repeat' (first
    | with_reducible assumption | with_reducible apply State.fence_keeps | with_reducible apply next_keeps
    | with_reducible apply ite_keeps)

theorem execClusterCache_keeps {s0 s : State} (hs : Keeps s0 s) (cl) : KeepsOut s0 (execClusterCache cl s) := by
  unfold execClusterCache
  try dsimp only
  repeat' (first
    | with_reducible assumption | with_reducible apply State.fence_keeps | with_reducible apply next_keeps
    | with_reducible apply ite_keeps)

theorem execCcCache_keeps {s0 s : State} (hs : Keeps s0 s) (k) : KeepsOut s0 (execCcCache k s) := by
  unfold execCcCache
  try dsimp only
  repeat' (first
    | with_reducible assumption | with_reducible apply State.fence_keeps | with_reducible apply next_keeps
    | with_reducible apply ite_keeps)

theorem execVital_keeps {s0 s : State} (hs : Keeps s0 s) (what) : KeepsOut s0 (execVital what s) := by
  unfold execVital
  try dsimp only
  repeat' (first
    | with_reducible assumption | with_reducible apply State.fatal_keeps | with_reducible apply next_keeps
    | with_reducible apply ite_keeps | split)

theorem execFenceReq_keeps {s0 s : State} (hs : Keeps s0 s) : KeepsOut s0 (execFenceReq s) := by
  unfold execFenceReq
  try dsimp only
  repeat' (first
    | with_reducible assumption | with_reducible apply State.fence_keeps | with_reducible apply next_keeps
    | with_reducible apply ite_keeps)

theorem execErrStatusClear_keeps {s0 s : State} (hs : Keeps s0 s) (value) (meets) : KeepsOut s0 (execErrStatusClear value
    meets s) := by
  unfold execErrStatusClear
  try dsimp only
  repeat' (first | with_reducible assumption | with_reducible apply next_keeps | (simp (disch := rfl) only [↓mk_keeps]))

theorem execErrBankHead_keeps {s0 s : State} (h : Keeps s0 s) (b) (value) : KeepsOut s0 (execErrBankHead b value s) := by
  unfold execErrBankHead
  apply next_keeps
  dsimp only
  split
  · exact h
  · exact err_keeps h (Err.setBank_fences _ _ _)

end Sys2Proof.Machine
end

