-- ==== Sys2Proof/Laws/KeepsBoot.lean ====
section
/-! SUPPORT. The host port, boot, mailboxes, registers and node cores. Each keeps what `Keeps` says. -/

namespace Sys2Proof.Machine

open Sys2Proof

theorem State.placeRefused_keeps {s0 s : State} (hs : Keeps s0 s) (rid) (x) (write) : Keeps s0 (State.placeRefused s rid x
    write) := by
  unfold State.placeRefused
  try dsimp only
  repeat' (first | with_reducible assumption | (simp (disch := rfl) only [↓mk_keeps]))

theorem State.performInbound_keeps {s0 s : State} (hs : Keeps s0 s) (w) : Keeps s0 (State.performInbound s w).2 := by
  unfold State.performInbound
  try dsimp only
  repeat' (first
    | with_reducible assumption | with_reducible apply State.transact_keeps | with_reducible apply State.cohWrite_keeps
    | split)

theorem State.pumpInbound_keeps {s0 x1 : State} (hs : Keeps s0 x1) (x0) : Keeps s0 (State.pumpInbound x0 x1) := by
  induction x0 generalizing x1 with
  | zero =>
    unfold State.pumpInbound
    try dsimp only
    repeat' (first
      | with_reducible assumption)
  | succ n ih =>
    unfold State.pumpInbound
    try dsimp only
    repeat' (first
      | with_reducible apply ih
      | with_reducible assumption
      | (with_reducible apply State.performInbound_keeps)
      | (simp (disch := rfl) only [↓mk_keeps])
      | with_reducible refine snd_keeps (by assumption) ?_
      | split)

theorem State.drainInbound_keeps {s0 s : State} (hs : Keeps s0 s) : Keeps s0 (State.drainInbound s) := by
  unfold State.drainInbound
  try dsimp only
  repeat' (first | with_reducible assumption | with_reducible apply State.pumpInbound_keeps)

theorem execBar2Write_keeps {s0 s : State} (hs : Keeps s0 s) (rid) (off) (bytes) (poisoned) : KeepsOut s0 (execBar2Write rid
    off bytes poisoned s) := by
  unfold execBar2Write
  try dsimp only
  repeat' (first
    | with_reducible assumption | with_reducible apply State.placeRefused_keeps
    | with_reducible apply State.drainInbound_keeps | with_reducible apply next_keeps
    | (simp (disch := rfl) only [↓mk_keeps]) | with_reducible apply ite_keeps | split)

theorem execBar2Read_keeps {s0 s : State} (hs : Keeps s0 s) (rid) (off) (len) : KeepsOut s0 (execBar2Read rid off len s) := by
  unfold execBar2Read
  try dsimp only
  repeat' (first
    | with_reducible assumption | with_reducible apply State.drainInbound_keeps
    | with_reducible apply State.placeRefused_keeps | with_reducible apply State.attempt_keeps
    | with_reducible apply State.bytesRead_keeps | with_reducible apply State.logErr_keeps | with_reducible apply next_keeps
    | with_reducible refine snd_keeps (by assumption) ?_ | with_reducible apply ite_keeps | split)

theorem execHptFlush_keeps {s0 s : State} (hs : Keeps s0 s) : KeepsOut s0 (execHptFlush s) := by
  unfold execHptFlush
  try dsimp only
  repeat' (first
    | with_reducible assumption | with_reducible apply State.drainInbound_keeps | with_reducible apply next_keeps
    | (simp (disch := rfl) only [↓mk_keeps]) | with_reducible apply ite_keeps)

theorem execLinkUp_keeps {s0 s : State} (hs : Keeps s0 s) (rate) (width) (flit) : KeepsOut s0 (execLinkUp rate width flit s)
    := by
  unfold execLinkUp
  try dsimp only
  repeat' (first
    | with_reducible assumption | with_reducible apply next_keeps | (simp (disch := rfl) only [↓mk_keeps])
    | with_reducible apply ite_keeps)

theorem execHostRetrain_keeps {s0 s : State} (hs : Keeps s0 s) (rate) (width) (flit) : KeepsOut s0 (execHostRetrain rate width
    flit s) := by
  unfold execHostRetrain
  try dsimp only
  repeat' (first
    | with_reducible assumption | with_reducible apply next_keeps | (simp (disch := rfl) only [↓mk_keeps])
    | with_reducible apply ite_keeps)

theorem State.dmaHostLost_keeps {s0 s : State} (hs : Keeps s0 s) (e) (c) : Keeps s0 (State.dmaHostLost s e c) := by
  unfold State.dmaHostLost
  try dsimp only
  repeat' (first
    | with_reducible assumption | with_reducible apply State.modDmaCh_keeps | with_reducible apply State.dmaEnd_keeps
    | with_reducible apply State.dmaRun_keeps | with_reducible apply State.endCmd_keeps
    | (with_reducible apply foldl_keeps <;> (try intro _ _ _)) | with_reducible apply ite_keeps)

theorem State.recordLost_keeps {s0 s : State} (hs : Keeps s0 s) (c) : Keeps s0 (State.recordLost s c) := by
  unfold State.recordLost
  try dsimp only
  repeat' (first
    | with_reducible assumption | with_reducible apply State.queueFault_keeps | with_reducible apply State.modQueue_keeps
    | with_reducible apply State.halt_keeps | with_reducible apply ite_keeps)

theorem State.detach_keeps {s0 s : State} (hs : Keeps s0 s) (acked) : Keeps s0 (State.detach s acked) := by
  unfold State.detach
  try dsimp only
  repeat' (first
    | with_reducible assumption | with_reducible apply State.logErr_keeps | with_reducible apply State.parkRecord_keeps
    | with_reducible apply State.recordLost_keeps | with_reducible apply State.dmaHostLost_keeps
    | with_reducible apply State.modQueue_keeps | with_reducible apply State.queueFault_keeps
    | (simp (disch := rfl) only [↓mk_keeps]) | (with_reducible apply foldl_keeps <;> (try intro _ _ _))
    | with_reducible apply ite_keeps)

theorem State.linkLost_keeps {s0 s : State} (hs : Keeps s0 s) : Keeps s0 (State.linkLost s) := by
  unfold State.linkLost
  try dsimp only
  repeat' (first | with_reducible assumption | (simp (disch := rfl) only [↓mk_keeps]))

theorem State.portDetach_keeps {s0 s : State} (hs : Keeps s0 s) (acked) : Keeps s0 (State.portDetach s acked) := by
  unfold State.portDetach
  try dsimp only
  repeat' (first
    | with_reducible assumption | with_reducible apply State.detach_keeps | with_reducible apply State.logErr_keeps
    | (simp (disch := rfl) only [↓mk_keeps]) | with_reducible apply ite_keeps)

theorem execLinkDown_keeps {s0 s : State} (hs : Keeps s0 s) (acked) : KeepsOut s0 (execLinkDown acked s) := by
  unfold execLinkDown
  try dsimp only
  repeat' (first
    | with_reducible assumption | with_reducible apply State.portDetach_keeps | with_reducible apply State.linkLost_keeps
    | with_reducible apply next_keeps | with_reducible apply ite_keeps)

theorem execHotReset_keeps {s0 s : State} (hs : Keeps s0 s) (acked) : KeepsOut s0 (execHotReset acked s) := by
  unfold execHotReset
  try dsimp only
  repeat' (first
    | with_reducible assumption | with_reducible apply State.portDetach_keeps | with_reducible apply State.linkLost_keeps
    | with_reducible apply next_keeps | with_reducible apply ite_keeps)

theorem execFlr_keeps {s0 s : State} (hs : Keeps s0 s) (acked) : KeepsOut s0 (execFlr acked s) := by
  unfold execFlr
  try dsimp only
  repeat' (first
    | with_reducible assumption | with_reducible apply State.portDetach_keeps | with_reducible apply next_keeps
    | with_reducible apply ite_keeps)

theorem execPerstAssert_keeps {s0 s : State} (hs : Keeps s0 s) (acked) : KeepsOut s0 (execPerstAssert acked s) := by
  unfold execPerstAssert
  try dsimp only
  repeat' (first
    | with_reducible assumption | with_reducible apply State.warmReset_keeps | with_reducible apply State.linkLost_keeps
    | with_reducible apply State.portDetach_keeps | with_reducible apply next_keeps | (simp (disch := rfl) only [↓mk_keeps])
    | with_reducible apply ite_keeps)

theorem execPerstRelease_keeps {s0 s : State} (hs : Keeps s0 s) : KeepsOut s0 (execPerstRelease s) := by
  unfold execPerstRelease
  try dsimp only
  repeat' (first
    | with_reducible assumption | with_reducible apply State.wakeUp_keeps | with_reducible apply next_keeps
    | (simp (disch := rfl) only [↓mk_keeps]) | with_reducible apply ite_keeps)

theorem execAttach_keeps {s0 s : State} (hs : Keeps s0 s) : KeepsOut s0 (execAttach s) := by
  unfold execAttach
  try dsimp only
  repeat' (first
    | with_reducible assumption | with_reducible apply next_keeps | (simp (disch := rfl) only [↓mk_keeps])
    | with_reducible apply ite_keeps)

theorem execHptParkHead_keeps {s0 s : State} (hs : Keeps s0 s) (value) : KeepsOut s0 (execHptParkHead value s) := by
  unfold execHptParkHead
  try dsimp only
  repeat' (first
    | with_reducible assumption | with_reducible apply next_keeps | (simp (disch := rfl) only [↓mk_keeps])
    | with_reducible apply ite_keeps)

theorem execConfirmReadback_keeps {s0 s : State} (hs : Keeps s0 s) (q) (seen) : KeepsOut s0 (execConfirmReadback q seen s) :=
    by
  unfold execConfirmReadback
  try dsimp only
  repeat' (first
    | with_reducible assumption | with_reducible apply State.recordLost_keeps | with_reducible apply State.parkRecord_keeps
    | with_reducible apply next_keeps | (simp (disch := rfl) only [↓mk_keeps]) | with_reducible apply ite_keeps | split)

theorem State.flashPut_keeps {s0 s : State} (hs : Keeps s0 s) (r) (n) : Keeps s0 (State.flashPut s r n) := by
  unfold State.flashPut
  try dsimp only
  repeat' (first | with_reducible assumption | (simp (disch := rfl) only [↓mk_keeps]))

theorem State.bootFail_keeps {s0 s : State} (hs : Keeps s0 s) (result) : Keeps s0 (State.bootFail s result) := by
  unfold State.bootFail
  try dsimp only
  repeat' (first | with_reducible assumption | (simp (disch := rfl) only [↓mk_keeps]))

theorem State.startHart_keeps {s0 s : State} (hs : Keeps s0 s) (h) (pc) (a1) (a2) : Keeps s0 (State.startHart s h pc a1 a2) :=
    by
  unfold State.startHart
  try dsimp only
  repeat' (first | with_reducible assumption | with_reducible apply State.modHart_keeps)

theorem State.nodeBoot_keeps {s0 s : State} (hs : Keeps s0 s) : Keeps s0 (State.nodeBoot s) := by
  unfold State.nodeBoot
  try dsimp only
  repeat' (first
    | with_reducible assumption | with_reducible apply State.measure_keeps | with_reducible apply State.packageWrite_keeps
    | with_reducible apply State.startHart_keeps | (simp (disch := rfl) only [↓mk_keeps]) | split)

theorem State.standbyStart_off (s : State) : KeepsOff s s.standbyStart :=
  ⟨rfl, fun c => ((State.unpowered_off s).form c), Fuses.only_refl _⟩

theorem execPowerUp_off (s : State) : ∃ t, execPowerUp s = .next t ∧ KeepsOff s t := by
  refine ⟨_, rfl, ?_⟩
  split
  · exact (Keeps.refl s).off
  · exact ⟨rfl, fun c => (State.standbyStart_off s).form c, Fuses.only_refl _⟩

theorem State.tornWrite_keeps {s0 s : State} (hs : Keeps s0 s) : Keeps s0 (State.tornWrite s) := by
  unfold State.tornWrite
  try dsimp only
  repeat' (first
    | with_reducible assumption | with_reducible apply State.freeVal_keeps | with_reducible apply State.flashPut_keeps
    | with_reducible apply ite_keeps | split)

theorem execVinLoss_off (s : State) : ∃ t, execVinLoss s = .next t ∧ KeepsOff s t := by
  have h := State.tornWrite_keeps (Keeps.refl s)
  exact ⟨_, rfl, h.queue, fun c => (State.unpowered_off s.tornWrite).form (h.form c), h.fuses⟩

theorem execSbRstAssert_off (s : State) : ∃ t, execSbRstAssert s = .next t ∧ KeepsOff s t := by
  refine ⟨_, rfl, ?_⟩
  split
  · exact (Keeps.refl s).off
  · have h := State.tornWrite_keeps (Keeps.refl s)
    exact ⟨h.queue, fun c => (State.unpowered_off s.tornWrite).form (h.form c), h.fuses⟩

theorem execSbRstRelease_off (s : State) : ∃ t, execSbRstRelease s = .next t ∧ KeepsOff s t := by
  refine ⟨_, rfl, ?_⟩
  dsimp only
  split
  · exact (Keeps.refl s).off
  · split
    · exact ⟨rfl, fun c => (State.standbyStart_off s).form c, Fuses.only_refl _⟩
    · exact ⟨rfl, id, Fuses.only_refl _⟩

theorem execRailRaise_keeps {s0 s : State} (hs : Keeps s0 s) : KeepsOut s0 (execRailRaise s) := by
  unfold execRailRaise
  try dsimp only
  repeat' (first
    | with_reducible assumption | with_reducible apply next_keeps | (simp (disch := rfl) only [↓mk_keeps])
    | with_reducible apply ite_keeps)

theorem execPwrGood_keeps {s0 s : State} (hs : Keeps s0 s) : KeepsOut s0 (execPwrGood s) := by
  unfold execPwrGood
  try dsimp only
  repeat' (first
    | with_reducible assumption | with_reducible apply State.eventP_keeps | with_reducible apply State.advance_keeps
    | with_reducible apply State.freeVal_keeps | with_reducible apply next_keeps | (simp (disch := rfl) only [↓mk_keeps])
    | with_reducible apply ite_keeps)

theorem execVinUndervoltage_keeps {s0 s : State} (hs : Keeps s0 s) : KeepsOut s0 (execVinUndervoltage s) := by
  unfold execVinUndervoltage
  try dsimp only
  repeat' (first
    | with_reducible assumption | with_reducible apply State.emergencyStop_keeps | with_reducible apply next_keeps
    | with_reducible apply ite_keeps)

theorem execVinOvervoltage_keeps {s0 s : State} (hs : Keeps s0 s) : KeepsOut s0 (execVinOvervoltage s) := by
  unfold execVinOvervoltage
  try dsimp only
  repeat' (first
    | with_reducible assumption | with_reducible apply State.emergencyStop_keeps | with_reducible apply next_keeps
    | with_reducible apply ite_keeps)

/-- Changing stacks 0 to n-1 keeps the canonical form. -/
theorem stacks_wf (l : List Nat) (f : Stack → Stack) (t : Tbl Stack) (h : Tbl.wf {} t = true) :
    Tbl.wf {} (l.foldl (fun t k => Tbl.upd {} t k f) t) = true := by
  induction l generalizing t with
  | nil => exact h
  | cons a l ih => exact ih _ (Tbl.wf_upd _ _ _ _ h)

theorem execMarverStart_keeps {s0 s : State} (h : Keeps s0 s) : KeepsOut s0 (execMarverStart s) := by
  unfold execMarverStart
  apply next_keeps
  generalize hl : List.range 24 = l
  split
  · exact h
  · split
    · exact State.bootFail_keeps h _
    · split
      · exact State.bootFail_keeps h _
      · rename_i b i _
        have k := State.measure_keeps h 1 (sha256N i.signed)
        revert k
        generalize s.measure 1 (sha256N i.signed) = t
        intro k
        exact (hbm_keeps k (fun c => stacks_wf l (fun x => { x with state := .training }) _ c)).core rfl

theorem State.trainBundle_keeps {s0 s : State} (hs : Keeps s0 s) (badHalves) (n) : Keeps s0 (State.trainBundle s badHalves n)
    := by
  unfold State.trainBundle
  try dsimp only
  repeat' (first | with_reducible assumption | with_reducible apply State.modBundle_keeps)

theorem State.afterTraining_keeps {s0 s : State} (h : Keeps s0 s) : Keeps s0 s.afterTraining := by
  unfold State.afterTraining
  generalize hl : List.range 24 = l
  have k : Keeps s0 { s with
      hbm := l.foldl (fun t k => Tbl.upd {} t k (fun x => { x with state := .ready })) s.hbm
      scratch := [], scratchPoison := [] } :=
    scratch_keeps (hbm_keeps h (fun c => stacks_wf _ _ _ c)) (fun _ => rfl) rfl
  dsimp only
  split
  · exact k.core rfl
  · apply State.takeFrit_keeps
    exact k.core rfl

theorem execTrainingComplete_keeps {s0 s : State} (hs : Keeps s0 s) (badHalves) (badChannels) (unrepaired) : KeepsOut s0
    (execTrainingComplete badHalves badChannels unrepaired s) := by
  unfold execTrainingComplete
  try dsimp only
  repeat' (first
    | with_reducible assumption | with_reducible apply State.trainBundle_keeps | with_reducible apply State.logErr_keeps
    | with_reducible apply State.bootFail_keeps | with_reducible apply State.modStack_keeps
    | with_reducible apply State.fence_keeps | with_reducible apply State.afterTraining_keeps
    | with_reducible apply next_keeps | (with_reducible apply foldl_keeps <;> (try intro _ _ _))
    | with_reducible apply ite_keeps | split)

theorem execMemtestComplete_keeps {s0 s : State} (hs : Keeps s0 s) (rows) : KeepsOut s0 (execMemtestComplete rows s) := by
  unfold execMemtestComplete
  try dsimp only
  repeat' (first
    | with_reducible assumption | with_reducible apply State.modStack_keeps | with_reducible apply State.takeFrit_keeps
    | with_reducible apply next_keeps | (simp (disch := rfl) only [↓mk_keeps])
    | (with_reducible apply foldl_keeps <;> (try intro _ _ _)) | with_reducible apply ite_keeps)

theorem execNodeStart_keeps {s0 s : State} (hs : Keeps s0 s) : KeepsOut s0 (execNodeStart s) := by
  unfold execNodeStart
  try dsimp only
  repeat' (first
    | with_reducible assumption | with_reducible apply State.nodeBoot_keeps | with_reducible apply next_keeps
    | with_reducible apply ite_keeps)

theorem execHartStart_keeps {s0 s : State} (hs : Keeps s0 s) : KeepsOut s0 (execHartStart s) := by
  unfold execHartStart
  try dsimp only
  repeat' (first
    | with_reducible assumption | with_reducible apply State.startHart_keeps | with_reducible apply next_keeps
    | with_reducible apply ite_keeps)

theorem execStatus_keeps {s0 s : State} (hs : Keeps s0 s) : KeepsOut s0 (execStatus s) := by
  unfold execStatus
  try dsimp only
  repeat' (first
    | with_reducible assumption | with_reducible apply next_keeps | (simp (disch := rfl) only [↓mk_keeps])
    | with_reducible apply ite_keeps)

theorem execWake_keeps {s0 s : State} (hs : Keeps s0 s) : KeepsOut s0 (execWake s) := by
  unfold execWake
  try dsimp only
  repeat' (first
    | with_reducible assumption | with_reducible apply State.wakeUp_keeps | with_reducible apply next_keeps
    | with_reducible apply ite_keeps)

theorem execMgmtWarmReset_keeps {s0 s : State} (hs : Keeps s0 s) : KeepsOut s0 (execMgmtWarmReset s) := by
  unfold execMgmtWarmReset
  try dsimp only
  repeat' (first
    | with_reducible assumption | with_reducible apply State.coldRestart_keeps | with_reducible apply State.warmReset_keeps
    | with_reducible apply next_keeps | with_reducible apply ite_keeps)

theorem State.mbxGo_keeps {s0 s : State} (hs : Keeps s0 s) (ch) : Keeps s0 (State.mbxGo s ch) := by
  unfold State.mbxGo
  try dsimp only
  repeat' (first
    | with_reducible assumption | with_reducible apply State.modMbx_keeps | (simp (disch := rfl) only [↓mk_keeps])
    | with_reducible apply ite_keeps)

theorem State.opTake_keeps {s0 s : State} (h : Keeps s0 s) (src) (op) : ∀ p, State.opTake s src op = some p → Keeps s0 p.2.2 := by
  intro p e
  have k (t : State) (h1 : t.core = s.core) (c : Chan) (r) (e : some (c, r, t) = some p) : Keeps s0 p.2.2 := by
    cases e; exact h.core h1
  unfold State.opTake at e
  dsimp only at e
  repeat' (first | cases e; done | exact k s rfl _ _ e | exact k _ (by rfl) _ _ e | split at e)

theorem State.opEnd_keeps {s0 s : State} (hs : Keeps s0 s) (ch) (result) (out) : Keeps s0 (State.opEnd s ch result out) := by
  unfold State.opEnd
  try dsimp only
  repeat' (first | with_reducible assumption | with_reducible apply State.modMbx_keeps)

theorem execMbxOpDone_keeps {s0 s : State} (hs : Keeps s0 s) (ch) : KeepsOut s0 (execMbxOpDone ch s) := by
  unfold execMbxOpDone
  try dsimp only
  repeat' (first
    | with_reducible assumption | with_reducible apply State.modMbx_keeps | with_reducible apply next_keeps
    | with_reducible apply ite_keeps | split)

theorem execReport_keeps {s0 s : State} (hs : Keeps s0 s) (src) : KeepsOut s0 (execReport src s) := by
  unfold execReport
  try dsimp only
  repeat' (first
    | with_reducible assumption | with_reducible apply State.opTake_keeps | with_reducible apply State.opEnd_keeps
    | with_reducible apply next_keeps | with_reducible refine some_snd2_keeps (by assumption) ?_ | split)

theorem execCert_keeps {s0 s : State} (hs : Keeps s0 s) (src) : KeepsOut s0 (execCert src s) := by
  unfold execCert
  try dsimp only
  repeat' (first
    | with_reducible assumption | with_reducible apply State.opTake_keeps | with_reducible apply State.opEnd_keeps
    | with_reducible apply next_keeps | with_reducible refine some_snd2_keeps (by assumption) ?_ | split)

theorem execLog_keeps {s0 s : State} (hs : Keeps s0 s) (src) : KeepsOut s0 (execLog src s) := by
  unfold execLog
  try dsimp only
  repeat' (first
    | with_reducible assumption | with_reducible apply State.opTake_keeps | with_reducible apply State.opEnd_keeps
    | with_reducible apply next_keeps | with_reducible refine some_snd2_keeps (by assumption) ?_ | split)

theorem execExtend_keeps {s0 s : State} (hs : Keeps s0 s) (src) : KeepsOut s0 (execExtend src s) := by
  unfold execExtend
  try dsimp only
  repeat' (first
    | with_reducible assumption | with_reducible apply State.opTake_keeps | with_reducible apply State.opEnd_keeps
    | with_reducible apply State.measure_keeps | with_reducible apply next_keeps
    | with_reducible refine some_snd2_keeps (by assumption) ?_ | with_reducible apply ite_keeps | split)

theorem execFlashWrite_keeps {s0 s : State} (hs : Keeps s0 s) (src) : KeepsOut s0 (execFlashWrite src s) := by
  unfold execFlashWrite
  try dsimp only
  repeat' (first
    | with_reducible assumption | with_reducible apply State.opTake_keeps | with_reducible apply State.opEnd_keeps
    | with_reducible apply State.flashPut_keeps | with_reducible apply next_keeps
    | with_reducible refine some_snd2_keeps (by assumption) ?_ | with_reducible apply ite_keeps | split)

theorem execFlashActivate_keeps {s0 s : State} (hs : Keeps s0 s) (src) : KeepsOut s0 (execFlashActivate src s) := by
  unfold execFlashActivate
  try dsimp only
  repeat' (first
    | with_reducible assumption | with_reducible apply State.opTake_keeps | with_reducible apply State.opEnd_keeps
    | with_reducible apply State.nodeBoot_keeps | with_reducible apply next_keeps | (simp (disch := rfl) only [↓mk_keeps])
    | with_reducible refine some_snd2_keeps (by assumption) ?_ | with_reducible apply ite_keeps | split)

/-- Blowing fuses leaves every other state alone; what the bytes show is open. -/
theorem State.freeBytes_free (n : Nat) (s : State) : ∃ k, (State.freeBytes n s).2 = { s with free := k } := by
  induction n generalizing s with
  | zero => exact ⟨s.free, rfl⟩
  | succ n ih => exact ih _

theorem State.blow_keeps {s0 s : State} {f : Fuses} (h : Keeps s0 s)
    (w : ∀ b, Fuses.only s.fuses { f with words := b }) (e : f.words = s.blown.fuses.words) : Keeps s0 { s.blown with fuses := f } := by
  obtain ⟨k, hk⟩ := State.freeBytes_free s.fuses.words.length s
  have hb : s.blown = { s with free := k, fuses := { s.fuses with words := (s.freeBytes s.fuses.words.length).1 } } := by
    unfold State.blown
    dsimp only
    rw [hk]
  refine h.trans ⟨?_, ?_, w f.words, ?_⟩
  · rw [hb]
  · rw [hb]; exact id
  · rw [hb]; exact Err.fencesStay_refl _

theorem State.blown_fuses (s : State) : s.blown.fuses = { s.fuses with words := s.blown.fuses.words } := by
  obtain ⟨k, hk⟩ := State.freeBytes_free s.fuses.words.length s
  unfold State.blown
  dsimp only
  rw [hk]

theorem execCommitSvn_keeps {s0 s : State} (h : Keeps s0 s) (src) : KeepsOut s0 (execCommitSvn src s) := by
  unfold execCommitSvn
  apply next_keeps
  split
  · exact h
  · rename_i ch r t e
    have ht : Keeps s0 t := some_snd2_keeps e (State.opTake_keeps h _ _)
    split
    · apply State.opEnd_keeps
      refine State.blow_keeps ht ?_ rfl
      rw [State.blown_fuses]
      exact fun b => ⟨Nat.le_max_left _ _, le_rfl, fun _ h => h, rfl⟩
    · split
      · apply State.opEnd_keeps
        refine State.blow_keeps ht ?_ rfl
        rw [State.blown_fuses]
        exact fun b => ⟨le_rfl, Nat.le_max_left _ _, fun _ h => h, rfl⟩
      · exact State.opEnd_keeps ht _ _ _

theorem execRevoke_keeps {s0 s : State} (h : Keeps s0 s) (src) : KeepsOut s0 (execRevoke src s) := by
  unfold execRevoke
  apply next_keeps
  split
  · exact h
  · rename_i ch r t e
    have ht : Keeps s0 t := some_snd2_keeps e (State.opTake_keeps h _ _)
    dsimp only
    split
    · exact State.opEnd_keeps ht _ _ _
    · split
      · exact State.opEnd_keeps ht _ _ _
      · apply State.opEnd_keeps
        refine State.blow_keeps ht ?_ rfl
        rw [State.blown_fuses]
        exact fun b => ⟨le_rfl, le_rfl, fun k hk => by simp [hk], rfl⟩

theorem execKnotArm_keeps {s0 s : State} (hs : Keeps s0 s) (src) : KeepsOut s0 (execKnotArm src s) := by
  unfold execKnotArm
  try dsimp only
  repeat' (first
    | with_reducible assumption | with_reducible apply State.opTake_keeps | with_reducible apply State.opEnd_keeps
    | with_reducible apply State.modKwait_keeps | with_reducible apply next_keeps
    | with_reducible refine some_snd2_keeps (by assumption) ?_ | with_reducible apply ite_keeps | split)

theorem execKnotDisarm_keeps {s0 s : State} (hs : Keeps s0 s) (src) : KeepsOut s0 (execKnotDisarm src s) := by
  unfold execKnotDisarm
  try dsimp only
  repeat' (first
    | with_reducible assumption | with_reducible apply State.opTake_keeps | with_reducible apply State.opEnd_keeps
    | with_reducible apply State.modKwait_keeps | with_reducible apply State.dropWatch_keeps
    | with_reducible apply next_keeps | (simp (disch := rfl) only [↓mk_keeps])
    | with_reducible refine some_snd2_keeps (by assumption) ?_ | with_reducible apply ite_keeps | split)

theorem State.spdmReply_keeps {s0 s : State} (hs : Keeps s0 s) (q) : Keeps s0 (State.spdmReply s q).2.2 := by
  unfold State.spdmReply
  try dsimp only
  repeat' (first | with_reducible assumption | with_reducible apply State.freeBytes_keeps | split)

theorem execSpdmRequest_keeps {s0 s : State} (hs : Keeps s0 s) (bytes) : KeepsOut s0 (execSpdmRequest bytes s) := by
  unfold execSpdmRequest
  try dsimp only
  repeat' (first
    | with_reducible assumption | with_reducible apply State.spdmReply_keeps | with_reducible apply next_keeps
    | (simp (disch := rfl) only [↓mk_keeps]) | with_reducible apply ite_keeps)

theorem State.deliverPacket_keeps {s0 s : State} (hs : Keeps s0 s) (p) (k) : Keeps s0 (State.deliverPacket s p k) := by
  unfold State.deliverPacket
  try dsimp only
  repeat' (first
    | with_reducible assumption | with_reducible apply State.joinIn_keeps | with_reducible apply State.drainIn_keeps
    | with_reducible apply State.leaveIn_keeps | with_reducible apply State.beaconIn_keeps
    | with_reducible apply State.electIn_keeps | with_reducible apply State.bendAborted_keeps
    | with_reducible apply State.packetIn_keeps | with_reducible apply ite_keeps | split)

theorem State.flitPacket_keeps {s0 s : State} (hs : Keeps s0 s) (p) (k) : Keeps s0 (State.flitPacket s p k) := by
  unfold State.flitPacket
  try dsimp only
  repeat' (first
    | with_reducible assumption | with_reducible apply State.lackIn_keeps | with_reducible apply State.lnakIn_keeps
    | with_reducible apply State.lcredIn_keeps | with_reducible apply State.deliverPacket_keeps
    | with_reducible apply State.e2eackIn_keeps | with_reducible apply State.unicastIn_keeps | with_reducible intro _ _
    | with_reducible apply ite_keeps)

theorem State.flitFailed_keeps {s0 s : State} (hs : Keeps s0 s) (p) : Keeps s0 (State.flitFailed s p) := by
  unfold State.flitFailed
  try dsimp only
  repeat' (first
    | with_reducible assumption | with_reducible apply State.modPort_keeps | with_reducible apply State.portSend_keeps)

theorem State.flitTaken_keeps {s0 s : State} (hs : Keeps s0 s) (p) (bytes) : Keeps s0 (State.flitTaken s p bytes) := by
  unfold State.flitTaken
  try dsimp only
  repeat' (first
    | with_reducible assumption | with_reducible apply State.modPort_keeps | with_reducible apply State.flitPacket_keeps
    | (with_reducible apply foldl_keeps <;> (try intro _ _ _)) | with_reducible apply ite_keeps)

theorem execFlit_keeps {s0 s : State} (hs : Keeps s0 s) (p) (bytes) (corrected) (failed) (replay) : KeepsOut s0 (execFlit p
    bytes corrected failed replay s) := by
  unfold execFlit
  try dsimp only
  repeat' (first
    | with_reducible assumption | with_reducible apply State.modPort_keeps | with_reducible apply State.flitFailed_keeps
    | with_reducible apply State.flitTaken_keeps | with_reducible apply next_keeps | with_reducible apply ite_keeps)

theorem State.badAccess_keeps {s0 s : State} (hs : Keeps s0 s) (m) (off) : Keeps s0 (State.badAccess s m off) := by
  unfold State.badAccess
  try dsimp only
  repeat' (first | with_reducible assumption | with_reducible apply State.logErr_keeps)

theorem State.regRead_keeps {s0 s : State} (hs : Keeps s0 s) (m) (off) (size) : Keeps s0 (State.regRead s m off size).2 := by
  unfold State.regRead
  try dsimp only
  repeat' (first | with_reducible assumption | with_reducible apply State.badAccess_keeps | split)

theorem after_keeps {s0 s : State} {o : Out State} (h : Keeps s0 s) (ho : KeepsOut s0 o) : Keeps s0 (after o s) := by
  obtain ⟨t, rfl, k⟩ := ho
  exact k

theorem State.feaWrite_keeps {s0 s : State} (hs : Keeps s0 s) (o) (x) : Keeps s0 (State.feaWrite s o x) := by
  unfold State.feaWrite
  try dsimp only
  repeat' (first
    | with_reducible assumption | with_reducible apply after_keeps | with_reducible apply execCommit_keeps
    | (simp (disch := rfl) only [↓mk_keeps]) | with_reducible apply ite_keeps | split)

theorem State.errWrite_keeps {s0 s : State} (hs : Keeps s0 s) (o) (x) : Keeps s0 (State.errWrite s o x) := by
  unfold State.errWrite
  try dsimp only
  repeat' (first
    | with_reducible assumption | with_reducible apply after_keeps | with_reducible apply execErrStatusClear_keeps
    | with_reducible apply execWarmReset_keeps | with_reducible apply execFenceReq_keeps
    | with_reducible apply execErrBankHead_keeps | (simp (disch := rfl) only [↓mk_keeps]) | with_reducible apply ite_keeps
    | split)

theorem State.mbxWrite_keeps {s0 s : State} (hs : Keeps s0 s) (ch) (o) (x) : Keeps s0 (State.mbxWrite s ch o x) := by
  unfold State.mbxWrite
  try dsimp only
  repeat' (first
    | with_reducible assumption | with_reducible apply State.modMbx_keeps | with_reducible apply State.mbxGo_keeps
    | with_reducible apply ite_keeps | split)

theorem State.descWrite_keeps {s0 s : State} (hs : Keeps s0 s) (q) (o) (x) : Keeps s0 (State.descWrite s q o x) := by
  unfold State.descWrite
  try dsimp only
  repeat' (first | with_reducible assumption | with_reducible apply State.modQueue_keeps | with_reducible apply ite_keeps)

theorem State.qctrlWrite_keeps {s0 s : State} (hs : Keeps s0 s) (q) (x) : Keeps s0 (State.qctrlWrite s q x) := by
  unfold State.qctrlWrite
  try dsimp only
  repeat' (first
    | with_reducible assumption | with_reducible apply after_keeps | with_reducible apply execQdtCancel_keeps
    | with_reducible apply execQdtResume_keeps | with_reducible apply execQdtEnable_keeps
    | with_reducible apply execQdtDisable_keeps | with_reducible apply ite_keeps)

theorem State.dmaRegWrite_keeps {s0 s : State} (hs : Keeps s0 s) (e) (c) (o) (x) : Keeps s0 (State.dmaRegWrite s e c o x) :=
    by
  unfold State.dmaRegWrite
  try dsimp only
  repeat' (first
    | with_reducible assumption | with_reducible apply State.modDmaCh_keeps | with_reducible apply State.dropWatch_keeps
    | with_reducible apply after_keeps | with_reducible apply execDmaChDisable_keeps
    | with_reducible apply execDmaChEnable_keeps | with_reducible apply ite_keeps | split)

theorem State.portWrite_keeps {s0 s : State} (hs : Keeps s0 s) (p) (o) (x) : Keeps s0 (State.portWrite s p o x) := by
  unfold State.portWrite
  try dsimp only
  repeat' (first
    | with_reducible assumption | with_reducible apply after_keeps | with_reducible apply execRetrain_keeps
    | with_reducible apply execHwsPortCntClear_keeps | with_reducible apply ite_keeps | split)

theorem State.hwsWrite_keeps {s0 s : State} (hs : Keeps s0 s) (o) (x) : Keeps s0 (State.hwsWrite s o x) := by
  unfold State.hwsWrite
  try dsimp only
  repeat' (first | with_reducible assumption | (simp (disch := rfl) only [↓mk_keeps]) | split)

theorem State.msixWrite_keeps {s0 s : State} (hs : Keeps s0 s) (v) (o) (x) : Keeps s0 (State.msixWrite s v o x) := by
  unfold State.msixWrite
  try dsimp only
  repeat' (first
    | with_reducible assumption | with_reducible apply State.raiseMsix_keeps | (simp (disch := rfl) only [↓mk_keeps])
    | with_reducible apply ite_keeps)

theorem State.hptWrite_keeps {s0 s : State} (hs : Keeps s0 s) (o) (x) : Keeps s0 (State.hptWrite s o x) := by
  unfold State.hptWrite
  try dsimp only
  repeat' (first
    | with_reducible assumption | with_reducible apply after_keeps | with_reducible apply execAttach_keeps
    | with_reducible apply execHptParkHead_keeps | with_reducible apply State.msixWrite_keeps
    | with_reducible apply ite_keeps | split)

theorem State.cohWrite'_keeps {s0 s : State} (hs : Keeps s0 s) (o) (x) : Keeps s0 (State.cohWrite' s o x) := by
  unfold State.cohWrite'
  try dsimp only
  repeat' (first
    | with_reducible assumption | with_reducible apply after_keeps | with_reducible apply execCohCntClear_keeps
    | (simp (disch := rfl) only [↓mk_keeps]) | with_reducible apply ite_keeps)

theorem State.hbmWrite_keeps {s0 s : State} (hs : Keeps s0 s) (k) (o) (x) : Keeps s0 (State.hbmWrite s k o x) := by
  unfold State.hbmWrite
  try dsimp only
  repeat' (first
    | with_reducible assumption | with_reducible apply after_keeps | with_reducible apply execHbmStkClear_keeps
    | with_reducible apply execHbmChCntClear_keeps | with_reducible apply State.modTg_keeps
    | with_reducible apply execTgGo_keeps | with_reducible apply execTgStop_keeps | with_reducible apply ite_keeps | split)

theorem State.dlkWrite_keeps {s0 s : State} (hs : Keeps s0 s) (n) (o) (x) : Keeps s0 (State.dlkWrite s n o x) := by
  unfold State.dlkWrite
  try dsimp only
  repeat' (first
    | with_reducible assumption | with_reducible apply State.modBundle_keeps | with_reducible apply after_keeps
    | with_reducible apply execDlkCntClear_keeps | split)

theorem State.uniWrite_keeps {s0 s : State} (hs : Keeps s0 s) (o) (x) : Keeps s0 (State.uniWrite s o x) := by
  unfold State.uniWrite
  try dsimp only
  repeat' (first
    | with_reducible assumption | with_reducible apply after_keeps | with_reducible apply execUniVtsClear_keeps
    | with_reducible apply execXltInvGo_keeps | (simp (disch := rfl) only [↓mk_keeps]) | with_reducible apply ite_keeps
    | split)

theorem State.timer_keeps {s0 s : State} (hs : Keeps s0 s) (h) : Keeps s0 (State.timer s h) := by
  unfold State.timer
  try dsimp only
  repeat' (first | with_reducible assumption | with_reducible apply State.modHart_keeps)

theorem State.imsicWrite_keeps {s0 s : State} (hs : Keeps s0 s) (hart) (file) (o) (x) : Keeps s0 (State.imsicWrite s hart file
    o x) := by
  unfold State.imsicWrite
  try dsimp only
  repeat' (first | with_reducible assumption | (simp (disch := rfl) only [↓mk_keeps]) | with_reducible apply ite_keeps)

theorem State.nccWrite_keeps {s0 s : State} (hs : Keeps s0 s) (m) (o) (x) : Keeps s0 (State.nccWrite s m o x) := by
  unfold State.nccWrite
  try dsimp only
  repeat' (first
    | with_reducible assumption | with_reducible apply State.timer_keeps | with_reducible apply after_keeps
    | with_reducible apply execHartStart_keeps | with_reducible apply State.imsicWrite_keeps
    | (simp (disch := rfl) only [↓mk_keeps]) | with_reducible apply ite_keeps | split)

theorem State.regPut_keeps {s0 s : State} (h : Keeps s0 s) (m) (o) (x) : Keeps s0 (State.regPut s m o x) := by
  unfold State.regPut
  repeat' (first
    | with_reducible assumption
    | with_reducible apply ite_keeps
    | with_reducible apply State.feaWrite_keeps
    | with_reducible apply after_keeps
    | with_reducible apply execReload_keeps
    | with_reducible apply execStageRequest_keeps
    | with_reducible apply State.errWrite_keeps
    | with_reducible apply State.descWrite_keeps
    | with_reducible apply State.qctrlWrite_keeps
    | with_reducible apply State.dmaRegWrite_keeps
    | with_reducible apply State.portWrite_keeps
    | with_reducible apply State.hwsWrite_keeps
    | with_reducible apply execBndCntClear_keeps
    | with_reducible apply State.hptWrite_keeps
    | with_reducible apply execLlmCntClear_keeps
    | with_reducible apply State.cohWrite'_keeps
    | with_reducible apply State.hbmWrite_keeps
    | with_reducible apply State.dlkWrite_keeps
    | with_reducible apply State.uniWrite_keeps
    | with_reducible apply State.nccWrite_keeps
    | with_reducible apply State.mbxWrite_keeps
    | (simp (disch := rfl) only [↓mk_keeps]))

theorem State.regWrite_keeps {s0 s : State} (hs : Keeps s0 s) (m) (off) (size) (v) : Keeps s0 (State.regWrite s m off size v)
    := by
  unfold State.regWrite
  try dsimp only
  repeat' (first
    | with_reducible assumption | with_reducible apply State.badAccess_keeps | with_reducible apply State.regPut_keeps
    | with_reducible apply ite_keeps)

theorem execRegisterWrite_keeps {s0 s : State} (hs : Keeps s0 s) (m) (off) (size) (value) : KeepsOut s0 (execRegisterWrite m
    off size value s) := by
  unfold execRegisterWrite
  try dsimp only
  repeat' (first
    | with_reducible assumption | with_reducible apply State.regWrite_keeps | with_reducible apply next_keeps
    | with_reducible apply ite_keeps)

theorem State.gain_keeps {s0 s : State} (hs : Keeps s0 s) (a) (ls) (write) : Keeps s0 (State.gain s a ls write).2 := by
  unfold State.gain
  try dsimp only
  repeat' (first
    | with_reducible assumption | with_reducible apply State.obtain_keeps
    | (with_reducible apply foldl_keeps <;> (try intro _ _ _)))

theorem State.coreUse_keeps {s0 s : State} (hs : Keeps s0 s) (h) (ls) (fetch) : Keeps s0 (State.coreUse s h ls fetch) := by
  unfold State.coreUse
  try dsimp only
  repeat' (first
    | with_reducible assumption | with_reducible apply State.modHart_keeps
    | (with_reducible apply foldl_keeps <;> (try intro _ _ _)))

theorem State.cachedRead_keeps {s0 s : State} (hs : Keeps s0 s) (a) (h) (pa) (n) (fetch) : Keeps s0 (State.cachedRead s a h pa
    n fetch).2 := by
  unfold State.cachedRead
  try dsimp only
  repeat' (first
    | with_reducible assumption | with_reducible apply State.gain_keeps | with_reducible apply State.coreUse_keeps
    | with_reducible apply State.agentDone_keeps | (simp (disch := rfl) only [↓mk_keeps])
    | with_reducible refine snd_keeps (by assumption) ?_ | (with_reducible apply foldl_keeps <;> (try intro _ _ _)) | split)

theorem State.cachedWrite_keeps {s0 s : State} (hs : Keeps s0 s) (a) (h) (pa) (bs) : Keeps s0 (State.cachedWrite s a h pa
    bs).2 := by
  unfold State.cachedWrite
  try dsimp only
  repeat' (first
    | with_reducible assumption | with_reducible apply State.gain_keeps | with_reducible apply State.coreUse_keeps
    | with_reducible apply State.coresLose_keeps | with_reducible apply State.agentWrite_keeps
    | (simp (disch := rfl) only [↓mk_keeps]) | with_reducible refine snd_keeps (by assumption) ?_
    | (with_reducible apply foldl_keeps <;> (try intro _ _ _)) | split)

theorem State.nodeWalk_keeps {s0 s : State} (hs : Keeps s0 s) (h) (va) (priv) (fetch) (write) (n) (table) : Keeps s0
    (State.nodeWalk s h va priv fetch write n table).2 := by
  induction n generalizing table s with
  | zero =>
    unfold State.nodeWalk
    try dsimp only
    repeat' (first
      | with_reducible assumption)
  | succ n ih =>
    unfold State.nodeWalk
    try dsimp only
    repeat' (first
      | with_reducible apply ih
      | with_reducible assumption
      | (with_reducible apply State.cachedRead_keeps)
      | (with_reducible apply State.poisonUse_keeps)
      | (simp (disch := rfl) only [↓mk_keeps])
      | with_reducible refine snd_keeps (by assumption) ?_
      | split)

theorem State.nodeXlate1_keeps {s0 s : State} (hs : Keeps s0 s) (h) (va) (fetch) (write) : Keeps s0 (State.nodeXlate1 s h va
    fetch write).2 := by
  unfold State.nodeXlate1
  try dsimp only
  repeat' (first | with_reducible assumption | with_reducible apply State.nodeWalk_keeps | split)

theorem State.nodeXlate_keeps {s0 s : State} (hs : Keeps s0 s) (h) (va) (n) (fetch) (write) : Keeps s0 (State.nodeXlate s h va
    n fetch write).2 := by
  unfold State.nodeXlate
  try dsimp only
  repeat' (first
    | with_reducible assumption | with_reducible apply State.nodeXlate1_keeps | (simp (disch := rfl) only [↓mk_keeps])
    | with_reducible refine snd_keeps (by assumption) ?_ | (with_reducible apply foldl_snd_keeps <;> (try intro _ _ _))
    | split)

theorem State.nodeStop_keeps {s0 s : State} (hs : Keeps s0 s) (h) (o) (x3) : Keeps s0 (State.nodeStop s h o x3).2 := by
  unfold State.nodeStop
  try dsimp only
  repeat' (first | with_reducible assumption | with_reducible apply State.hartTrap_keeps | split)

theorem State.nodePoison_keeps {s0 s : State} (hs : Keeps s0 s) (h) (a) (o) : Keeps s0 (State.nodePoison s h a o) := by
  unfold State.nodePoison
  try dsimp only
  repeat' (first
    | with_reducible assumption | with_reducible apply State.nodeFault_keeps | with_reducible apply State.poisonUse_keeps)

theorem State.nodeAsk_keeps {s0 s : State} (hs : Keeps s0 s) (h) (pa) (peer) (o) (k) : Keeps s0 (State.nodeAsk s h pa peer o
    k) := by
  unfold State.nodeAsk
  try dsimp only
  repeat' (first
    | with_reducible assumption | with_reducible apply State.remoteRequest_keeps | with_reducible apply State.modHart_keeps)

theorem State.nodeMisaligned_keeps {s0 s : State} (hs : Keeps s0 s) (h) (o) : Keeps s0 (State.nodeMisaligned s h o) := by
  unfold State.nodeMisaligned
  try dsimp only
  repeat' (first | with_reducible assumption | with_reducible apply State.hartTrap_keeps)

theorem State.nodeRead_keeps {s0 s : State} (hs : Keeps s0 s) (h) (a) (n) (nc) (fetch) : Keeps s0 (State.nodeRead s h a n nc
    fetch).2 := by
  unfold State.nodeRead
  try dsimp only
  repeat' (first
    | with_reducible assumption | with_reducible apply State.bytesRead_keeps | with_reducible apply State.cachedRead_keeps
    | split)

theorem State.nodeReads_keeps {s0 s : State} (hs : Keeps s0 s) (h) (ps) (nc) (fetch) : Keeps s0 (State.nodeReads s h ps nc
    fetch).2 := by
  unfold State.nodeReads
  try dsimp only
  repeat' (first
    | with_reducible assumption | with_reducible apply State.nodeRead_keeps | (simp (disch := rfl) only [↓mk_keeps])
    | with_reducible refine snd_keeps (by assumption) ?_ | (with_reducible apply foldl_snd_keeps <;> (try intro _ _ _))
    | split)

theorem State.nodeLoad_keeps {s0 s : State} (hs : Keeps s0 s) (h) (rd) (va) (n) (sg) : Keeps s0 (State.nodeLoad s h rd va n
    sg).2 := by
  unfold State.nodeLoad
  try dsimp only
  repeat' (first
    | with_reducible assumption | with_reducible apply State.nodeXlate_keeps | with_reducible apply State.nodeFault_keeps
    | with_reducible apply State.regRead_keeps | with_reducible apply State.hartPut_keeps
    | with_reducible apply State.nodeAsk_keeps | with_reducible apply State.nodeMisaligned_keeps
    | with_reducible apply State.nodeReads_keeps | with_reducible apply State.nodePoison_keeps
    | with_reducible apply State.nodeStop_keeps | (simp (disch := rfl) only [↓mk_keeps])
    | with_reducible refine snd_keeps (by assumption) ?_ | with_reducible apply ite_keeps | split)

theorem State.nodeFetch_keeps {s0 s : State} (hs : Keeps s0 s) (h) (va) : Keeps s0 (State.nodeFetch s h va).2 := by
  unfold State.nodeFetch
  try dsimp only
  repeat' (first
    | with_reducible assumption | with_reducible apply State.nodeXlate_keeps | with_reducible apply State.nodeFault_keeps
    | with_reducible apply State.nodeAsk_keeps | with_reducible apply State.nodeReads_keeps
    | with_reducible apply State.nodePoison_keeps | with_reducible apply State.nodeStop_keeps
    | (simp (disch := rfl) only [↓mk_keeps]) | with_reducible refine snd_keeps (by assumption) ?_
    | with_reducible apply ite_keeps | split)

theorem State.nodeStore_keeps {s0 s : State} (hs : Keeps s0 s) (h) (va) (n) (v) : Keeps s0 (State.nodeStore s h va n v).2 :=
    by
  unfold State.nodeStore
  try dsimp only
  repeat' (first
    | with_reducible assumption | with_reducible apply State.nodeXlate_keeps | with_reducible apply State.nodeFault_keeps
    | with_reducible apply State.regWrite_keeps | with_reducible apply State.nodeAsk_keeps
    | with_reducible apply State.nodeMisaligned_keeps | with_reducible apply State.bytesWrite_keeps
    | with_reducible apply State.cachedWrite_keeps | with_reducible apply State.nodeStop_keeps
    | (simp (disch := rfl) only [↓mk_keeps]) | with_reducible refine snd_keeps (by assumption) ?_
    | (with_reducible apply foldl_snd2_keeps <;> (try intro _ _ _)) | with_reducible apply ite_keeps | split)

theorem State.nodeAmo_keeps {s0 s : State} (hs : Keeps s0 s) (h) (rd) (va) (n) (op) (v) : Keeps s0 (State.nodeAmo s h rd va n
    op v).2 := by
  unfold State.nodeAmo
  try dsimp only
  repeat' (first
    | with_reducible assumption | with_reducible apply State.hartTrap_keeps | with_reducible apply State.nodeMisaligned_keeps
    | with_reducible apply State.nodeXlate_keeps | with_reducible apply State.nodeFault_keeps
    | with_reducible apply State.nodeAsk_keeps | with_reducible apply State.atomWord_keeps
    | with_reducible apply State.hartSet_keeps | with_reducible apply State.nodePoison_keeps
    | with_reducible apply State.gain_keeps | with_reducible apply State.agentWrite_keeps
    | with_reducible apply State.coreUse_keeps | with_reducible apply State.coresLose_keeps
    | with_reducible apply State.nodeStop_keeps | (simp (disch := rfl) only [↓mk_keeps])
    | with_reducible refine snd_keeps (by assumption) ?_ | split)

theorem State.nodeLr_keeps {s0 s : State} (hs : Keeps s0 s) (h) (rd) (va) (n) : Keeps s0 (State.nodeLr s h rd va n).2 := by
  unfold State.nodeLr
  try dsimp only
  repeat' (first
    | with_reducible assumption | with_reducible apply State.hartTrap_keeps | with_reducible apply State.nodeMisaligned_keeps
    | with_reducible apply State.nodeXlate_keeps | with_reducible apply State.cachedRead_keeps
    | with_reducible apply State.modHart_keeps | with_reducible apply State.hartSet_keeps
    | with_reducible apply State.nodePoison_keeps | with_reducible apply State.nodeFault_keeps
    | with_reducible apply State.nodeStop_keeps | (simp (disch := rfl) only [↓mk_keeps])
    | with_reducible refine snd_keeps (by assumption) ?_ | split)

theorem State.nodeSc_keeps {s0 s : State} (hs : Keeps s0 s) (h) (rd) (va) (n) (v) : Keeps s0 (State.nodeSc s h rd va n v).2 :=
    by
  unfold State.nodeSc
  try dsimp only
  repeat' (first
    | with_reducible assumption | with_reducible apply State.hartTrap_keeps | with_reducible apply State.nodeMisaligned_keeps
    | with_reducible apply State.nodeXlate_keeps | with_reducible apply State.modHart_keeps
    | with_reducible apply State.hartSet_keeps | with_reducible apply State.gain_keeps
    | with_reducible apply State.cachedWrite_keeps | with_reducible apply State.nodeFault_keeps
    | with_reducible apply State.nodeStop_keeps | (simp (disch := rfl) only [↓mk_keeps])
    | with_reducible refine snd_keeps (by assumption) ?_ | split)

theorem State.imsicSet_keeps {s0 s : State} (hs : Keeps s0 s) (h) (f) (sel) (v) : Keeps s0 (State.imsicSet s h f sel v) := by
  unfold State.imsicSet
  try dsimp only
  repeat' (first | with_reducible assumption | (simp (disch := rfl) only [↓mk_keeps]) | with_reducible apply ite_keeps)

theorem State.nodeCsrRead_keeps {s0 s : State} (hs : Keeps s0 s) (h) (rd) (csr) : Keeps s0 (State.nodeCsrRead s h rd csr).2 :=
    by
  unfold State.nodeCsrRead
  try dsimp only
  repeat' (first
    | with_reducible assumption | with_reducible apply State.hartTrap_keeps | with_reducible apply State.hartSet_keeps
    | with_reducible apply State.freeVal_keeps | split)

theorem State.nodeCsrWrite_keeps {s0 s : State} (hs : Keeps s0 s) (h) (csr) (v) : Keeps s0 (State.nodeCsrWrite s h csr v).2 :=
    by
  unfold State.nodeCsrWrite
  try dsimp only
  repeat' (first
    | with_reducible assumption | with_reducible apply State.hartTrap_keeps | with_reducible apply State.timer_keeps
    | with_reducible apply State.modHart_keeps | with_reducible apply State.imsicSet_keeps
    | (simp (disch := rfl) only [↓mk_keeps]) | with_reducible apply ite_keeps | split)

theorem State.nodeInner_keeps {s0 s : State} (hs : Keeps s0 s) (h) (k) : Keeps s0 (State.nodeInner s h k).2 := by
  unfold State.nodeInner
  try dsimp only
  repeat' (first
    | with_reducible assumption | with_reducible apply State.modHart_keeps | with_reducible apply State.hartTrap_keeps
    | split)

theorem State.nodeVset_keeps {s0 s : State} (hs : Keeps s0 s) (h) (rd) (avl) (vtype) : Keeps s0 (State.nodeVset s h rd avl
    vtype).2 := by
  unfold State.nodeVset
  try dsimp only
  repeat' (first
    | with_reducible assumption | with_reducible apply State.hartTrap_keeps | with_reducible apply State.freeVal_keeps
    | with_reducible apply State.hartSet_keeps | with_reducible apply State.modHart_keeps | split)

theorem State.nodeOp_keeps {s0 s : State} (hs : Keeps s0 s) (h) (o) : Keeps s0 (State.nodeOp s h o).2 := by
  unfold State.nodeOp
  try dsimp only
  repeat' (first
    | with_reducible assumption | with_reducible apply State.nodeLoad_keeps | with_reducible apply State.nodeFetch_keeps
    | with_reducible apply State.nodeStore_keeps | with_reducible apply State.nodeAmo_keeps
    | with_reducible apply State.nodeLr_keeps | with_reducible apply State.nodeSc_keeps
    | with_reducible apply State.nodeCsrRead_keeps | with_reducible apply State.nodeCsrWrite_keeps
    | with_reducible apply State.nodeInner_keeps | with_reducible apply State.nodeVset_keeps
    | with_reducible apply State.hartTrap_keeps | with_reducible apply State.modHart_keeps
    | with_reducible apply State.hartPut_keeps | (simp (disch := rfl) only [↓mk_keeps]) | with_reducible apply ite_keeps
    | split)

theorem execNodeCoreInstruction_keeps {s0 s : State} (hs : Keeps s0 s) (h) (op) : KeepsOut s0 (execNodeCoreInstruction h op s)
    := by
  unfold execNodeCoreInstruction
  try dsimp only
  repeat' (first
    | with_reducible assumption | with_reducible apply State.nodeOp_keeps | with_reducible apply State.modHart_keeps
    | with_reducible apply State.hartNext_keeps | with_reducible apply next_keeps
    | with_reducible refine snd_keeps (by assumption) ?_ | with_reducible apply ite_keeps | split)

theorem execMtimecmpExpiry_keeps {s0 s : State} (hs : Keeps s0 s) (h) : KeepsOut s0 (execMtimecmpExpiry h s) := by
  unfold execMtimecmpExpiry
  try dsimp only
  repeat' (first
    | with_reducible assumption | with_reducible apply State.timer_keeps | with_reducible apply next_keeps
    | with_reducible apply ite_keeps)

end Sys2Proof.Machine
end

