-- ==== Sys2Proof/Laws/KeepsAlu.lean ====
section
/-! SUPPORT. Arithmetic and tile instructions. Each keeps what `Keeps` says. -/

namespace Sys2Proof.Machine

open Sys2Proof

theorem threadA_keeps {s0 s : State} (hs : Keeps s0 s) (u) (slot) (f) (k) (extra) (body) : Keeps s0 (threadA u slot f k extra
    body s) := by
  unfold threadA
  try dsimp only
  repeat' (first
    | with_reducible assumption | with_reducible apply State.issue_keeps | with_reducible apply State.retire_keeps
    | with_reducible apply State.countVts_keeps | with_reducible apply ok_keeps
    | (with_reducible apply bind_keeps; intro _ _) | with_reducible intro _)

theorem ialu_keeps {s0 s : State} (hs : Keeps s0 s) (op) (b) (c) (u) (slot) (f) : Keeps s0 (ialu op b c u slot f s) := by
  unfold ialu
  try dsimp only
  repeat' (first | with_reducible assumption | with_reducible apply threadA_keeps)

theorem execMov_keeps {s0 s : State} (hs : Keeps s0 s) (u) (slot) (f) : KeepsOut s0 (execMov u slot f s) := by
  unfold execMov
  try dsimp only
  repeat' (first | with_reducible assumption | with_reducible apply ialu_keeps | with_reducible apply next_keeps)

theorem execAdd_keeps {s0 s : State} (hs : Keeps s0 s) (u) (slot) (f) : KeepsOut s0 (execAdd u slot f s) := by
  unfold execAdd
  try dsimp only
  repeat' (first | with_reducible assumption | with_reducible apply ialu_keeps | with_reducible apply next_keeps)

theorem execSub_keeps {s0 s : State} (hs : Keeps s0 s) (u) (slot) (f) : KeepsOut s0 (execSub u slot f s) := by
  unfold execSub
  try dsimp only
  repeat' (first | with_reducible assumption | with_reducible apply ialu_keeps | with_reducible apply next_keeps)

theorem execMul_keeps {s0 s : State} (hs : Keeps s0 s) (u) (slot) (f) : KeepsOut s0 (execMul u slot f s) := by
  unfold execMul
  try dsimp only
  repeat' (first | with_reducible assumption | with_reducible apply ialu_keeps | with_reducible apply next_keeps)

theorem execMulhi_keeps {s0 s : State} (hs : Keeps s0 s) (u) (slot) (f) : KeepsOut s0 (execMulhi u slot f s) := by
  unfold execMulhi
  try dsimp only
  repeat' (first | with_reducible assumption | with_reducible apply ialu_keeps | with_reducible apply next_keeps)

theorem execMad_keeps {s0 s : State} (hs : Keeps s0 s) (u) (slot) (f) : KeepsOut s0 (execMad u slot f s) := by
  unfold execMad
  try dsimp only
  repeat' (first | with_reducible assumption | with_reducible apply ialu_keeps | with_reducible apply next_keeps)

theorem execAnd_keeps {s0 s : State} (hs : Keeps s0 s) (u) (slot) (f) : KeepsOut s0 (execAnd u slot f s) := by
  unfold execAnd
  try dsimp only
  repeat' (first | with_reducible assumption | with_reducible apply ialu_keeps | with_reducible apply next_keeps)

theorem execOr_keeps {s0 s : State} (hs : Keeps s0 s) (u) (slot) (f) : KeepsOut s0 (execOr u slot f s) := by
  unfold execOr
  try dsimp only
  repeat' (first | with_reducible assumption | with_reducible apply ialu_keeps | with_reducible apply next_keeps)

theorem execXor_keeps {s0 s : State} (hs : Keeps s0 s) (u) (slot) (f) : KeepsOut s0 (execXor u slot f s) := by
  unfold execXor
  try dsimp only
  repeat' (first | with_reducible assumption | with_reducible apply ialu_keeps | with_reducible apply next_keeps)

theorem execNot_keeps {s0 s : State} (hs : Keeps s0 s) (u) (slot) (f) : KeepsOut s0 (execNot u slot f s) := by
  unfold execNot
  try dsimp only
  repeat' (first | with_reducible assumption | with_reducible apply ialu_keeps | with_reducible apply next_keeps)

theorem execShl_keeps {s0 s : State} (hs : Keeps s0 s) (u) (slot) (f) : KeepsOut s0 (execShl u slot f s) := by
  unfold execShl
  try dsimp only
  repeat' (first | with_reducible assumption | with_reducible apply ialu_keeps | with_reducible apply next_keeps)

theorem execShr_keeps {s0 s : State} (hs : Keeps s0 s) (u) (slot) (f) : KeepsOut s0 (execShr u slot f s) := by
  unfold execShr
  try dsimp only
  repeat' (first | with_reducible assumption | with_reducible apply ialu_keeps | with_reducible apply next_keeps)

theorem execShra_keeps {s0 s : State} (hs : Keeps s0 s) (u) (slot) (f) : KeepsOut s0 (execShra u slot f s) := by
  unfold execShra
  try dsimp only
  repeat' (first | with_reducible assumption | with_reducible apply ialu_keeps | with_reducible apply next_keeps)

theorem execMin_keeps {s0 s : State} (hs : Keeps s0 s) (u) (slot) (f) : KeepsOut s0 (execMin u slot f s) := by
  unfold execMin
  try dsimp only
  repeat' (first | with_reducible assumption | with_reducible apply ialu_keeps | with_reducible apply next_keeps)

theorem execMax_keeps {s0 s : State} (hs : Keeps s0 s) (u) (slot) (f) : KeepsOut s0 (execMax u slot f s) := by
  unfold execMax
  try dsimp only
  repeat' (first | with_reducible assumption | with_reducible apply ialu_keeps | with_reducible apply next_keeps)

theorem execPopc_keeps {s0 s : State} (hs : Keeps s0 s) (u) (slot) (f) : KeepsOut s0 (execPopc u slot f s) := by
  unfold execPopc
  try dsimp only
  repeat' (first | with_reducible assumption | with_reducible apply ialu_keeps | with_reducible apply next_keeps)

theorem execClz_keeps {s0 s : State} (hs : Keeps s0 s) (u) (slot) (f) : KeepsOut s0 (execClz u slot f s) := by
  unfold execClz
  try dsimp only
  repeat' (first | with_reducible assumption | with_reducible apply ialu_keeps | with_reducible apply next_keeps)

theorem execSel_keeps {s0 s : State} (hs : Keeps s0 s) (u) (slot) (f) : KeepsOut s0 (execSel u slot f s) := by
  unfold execSel
  try dsimp only
  repeat' (first | with_reducible assumption | with_reducible apply threadA_keeps | with_reducible apply next_keeps)

theorem execSetp_keeps {s0 s : State} (hs : Keeps s0 s) (u) (slot) (f) : KeepsOut s0 (execSetp u slot f s) := by
  unfold execSetp
  try dsimp only
  repeat' (first | with_reducible assumption | with_reducible apply threadA_keeps | with_reducible apply next_keeps)

theorem falu_keeps {s0 s : State} (hs : Keeps s0 s) (op) (b) (c) (u) (slot) (f) : Keeps s0 (falu op b c u slot f s) := by
  unfold falu
  try dsimp only
  repeat' (first | with_reducible assumption | with_reducible apply threadA_keeps)

theorem execFmov_keeps {s0 s : State} (hs : Keeps s0 s) (u) (slot) (f) : KeepsOut s0 (execFmov u slot f s) := by
  unfold execFmov
  try dsimp only
  repeat' (first | with_reducible assumption | with_reducible apply falu_keeps | with_reducible apply next_keeps)

theorem execFadd_keeps {s0 s : State} (hs : Keeps s0 s) (u) (slot) (f) : KeepsOut s0 (execFadd u slot f s) := by
  unfold execFadd
  try dsimp only
  repeat' (first | with_reducible assumption | with_reducible apply falu_keeps | with_reducible apply next_keeps)

theorem execFsub_keeps {s0 s : State} (hs : Keeps s0 s) (u) (slot) (f) : KeepsOut s0 (execFsub u slot f s) := by
  unfold execFsub
  try dsimp only
  repeat' (first | with_reducible assumption | with_reducible apply falu_keeps | with_reducible apply next_keeps)

theorem execFmul_keeps {s0 s : State} (hs : Keeps s0 s) (u) (slot) (f) : KeepsOut s0 (execFmul u slot f s) := by
  unfold execFmul
  try dsimp only
  repeat' (first | with_reducible assumption | with_reducible apply falu_keeps | with_reducible apply next_keeps)

theorem execFfma_keeps {s0 s : State} (hs : Keeps s0 s) (u) (slot) (f) : KeepsOut s0 (execFfma u slot f s) := by
  unfold execFfma
  try dsimp only
  repeat' (first | with_reducible assumption | with_reducible apply falu_keeps | with_reducible apply next_keeps)

theorem execFmin_keeps {s0 s : State} (hs : Keeps s0 s) (u) (slot) (f) : KeepsOut s0 (execFmin u slot f s) := by
  unfold execFmin
  try dsimp only
  repeat' (first | with_reducible assumption | with_reducible apply falu_keeps | with_reducible apply next_keeps)

theorem execFmax_keeps {s0 s : State} (hs : Keeps s0 s) (u) (slot) (f) : KeepsOut s0 (execFmax u slot f s) := by
  unfold execFmax
  try dsimp only
  repeat' (first | with_reducible assumption | with_reducible apply falu_keeps | with_reducible apply next_keeps)

theorem execFabs_keeps {s0 s : State} (hs : Keeps s0 s) (u) (slot) (f) : KeepsOut s0 (execFabs u slot f s) := by
  unfold execFabs
  try dsimp only
  repeat' (first | with_reducible assumption | with_reducible apply falu_keeps | with_reducible apply next_keeps)

theorem execFneg_keeps {s0 s : State} (hs : Keeps s0 s) (u) (slot) (f) : KeepsOut s0 (execFneg u slot f s) := by
  unfold execFneg
  try dsimp only
  repeat' (first | with_reducible assumption | with_reducible apply falu_keeps | with_reducible apply next_keeps)

theorem execFdiv_keeps {s0 s : State} (hs : Keeps s0 s) (u) (slot) (f) : KeepsOut s0 (execFdiv u slot f s) := by
  unfold execFdiv
  try dsimp only
  repeat' (first | with_reducible assumption | with_reducible apply falu_keeps | with_reducible apply next_keeps)

theorem execFsqrt_keeps {s0 s : State} (hs : Keeps s0 s) (u) (slot) (f) : KeepsOut s0 (execFsqrt u slot f s) := by
  unfold execFsqrt
  try dsimp only
  repeat' (first | with_reducible assumption | with_reducible apply falu_keeps | with_reducible apply next_keeps)

theorem execFrcp_keeps {s0 s : State} (hs : Keeps s0 s) (u) (slot) (f) : KeepsOut s0 (execFrcp u slot f s) := by
  unfold execFrcp
  try dsimp only
  repeat' (first | with_reducible assumption | with_reducible apply falu_keeps | with_reducible apply next_keeps)

theorem execFrsqrt_keeps {s0 s : State} (hs : Keeps s0 s) (u) (slot) (f) : KeepsOut s0 (execFrsqrt u slot f s) := by
  unfold execFrsqrt
  try dsimp only
  repeat' (first | with_reducible assumption | with_reducible apply falu_keeps | with_reducible apply next_keeps)

theorem execFexp2_keeps {s0 s : State} (hs : Keeps s0 s) (u) (slot) (f) : KeepsOut s0 (execFexp2 u slot f s) := by
  unfold execFexp2
  try dsimp only
  repeat' (first | with_reducible assumption | with_reducible apply falu_keeps | with_reducible apply next_keeps)

theorem execFexp_keeps {s0 s : State} (hs : Keeps s0 s) (u) (slot) (f) : KeepsOut s0 (execFexp u slot f s) := by
  unfold execFexp
  try dsimp only
  repeat' (first | with_reducible assumption | with_reducible apply falu_keeps | with_reducible apply next_keeps)

theorem execFlog2_keeps {s0 s : State} (hs : Keeps s0 s) (u) (slot) (f) : KeepsOut s0 (execFlog2 u slot f s) := by
  unfold execFlog2
  try dsimp only
  repeat' (first | with_reducible assumption | with_reducible apply falu_keeps | with_reducible apply next_keeps)

theorem execFlog_keeps {s0 s : State} (hs : Keeps s0 s) (u) (slot) (f) : KeepsOut s0 (execFlog u slot f s) := by
  unfold execFlog
  try dsimp only
  repeat' (first | with_reducible assumption | with_reducible apply falu_keeps | with_reducible apply next_keeps)

theorem execFsinpi_keeps {s0 s : State} (hs : Keeps s0 s) (u) (slot) (f) : KeepsOut s0 (execFsinpi u slot f s) := by
  unfold execFsinpi
  try dsimp only
  repeat' (first | with_reducible assumption | with_reducible apply falu_keeps | with_reducible apply next_keeps)

theorem execFcospi_keeps {s0 s : State} (hs : Keeps s0 s) (u) (slot) (f) : KeepsOut s0 (execFcospi u slot f s) := by
  unfold execFcospi
  try dsimp only
  repeat' (first | with_reducible assumption | with_reducible apply falu_keeps | with_reducible apply next_keeps)

theorem execFtanh_keeps {s0 s : State} (hs : Keeps s0 s) (u) (slot) (f) : KeepsOut s0 (execFtanh u slot f s) := by
  unfold execFtanh
  try dsimp only
  repeat' (first | with_reducible assumption | with_reducible apply falu_keeps | with_reducible apply next_keeps)

theorem execFsetp_keeps {s0 s : State} (hs : Keeps s0 s) (u) (slot) (f) : KeepsOut s0 (execFsetp u slot f s) := by
  unfold execFsetp
  try dsimp only
  repeat' (first | with_reducible assumption | with_reducible apply threadA_keeps | with_reducible apply next_keeps)

theorem execFcvt_keeps {s0 s : State} (hs : Keeps s0 s) (u) (slot) (f) : KeepsOut s0 (execFcvt u slot f s) := by
  unfold execFcvt
  try dsimp only
  repeat' (first | with_reducible assumption | with_reducible apply threadA_keeps | with_reducible apply next_keeps)

theorem uniformA_keeps {s0 s : State} (hs : Keeps s0 s) (u) (slot) (f) (k) (extra) (body) : Keeps s0 (uniformA u slot f k
    extra body s) := by
  unfold uniformA
  try dsimp only
  repeat' (first
    | with_reducible assumption | with_reducible apply State.issue_keeps | with_reducible apply State.retire_keeps
    | with_reducible apply ok_keeps | (with_reducible apply bind_keeps; intro _ _) | with_reducible intro _)

theorem ualu_keeps {s0 s : State} (hs : Keeps s0 s) (op) (b) (c) (u) (slot) (f) : Keeps s0 (ualu op b c u slot f s) := by
  unfold ualu
  try dsimp only
  repeat' (first | with_reducible assumption | with_reducible apply uniformA_keeps)

theorem execUmov_keeps {s0 s : State} (hs : Keeps s0 s) (u) (slot) (f) : KeepsOut s0 (execUmov u slot f s) := by
  unfold execUmov
  try dsimp only
  repeat' (first | with_reducible assumption | with_reducible apply ualu_keeps | with_reducible apply next_keeps)

theorem execUadd_keeps {s0 s : State} (hs : Keeps s0 s) (u) (slot) (f) : KeepsOut s0 (execUadd u slot f s) := by
  unfold execUadd
  try dsimp only
  repeat' (first | with_reducible assumption | with_reducible apply ualu_keeps | with_reducible apply next_keeps)

theorem execUsub_keeps {s0 s : State} (hs : Keeps s0 s) (u) (slot) (f) : KeepsOut s0 (execUsub u slot f s) := by
  unfold execUsub
  try dsimp only
  repeat' (first | with_reducible assumption | with_reducible apply ualu_keeps | with_reducible apply next_keeps)

theorem execUmul_keeps {s0 s : State} (hs : Keeps s0 s) (u) (slot) (f) : KeepsOut s0 (execUmul u slot f s) := by
  unfold execUmul
  try dsimp only
  repeat' (first | with_reducible assumption | with_reducible apply ualu_keeps | with_reducible apply next_keeps)

theorem execUmulhi_keeps {s0 s : State} (hs : Keeps s0 s) (u) (slot) (f) : KeepsOut s0 (execUmulhi u slot f s) := by
  unfold execUmulhi
  try dsimp only
  repeat' (first | with_reducible assumption | with_reducible apply ualu_keeps | with_reducible apply next_keeps)

theorem execUmad_keeps {s0 s : State} (hs : Keeps s0 s) (u) (slot) (f) : KeepsOut s0 (execUmad u slot f s) := by
  unfold execUmad
  try dsimp only
  repeat' (first | with_reducible assumption | with_reducible apply ualu_keeps | with_reducible apply next_keeps)

theorem execUand_keeps {s0 s : State} (hs : Keeps s0 s) (u) (slot) (f) : KeepsOut s0 (execUand u slot f s) := by
  unfold execUand
  try dsimp only
  repeat' (first | with_reducible assumption | with_reducible apply ualu_keeps | with_reducible apply next_keeps)

theorem execUor_keeps {s0 s : State} (hs : Keeps s0 s) (u) (slot) (f) : KeepsOut s0 (execUor u slot f s) := by
  unfold execUor
  try dsimp only
  repeat' (first | with_reducible assumption | with_reducible apply ualu_keeps | with_reducible apply next_keeps)

theorem execUxor_keeps {s0 s : State} (hs : Keeps s0 s) (u) (slot) (f) : KeepsOut s0 (execUxor u slot f s) := by
  unfold execUxor
  try dsimp only
  repeat' (first | with_reducible assumption | with_reducible apply ualu_keeps | with_reducible apply next_keeps)

theorem execUnot_keeps {s0 s : State} (hs : Keeps s0 s) (u) (slot) (f) : KeepsOut s0 (execUnot u slot f s) := by
  unfold execUnot
  try dsimp only
  repeat' (first | with_reducible assumption | with_reducible apply ualu_keeps | with_reducible apply next_keeps)

theorem execUshl_keeps {s0 s : State} (hs : Keeps s0 s) (u) (slot) (f) : KeepsOut s0 (execUshl u slot f s) := by
  unfold execUshl
  try dsimp only
  repeat' (first | with_reducible assumption | with_reducible apply ualu_keeps | with_reducible apply next_keeps)

theorem execUshr_keeps {s0 s : State} (hs : Keeps s0 s) (u) (slot) (f) : KeepsOut s0 (execUshr u slot f s) := by
  unfold execUshr
  try dsimp only
  repeat' (first | with_reducible assumption | with_reducible apply ualu_keeps | with_reducible apply next_keeps)

theorem execUshra_keeps {s0 s : State} (hs : Keeps s0 s) (u) (slot) (f) : KeepsOut s0 (execUshra u slot f s) := by
  unfold execUshra
  try dsimp only
  repeat' (first | with_reducible assumption | with_reducible apply ualu_keeps | with_reducible apply next_keeps)

theorem execUmin_keeps {s0 s : State} (hs : Keeps s0 s) (u) (slot) (f) : KeepsOut s0 (execUmin u slot f s) := by
  unfold execUmin
  try dsimp only
  repeat' (first | with_reducible assumption | with_reducible apply ualu_keeps | with_reducible apply next_keeps)

theorem execUmax_keeps {s0 s : State} (hs : Keeps s0 s) (u) (slot) (f) : KeepsOut s0 (execUmax u slot f s) := by
  unfold execUmax
  try dsimp only
  repeat' (first | with_reducible assumption | with_reducible apply ualu_keeps | with_reducible apply next_keeps)

theorem execUpopc_keeps {s0 s : State} (hs : Keeps s0 s) (u) (slot) (f) : KeepsOut s0 (execUpopc u slot f s) := by
  unfold execUpopc
  try dsimp only
  repeat' (first | with_reducible assumption | with_reducible apply ualu_keeps | with_reducible apply next_keeps)

theorem execUclz_keeps {s0 s : State} (hs : Keeps s0 s) (u) (slot) (f) : KeepsOut s0 (execUclz u slot f s) := by
  unfold execUclz
  try dsimp only
  repeat' (first | with_reducible assumption | with_reducible apply ualu_keeps | with_reducible apply next_keeps)

theorem execUsel_keeps {s0 s : State} (hs : Keeps s0 s) (u) (slot) (f) : KeepsOut s0 (execUsel u slot f s) := by
  unfold execUsel
  try dsimp only
  repeat' (first | with_reducible assumption | with_reducible apply uniformA_keeps | with_reducible apply next_keeps)

theorem execUset_keeps {s0 s : State} (hs : Keeps s0 s) (u) (slot) (f) : KeepsOut s0 (execUset u slot f s) := by
  unfold execUset
  try dsimp only
  repeat' (first | with_reducible assumption | with_reducible apply uniformA_keeps | with_reducible apply next_keeps)

theorem execMovi_keeps {s0 s : State} (hs : Keeps s0 s) (u) (slot) (f) : KeepsOut s0 (execMovi u slot f s) := by
  unfold execMovi
  try dsimp only
  repeat' (first
    | with_reducible assumption | with_reducible apply State.issue_keeps | with_reducible apply State.retire_keeps
    | with_reducible apply next_keeps | with_reducible apply ok_keeps | (with_reducible apply bind_keeps; intro _ _)
    | with_reducible intro _)

theorem execAddi_keeps {s0 s : State} (hs : Keeps s0 s) (u) (slot) (f) : KeepsOut s0 (execAddi u slot f s) := by
  unfold execAddi
  try dsimp only
  repeat' (first
    | with_reducible assumption | with_reducible apply State.issue_keeps | with_reducible apply State.retire_keeps
    | with_reducible apply State.countVts_keeps | with_reducible apply next_keeps | with_reducible apply ok_keeps
    | (with_reducible apply bind_keeps; intro _ _) | with_reducible intro _)

theorem uimm_keeps {s0 s : State} (hs : Keeps s0 s) (usesA) (u) (slot) (f) (v) : Keeps s0 (uimm usesA u slot f v s) := by
  unfold uimm
  try dsimp only
  repeat' (first
    | with_reducible assumption | with_reducible apply State.issue_keeps | with_reducible apply State.retire_keeps
    | with_reducible apply ok_keeps | (with_reducible apply bind_keeps; intro _ _) | with_reducible intro _)

theorem execUmovi_keeps {s0 s : State} (hs : Keeps s0 s) (u) (slot) (f) : KeepsOut s0 (execUmovi u slot f s) := by
  unfold execUmovi
  try dsimp only
  repeat' (first | with_reducible assumption | with_reducible apply uimm_keeps | with_reducible apply next_keeps)

theorem execUaddi_keeps {s0 s : State} (hs : Keeps s0 s) (u) (slot) (f) : KeepsOut s0 (execUaddi u slot f s) := by
  unfold execUaddi
  try dsimp only
  repeat' (first | with_reducible assumption | with_reducible apply uimm_keeps | with_reducible apply next_keeps)

theorem execUmovhi_keeps {s0 s : State} (hs : Keeps s0 s) (u) (slot) (f) : KeepsOut s0 (execUmovhi u slot f s) := by
  unfold execUmovhi
  try dsimp only
  repeat' (first | with_reducible assumption | with_reducible apply uimm_keeps | with_reducible apply next_keeps)

theorem execLshfl_keeps {s0 s : State} (hs : Keeps s0 s) (u) (slot) (f) : KeepsOut s0 (execLshfl u slot f s) := by
  unfold execLshfl
  try dsimp only
  repeat' (first | with_reducible assumption | with_reducible apply threadA_keeps | with_reducible apply next_keeps)

theorem execLbal_keeps {s0 s : State} (hs : Keeps s0 s) (u) (slot) (f) : KeepsOut s0 (execLbal u slot f s) := by
  unfold execLbal
  try dsimp only
  repeat' (first | with_reducible assumption | with_reducible apply uniformA_keeps | with_reducible apply next_keeps)

theorem execLfirst_keeps {s0 s : State} (hs : Keeps s0 s) (u) (slot) (f) : KeepsOut s0 (execLfirst u slot f s) := by
  unfold execLfirst
  try dsimp only
  repeat' (first | with_reducible assumption | with_reducible apply uniformA_keeps | with_reducible apply next_keeps)

theorem lred_keeps {s0 s : State} (hs : Keeps s0 s) (op) (u) (slot) (f) : Keeps s0 (lred op u slot f s) := by
  unfold lred
  try dsimp only
  repeat' (first
    | with_reducible assumption | with_reducible apply State.issue_keeps | with_reducible apply State.retire_keeps
    | with_reducible apply ok_keeps | (with_reducible apply bind_keeps; intro _ _) | with_reducible intro _)

theorem execLredAdd_keeps {s0 s : State} (hs : Keeps s0 s) (u) (slot) (f) : KeepsOut s0 (execLredAdd u slot f s) := by
  unfold execLredAdd
  try dsimp only
  repeat' (first | with_reducible assumption | with_reducible apply lred_keeps | with_reducible apply next_keeps)

theorem execLredMin_keeps {s0 s : State} (hs : Keeps s0 s) (u) (slot) (f) : KeepsOut s0 (execLredMin u slot f s) := by
  unfold execLredMin
  try dsimp only
  repeat' (first | with_reducible assumption | with_reducible apply lred_keeps | with_reducible apply next_keeps)

theorem execLredMax_keeps {s0 s : State} (hs : Keeps s0 s) (u) (slot) (f) : KeepsOut s0 (execLredMax u slot f s) := by
  unfold execLredMax
  try dsimp only
  repeat' (first | with_reducible assumption | with_reducible apply lred_keeps | with_reducible apply next_keeps)

theorem pred2_keeps {s0 s : State} (hs : Keeps s0 s) (op) (u) (slot) (f) : Keeps s0 (pred2 op u slot f s) := by
  unfold pred2
  try dsimp only
  repeat' (first | with_reducible assumption | with_reducible apply uniformA_keeps)

theorem execPand_keeps {s0 s : State} (hs : Keeps s0 s) (u) (slot) (f) : KeepsOut s0 (execPand u slot f s) := by
  unfold execPand
  try dsimp only
  repeat' (first | with_reducible assumption | with_reducible apply pred2_keeps | with_reducible apply next_keeps)

theorem execPor_keeps {s0 s : State} (hs : Keeps s0 s) (u) (slot) (f) : KeepsOut s0 (execPor u slot f s) := by
  unfold execPor
  try dsimp only
  repeat' (first | with_reducible assumption | with_reducible apply pred2_keeps | with_reducible apply next_keeps)

theorem execPxor_keeps {s0 s : State} (hs : Keeps s0 s) (u) (slot) (f) : KeepsOut s0 (execPxor u slot f s) := by
  unfold execPxor
  try dsimp only
  repeat' (first | with_reducible assumption | with_reducible apply pred2_keeps | with_reducible apply next_keeps)

theorem execPandn_keeps {s0 s : State} (hs : Keeps s0 s) (u) (slot) (f) : KeepsOut s0 (execPandn u slot f s) := by
  unfold execPandn
  try dsimp only
  repeat' (first | with_reducible assumption | with_reducible apply pred2_keeps | with_reducible apply next_keeps)

theorem execPnot_keeps {s0 s : State} (hs : Keeps s0 s) (u) (slot) (f) : KeepsOut s0 (execPnot u slot f s) := by
  unfold execPnot
  try dsimp only
  repeat' (first | with_reducible assumption | with_reducible apply uniformA_keeps | with_reducible apply next_keeps)

theorem execPfromu_keeps {s0 s : State} (hs : Keeps s0 s) (u) (slot) (f) : KeepsOut s0 (execPfromu u slot f s) := by
  unfold execPfromu
  try dsimp only
  repeat' (first | with_reducible assumption | with_reducible apply uniformA_keeps | with_reducible apply next_keeps)

theorem execPtou_keeps {s0 s : State} (hs : Keeps s0 s) (u) (slot) (f) : KeepsOut s0 (execPtou u slot f s) := by
  unfold execPtou
  try dsimp only
  repeat' (first | with_reducible assumption | with_reducible apply uniformA_keeps | with_reducible apply next_keeps)

theorem execSread_keeps {s0 s : State} (hs : Keeps s0 s) (u) (slot) (f) : KeepsOut s0 (execSread u slot f s) := by
  unfold execSread
  try dsimp only
  repeat' (first
    | with_reducible assumption | with_reducible apply State.issue_keeps | with_reducible apply State.retire_keeps
    | with_reducible apply next_keeps | with_reducible apply ok_keeps | (with_reducible apply bind_keeps; intro _ _)
    | with_reducible intro _)

theorem execSreadw_keeps {s0 s : State} (hs : Keeps s0 s) (u) (slot) (f) : KeepsOut s0 (execSreadw u slot f s) := by
  unfold execSreadw
  try dsimp only
  repeat' (first | with_reducible assumption | with_reducible apply threadA_keeps | with_reducible apply next_keeps)

theorem State.tileWrite_keeps {s0 s : State} (hs : Keeps s0 s) (c) (t) (o) : Keeps s0 (State.tileWrite s c t o) := by
  unfold State.tileWrite
  try dsimp only
  repeat' (first
    | with_reducible assumption | with_reducible apply State.countVts_keeps | with_reducible apply State.onHank_keeps
    | with_reducible apply State.touchTile_keeps | with_reducible apply ite_keeps)

theorem execTzero_keeps {s0 s : State} (hs : Keeps s0 s) (u) (slot) (f) : KeepsOut s0 (execTzero u slot f s) := by
  unfold execTzero
  try dsimp only
  repeat' (first
    | with_reducible assumption | with_reducible apply State.issue_keeps | with_reducible apply State.retire_keeps
    | with_reducible apply State.tileWrite_keeps | with_reducible apply next_keeps | with_reducible apply ok_keeps
    | with_reducible exact error_keeps _ | (with_reducible apply bind_keeps; intro _ _) | with_reducible intro _ | split)

theorem execTsetvl_keeps {s0 s : State} (hs : Keeps s0 s) (u) (slot) (f) : KeepsOut s0 (execTsetvl u slot f s) := by
  unfold execTsetvl
  try dsimp only
  repeat' (first
    | with_reducible assumption | with_reducible apply State.issue_keeps | with_reducible apply State.retire_keeps
    | with_reducible apply next_keeps | with_reducible apply ok_keeps | (with_reducible apply bind_keeps; intro _ _)
    | with_reducible intro _)

theorem execTew_keeps {s0 s : State} (hs : Keeps s0 s) (u) (slot) (f) : KeepsOut s0 (execTew u slot f s) := by
  unfold execTew
  try dsimp only
  repeat' (first
    | with_reducible assumption | with_reducible apply State.issue_keeps | with_reducible apply State.viewTiles_keeps
    | with_reducible apply State.retire_keeps | with_reducible apply State.tileWrite_keeps | with_reducible apply next_keeps
    | with_reducible apply ok_keeps | with_reducible exact error_keeps _ | (with_reducible apply bind_keeps; intro _ _)
    | with_reducible intro _ | split)

theorem execTcmp_keeps {s0 s : State} (hs : Keeps s0 s) (u) (slot) (f) : KeepsOut s0 (execTcmp u slot f s) := by
  unfold execTcmp
  try dsimp only
  repeat' (first
    | with_reducible assumption | with_reducible apply State.issue_keeps | with_reducible apply State.viewTiles_keeps
    | with_reducible apply State.retire_keeps | with_reducible apply State.countVts_keeps
    | with_reducible apply State.onHank_keeps | with_reducible apply next_keeps | with_reducible apply ok_keeps
    | with_reducible exact error_keeps _ | (with_reducible apply bind_keeps; intro _ _) | with_reducible intro _ | split)

theorem execTmsk_keeps {s0 s : State} (hs : Keeps s0 s) (u) (slot) (f) : KeepsOut s0 (execTmsk u slot f s) := by
  unfold execTmsk
  try dsimp only
  repeat' (first
    | with_reducible assumption | with_reducible apply State.issue_keeps | with_reducible apply State.retire_keeps
    | with_reducible apply State.onHank_keeps | with_reducible apply next_keeps | with_reducible apply ok_keeps
    | (with_reducible apply bind_keeps; intro _ _) | with_reducible intro _)

theorem tred_keeps {s0 s : State} (hs : Keeps s0 s) (u) (slot) (f) (result) : Keeps s0 (tred u slot f result s) := by
  unfold tred
  try dsimp only
  repeat' (first
    | with_reducible assumption | with_reducible apply State.issue_keeps | with_reducible apply State.viewTiles_keeps
    | with_reducible apply State.retire_keeps | with_reducible apply State.tileWrite_keeps | with_reducible apply ok_keeps
    | with_reducible exact error_keeps _ | (with_reducible apply bind_keeps; intro _ _) | with_reducible intro _ | split)

theorem execTredRow_keeps {s0 s : State} (hs : Keeps s0 s) (u) (slot) (f) : KeepsOut s0 (execTredRow u slot f s) := by
  unfold execTredRow
  try dsimp only
  repeat' (first | with_reducible assumption | with_reducible apply tred_keeps | with_reducible apply next_keeps)

theorem execTredCol_keeps {s0 s : State} (hs : Keeps s0 s) (u) (slot) (f) : KeepsOut s0 (execTredCol u slot f s) := by
  unfold execTredCol
  try dsimp only
  repeat' (first | with_reducible assumption | with_reducible apply tred_keeps | with_reducible apply next_keeps)

theorem tperm_keeps {s0 s : State} (hs : Keeps s0 s) (index) (u) (slot) (f) (elem) : Keeps s0 (tperm index u slot f elem s) :=
    by
  unfold tperm
  try dsimp only
  repeat' (first
    | with_reducible assumption | with_reducible apply State.issue_keeps | with_reducible apply State.viewTiles_keeps
    | with_reducible apply State.retire_keeps | with_reducible apply State.tileWrite_keeps | with_reducible apply ok_keeps
    | with_reducible exact error_keeps _ | (with_reducible apply bind_keeps; intro _ _) | with_reducible intro _ | split)

theorem execTpermRow_keeps {s0 s : State} (hs : Keeps s0 s) (u) (slot) (f) : KeepsOut s0 (execTpermRow u slot f s) := by
  unfold execTpermRow
  try dsimp only
  repeat' (first | with_reducible assumption | with_reducible apply tperm_keeps | with_reducible apply next_keeps)

theorem execTpermCol_keeps {s0 s : State} (hs : Keeps s0 s) (u) (slot) (f) : KeepsOut s0 (execTpermCol u slot f s) := by
  unfold execTpermCol
  try dsimp only
  repeat' (first | with_reducible assumption | with_reducible apply tperm_keeps | with_reducible apply next_keeps)

theorem execTpermT_keeps {s0 s : State} (hs : Keeps s0 s) (u) (slot) (f) : KeepsOut s0 (execTpermT u slot f s) := by
  unfold execTpermT
  try dsimp only
  repeat' (first | with_reducible assumption | with_reducible apply tperm_keeps | with_reducible apply next_keeps)

theorem execTqnt_keeps {s0 s : State} (hs : Keeps s0 s) (u) (slot) (f) : KeepsOut s0 (execTqnt u slot f s) := by
  unfold execTqnt
  try dsimp only
  repeat' (first
    | with_reducible assumption | with_reducible apply State.issue_keeps | with_reducible apply State.viewTiles_keeps
    | with_reducible apply State.onHank_keeps | with_reducible apply State.touchTile_keeps
    | with_reducible apply State.retire_keeps | with_reducible apply State.tileWrite_keeps | with_reducible apply next_keeps
    | with_reducible apply ok_keeps | with_reducible exact error_keeps _ | (with_reducible apply bind_keeps; intro _ _)
    | with_reducible intro _ | split)

theorem execTcvtDq_keeps {s0 s : State} (hs : Keeps s0 s) (u) (slot) (f) : KeepsOut s0 (execTcvtDq u slot f s) := by
  unfold execTcvtDq
  try dsimp only
  repeat' (first
    | with_reducible assumption | with_reducible apply State.issue_keeps | with_reducible apply State.viewTiles_keeps
    | with_reducible apply State.retire_keeps | with_reducible apply State.tileWrite_keeps | with_reducible apply next_keeps
    | with_reducible apply ok_keeps | with_reducible exact error_keeps _ | (with_reducible apply bind_keeps; intro _ _)
    | with_reducible intro _ | split)

theorem execTcvt_keeps {s0 s : State} (hs : Keeps s0 s) (u) (slot) (f) : KeepsOut s0 (execTcvt u slot f s) := by
  unfold execTcvt
  try dsimp only
  repeat' (first
    | with_reducible assumption | with_reducible apply State.issue_keeps | with_reducible apply State.viewTiles_keeps
    | with_reducible apply State.retire_keeps | with_reducible apply State.tileWrite_keeps | with_reducible apply next_keeps
    | with_reducible apply ok_keeps | with_reducible exact error_keeps _ | (with_reducible apply bind_keeps; intro _ _)
    | with_reducible intro _ | split)

theorem execTstat_keeps {s0 s : State} (hs : Keeps s0 s) (u) (slot) (f) : KeepsOut s0 (execTstat u slot f s) := by
  unfold execTstat
  try dsimp only
  repeat' (first
    | with_reducible assumption | with_reducible apply State.issue_keeps | with_reducible apply State.retire_keeps
    | with_reducible apply next_keeps | with_reducible apply ok_keeps | with_reducible exact error_keeps _
    | (with_reducible apply bind_keeps; intro _ _) | with_reducible intro _ | split)

end Sys2Proof.Machine
end

