-- ==== Sys2Proof/Laws/State.lean ====
section
/-! SUPPORT. Reading a field of the state after an update of a numbered part: the part itself where its index is read, everything
else as before. -/

namespace Sys2Proof.Machine

open Sys2Proof

/-! ### modUnit -/

theorem State.modUnit_unit (s : State) (i j : Nat) (f) (h : Tbl.wf {} s.units = true) :
    (s.modUnit i f).unit j = if j = i then f (s.unit i) else s.unit j := Tbl.get_upd _ _ _ _ _ h

@[simp] theorem State.modUnit_now (s : State) (i : Nat) (f) : (s.modUnit i f).now = s.now := rfl
@[simp] theorem State.modUnit_pending (s : State) (i : Nat) (f) : (s.modUnit i f).pending = s.pending := rfl
@[simp] theorem State.modUnit_frm (s : State) (i : Nat) (f) : (s.modUnit i f).frm = s.frm := rfl
@[simp] theorem State.modUnit_frt (s : State) (i : Nat) (f) : (s.modUnit i f).frt = s.frt := rfl
@[simp] theorem State.modUnit_fea (s : State) (i : Nat) (f) : (s.modUnit i f).fea = s.fea := rfl
@[simp] theorem State.modUnit_err (s : State) (i : Nat) (f) : (s.modUnit i f).err = s.err := rfl
@[simp] theorem State.modUnit_lhr (s : State) (i : Nat) (f) : (s.modUnit i f).lhr = s.lhr := rfl
@[simp] theorem State.modUnit_boot (s : State) (i : Nat) (f) : (s.modUnit i f).boot = s.boot := rfl
@[simp] theorem State.modUnit_fuses (s : State) (i : Nat) (f) : (s.modUnit i f).fuses = s.fuses := rfl
@[simp] theorem State.modUnit_flash (s : State) (i : Nat) (f) : (s.modUnit i f).flash = s.flash := rfl
@[simp] theorem State.modUnit_mbx0 (s : State) (i : Nat) (f) : (s.modUnit i f).mbx0 = s.mbx0 := rfl
@[simp] theorem State.modUnit_mbx1 (s : State) (i : Nat) (f) : (s.modUnit i f).mbx1 = s.mbx1 := rfl
@[simp] theorem State.modUnit_mgmt (s : State) (i : Nat) (f) : (s.modUnit i f).mgmt = s.mgmt := rfl
@[simp] theorem State.modUnit_hpt (s : State) (i : Nat) (f) : (s.modUnit i f).hpt = s.hpt := rfl
@[simp] theorem State.modUnit_hws (s : State) (i : Nat) (f) : (s.modUnit i f).hws = s.hws := rfl
@[simp] theorem State.modUnit_bends (s : State) (i : Nat) (f) : (s.modUnit i f).bends = s.bends := rfl
@[simp] theorem State.modUnit_jobAddr (s : State) (i : Nat) (f) : (s.modUnit i f).jobAddr = s.jobAddr := rfl
@[simp] theorem State.modUnit_jobEn (s : State) (i : Nat) (f) : (s.modUnit i f).jobEn = s.jobEn := rfl
@[simp] theorem State.modUnit_dlk (s : State) (i : Nat) (f) : (s.modUnit i f).dlk = s.dlk := rfl
@[simp] theorem State.modUnit_ncc (s : State) (i : Nat) (f) : (s.modUnit i f).ncc = s.ncc := rfl
@[simp] theorem State.modUnit_pins (s : State) (i : Nat) (f) : (s.modUnit i f).pins = s.pins := rfl
@[simp] theorem State.modUnit_queues (s : State) (i : Nat) (f) : (s.modUnit i f).queues = s.queues := rfl
@[simp] theorem State.modUnit_cmds (s : State) (i : Nat) (f) : (s.modUnit i f).cmds = s.cmds := rfl
@[simp] theorem State.modUnit_nextCmd (s : State) (i : Nat) (f) : (s.modUnit i f).nextCmd = s.nextCmd := rfl
@[simp] theorem State.modUnit_nextQueue (s : State) (i : Nat) (f) : (s.modUnit i f).nextQueue = s.nextQueue := rfl
@[simp] theorem State.modUnit_lastUnit (s : State) (i : Nat) (f) : (s.modUnit i f).lastUnit = s.lastUnit := rfl
@[simp] theorem State.modUnit_dma (s : State) (i : Nat) (f) : (s.modUnit i f).dma = s.dma := rfl
@[simp] theorem State.modUnit_clusters (s : State) (i : Nat) (f) : (s.modUnit i f).clusters = s.clusters := rfl
@[simp] theorem State.modUnit_xlt (s : State) (i : Nat) (f) : (s.modUnit i f).xlt = s.xlt := rfl
@[simp] theorem State.modUnit_agents (s : State) (i : Nat) (f) : (s.modUnit i f).agents = s.agents := rfl
@[simp] theorem State.modUnit_slices (s : State) (i : Nat) (f) : (s.modUnit i f).slices = s.slices := rfl
@[simp] theorem State.modUnit_coh (s : State) (i : Nat) (f) : (s.modUnit i f).coh = s.coh := rfl
@[simp] theorem State.modUnit_hbm (s : State) (i : Nat) (f) : (s.modUnit i f).hbm = s.hbm := rfl
@[simp] theorem State.modUnit_mem (s : State) (i : Nat) (f) : (s.modUnit i f).mem = s.mem := rfl
@[simp] theorem State.modUnit_memPoison (s : State) (i : Nat) (f) : (s.modUnit i f).memPoison = s.memPoison := rfl
@[simp] theorem State.modUnit_scratch (s : State) (i : Nat) (f) : (s.modUnit i f).scratch = s.scratch := rfl
@[simp] theorem State.modUnit_scratchPoison (s : State) (i : Nat) (f) : (s.modUnit i f).scratchPoison = s.scratchPoison := rfl
@[simp] theorem State.modUnit_net (s : State) (i : Nat) (f) : (s.modUnit i f).net = s.net := rfl
@[simp] theorem State.modUnit_depart (s : State) (i : Nat) (f) : (s.modUnit i f).depart = s.depart := rfl
@[simp] theorem State.modUnit_stuck (s : State) (i : Nat) (f) : (s.modUnit i f).stuck = s.stuck := rfl
@[simp] theorem State.modUnit_free (s : State) (i : Nat) (f) : (s.modUnit i f).free = s.free := rfl
@[simp] theorem State.modUnit_cluster_at (s : State) (i j : Nat) (f) : (s.modUnit i f).cluster j = s.cluster j := rfl
@[simp] theorem State.modUnit_agent_at (s : State) (i j : Nat) (f) : (s.modUnit i f).agent j = s.agent j := rfl
@[simp] theorem State.modUnit_slice_at (s : State) (i j : Nat) (f) : (s.modUnit i f).slice j = s.slice j := rfl
@[simp] theorem State.modUnit_stack_at (s : State) (i j : Nat) (f) : (s.modUnit i f).stack j = s.stack j := rfl
@[simp] theorem State.modUnit_queue_at (s : State) (i j : Nat) (f) : (s.modUnit i f).queue j = s.queue j := rfl
@[simp] theorem State.modUnit_dmaEng_at (s : State) (i j : Nat) (f) : (s.modUnit i f).dmaEng j = s.dmaEng j := rfl
@[simp] theorem State.modUnit_bend_at (s : State) (i j : Nat) (f) : (s.modUnit i f).bend j = s.bend j := rfl
@[simp] theorem State.modUnit_bundle_at (s : State) (i j : Nat) (f) : (s.modUnit i f).bundle j = s.bundle j := rfl
@[simp] theorem State.modUnit_port_at (s : State) (i j : Nat) (f) : (s.modUnit i f).port j = s.port j := rfl
@[simp] theorem State.modUnit_peer_at (s : State) (i j : Nat) (f) : (s.modUnit i f).peer j = s.peer j := rfl
@[simp] theorem State.modUnit_dom_at (s : State) (i j : Nat) (f) : (s.modUnit i f).dom j = s.dom j := rfl
@[simp] theorem State.modUnit_die_at (s : State) (i j : Nat) (f) : (s.modUnit i f).die j = s.die j := rfl
@[simp] theorem State.modUnit_hart_at (s : State) (i j : Nat) (f) : (s.modUnit i f).hart j = s.hart j := rfl
@[simp] theorem State.modUnit_kwait_at (s : State) (i j : Nat) (f) : (s.modUnit i f).kwait j = s.kwait j := rfl

/-! ### modCluster -/

theorem State.modCluster_cluster (s : State) (i j : Nat) (f) (h : Tbl.wf {} s.clusters = true) :
    (s.modCluster i f).cluster j = if j = i then f (s.cluster i) else s.cluster j := Tbl.get_upd _ _ _ _ _ h

@[simp] theorem State.modCluster_now (s : State) (i : Nat) (f) : (s.modCluster i f).now = s.now := rfl
@[simp] theorem State.modCluster_pending (s : State) (i : Nat) (f) : (s.modCluster i f).pending = s.pending := rfl
@[simp] theorem State.modCluster_frm (s : State) (i : Nat) (f) : (s.modCluster i f).frm = s.frm := rfl
@[simp] theorem State.modCluster_frt (s : State) (i : Nat) (f) : (s.modCluster i f).frt = s.frt := rfl
@[simp] theorem State.modCluster_fea (s : State) (i : Nat) (f) : (s.modCluster i f).fea = s.fea := rfl
@[simp] theorem State.modCluster_err (s : State) (i : Nat) (f) : (s.modCluster i f).err = s.err := rfl
@[simp] theorem State.modCluster_lhr (s : State) (i : Nat) (f) : (s.modCluster i f).lhr = s.lhr := rfl
@[simp] theorem State.modCluster_boot (s : State) (i : Nat) (f) : (s.modCluster i f).boot = s.boot := rfl
@[simp] theorem State.modCluster_fuses (s : State) (i : Nat) (f) : (s.modCluster i f).fuses = s.fuses := rfl
@[simp] theorem State.modCluster_flash (s : State) (i : Nat) (f) : (s.modCluster i f).flash = s.flash := rfl
@[simp] theorem State.modCluster_mbx0 (s : State) (i : Nat) (f) : (s.modCluster i f).mbx0 = s.mbx0 := rfl
@[simp] theorem State.modCluster_mbx1 (s : State) (i : Nat) (f) : (s.modCluster i f).mbx1 = s.mbx1 := rfl
@[simp] theorem State.modCluster_mgmt (s : State) (i : Nat) (f) : (s.modCluster i f).mgmt = s.mgmt := rfl
@[simp] theorem State.modCluster_hpt (s : State) (i : Nat) (f) : (s.modCluster i f).hpt = s.hpt := rfl
@[simp] theorem State.modCluster_hws (s : State) (i : Nat) (f) : (s.modCluster i f).hws = s.hws := rfl
@[simp] theorem State.modCluster_bends (s : State) (i : Nat) (f) : (s.modCluster i f).bends = s.bends := rfl
@[simp] theorem State.modCluster_jobAddr (s : State) (i : Nat) (f) : (s.modCluster i f).jobAddr = s.jobAddr := rfl
@[simp] theorem State.modCluster_jobEn (s : State) (i : Nat) (f) : (s.modCluster i f).jobEn = s.jobEn := rfl
@[simp] theorem State.modCluster_dlk (s : State) (i : Nat) (f) : (s.modCluster i f).dlk = s.dlk := rfl
@[simp] theorem State.modCluster_ncc (s : State) (i : Nat) (f) : (s.modCluster i f).ncc = s.ncc := rfl
@[simp] theorem State.modCluster_pins (s : State) (i : Nat) (f) : (s.modCluster i f).pins = s.pins := rfl
@[simp] theorem State.modCluster_queues (s : State) (i : Nat) (f) : (s.modCluster i f).queues = s.queues := rfl
@[simp] theorem State.modCluster_cmds (s : State) (i : Nat) (f) : (s.modCluster i f).cmds = s.cmds := rfl
@[simp] theorem State.modCluster_nextCmd (s : State) (i : Nat) (f) : (s.modCluster i f).nextCmd = s.nextCmd := rfl
@[simp] theorem State.modCluster_nextQueue (s : State) (i : Nat) (f) : (s.modCluster i f).nextQueue = s.nextQueue := rfl
@[simp] theorem State.modCluster_lastUnit (s : State) (i : Nat) (f) : (s.modCluster i f).lastUnit = s.lastUnit := rfl
@[simp] theorem State.modCluster_dma (s : State) (i : Nat) (f) : (s.modCluster i f).dma = s.dma := rfl
@[simp] theorem State.modCluster_units (s : State) (i : Nat) (f) : (s.modCluster i f).units = s.units := rfl
@[simp] theorem State.modCluster_xlt (s : State) (i : Nat) (f) : (s.modCluster i f).xlt = s.xlt := rfl
@[simp] theorem State.modCluster_agents (s : State) (i : Nat) (f) : (s.modCluster i f).agents = s.agents := rfl
@[simp] theorem State.modCluster_slices (s : State) (i : Nat) (f) : (s.modCluster i f).slices = s.slices := rfl
@[simp] theorem State.modCluster_coh (s : State) (i : Nat) (f) : (s.modCluster i f).coh = s.coh := rfl
@[simp] theorem State.modCluster_hbm (s : State) (i : Nat) (f) : (s.modCluster i f).hbm = s.hbm := rfl
@[simp] theorem State.modCluster_mem (s : State) (i : Nat) (f) : (s.modCluster i f).mem = s.mem := rfl
@[simp] theorem State.modCluster_memPoison (s : State) (i : Nat) (f) : (s.modCluster i f).memPoison = s.memPoison := rfl
@[simp] theorem State.modCluster_scratch (s : State) (i : Nat) (f) : (s.modCluster i f).scratch = s.scratch := rfl
@[simp] theorem State.modCluster_scratchPoison (s : State) (i : Nat) (f) : (s.modCluster i f).scratchPoison = s.scratchPoison := rfl
@[simp] theorem State.modCluster_net (s : State) (i : Nat) (f) : (s.modCluster i f).net = s.net := rfl
@[simp] theorem State.modCluster_depart (s : State) (i : Nat) (f) : (s.modCluster i f).depart = s.depart := rfl
@[simp] theorem State.modCluster_stuck (s : State) (i : Nat) (f) : (s.modCluster i f).stuck = s.stuck := rfl
@[simp] theorem State.modCluster_free (s : State) (i : Nat) (f) : (s.modCluster i f).free = s.free := rfl
@[simp] theorem State.modCluster_unit_at (s : State) (i j : Nat) (f) : (s.modCluster i f).unit j = s.unit j := rfl
@[simp] theorem State.modCluster_agent_at (s : State) (i j : Nat) (f) : (s.modCluster i f).agent j = s.agent j := rfl
@[simp] theorem State.modCluster_slice_at (s : State) (i j : Nat) (f) : (s.modCluster i f).slice j = s.slice j := rfl
@[simp] theorem State.modCluster_stack_at (s : State) (i j : Nat) (f) : (s.modCluster i f).stack j = s.stack j := rfl
@[simp] theorem State.modCluster_queue_at (s : State) (i j : Nat) (f) : (s.modCluster i f).queue j = s.queue j := rfl
@[simp] theorem State.modCluster_dmaEng_at (s : State) (i j : Nat) (f) : (s.modCluster i f).dmaEng j = s.dmaEng j := rfl
@[simp] theorem State.modCluster_bend_at (s : State) (i j : Nat) (f) : (s.modCluster i f).bend j = s.bend j := rfl
@[simp] theorem State.modCluster_bundle_at (s : State) (i j : Nat) (f) : (s.modCluster i f).bundle j = s.bundle j := rfl
@[simp] theorem State.modCluster_port_at (s : State) (i j : Nat) (f) : (s.modCluster i f).port j = s.port j := rfl
@[simp] theorem State.modCluster_peer_at (s : State) (i j : Nat) (f) : (s.modCluster i f).peer j = s.peer j := rfl
@[simp] theorem State.modCluster_dom_at (s : State) (i j : Nat) (f) : (s.modCluster i f).dom j = s.dom j := rfl
@[simp] theorem State.modCluster_die_at (s : State) (i j : Nat) (f) : (s.modCluster i f).die j = s.die j := rfl
@[simp] theorem State.modCluster_hart_at (s : State) (i j : Nat) (f) : (s.modCluster i f).hart j = s.hart j := rfl
@[simp] theorem State.modCluster_kwait_at (s : State) (i j : Nat) (f) : (s.modCluster i f).kwait j = s.kwait j := rfl

/-! ### modAgent -/

theorem State.modAgent_agent (s : State) (i j : Nat) (f) (h : Tbl.wf {} s.agents = true) :
    (s.modAgent i f).agent j = if j = i then f (s.agent i) else s.agent j := Tbl.get_upd _ _ _ _ _ h

@[simp] theorem State.modAgent_now (s : State) (i : Nat) (f) : (s.modAgent i f).now = s.now := rfl
@[simp] theorem State.modAgent_pending (s : State) (i : Nat) (f) : (s.modAgent i f).pending = s.pending := rfl
@[simp] theorem State.modAgent_frm (s : State) (i : Nat) (f) : (s.modAgent i f).frm = s.frm := rfl
@[simp] theorem State.modAgent_frt (s : State) (i : Nat) (f) : (s.modAgent i f).frt = s.frt := rfl
@[simp] theorem State.modAgent_fea (s : State) (i : Nat) (f) : (s.modAgent i f).fea = s.fea := rfl
@[simp] theorem State.modAgent_err (s : State) (i : Nat) (f) : (s.modAgent i f).err = s.err := rfl
@[simp] theorem State.modAgent_lhr (s : State) (i : Nat) (f) : (s.modAgent i f).lhr = s.lhr := rfl
@[simp] theorem State.modAgent_boot (s : State) (i : Nat) (f) : (s.modAgent i f).boot = s.boot := rfl
@[simp] theorem State.modAgent_fuses (s : State) (i : Nat) (f) : (s.modAgent i f).fuses = s.fuses := rfl
@[simp] theorem State.modAgent_flash (s : State) (i : Nat) (f) : (s.modAgent i f).flash = s.flash := rfl
@[simp] theorem State.modAgent_mbx0 (s : State) (i : Nat) (f) : (s.modAgent i f).mbx0 = s.mbx0 := rfl
@[simp] theorem State.modAgent_mbx1 (s : State) (i : Nat) (f) : (s.modAgent i f).mbx1 = s.mbx1 := rfl
@[simp] theorem State.modAgent_mgmt (s : State) (i : Nat) (f) : (s.modAgent i f).mgmt = s.mgmt := rfl
@[simp] theorem State.modAgent_hpt (s : State) (i : Nat) (f) : (s.modAgent i f).hpt = s.hpt := rfl
@[simp] theorem State.modAgent_hws (s : State) (i : Nat) (f) : (s.modAgent i f).hws = s.hws := rfl
@[simp] theorem State.modAgent_bends (s : State) (i : Nat) (f) : (s.modAgent i f).bends = s.bends := rfl
@[simp] theorem State.modAgent_jobAddr (s : State) (i : Nat) (f) : (s.modAgent i f).jobAddr = s.jobAddr := rfl
@[simp] theorem State.modAgent_jobEn (s : State) (i : Nat) (f) : (s.modAgent i f).jobEn = s.jobEn := rfl
@[simp] theorem State.modAgent_dlk (s : State) (i : Nat) (f) : (s.modAgent i f).dlk = s.dlk := rfl
@[simp] theorem State.modAgent_ncc (s : State) (i : Nat) (f) : (s.modAgent i f).ncc = s.ncc := rfl
@[simp] theorem State.modAgent_pins (s : State) (i : Nat) (f) : (s.modAgent i f).pins = s.pins := rfl
@[simp] theorem State.modAgent_queues (s : State) (i : Nat) (f) : (s.modAgent i f).queues = s.queues := rfl
@[simp] theorem State.modAgent_cmds (s : State) (i : Nat) (f) : (s.modAgent i f).cmds = s.cmds := rfl
@[simp] theorem State.modAgent_nextCmd (s : State) (i : Nat) (f) : (s.modAgent i f).nextCmd = s.nextCmd := rfl
@[simp] theorem State.modAgent_nextQueue (s : State) (i : Nat) (f) : (s.modAgent i f).nextQueue = s.nextQueue := rfl
@[simp] theorem State.modAgent_lastUnit (s : State) (i : Nat) (f) : (s.modAgent i f).lastUnit = s.lastUnit := rfl
@[simp] theorem State.modAgent_dma (s : State) (i : Nat) (f) : (s.modAgent i f).dma = s.dma := rfl
@[simp] theorem State.modAgent_units (s : State) (i : Nat) (f) : (s.modAgent i f).units = s.units := rfl
@[simp] theorem State.modAgent_clusters (s : State) (i : Nat) (f) : (s.modAgent i f).clusters = s.clusters := rfl
@[simp] theorem State.modAgent_xlt (s : State) (i : Nat) (f) : (s.modAgent i f).xlt = s.xlt := rfl
@[simp] theorem State.modAgent_slices (s : State) (i : Nat) (f) : (s.modAgent i f).slices = s.slices := rfl
@[simp] theorem State.modAgent_coh (s : State) (i : Nat) (f) : (s.modAgent i f).coh = s.coh := rfl
@[simp] theorem State.modAgent_hbm (s : State) (i : Nat) (f) : (s.modAgent i f).hbm = s.hbm := rfl
@[simp] theorem State.modAgent_mem (s : State) (i : Nat) (f) : (s.modAgent i f).mem = s.mem := rfl
@[simp] theorem State.modAgent_memPoison (s : State) (i : Nat) (f) : (s.modAgent i f).memPoison = s.memPoison := rfl
@[simp] theorem State.modAgent_scratch (s : State) (i : Nat) (f) : (s.modAgent i f).scratch = s.scratch := rfl
@[simp] theorem State.modAgent_scratchPoison (s : State) (i : Nat) (f) : (s.modAgent i f).scratchPoison = s.scratchPoison := rfl
@[simp] theorem State.modAgent_net (s : State) (i : Nat) (f) : (s.modAgent i f).net = s.net := rfl
@[simp] theorem State.modAgent_depart (s : State) (i : Nat) (f) : (s.modAgent i f).depart = s.depart := rfl
@[simp] theorem State.modAgent_stuck (s : State) (i : Nat) (f) : (s.modAgent i f).stuck = s.stuck := rfl
@[simp] theorem State.modAgent_free (s : State) (i : Nat) (f) : (s.modAgent i f).free = s.free := rfl
@[simp] theorem State.modAgent_unit_at (s : State) (i j : Nat) (f) : (s.modAgent i f).unit j = s.unit j := rfl
@[simp] theorem State.modAgent_cluster_at (s : State) (i j : Nat) (f) : (s.modAgent i f).cluster j = s.cluster j := rfl
@[simp] theorem State.modAgent_slice_at (s : State) (i j : Nat) (f) : (s.modAgent i f).slice j = s.slice j := rfl
@[simp] theorem State.modAgent_stack_at (s : State) (i j : Nat) (f) : (s.modAgent i f).stack j = s.stack j := rfl
@[simp] theorem State.modAgent_queue_at (s : State) (i j : Nat) (f) : (s.modAgent i f).queue j = s.queue j := rfl
@[simp] theorem State.modAgent_dmaEng_at (s : State) (i j : Nat) (f) : (s.modAgent i f).dmaEng j = s.dmaEng j := rfl
@[simp] theorem State.modAgent_bend_at (s : State) (i j : Nat) (f) : (s.modAgent i f).bend j = s.bend j := rfl
@[simp] theorem State.modAgent_bundle_at (s : State) (i j : Nat) (f) : (s.modAgent i f).bundle j = s.bundle j := rfl
@[simp] theorem State.modAgent_port_at (s : State) (i j : Nat) (f) : (s.modAgent i f).port j = s.port j := rfl
@[simp] theorem State.modAgent_peer_at (s : State) (i j : Nat) (f) : (s.modAgent i f).peer j = s.peer j := rfl
@[simp] theorem State.modAgent_dom_at (s : State) (i j : Nat) (f) : (s.modAgent i f).dom j = s.dom j := rfl
@[simp] theorem State.modAgent_die_at (s : State) (i j : Nat) (f) : (s.modAgent i f).die j = s.die j := rfl
@[simp] theorem State.modAgent_hart_at (s : State) (i j : Nat) (f) : (s.modAgent i f).hart j = s.hart j := rfl
@[simp] theorem State.modAgent_kwait_at (s : State) (i j : Nat) (f) : (s.modAgent i f).kwait j = s.kwait j := rfl

/-! ### modSlice -/

theorem State.modSlice_slice (s : State) (i j : Nat) (f) (h : Tbl.wf {} s.slices = true) :
    (s.modSlice i f).slice j = if j = i then f (s.slice i) else s.slice j := Tbl.get_upd _ _ _ _ _ h

@[simp] theorem State.modSlice_now (s : State) (i : Nat) (f) : (s.modSlice i f).now = s.now := rfl
@[simp] theorem State.modSlice_pending (s : State) (i : Nat) (f) : (s.modSlice i f).pending = s.pending := rfl
@[simp] theorem State.modSlice_frm (s : State) (i : Nat) (f) : (s.modSlice i f).frm = s.frm := rfl
@[simp] theorem State.modSlice_frt (s : State) (i : Nat) (f) : (s.modSlice i f).frt = s.frt := rfl
@[simp] theorem State.modSlice_fea (s : State) (i : Nat) (f) : (s.modSlice i f).fea = s.fea := rfl
@[simp] theorem State.modSlice_err (s : State) (i : Nat) (f) : (s.modSlice i f).err = s.err := rfl
@[simp] theorem State.modSlice_lhr (s : State) (i : Nat) (f) : (s.modSlice i f).lhr = s.lhr := rfl
@[simp] theorem State.modSlice_boot (s : State) (i : Nat) (f) : (s.modSlice i f).boot = s.boot := rfl
@[simp] theorem State.modSlice_fuses (s : State) (i : Nat) (f) : (s.modSlice i f).fuses = s.fuses := rfl
@[simp] theorem State.modSlice_flash (s : State) (i : Nat) (f) : (s.modSlice i f).flash = s.flash := rfl
@[simp] theorem State.modSlice_mbx0 (s : State) (i : Nat) (f) : (s.modSlice i f).mbx0 = s.mbx0 := rfl
@[simp] theorem State.modSlice_mbx1 (s : State) (i : Nat) (f) : (s.modSlice i f).mbx1 = s.mbx1 := rfl
@[simp] theorem State.modSlice_mgmt (s : State) (i : Nat) (f) : (s.modSlice i f).mgmt = s.mgmt := rfl
@[simp] theorem State.modSlice_hpt (s : State) (i : Nat) (f) : (s.modSlice i f).hpt = s.hpt := rfl
@[simp] theorem State.modSlice_hws (s : State) (i : Nat) (f) : (s.modSlice i f).hws = s.hws := rfl
@[simp] theorem State.modSlice_bends (s : State) (i : Nat) (f) : (s.modSlice i f).bends = s.bends := rfl
@[simp] theorem State.modSlice_jobAddr (s : State) (i : Nat) (f) : (s.modSlice i f).jobAddr = s.jobAddr := rfl
@[simp] theorem State.modSlice_jobEn (s : State) (i : Nat) (f) : (s.modSlice i f).jobEn = s.jobEn := rfl
@[simp] theorem State.modSlice_dlk (s : State) (i : Nat) (f) : (s.modSlice i f).dlk = s.dlk := rfl
@[simp] theorem State.modSlice_ncc (s : State) (i : Nat) (f) : (s.modSlice i f).ncc = s.ncc := rfl
@[simp] theorem State.modSlice_pins (s : State) (i : Nat) (f) : (s.modSlice i f).pins = s.pins := rfl
@[simp] theorem State.modSlice_queues (s : State) (i : Nat) (f) : (s.modSlice i f).queues = s.queues := rfl
@[simp] theorem State.modSlice_cmds (s : State) (i : Nat) (f) : (s.modSlice i f).cmds = s.cmds := rfl
@[simp] theorem State.modSlice_nextCmd (s : State) (i : Nat) (f) : (s.modSlice i f).nextCmd = s.nextCmd := rfl
@[simp] theorem State.modSlice_nextQueue (s : State) (i : Nat) (f) : (s.modSlice i f).nextQueue = s.nextQueue := rfl
@[simp] theorem State.modSlice_lastUnit (s : State) (i : Nat) (f) : (s.modSlice i f).lastUnit = s.lastUnit := rfl
@[simp] theorem State.modSlice_dma (s : State) (i : Nat) (f) : (s.modSlice i f).dma = s.dma := rfl
@[simp] theorem State.modSlice_units (s : State) (i : Nat) (f) : (s.modSlice i f).units = s.units := rfl
@[simp] theorem State.modSlice_clusters (s : State) (i : Nat) (f) : (s.modSlice i f).clusters = s.clusters := rfl
@[simp] theorem State.modSlice_xlt (s : State) (i : Nat) (f) : (s.modSlice i f).xlt = s.xlt := rfl
@[simp] theorem State.modSlice_agents (s : State) (i : Nat) (f) : (s.modSlice i f).agents = s.agents := rfl
@[simp] theorem State.modSlice_coh (s : State) (i : Nat) (f) : (s.modSlice i f).coh = s.coh := rfl
@[simp] theorem State.modSlice_hbm (s : State) (i : Nat) (f) : (s.modSlice i f).hbm = s.hbm := rfl
@[simp] theorem State.modSlice_mem (s : State) (i : Nat) (f) : (s.modSlice i f).mem = s.mem := rfl
@[simp] theorem State.modSlice_memPoison (s : State) (i : Nat) (f) : (s.modSlice i f).memPoison = s.memPoison := rfl
@[simp] theorem State.modSlice_scratch (s : State) (i : Nat) (f) : (s.modSlice i f).scratch = s.scratch := rfl
@[simp] theorem State.modSlice_scratchPoison (s : State) (i : Nat) (f) : (s.modSlice i f).scratchPoison = s.scratchPoison := rfl
@[simp] theorem State.modSlice_net (s : State) (i : Nat) (f) : (s.modSlice i f).net = s.net := rfl
@[simp] theorem State.modSlice_depart (s : State) (i : Nat) (f) : (s.modSlice i f).depart = s.depart := rfl
@[simp] theorem State.modSlice_stuck (s : State) (i : Nat) (f) : (s.modSlice i f).stuck = s.stuck := rfl
@[simp] theorem State.modSlice_free (s : State) (i : Nat) (f) : (s.modSlice i f).free = s.free := rfl
@[simp] theorem State.modSlice_unit_at (s : State) (i j : Nat) (f) : (s.modSlice i f).unit j = s.unit j := rfl
@[simp] theorem State.modSlice_cluster_at (s : State) (i j : Nat) (f) : (s.modSlice i f).cluster j = s.cluster j := rfl
@[simp] theorem State.modSlice_agent_at (s : State) (i j : Nat) (f) : (s.modSlice i f).agent j = s.agent j := rfl
@[simp] theorem State.modSlice_stack_at (s : State) (i j : Nat) (f) : (s.modSlice i f).stack j = s.stack j := rfl
@[simp] theorem State.modSlice_queue_at (s : State) (i j : Nat) (f) : (s.modSlice i f).queue j = s.queue j := rfl
@[simp] theorem State.modSlice_dmaEng_at (s : State) (i j : Nat) (f) : (s.modSlice i f).dmaEng j = s.dmaEng j := rfl
@[simp] theorem State.modSlice_bend_at (s : State) (i j : Nat) (f) : (s.modSlice i f).bend j = s.bend j := rfl
@[simp] theorem State.modSlice_bundle_at (s : State) (i j : Nat) (f) : (s.modSlice i f).bundle j = s.bundle j := rfl
@[simp] theorem State.modSlice_port_at (s : State) (i j : Nat) (f) : (s.modSlice i f).port j = s.port j := rfl
@[simp] theorem State.modSlice_peer_at (s : State) (i j : Nat) (f) : (s.modSlice i f).peer j = s.peer j := rfl
@[simp] theorem State.modSlice_dom_at (s : State) (i j : Nat) (f) : (s.modSlice i f).dom j = s.dom j := rfl
@[simp] theorem State.modSlice_die_at (s : State) (i j : Nat) (f) : (s.modSlice i f).die j = s.die j := rfl
@[simp] theorem State.modSlice_hart_at (s : State) (i j : Nat) (f) : (s.modSlice i f).hart j = s.hart j := rfl
@[simp] theorem State.modSlice_kwait_at (s : State) (i j : Nat) (f) : (s.modSlice i f).kwait j = s.kwait j := rfl

/-! ### modStack -/

theorem State.modStack_stack (s : State) (i j : Nat) (f) (h : Tbl.wf {} s.hbm = true) :
    (s.modStack i f).stack j = if j = i then f (s.stack i) else s.stack j := Tbl.get_upd _ _ _ _ _ h

@[simp] theorem State.modStack_now (s : State) (i : Nat) (f) : (s.modStack i f).now = s.now := rfl
@[simp] theorem State.modStack_pending (s : State) (i : Nat) (f) : (s.modStack i f).pending = s.pending := rfl
@[simp] theorem State.modStack_frm (s : State) (i : Nat) (f) : (s.modStack i f).frm = s.frm := rfl
@[simp] theorem State.modStack_frt (s : State) (i : Nat) (f) : (s.modStack i f).frt = s.frt := rfl
@[simp] theorem State.modStack_fea (s : State) (i : Nat) (f) : (s.modStack i f).fea = s.fea := rfl
@[simp] theorem State.modStack_err (s : State) (i : Nat) (f) : (s.modStack i f).err = s.err := rfl
@[simp] theorem State.modStack_lhr (s : State) (i : Nat) (f) : (s.modStack i f).lhr = s.lhr := rfl
@[simp] theorem State.modStack_boot (s : State) (i : Nat) (f) : (s.modStack i f).boot = s.boot := rfl
@[simp] theorem State.modStack_fuses (s : State) (i : Nat) (f) : (s.modStack i f).fuses = s.fuses := rfl
@[simp] theorem State.modStack_flash (s : State) (i : Nat) (f) : (s.modStack i f).flash = s.flash := rfl
@[simp] theorem State.modStack_mbx0 (s : State) (i : Nat) (f) : (s.modStack i f).mbx0 = s.mbx0 := rfl
@[simp] theorem State.modStack_mbx1 (s : State) (i : Nat) (f) : (s.modStack i f).mbx1 = s.mbx1 := rfl
@[simp] theorem State.modStack_mgmt (s : State) (i : Nat) (f) : (s.modStack i f).mgmt = s.mgmt := rfl
@[simp] theorem State.modStack_hpt (s : State) (i : Nat) (f) : (s.modStack i f).hpt = s.hpt := rfl
@[simp] theorem State.modStack_hws (s : State) (i : Nat) (f) : (s.modStack i f).hws = s.hws := rfl
@[simp] theorem State.modStack_bends (s : State) (i : Nat) (f) : (s.modStack i f).bends = s.bends := rfl
@[simp] theorem State.modStack_jobAddr (s : State) (i : Nat) (f) : (s.modStack i f).jobAddr = s.jobAddr := rfl
@[simp] theorem State.modStack_jobEn (s : State) (i : Nat) (f) : (s.modStack i f).jobEn = s.jobEn := rfl
@[simp] theorem State.modStack_dlk (s : State) (i : Nat) (f) : (s.modStack i f).dlk = s.dlk := rfl
@[simp] theorem State.modStack_ncc (s : State) (i : Nat) (f) : (s.modStack i f).ncc = s.ncc := rfl
@[simp] theorem State.modStack_pins (s : State) (i : Nat) (f) : (s.modStack i f).pins = s.pins := rfl
@[simp] theorem State.modStack_queues (s : State) (i : Nat) (f) : (s.modStack i f).queues = s.queues := rfl
@[simp] theorem State.modStack_cmds (s : State) (i : Nat) (f) : (s.modStack i f).cmds = s.cmds := rfl
@[simp] theorem State.modStack_nextCmd (s : State) (i : Nat) (f) : (s.modStack i f).nextCmd = s.nextCmd := rfl
@[simp] theorem State.modStack_nextQueue (s : State) (i : Nat) (f) : (s.modStack i f).nextQueue = s.nextQueue := rfl
@[simp] theorem State.modStack_lastUnit (s : State) (i : Nat) (f) : (s.modStack i f).lastUnit = s.lastUnit := rfl
@[simp] theorem State.modStack_dma (s : State) (i : Nat) (f) : (s.modStack i f).dma = s.dma := rfl
@[simp] theorem State.modStack_units (s : State) (i : Nat) (f) : (s.modStack i f).units = s.units := rfl
@[simp] theorem State.modStack_clusters (s : State) (i : Nat) (f) : (s.modStack i f).clusters = s.clusters := rfl
@[simp] theorem State.modStack_xlt (s : State) (i : Nat) (f) : (s.modStack i f).xlt = s.xlt := rfl
@[simp] theorem State.modStack_agents (s : State) (i : Nat) (f) : (s.modStack i f).agents = s.agents := rfl
@[simp] theorem State.modStack_slices (s : State) (i : Nat) (f) : (s.modStack i f).slices = s.slices := rfl
@[simp] theorem State.modStack_coh (s : State) (i : Nat) (f) : (s.modStack i f).coh = s.coh := rfl
@[simp] theorem State.modStack_mem (s : State) (i : Nat) (f) : (s.modStack i f).mem = s.mem := rfl
@[simp] theorem State.modStack_memPoison (s : State) (i : Nat) (f) : (s.modStack i f).memPoison = s.memPoison := rfl
@[simp] theorem State.modStack_scratch (s : State) (i : Nat) (f) : (s.modStack i f).scratch = s.scratch := rfl
@[simp] theorem State.modStack_scratchPoison (s : State) (i : Nat) (f) : (s.modStack i f).scratchPoison = s.scratchPoison := rfl
@[simp] theorem State.modStack_net (s : State) (i : Nat) (f) : (s.modStack i f).net = s.net := rfl
@[simp] theorem State.modStack_depart (s : State) (i : Nat) (f) : (s.modStack i f).depart = s.depart := rfl
@[simp] theorem State.modStack_stuck (s : State) (i : Nat) (f) : (s.modStack i f).stuck = s.stuck := rfl
@[simp] theorem State.modStack_free (s : State) (i : Nat) (f) : (s.modStack i f).free = s.free := rfl
@[simp] theorem State.modStack_unit_at (s : State) (i j : Nat) (f) : (s.modStack i f).unit j = s.unit j := rfl
@[simp] theorem State.modStack_cluster_at (s : State) (i j : Nat) (f) : (s.modStack i f).cluster j = s.cluster j := rfl
@[simp] theorem State.modStack_agent_at (s : State) (i j : Nat) (f) : (s.modStack i f).agent j = s.agent j := rfl
@[simp] theorem State.modStack_slice_at (s : State) (i j : Nat) (f) : (s.modStack i f).slice j = s.slice j := rfl
@[simp] theorem State.modStack_queue_at (s : State) (i j : Nat) (f) : (s.modStack i f).queue j = s.queue j := rfl
@[simp] theorem State.modStack_dmaEng_at (s : State) (i j : Nat) (f) : (s.modStack i f).dmaEng j = s.dmaEng j := rfl
@[simp] theorem State.modStack_bend_at (s : State) (i j : Nat) (f) : (s.modStack i f).bend j = s.bend j := rfl
@[simp] theorem State.modStack_bundle_at (s : State) (i j : Nat) (f) : (s.modStack i f).bundle j = s.bundle j := rfl
@[simp] theorem State.modStack_port_at (s : State) (i j : Nat) (f) : (s.modStack i f).port j = s.port j := rfl
@[simp] theorem State.modStack_peer_at (s : State) (i j : Nat) (f) : (s.modStack i f).peer j = s.peer j := rfl
@[simp] theorem State.modStack_dom_at (s : State) (i j : Nat) (f) : (s.modStack i f).dom j = s.dom j := rfl
@[simp] theorem State.modStack_die_at (s : State) (i j : Nat) (f) : (s.modStack i f).die j = s.die j := rfl
@[simp] theorem State.modStack_hart_at (s : State) (i j : Nat) (f) : (s.modStack i f).hart j = s.hart j := rfl
@[simp] theorem State.modStack_kwait_at (s : State) (i j : Nat) (f) : (s.modStack i f).kwait j = s.kwait j := rfl

/-! ### modQueue -/

theorem State.modQueue_queue (s : State) (i j : Nat) (f) (h : Tbl.wf {} s.queues = true) :
    (s.modQueue i f).queue j = if j = i then f (s.queue i) else s.queue j := Tbl.get_upd _ _ _ _ _ h

@[simp] theorem State.modQueue_now (s : State) (i : Nat) (f) : (s.modQueue i f).now = s.now := rfl
@[simp] theorem State.modQueue_pending (s : State) (i : Nat) (f) : (s.modQueue i f).pending = s.pending := rfl
@[simp] theorem State.modQueue_frm (s : State) (i : Nat) (f) : (s.modQueue i f).frm = s.frm := rfl
@[simp] theorem State.modQueue_frt (s : State) (i : Nat) (f) : (s.modQueue i f).frt = s.frt := rfl
@[simp] theorem State.modQueue_fea (s : State) (i : Nat) (f) : (s.modQueue i f).fea = s.fea := rfl
@[simp] theorem State.modQueue_err (s : State) (i : Nat) (f) : (s.modQueue i f).err = s.err := rfl
@[simp] theorem State.modQueue_lhr (s : State) (i : Nat) (f) : (s.modQueue i f).lhr = s.lhr := rfl
@[simp] theorem State.modQueue_boot (s : State) (i : Nat) (f) : (s.modQueue i f).boot = s.boot := rfl
@[simp] theorem State.modQueue_fuses (s : State) (i : Nat) (f) : (s.modQueue i f).fuses = s.fuses := rfl
@[simp] theorem State.modQueue_flash (s : State) (i : Nat) (f) : (s.modQueue i f).flash = s.flash := rfl
@[simp] theorem State.modQueue_mbx0 (s : State) (i : Nat) (f) : (s.modQueue i f).mbx0 = s.mbx0 := rfl
@[simp] theorem State.modQueue_mbx1 (s : State) (i : Nat) (f) : (s.modQueue i f).mbx1 = s.mbx1 := rfl
@[simp] theorem State.modQueue_mgmt (s : State) (i : Nat) (f) : (s.modQueue i f).mgmt = s.mgmt := rfl
@[simp] theorem State.modQueue_hpt (s : State) (i : Nat) (f) : (s.modQueue i f).hpt = s.hpt := rfl
@[simp] theorem State.modQueue_hws (s : State) (i : Nat) (f) : (s.modQueue i f).hws = s.hws := rfl
@[simp] theorem State.modQueue_bends (s : State) (i : Nat) (f) : (s.modQueue i f).bends = s.bends := rfl
@[simp] theorem State.modQueue_jobAddr (s : State) (i : Nat) (f) : (s.modQueue i f).jobAddr = s.jobAddr := rfl
@[simp] theorem State.modQueue_jobEn (s : State) (i : Nat) (f) : (s.modQueue i f).jobEn = s.jobEn := rfl
@[simp] theorem State.modQueue_dlk (s : State) (i : Nat) (f) : (s.modQueue i f).dlk = s.dlk := rfl
@[simp] theorem State.modQueue_ncc (s : State) (i : Nat) (f) : (s.modQueue i f).ncc = s.ncc := rfl
@[simp] theorem State.modQueue_pins (s : State) (i : Nat) (f) : (s.modQueue i f).pins = s.pins := rfl
@[simp] theorem State.modQueue_cmds (s : State) (i : Nat) (f) : (s.modQueue i f).cmds = s.cmds := rfl
@[simp] theorem State.modQueue_nextCmd (s : State) (i : Nat) (f) : (s.modQueue i f).nextCmd = s.nextCmd := rfl
@[simp] theorem State.modQueue_nextQueue (s : State) (i : Nat) (f) : (s.modQueue i f).nextQueue = s.nextQueue := rfl
@[simp] theorem State.modQueue_lastUnit (s : State) (i : Nat) (f) : (s.modQueue i f).lastUnit = s.lastUnit := rfl
@[simp] theorem State.modQueue_dma (s : State) (i : Nat) (f) : (s.modQueue i f).dma = s.dma := rfl
@[simp] theorem State.modQueue_units (s : State) (i : Nat) (f) : (s.modQueue i f).units = s.units := rfl
@[simp] theorem State.modQueue_clusters (s : State) (i : Nat) (f) : (s.modQueue i f).clusters = s.clusters := rfl
@[simp] theorem State.modQueue_xlt (s : State) (i : Nat) (f) : (s.modQueue i f).xlt = s.xlt := rfl
@[simp] theorem State.modQueue_agents (s : State) (i : Nat) (f) : (s.modQueue i f).agents = s.agents := rfl
@[simp] theorem State.modQueue_slices (s : State) (i : Nat) (f) : (s.modQueue i f).slices = s.slices := rfl
@[simp] theorem State.modQueue_coh (s : State) (i : Nat) (f) : (s.modQueue i f).coh = s.coh := rfl
@[simp] theorem State.modQueue_hbm (s : State) (i : Nat) (f) : (s.modQueue i f).hbm = s.hbm := rfl
@[simp] theorem State.modQueue_mem (s : State) (i : Nat) (f) : (s.modQueue i f).mem = s.mem := rfl
@[simp] theorem State.modQueue_memPoison (s : State) (i : Nat) (f) : (s.modQueue i f).memPoison = s.memPoison := rfl
@[simp] theorem State.modQueue_scratch (s : State) (i : Nat) (f) : (s.modQueue i f).scratch = s.scratch := rfl
@[simp] theorem State.modQueue_scratchPoison (s : State) (i : Nat) (f) : (s.modQueue i f).scratchPoison = s.scratchPoison := rfl
@[simp] theorem State.modQueue_net (s : State) (i : Nat) (f) : (s.modQueue i f).net = s.net := rfl
@[simp] theorem State.modQueue_depart (s : State) (i : Nat) (f) : (s.modQueue i f).depart = s.depart := rfl
@[simp] theorem State.modQueue_stuck (s : State) (i : Nat) (f) : (s.modQueue i f).stuck = s.stuck := rfl
@[simp] theorem State.modQueue_free (s : State) (i : Nat) (f) : (s.modQueue i f).free = s.free := rfl
@[simp] theorem State.modQueue_unit_at (s : State) (i j : Nat) (f) : (s.modQueue i f).unit j = s.unit j := rfl
@[simp] theorem State.modQueue_cluster_at (s : State) (i j : Nat) (f) : (s.modQueue i f).cluster j = s.cluster j := rfl
@[simp] theorem State.modQueue_agent_at (s : State) (i j : Nat) (f) : (s.modQueue i f).agent j = s.agent j := rfl
@[simp] theorem State.modQueue_slice_at (s : State) (i j : Nat) (f) : (s.modQueue i f).slice j = s.slice j := rfl
@[simp] theorem State.modQueue_stack_at (s : State) (i j : Nat) (f) : (s.modQueue i f).stack j = s.stack j := rfl
@[simp] theorem State.modQueue_dmaEng_at (s : State) (i j : Nat) (f) : (s.modQueue i f).dmaEng j = s.dmaEng j := rfl
@[simp] theorem State.modQueue_bend_at (s : State) (i j : Nat) (f) : (s.modQueue i f).bend j = s.bend j := rfl
@[simp] theorem State.modQueue_bundle_at (s : State) (i j : Nat) (f) : (s.modQueue i f).bundle j = s.bundle j := rfl
@[simp] theorem State.modQueue_port_at (s : State) (i j : Nat) (f) : (s.modQueue i f).port j = s.port j := rfl
@[simp] theorem State.modQueue_peer_at (s : State) (i j : Nat) (f) : (s.modQueue i f).peer j = s.peer j := rfl
@[simp] theorem State.modQueue_dom_at (s : State) (i j : Nat) (f) : (s.modQueue i f).dom j = s.dom j := rfl
@[simp] theorem State.modQueue_die_at (s : State) (i j : Nat) (f) : (s.modQueue i f).die j = s.die j := rfl
@[simp] theorem State.modQueue_hart_at (s : State) (i j : Nat) (f) : (s.modQueue i f).hart j = s.hart j := rfl
@[simp] theorem State.modQueue_kwait_at (s : State) (i j : Nat) (f) : (s.modQueue i f).kwait j = s.kwait j := rfl

/-! ### modDma -/

theorem State.modDma_dmaEng (s : State) (i j : Nat) (f) (h : Tbl.wf {} s.dma = true) :
    (s.modDma i f).dmaEng j = if j = i then f (s.dmaEng i) else s.dmaEng j := Tbl.get_upd _ _ _ _ _ h

@[simp] theorem State.modDma_now (s : State) (i : Nat) (f) : (s.modDma i f).now = s.now := rfl
@[simp] theorem State.modDma_pending (s : State) (i : Nat) (f) : (s.modDma i f).pending = s.pending := rfl
@[simp] theorem State.modDma_frm (s : State) (i : Nat) (f) : (s.modDma i f).frm = s.frm := rfl
@[simp] theorem State.modDma_frt (s : State) (i : Nat) (f) : (s.modDma i f).frt = s.frt := rfl
@[simp] theorem State.modDma_fea (s : State) (i : Nat) (f) : (s.modDma i f).fea = s.fea := rfl
@[simp] theorem State.modDma_err (s : State) (i : Nat) (f) : (s.modDma i f).err = s.err := rfl
@[simp] theorem State.modDma_lhr (s : State) (i : Nat) (f) : (s.modDma i f).lhr = s.lhr := rfl
@[simp] theorem State.modDma_boot (s : State) (i : Nat) (f) : (s.modDma i f).boot = s.boot := rfl
@[simp] theorem State.modDma_fuses (s : State) (i : Nat) (f) : (s.modDma i f).fuses = s.fuses := rfl
@[simp] theorem State.modDma_flash (s : State) (i : Nat) (f) : (s.modDma i f).flash = s.flash := rfl
@[simp] theorem State.modDma_mbx0 (s : State) (i : Nat) (f) : (s.modDma i f).mbx0 = s.mbx0 := rfl
@[simp] theorem State.modDma_mbx1 (s : State) (i : Nat) (f) : (s.modDma i f).mbx1 = s.mbx1 := rfl
@[simp] theorem State.modDma_mgmt (s : State) (i : Nat) (f) : (s.modDma i f).mgmt = s.mgmt := rfl
@[simp] theorem State.modDma_hpt (s : State) (i : Nat) (f) : (s.modDma i f).hpt = s.hpt := rfl
@[simp] theorem State.modDma_hws (s : State) (i : Nat) (f) : (s.modDma i f).hws = s.hws := rfl
@[simp] theorem State.modDma_bends (s : State) (i : Nat) (f) : (s.modDma i f).bends = s.bends := rfl
@[simp] theorem State.modDma_jobAddr (s : State) (i : Nat) (f) : (s.modDma i f).jobAddr = s.jobAddr := rfl
@[simp] theorem State.modDma_jobEn (s : State) (i : Nat) (f) : (s.modDma i f).jobEn = s.jobEn := rfl
@[simp] theorem State.modDma_dlk (s : State) (i : Nat) (f) : (s.modDma i f).dlk = s.dlk := rfl
@[simp] theorem State.modDma_ncc (s : State) (i : Nat) (f) : (s.modDma i f).ncc = s.ncc := rfl
@[simp] theorem State.modDma_pins (s : State) (i : Nat) (f) : (s.modDma i f).pins = s.pins := rfl
@[simp] theorem State.modDma_queues (s : State) (i : Nat) (f) : (s.modDma i f).queues = s.queues := rfl
@[simp] theorem State.modDma_cmds (s : State) (i : Nat) (f) : (s.modDma i f).cmds = s.cmds := rfl
@[simp] theorem State.modDma_nextCmd (s : State) (i : Nat) (f) : (s.modDma i f).nextCmd = s.nextCmd := rfl
@[simp] theorem State.modDma_nextQueue (s : State) (i : Nat) (f) : (s.modDma i f).nextQueue = s.nextQueue := rfl
@[simp] theorem State.modDma_lastUnit (s : State) (i : Nat) (f) : (s.modDma i f).lastUnit = s.lastUnit := rfl
@[simp] theorem State.modDma_units (s : State) (i : Nat) (f) : (s.modDma i f).units = s.units := rfl
@[simp] theorem State.modDma_clusters (s : State) (i : Nat) (f) : (s.modDma i f).clusters = s.clusters := rfl
@[simp] theorem State.modDma_xlt (s : State) (i : Nat) (f) : (s.modDma i f).xlt = s.xlt := rfl
@[simp] theorem State.modDma_agents (s : State) (i : Nat) (f) : (s.modDma i f).agents = s.agents := rfl
@[simp] theorem State.modDma_slices (s : State) (i : Nat) (f) : (s.modDma i f).slices = s.slices := rfl
@[simp] theorem State.modDma_coh (s : State) (i : Nat) (f) : (s.modDma i f).coh = s.coh := rfl
@[simp] theorem State.modDma_hbm (s : State) (i : Nat) (f) : (s.modDma i f).hbm = s.hbm := rfl
@[simp] theorem State.modDma_mem (s : State) (i : Nat) (f) : (s.modDma i f).mem = s.mem := rfl
@[simp] theorem State.modDma_memPoison (s : State) (i : Nat) (f) : (s.modDma i f).memPoison = s.memPoison := rfl
@[simp] theorem State.modDma_scratch (s : State) (i : Nat) (f) : (s.modDma i f).scratch = s.scratch := rfl
@[simp] theorem State.modDma_scratchPoison (s : State) (i : Nat) (f) : (s.modDma i f).scratchPoison = s.scratchPoison := rfl
@[simp] theorem State.modDma_net (s : State) (i : Nat) (f) : (s.modDma i f).net = s.net := rfl
@[simp] theorem State.modDma_depart (s : State) (i : Nat) (f) : (s.modDma i f).depart = s.depart := rfl
@[simp] theorem State.modDma_stuck (s : State) (i : Nat) (f) : (s.modDma i f).stuck = s.stuck := rfl
@[simp] theorem State.modDma_free (s : State) (i : Nat) (f) : (s.modDma i f).free = s.free := rfl
@[simp] theorem State.modDma_unit_at (s : State) (i j : Nat) (f) : (s.modDma i f).unit j = s.unit j := rfl
@[simp] theorem State.modDma_cluster_at (s : State) (i j : Nat) (f) : (s.modDma i f).cluster j = s.cluster j := rfl
@[simp] theorem State.modDma_agent_at (s : State) (i j : Nat) (f) : (s.modDma i f).agent j = s.agent j := rfl
@[simp] theorem State.modDma_slice_at (s : State) (i j : Nat) (f) : (s.modDma i f).slice j = s.slice j := rfl
@[simp] theorem State.modDma_stack_at (s : State) (i j : Nat) (f) : (s.modDma i f).stack j = s.stack j := rfl
@[simp] theorem State.modDma_queue_at (s : State) (i j : Nat) (f) : (s.modDma i f).queue j = s.queue j := rfl
@[simp] theorem State.modDma_bend_at (s : State) (i j : Nat) (f) : (s.modDma i f).bend j = s.bend j := rfl
@[simp] theorem State.modDma_bundle_at (s : State) (i j : Nat) (f) : (s.modDma i f).bundle j = s.bundle j := rfl
@[simp] theorem State.modDma_port_at (s : State) (i j : Nat) (f) : (s.modDma i f).port j = s.port j := rfl
@[simp] theorem State.modDma_peer_at (s : State) (i j : Nat) (f) : (s.modDma i f).peer j = s.peer j := rfl
@[simp] theorem State.modDma_dom_at (s : State) (i j : Nat) (f) : (s.modDma i f).dom j = s.dom j := rfl
@[simp] theorem State.modDma_die_at (s : State) (i j : Nat) (f) : (s.modDma i f).die j = s.die j := rfl
@[simp] theorem State.modDma_hart_at (s : State) (i j : Nat) (f) : (s.modDma i f).hart j = s.hart j := rfl
@[simp] theorem State.modDma_kwait_at (s : State) (i j : Nat) (f) : (s.modDma i f).kwait j = s.kwait j := rfl

/-! ### modBend -/

theorem State.modBend_bend (s : State) (i j : Nat) (f) (h : Tbl.wf {} s.bends = true) :
    (s.modBend i f).bend j = if j = i then f (s.bend i) else s.bend j := Tbl.get_upd _ _ _ _ _ h

@[simp] theorem State.modBend_now (s : State) (i : Nat) (f) : (s.modBend i f).now = s.now := rfl
@[simp] theorem State.modBend_pending (s : State) (i : Nat) (f) : (s.modBend i f).pending = s.pending := rfl
@[simp] theorem State.modBend_frm (s : State) (i : Nat) (f) : (s.modBend i f).frm = s.frm := rfl
@[simp] theorem State.modBend_frt (s : State) (i : Nat) (f) : (s.modBend i f).frt = s.frt := rfl
@[simp] theorem State.modBend_fea (s : State) (i : Nat) (f) : (s.modBend i f).fea = s.fea := rfl
@[simp] theorem State.modBend_err (s : State) (i : Nat) (f) : (s.modBend i f).err = s.err := rfl
@[simp] theorem State.modBend_lhr (s : State) (i : Nat) (f) : (s.modBend i f).lhr = s.lhr := rfl
@[simp] theorem State.modBend_boot (s : State) (i : Nat) (f) : (s.modBend i f).boot = s.boot := rfl
@[simp] theorem State.modBend_fuses (s : State) (i : Nat) (f) : (s.modBend i f).fuses = s.fuses := rfl
@[simp] theorem State.modBend_flash (s : State) (i : Nat) (f) : (s.modBend i f).flash = s.flash := rfl
@[simp] theorem State.modBend_mbx0 (s : State) (i : Nat) (f) : (s.modBend i f).mbx0 = s.mbx0 := rfl
@[simp] theorem State.modBend_mbx1 (s : State) (i : Nat) (f) : (s.modBend i f).mbx1 = s.mbx1 := rfl
@[simp] theorem State.modBend_mgmt (s : State) (i : Nat) (f) : (s.modBend i f).mgmt = s.mgmt := rfl
@[simp] theorem State.modBend_hpt (s : State) (i : Nat) (f) : (s.modBend i f).hpt = s.hpt := rfl
@[simp] theorem State.modBend_hws (s : State) (i : Nat) (f) : (s.modBend i f).hws = s.hws := rfl
@[simp] theorem State.modBend_jobAddr (s : State) (i : Nat) (f) : (s.modBend i f).jobAddr = s.jobAddr := rfl
@[simp] theorem State.modBend_jobEn (s : State) (i : Nat) (f) : (s.modBend i f).jobEn = s.jobEn := rfl
@[simp] theorem State.modBend_dlk (s : State) (i : Nat) (f) : (s.modBend i f).dlk = s.dlk := rfl
@[simp] theorem State.modBend_ncc (s : State) (i : Nat) (f) : (s.modBend i f).ncc = s.ncc := rfl
@[simp] theorem State.modBend_pins (s : State) (i : Nat) (f) : (s.modBend i f).pins = s.pins := rfl
@[simp] theorem State.modBend_queues (s : State) (i : Nat) (f) : (s.modBend i f).queues = s.queues := rfl
@[simp] theorem State.modBend_cmds (s : State) (i : Nat) (f) : (s.modBend i f).cmds = s.cmds := rfl
@[simp] theorem State.modBend_nextCmd (s : State) (i : Nat) (f) : (s.modBend i f).nextCmd = s.nextCmd := rfl
@[simp] theorem State.modBend_nextQueue (s : State) (i : Nat) (f) : (s.modBend i f).nextQueue = s.nextQueue := rfl
@[simp] theorem State.modBend_lastUnit (s : State) (i : Nat) (f) : (s.modBend i f).lastUnit = s.lastUnit := rfl
@[simp] theorem State.modBend_dma (s : State) (i : Nat) (f) : (s.modBend i f).dma = s.dma := rfl
@[simp] theorem State.modBend_units (s : State) (i : Nat) (f) : (s.modBend i f).units = s.units := rfl
@[simp] theorem State.modBend_clusters (s : State) (i : Nat) (f) : (s.modBend i f).clusters = s.clusters := rfl
@[simp] theorem State.modBend_xlt (s : State) (i : Nat) (f) : (s.modBend i f).xlt = s.xlt := rfl
@[simp] theorem State.modBend_agents (s : State) (i : Nat) (f) : (s.modBend i f).agents = s.agents := rfl
@[simp] theorem State.modBend_slices (s : State) (i : Nat) (f) : (s.modBend i f).slices = s.slices := rfl
@[simp] theorem State.modBend_coh (s : State) (i : Nat) (f) : (s.modBend i f).coh = s.coh := rfl
@[simp] theorem State.modBend_hbm (s : State) (i : Nat) (f) : (s.modBend i f).hbm = s.hbm := rfl
@[simp] theorem State.modBend_mem (s : State) (i : Nat) (f) : (s.modBend i f).mem = s.mem := rfl
@[simp] theorem State.modBend_memPoison (s : State) (i : Nat) (f) : (s.modBend i f).memPoison = s.memPoison := rfl
@[simp] theorem State.modBend_scratch (s : State) (i : Nat) (f) : (s.modBend i f).scratch = s.scratch := rfl
@[simp] theorem State.modBend_scratchPoison (s : State) (i : Nat) (f) : (s.modBend i f).scratchPoison = s.scratchPoison := rfl
@[simp] theorem State.modBend_net (s : State) (i : Nat) (f) : (s.modBend i f).net = s.net := rfl
@[simp] theorem State.modBend_depart (s : State) (i : Nat) (f) : (s.modBend i f).depart = s.depart := rfl
@[simp] theorem State.modBend_stuck (s : State) (i : Nat) (f) : (s.modBend i f).stuck = s.stuck := rfl
@[simp] theorem State.modBend_free (s : State) (i : Nat) (f) : (s.modBend i f).free = s.free := rfl
@[simp] theorem State.modBend_unit_at (s : State) (i j : Nat) (f) : (s.modBend i f).unit j = s.unit j := rfl
@[simp] theorem State.modBend_cluster_at (s : State) (i j : Nat) (f) : (s.modBend i f).cluster j = s.cluster j := rfl
@[simp] theorem State.modBend_agent_at (s : State) (i j : Nat) (f) : (s.modBend i f).agent j = s.agent j := rfl
@[simp] theorem State.modBend_slice_at (s : State) (i j : Nat) (f) : (s.modBend i f).slice j = s.slice j := rfl
@[simp] theorem State.modBend_stack_at (s : State) (i j : Nat) (f) : (s.modBend i f).stack j = s.stack j := rfl
@[simp] theorem State.modBend_queue_at (s : State) (i j : Nat) (f) : (s.modBend i f).queue j = s.queue j := rfl
@[simp] theorem State.modBend_dmaEng_at (s : State) (i j : Nat) (f) : (s.modBend i f).dmaEng j = s.dmaEng j := rfl
@[simp] theorem State.modBend_bundle_at (s : State) (i j : Nat) (f) : (s.modBend i f).bundle j = s.bundle j := rfl
@[simp] theorem State.modBend_port_at (s : State) (i j : Nat) (f) : (s.modBend i f).port j = s.port j := rfl
@[simp] theorem State.modBend_peer_at (s : State) (i j : Nat) (f) : (s.modBend i f).peer j = s.peer j := rfl
@[simp] theorem State.modBend_dom_at (s : State) (i j : Nat) (f) : (s.modBend i f).dom j = s.dom j := rfl
@[simp] theorem State.modBend_die_at (s : State) (i j : Nat) (f) : (s.modBend i f).die j = s.die j := rfl
@[simp] theorem State.modBend_hart_at (s : State) (i j : Nat) (f) : (s.modBend i f).hart j = s.hart j := rfl
@[simp] theorem State.modBend_kwait_at (s : State) (i j : Nat) (f) : (s.modBend i f).kwait j = s.kwait j := rfl

/-! ### modBundle -/

theorem State.modBundle_bundle (s : State) (i j : Nat) (f) (h : Tbl.wf {} s.dlk = true) :
    (s.modBundle i f).bundle j = if j = i then f (s.bundle i) else s.bundle j := Tbl.get_upd _ _ _ _ _ h

@[simp] theorem State.modBundle_now (s : State) (i : Nat) (f) : (s.modBundle i f).now = s.now := rfl
@[simp] theorem State.modBundle_pending (s : State) (i : Nat) (f) : (s.modBundle i f).pending = s.pending := rfl
@[simp] theorem State.modBundle_frm (s : State) (i : Nat) (f) : (s.modBundle i f).frm = s.frm := rfl
@[simp] theorem State.modBundle_frt (s : State) (i : Nat) (f) : (s.modBundle i f).frt = s.frt := rfl
@[simp] theorem State.modBundle_fea (s : State) (i : Nat) (f) : (s.modBundle i f).fea = s.fea := rfl
@[simp] theorem State.modBundle_err (s : State) (i : Nat) (f) : (s.modBundle i f).err = s.err := rfl
@[simp] theorem State.modBundle_lhr (s : State) (i : Nat) (f) : (s.modBundle i f).lhr = s.lhr := rfl
@[simp] theorem State.modBundle_boot (s : State) (i : Nat) (f) : (s.modBundle i f).boot = s.boot := rfl
@[simp] theorem State.modBundle_fuses (s : State) (i : Nat) (f) : (s.modBundle i f).fuses = s.fuses := rfl
@[simp] theorem State.modBundle_flash (s : State) (i : Nat) (f) : (s.modBundle i f).flash = s.flash := rfl
@[simp] theorem State.modBundle_mbx0 (s : State) (i : Nat) (f) : (s.modBundle i f).mbx0 = s.mbx0 := rfl
@[simp] theorem State.modBundle_mbx1 (s : State) (i : Nat) (f) : (s.modBundle i f).mbx1 = s.mbx1 := rfl
@[simp] theorem State.modBundle_mgmt (s : State) (i : Nat) (f) : (s.modBundle i f).mgmt = s.mgmt := rfl
@[simp] theorem State.modBundle_hpt (s : State) (i : Nat) (f) : (s.modBundle i f).hpt = s.hpt := rfl
@[simp] theorem State.modBundle_hws (s : State) (i : Nat) (f) : (s.modBundle i f).hws = s.hws := rfl
@[simp] theorem State.modBundle_bends (s : State) (i : Nat) (f) : (s.modBundle i f).bends = s.bends := rfl
@[simp] theorem State.modBundle_jobAddr (s : State) (i : Nat) (f) : (s.modBundle i f).jobAddr = s.jobAddr := rfl
@[simp] theorem State.modBundle_jobEn (s : State) (i : Nat) (f) : (s.modBundle i f).jobEn = s.jobEn := rfl
@[simp] theorem State.modBundle_ncc (s : State) (i : Nat) (f) : (s.modBundle i f).ncc = s.ncc := rfl
@[simp] theorem State.modBundle_pins (s : State) (i : Nat) (f) : (s.modBundle i f).pins = s.pins := rfl
@[simp] theorem State.modBundle_queues (s : State) (i : Nat) (f) : (s.modBundle i f).queues = s.queues := rfl
@[simp] theorem State.modBundle_cmds (s : State) (i : Nat) (f) : (s.modBundle i f).cmds = s.cmds := rfl
@[simp] theorem State.modBundle_nextCmd (s : State) (i : Nat) (f) : (s.modBundle i f).nextCmd = s.nextCmd := rfl
@[simp] theorem State.modBundle_nextQueue (s : State) (i : Nat) (f) : (s.modBundle i f).nextQueue = s.nextQueue := rfl
@[simp] theorem State.modBundle_lastUnit (s : State) (i : Nat) (f) : (s.modBundle i f).lastUnit = s.lastUnit := rfl
@[simp] theorem State.modBundle_dma (s : State) (i : Nat) (f) : (s.modBundle i f).dma = s.dma := rfl
@[simp] theorem State.modBundle_units (s : State) (i : Nat) (f) : (s.modBundle i f).units = s.units := rfl
@[simp] theorem State.modBundle_clusters (s : State) (i : Nat) (f) : (s.modBundle i f).clusters = s.clusters := rfl
@[simp] theorem State.modBundle_xlt (s : State) (i : Nat) (f) : (s.modBundle i f).xlt = s.xlt := rfl
@[simp] theorem State.modBundle_agents (s : State) (i : Nat) (f) : (s.modBundle i f).agents = s.agents := rfl
@[simp] theorem State.modBundle_slices (s : State) (i : Nat) (f) : (s.modBundle i f).slices = s.slices := rfl
@[simp] theorem State.modBundle_coh (s : State) (i : Nat) (f) : (s.modBundle i f).coh = s.coh := rfl
@[simp] theorem State.modBundle_hbm (s : State) (i : Nat) (f) : (s.modBundle i f).hbm = s.hbm := rfl
@[simp] theorem State.modBundle_mem (s : State) (i : Nat) (f) : (s.modBundle i f).mem = s.mem := rfl
@[simp] theorem State.modBundle_memPoison (s : State) (i : Nat) (f) : (s.modBundle i f).memPoison = s.memPoison := rfl
@[simp] theorem State.modBundle_scratch (s : State) (i : Nat) (f) : (s.modBundle i f).scratch = s.scratch := rfl
@[simp] theorem State.modBundle_scratchPoison (s : State) (i : Nat) (f) : (s.modBundle i f).scratchPoison = s.scratchPoison := rfl
@[simp] theorem State.modBundle_net (s : State) (i : Nat) (f) : (s.modBundle i f).net = s.net := rfl
@[simp] theorem State.modBundle_depart (s : State) (i : Nat) (f) : (s.modBundle i f).depart = s.depart := rfl
@[simp] theorem State.modBundle_stuck (s : State) (i : Nat) (f) : (s.modBundle i f).stuck = s.stuck := rfl
@[simp] theorem State.modBundle_free (s : State) (i : Nat) (f) : (s.modBundle i f).free = s.free := rfl
@[simp] theorem State.modBundle_unit_at (s : State) (i j : Nat) (f) : (s.modBundle i f).unit j = s.unit j := rfl
@[simp] theorem State.modBundle_cluster_at (s : State) (i j : Nat) (f) : (s.modBundle i f).cluster j = s.cluster j := rfl
@[simp] theorem State.modBundle_agent_at (s : State) (i j : Nat) (f) : (s.modBundle i f).agent j = s.agent j := rfl
@[simp] theorem State.modBundle_slice_at (s : State) (i j : Nat) (f) : (s.modBundle i f).slice j = s.slice j := rfl
@[simp] theorem State.modBundle_stack_at (s : State) (i j : Nat) (f) : (s.modBundle i f).stack j = s.stack j := rfl
@[simp] theorem State.modBundle_queue_at (s : State) (i j : Nat) (f) : (s.modBundle i f).queue j = s.queue j := rfl
@[simp] theorem State.modBundle_dmaEng_at (s : State) (i j : Nat) (f) : (s.modBundle i f).dmaEng j = s.dmaEng j := rfl
@[simp] theorem State.modBundle_bend_at (s : State) (i j : Nat) (f) : (s.modBundle i f).bend j = s.bend j := rfl
@[simp] theorem State.modBundle_port_at (s : State) (i j : Nat) (f) : (s.modBundle i f).port j = s.port j := rfl
@[simp] theorem State.modBundle_peer_at (s : State) (i j : Nat) (f) : (s.modBundle i f).peer j = s.peer j := rfl
@[simp] theorem State.modBundle_dom_at (s : State) (i j : Nat) (f) : (s.modBundle i f).dom j = s.dom j := rfl
@[simp] theorem State.modBundle_die_at (s : State) (i j : Nat) (f) : (s.modBundle i f).die j = s.die j := rfl
@[simp] theorem State.modBundle_hart_at (s : State) (i j : Nat) (f) : (s.modBundle i f).hart j = s.hart j := rfl
@[simp] theorem State.modBundle_kwait_at (s : State) (i j : Nat) (f) : (s.modBundle i f).kwait j = s.kwait j := rfl

/-! ### modPort -/

theorem State.modPort_port (s : State) (i j : Nat) (f) (h : Tbl.wf {} s.hws.ports = true) :
    (s.modPort i f).port j = if j = i then f (s.port i) else s.port j := Tbl.get_upd _ _ _ _ _ h

@[simp] theorem State.modPort_now (s : State) (i : Nat) (f) : (s.modPort i f).now = s.now := rfl
@[simp] theorem State.modPort_pending (s : State) (i : Nat) (f) : (s.modPort i f).pending = s.pending := rfl
@[simp] theorem State.modPort_frm (s : State) (i : Nat) (f) : (s.modPort i f).frm = s.frm := rfl
@[simp] theorem State.modPort_frt (s : State) (i : Nat) (f) : (s.modPort i f).frt = s.frt := rfl
@[simp] theorem State.modPort_fea (s : State) (i : Nat) (f) : (s.modPort i f).fea = s.fea := rfl
@[simp] theorem State.modPort_err (s : State) (i : Nat) (f) : (s.modPort i f).err = s.err := rfl
@[simp] theorem State.modPort_lhr (s : State) (i : Nat) (f) : (s.modPort i f).lhr = s.lhr := rfl
@[simp] theorem State.modPort_boot (s : State) (i : Nat) (f) : (s.modPort i f).boot = s.boot := rfl
@[simp] theorem State.modPort_fuses (s : State) (i : Nat) (f) : (s.modPort i f).fuses = s.fuses := rfl
@[simp] theorem State.modPort_flash (s : State) (i : Nat) (f) : (s.modPort i f).flash = s.flash := rfl
@[simp] theorem State.modPort_mbx0 (s : State) (i : Nat) (f) : (s.modPort i f).mbx0 = s.mbx0 := rfl
@[simp] theorem State.modPort_mbx1 (s : State) (i : Nat) (f) : (s.modPort i f).mbx1 = s.mbx1 := rfl
@[simp] theorem State.modPort_mgmt (s : State) (i : Nat) (f) : (s.modPort i f).mgmt = s.mgmt := rfl
@[simp] theorem State.modPort_hpt (s : State) (i : Nat) (f) : (s.modPort i f).hpt = s.hpt := rfl
@[simp] theorem State.modPort_bends (s : State) (i : Nat) (f) : (s.modPort i f).bends = s.bends := rfl
@[simp] theorem State.modPort_jobAddr (s : State) (i : Nat) (f) : (s.modPort i f).jobAddr = s.jobAddr := rfl
@[simp] theorem State.modPort_jobEn (s : State) (i : Nat) (f) : (s.modPort i f).jobEn = s.jobEn := rfl
@[simp] theorem State.modPort_dlk (s : State) (i : Nat) (f) : (s.modPort i f).dlk = s.dlk := rfl
@[simp] theorem State.modPort_ncc (s : State) (i : Nat) (f) : (s.modPort i f).ncc = s.ncc := rfl
@[simp] theorem State.modPort_pins (s : State) (i : Nat) (f) : (s.modPort i f).pins = s.pins := rfl
@[simp] theorem State.modPort_queues (s : State) (i : Nat) (f) : (s.modPort i f).queues = s.queues := rfl
@[simp] theorem State.modPort_cmds (s : State) (i : Nat) (f) : (s.modPort i f).cmds = s.cmds := rfl
@[simp] theorem State.modPort_nextCmd (s : State) (i : Nat) (f) : (s.modPort i f).nextCmd = s.nextCmd := rfl
@[simp] theorem State.modPort_nextQueue (s : State) (i : Nat) (f) : (s.modPort i f).nextQueue = s.nextQueue := rfl
@[simp] theorem State.modPort_lastUnit (s : State) (i : Nat) (f) : (s.modPort i f).lastUnit = s.lastUnit := rfl
@[simp] theorem State.modPort_dma (s : State) (i : Nat) (f) : (s.modPort i f).dma = s.dma := rfl
@[simp] theorem State.modPort_units (s : State) (i : Nat) (f) : (s.modPort i f).units = s.units := rfl
@[simp] theorem State.modPort_clusters (s : State) (i : Nat) (f) : (s.modPort i f).clusters = s.clusters := rfl
@[simp] theorem State.modPort_xlt (s : State) (i : Nat) (f) : (s.modPort i f).xlt = s.xlt := rfl
@[simp] theorem State.modPort_agents (s : State) (i : Nat) (f) : (s.modPort i f).agents = s.agents := rfl
@[simp] theorem State.modPort_slices (s : State) (i : Nat) (f) : (s.modPort i f).slices = s.slices := rfl
@[simp] theorem State.modPort_coh (s : State) (i : Nat) (f) : (s.modPort i f).coh = s.coh := rfl
@[simp] theorem State.modPort_hbm (s : State) (i : Nat) (f) : (s.modPort i f).hbm = s.hbm := rfl
@[simp] theorem State.modPort_mem (s : State) (i : Nat) (f) : (s.modPort i f).mem = s.mem := rfl
@[simp] theorem State.modPort_memPoison (s : State) (i : Nat) (f) : (s.modPort i f).memPoison = s.memPoison := rfl
@[simp] theorem State.modPort_scratch (s : State) (i : Nat) (f) : (s.modPort i f).scratch = s.scratch := rfl
@[simp] theorem State.modPort_scratchPoison (s : State) (i : Nat) (f) : (s.modPort i f).scratchPoison = s.scratchPoison := rfl
@[simp] theorem State.modPort_net (s : State) (i : Nat) (f) : (s.modPort i f).net = s.net := rfl
@[simp] theorem State.modPort_depart (s : State) (i : Nat) (f) : (s.modPort i f).depart = s.depart := rfl
@[simp] theorem State.modPort_stuck (s : State) (i : Nat) (f) : (s.modPort i f).stuck = s.stuck := rfl
@[simp] theorem State.modPort_free (s : State) (i : Nat) (f) : (s.modPort i f).free = s.free := rfl
@[simp] theorem State.modPort_unit_at (s : State) (i j : Nat) (f) : (s.modPort i f).unit j = s.unit j := rfl
@[simp] theorem State.modPort_cluster_at (s : State) (i j : Nat) (f) : (s.modPort i f).cluster j = s.cluster j := rfl
@[simp] theorem State.modPort_agent_at (s : State) (i j : Nat) (f) : (s.modPort i f).agent j = s.agent j := rfl
@[simp] theorem State.modPort_slice_at (s : State) (i j : Nat) (f) : (s.modPort i f).slice j = s.slice j := rfl
@[simp] theorem State.modPort_stack_at (s : State) (i j : Nat) (f) : (s.modPort i f).stack j = s.stack j := rfl
@[simp] theorem State.modPort_queue_at (s : State) (i j : Nat) (f) : (s.modPort i f).queue j = s.queue j := rfl
@[simp] theorem State.modPort_dmaEng_at (s : State) (i j : Nat) (f) : (s.modPort i f).dmaEng j = s.dmaEng j := rfl
@[simp] theorem State.modPort_bend_at (s : State) (i j : Nat) (f) : (s.modPort i f).bend j = s.bend j := rfl
@[simp] theorem State.modPort_bundle_at (s : State) (i j : Nat) (f) : (s.modPort i f).bundle j = s.bundle j := rfl
@[simp] theorem State.modPort_peer_at (s : State) (i j : Nat) (f) : (s.modPort i f).peer j = s.peer j := rfl
@[simp] theorem State.modPort_dom_at (s : State) (i j : Nat) (f) : (s.modPort i f).dom j = s.dom j := rfl
@[simp] theorem State.modPort_die_at (s : State) (i j : Nat) (f) : (s.modPort i f).die j = s.die j := rfl
@[simp] theorem State.modPort_hart_at (s : State) (i j : Nat) (f) : (s.modPort i f).hart j = s.hart j := rfl
@[simp] theorem State.modPort_kwait_at (s : State) (i j : Nat) (f) : (s.modPort i f).kwait j = s.kwait j := rfl

/-! ### modPeer -/

theorem State.modPeer_peer (s : State) (i j : Nat) (f) (h : Tbl.wf {} s.hws.peers = true) :
    (s.modPeer i f).peer j = if j = i then f (s.peer i) else s.peer j := Tbl.get_upd _ _ _ _ _ h

@[simp] theorem State.modPeer_now (s : State) (i : Nat) (f) : (s.modPeer i f).now = s.now := rfl
@[simp] theorem State.modPeer_pending (s : State) (i : Nat) (f) : (s.modPeer i f).pending = s.pending := rfl
@[simp] theorem State.modPeer_frm (s : State) (i : Nat) (f) : (s.modPeer i f).frm = s.frm := rfl
@[simp] theorem State.modPeer_frt (s : State) (i : Nat) (f) : (s.modPeer i f).frt = s.frt := rfl
@[simp] theorem State.modPeer_fea (s : State) (i : Nat) (f) : (s.modPeer i f).fea = s.fea := rfl
@[simp] theorem State.modPeer_err (s : State) (i : Nat) (f) : (s.modPeer i f).err = s.err := rfl
@[simp] theorem State.modPeer_lhr (s : State) (i : Nat) (f) : (s.modPeer i f).lhr = s.lhr := rfl
@[simp] theorem State.modPeer_boot (s : State) (i : Nat) (f) : (s.modPeer i f).boot = s.boot := rfl
@[simp] theorem State.modPeer_fuses (s : State) (i : Nat) (f) : (s.modPeer i f).fuses = s.fuses := rfl
@[simp] theorem State.modPeer_flash (s : State) (i : Nat) (f) : (s.modPeer i f).flash = s.flash := rfl
@[simp] theorem State.modPeer_mbx0 (s : State) (i : Nat) (f) : (s.modPeer i f).mbx0 = s.mbx0 := rfl
@[simp] theorem State.modPeer_mbx1 (s : State) (i : Nat) (f) : (s.modPeer i f).mbx1 = s.mbx1 := rfl
@[simp] theorem State.modPeer_mgmt (s : State) (i : Nat) (f) : (s.modPeer i f).mgmt = s.mgmt := rfl
@[simp] theorem State.modPeer_hpt (s : State) (i : Nat) (f) : (s.modPeer i f).hpt = s.hpt := rfl
@[simp] theorem State.modPeer_bends (s : State) (i : Nat) (f) : (s.modPeer i f).bends = s.bends := rfl
@[simp] theorem State.modPeer_jobAddr (s : State) (i : Nat) (f) : (s.modPeer i f).jobAddr = s.jobAddr := rfl
@[simp] theorem State.modPeer_jobEn (s : State) (i : Nat) (f) : (s.modPeer i f).jobEn = s.jobEn := rfl
@[simp] theorem State.modPeer_dlk (s : State) (i : Nat) (f) : (s.modPeer i f).dlk = s.dlk := rfl
@[simp] theorem State.modPeer_ncc (s : State) (i : Nat) (f) : (s.modPeer i f).ncc = s.ncc := rfl
@[simp] theorem State.modPeer_pins (s : State) (i : Nat) (f) : (s.modPeer i f).pins = s.pins := rfl
@[simp] theorem State.modPeer_queues (s : State) (i : Nat) (f) : (s.modPeer i f).queues = s.queues := rfl
@[simp] theorem State.modPeer_cmds (s : State) (i : Nat) (f) : (s.modPeer i f).cmds = s.cmds := rfl
@[simp] theorem State.modPeer_nextCmd (s : State) (i : Nat) (f) : (s.modPeer i f).nextCmd = s.nextCmd := rfl
@[simp] theorem State.modPeer_nextQueue (s : State) (i : Nat) (f) : (s.modPeer i f).nextQueue = s.nextQueue := rfl
@[simp] theorem State.modPeer_lastUnit (s : State) (i : Nat) (f) : (s.modPeer i f).lastUnit = s.lastUnit := rfl
@[simp] theorem State.modPeer_dma (s : State) (i : Nat) (f) : (s.modPeer i f).dma = s.dma := rfl
@[simp] theorem State.modPeer_units (s : State) (i : Nat) (f) : (s.modPeer i f).units = s.units := rfl
@[simp] theorem State.modPeer_clusters (s : State) (i : Nat) (f) : (s.modPeer i f).clusters = s.clusters := rfl
@[simp] theorem State.modPeer_xlt (s : State) (i : Nat) (f) : (s.modPeer i f).xlt = s.xlt := rfl
@[simp] theorem State.modPeer_agents (s : State) (i : Nat) (f) : (s.modPeer i f).agents = s.agents := rfl
@[simp] theorem State.modPeer_slices (s : State) (i : Nat) (f) : (s.modPeer i f).slices = s.slices := rfl
@[simp] theorem State.modPeer_coh (s : State) (i : Nat) (f) : (s.modPeer i f).coh = s.coh := rfl
@[simp] theorem State.modPeer_hbm (s : State) (i : Nat) (f) : (s.modPeer i f).hbm = s.hbm := rfl
@[simp] theorem State.modPeer_mem (s : State) (i : Nat) (f) : (s.modPeer i f).mem = s.mem := rfl
@[simp] theorem State.modPeer_memPoison (s : State) (i : Nat) (f) : (s.modPeer i f).memPoison = s.memPoison := rfl
@[simp] theorem State.modPeer_scratch (s : State) (i : Nat) (f) : (s.modPeer i f).scratch = s.scratch := rfl
@[simp] theorem State.modPeer_scratchPoison (s : State) (i : Nat) (f) : (s.modPeer i f).scratchPoison = s.scratchPoison := rfl
@[simp] theorem State.modPeer_net (s : State) (i : Nat) (f) : (s.modPeer i f).net = s.net := rfl
@[simp] theorem State.modPeer_depart (s : State) (i : Nat) (f) : (s.modPeer i f).depart = s.depart := rfl
@[simp] theorem State.modPeer_stuck (s : State) (i : Nat) (f) : (s.modPeer i f).stuck = s.stuck := rfl
@[simp] theorem State.modPeer_free (s : State) (i : Nat) (f) : (s.modPeer i f).free = s.free := rfl
@[simp] theorem State.modPeer_unit_at (s : State) (i j : Nat) (f) : (s.modPeer i f).unit j = s.unit j := rfl
@[simp] theorem State.modPeer_cluster_at (s : State) (i j : Nat) (f) : (s.modPeer i f).cluster j = s.cluster j := rfl
@[simp] theorem State.modPeer_agent_at (s : State) (i j : Nat) (f) : (s.modPeer i f).agent j = s.agent j := rfl
@[simp] theorem State.modPeer_slice_at (s : State) (i j : Nat) (f) : (s.modPeer i f).slice j = s.slice j := rfl
@[simp] theorem State.modPeer_stack_at (s : State) (i j : Nat) (f) : (s.modPeer i f).stack j = s.stack j := rfl
@[simp] theorem State.modPeer_queue_at (s : State) (i j : Nat) (f) : (s.modPeer i f).queue j = s.queue j := rfl
@[simp] theorem State.modPeer_dmaEng_at (s : State) (i j : Nat) (f) : (s.modPeer i f).dmaEng j = s.dmaEng j := rfl
@[simp] theorem State.modPeer_bend_at (s : State) (i j : Nat) (f) : (s.modPeer i f).bend j = s.bend j := rfl
@[simp] theorem State.modPeer_bundle_at (s : State) (i j : Nat) (f) : (s.modPeer i f).bundle j = s.bundle j := rfl
@[simp] theorem State.modPeer_port_at (s : State) (i j : Nat) (f) : (s.modPeer i f).port j = s.port j := rfl
@[simp] theorem State.modPeer_dom_at (s : State) (i j : Nat) (f) : (s.modPeer i f).dom j = s.dom j := rfl
@[simp] theorem State.modPeer_die_at (s : State) (i j : Nat) (f) : (s.modPeer i f).die j = s.die j := rfl
@[simp] theorem State.modPeer_hart_at (s : State) (i j : Nat) (f) : (s.modPeer i f).hart j = s.hart j := rfl
@[simp] theorem State.modPeer_kwait_at (s : State) (i j : Nat) (f) : (s.modPeer i f).kwait j = s.kwait j := rfl

/-! ### modDom -/

theorem State.modDom_dom (s : State) (i j : Nat) (f) (h : Tbl.wf {} s.lhr.doms = true) :
    (s.modDom i f).dom j = if j = i then f (s.dom i) else s.dom j := Tbl.get_upd _ _ _ _ _ h

@[simp] theorem State.modDom_now (s : State) (i : Nat) (f) : (s.modDom i f).now = s.now := rfl
@[simp] theorem State.modDom_pending (s : State) (i : Nat) (f) : (s.modDom i f).pending = s.pending := rfl
@[simp] theorem State.modDom_frm (s : State) (i : Nat) (f) : (s.modDom i f).frm = s.frm := rfl
@[simp] theorem State.modDom_frt (s : State) (i : Nat) (f) : (s.modDom i f).frt = s.frt := rfl
@[simp] theorem State.modDom_fea (s : State) (i : Nat) (f) : (s.modDom i f).fea = s.fea := rfl
@[simp] theorem State.modDom_err (s : State) (i : Nat) (f) : (s.modDom i f).err = s.err := rfl
@[simp] theorem State.modDom_boot (s : State) (i : Nat) (f) : (s.modDom i f).boot = s.boot := rfl
@[simp] theorem State.modDom_fuses (s : State) (i : Nat) (f) : (s.modDom i f).fuses = s.fuses := rfl
@[simp] theorem State.modDom_flash (s : State) (i : Nat) (f) : (s.modDom i f).flash = s.flash := rfl
@[simp] theorem State.modDom_mbx0 (s : State) (i : Nat) (f) : (s.modDom i f).mbx0 = s.mbx0 := rfl
@[simp] theorem State.modDom_mbx1 (s : State) (i : Nat) (f) : (s.modDom i f).mbx1 = s.mbx1 := rfl
@[simp] theorem State.modDom_mgmt (s : State) (i : Nat) (f) : (s.modDom i f).mgmt = s.mgmt := rfl
@[simp] theorem State.modDom_hpt (s : State) (i : Nat) (f) : (s.modDom i f).hpt = s.hpt := rfl
@[simp] theorem State.modDom_hws (s : State) (i : Nat) (f) : (s.modDom i f).hws = s.hws := rfl
@[simp] theorem State.modDom_bends (s : State) (i : Nat) (f) : (s.modDom i f).bends = s.bends := rfl
@[simp] theorem State.modDom_jobAddr (s : State) (i : Nat) (f) : (s.modDom i f).jobAddr = s.jobAddr := rfl
@[simp] theorem State.modDom_jobEn (s : State) (i : Nat) (f) : (s.modDom i f).jobEn = s.jobEn := rfl
@[simp] theorem State.modDom_dlk (s : State) (i : Nat) (f) : (s.modDom i f).dlk = s.dlk := rfl
@[simp] theorem State.modDom_ncc (s : State) (i : Nat) (f) : (s.modDom i f).ncc = s.ncc := rfl
@[simp] theorem State.modDom_pins (s : State) (i : Nat) (f) : (s.modDom i f).pins = s.pins := rfl
@[simp] theorem State.modDom_queues (s : State) (i : Nat) (f) : (s.modDom i f).queues = s.queues := rfl
@[simp] theorem State.modDom_cmds (s : State) (i : Nat) (f) : (s.modDom i f).cmds = s.cmds := rfl
@[simp] theorem State.modDom_nextCmd (s : State) (i : Nat) (f) : (s.modDom i f).nextCmd = s.nextCmd := rfl
@[simp] theorem State.modDom_nextQueue (s : State) (i : Nat) (f) : (s.modDom i f).nextQueue = s.nextQueue := rfl
@[simp] theorem State.modDom_lastUnit (s : State) (i : Nat) (f) : (s.modDom i f).lastUnit = s.lastUnit := rfl
@[simp] theorem State.modDom_dma (s : State) (i : Nat) (f) : (s.modDom i f).dma = s.dma := rfl
@[simp] theorem State.modDom_units (s : State) (i : Nat) (f) : (s.modDom i f).units = s.units := rfl
@[simp] theorem State.modDom_clusters (s : State) (i : Nat) (f) : (s.modDom i f).clusters = s.clusters := rfl
@[simp] theorem State.modDom_xlt (s : State) (i : Nat) (f) : (s.modDom i f).xlt = s.xlt := rfl
@[simp] theorem State.modDom_agents (s : State) (i : Nat) (f) : (s.modDom i f).agents = s.agents := rfl
@[simp] theorem State.modDom_slices (s : State) (i : Nat) (f) : (s.modDom i f).slices = s.slices := rfl
@[simp] theorem State.modDom_coh (s : State) (i : Nat) (f) : (s.modDom i f).coh = s.coh := rfl
@[simp] theorem State.modDom_hbm (s : State) (i : Nat) (f) : (s.modDom i f).hbm = s.hbm := rfl
@[simp] theorem State.modDom_mem (s : State) (i : Nat) (f) : (s.modDom i f).mem = s.mem := rfl
@[simp] theorem State.modDom_memPoison (s : State) (i : Nat) (f) : (s.modDom i f).memPoison = s.memPoison := rfl
@[simp] theorem State.modDom_scratch (s : State) (i : Nat) (f) : (s.modDom i f).scratch = s.scratch := rfl
@[simp] theorem State.modDom_scratchPoison (s : State) (i : Nat) (f) : (s.modDom i f).scratchPoison = s.scratchPoison := rfl
@[simp] theorem State.modDom_net (s : State) (i : Nat) (f) : (s.modDom i f).net = s.net := rfl
@[simp] theorem State.modDom_depart (s : State) (i : Nat) (f) : (s.modDom i f).depart = s.depart := rfl
@[simp] theorem State.modDom_stuck (s : State) (i : Nat) (f) : (s.modDom i f).stuck = s.stuck := rfl
@[simp] theorem State.modDom_free (s : State) (i : Nat) (f) : (s.modDom i f).free = s.free := rfl
@[simp] theorem State.modDom_unit_at (s : State) (i j : Nat) (f) : (s.modDom i f).unit j = s.unit j := rfl
@[simp] theorem State.modDom_cluster_at (s : State) (i j : Nat) (f) : (s.modDom i f).cluster j = s.cluster j := rfl
@[simp] theorem State.modDom_agent_at (s : State) (i j : Nat) (f) : (s.modDom i f).agent j = s.agent j := rfl
@[simp] theorem State.modDom_slice_at (s : State) (i j : Nat) (f) : (s.modDom i f).slice j = s.slice j := rfl
@[simp] theorem State.modDom_stack_at (s : State) (i j : Nat) (f) : (s.modDom i f).stack j = s.stack j := rfl
@[simp] theorem State.modDom_queue_at (s : State) (i j : Nat) (f) : (s.modDom i f).queue j = s.queue j := rfl
@[simp] theorem State.modDom_dmaEng_at (s : State) (i j : Nat) (f) : (s.modDom i f).dmaEng j = s.dmaEng j := rfl
@[simp] theorem State.modDom_bend_at (s : State) (i j : Nat) (f) : (s.modDom i f).bend j = s.bend j := rfl
@[simp] theorem State.modDom_bundle_at (s : State) (i j : Nat) (f) : (s.modDom i f).bundle j = s.bundle j := rfl
@[simp] theorem State.modDom_port_at (s : State) (i j : Nat) (f) : (s.modDom i f).port j = s.port j := rfl
@[simp] theorem State.modDom_peer_at (s : State) (i j : Nat) (f) : (s.modDom i f).peer j = s.peer j := rfl
@[simp] theorem State.modDom_die_at (s : State) (i j : Nat) (f) : (s.modDom i f).die j = s.die j := rfl
@[simp] theorem State.modDom_hart_at (s : State) (i j : Nat) (f) : (s.modDom i f).hart j = s.hart j := rfl
@[simp] theorem State.modDom_kwait_at (s : State) (i j : Nat) (f) : (s.modDom i f).kwait j = s.kwait j := rfl

/-! ### modDie -/

theorem State.modDie_die (s : State) (i j : Nat) (f) (h : Tbl.wf {} s.lhr.dies = true) :
    (s.modDie i f).die j = if j = i then f (s.die i) else s.die j := Tbl.get_upd _ _ _ _ _ h

@[simp] theorem State.modDie_now (s : State) (i : Nat) (f) : (s.modDie i f).now = s.now := rfl
@[simp] theorem State.modDie_pending (s : State) (i : Nat) (f) : (s.modDie i f).pending = s.pending := rfl
@[simp] theorem State.modDie_frm (s : State) (i : Nat) (f) : (s.modDie i f).frm = s.frm := rfl
@[simp] theorem State.modDie_frt (s : State) (i : Nat) (f) : (s.modDie i f).frt = s.frt := rfl
@[simp] theorem State.modDie_fea (s : State) (i : Nat) (f) : (s.modDie i f).fea = s.fea := rfl
@[simp] theorem State.modDie_err (s : State) (i : Nat) (f) : (s.modDie i f).err = s.err := rfl
@[simp] theorem State.modDie_boot (s : State) (i : Nat) (f) : (s.modDie i f).boot = s.boot := rfl
@[simp] theorem State.modDie_fuses (s : State) (i : Nat) (f) : (s.modDie i f).fuses = s.fuses := rfl
@[simp] theorem State.modDie_flash (s : State) (i : Nat) (f) : (s.modDie i f).flash = s.flash := rfl
@[simp] theorem State.modDie_mbx0 (s : State) (i : Nat) (f) : (s.modDie i f).mbx0 = s.mbx0 := rfl
@[simp] theorem State.modDie_mbx1 (s : State) (i : Nat) (f) : (s.modDie i f).mbx1 = s.mbx1 := rfl
@[simp] theorem State.modDie_mgmt (s : State) (i : Nat) (f) : (s.modDie i f).mgmt = s.mgmt := rfl
@[simp] theorem State.modDie_hpt (s : State) (i : Nat) (f) : (s.modDie i f).hpt = s.hpt := rfl
@[simp] theorem State.modDie_hws (s : State) (i : Nat) (f) : (s.modDie i f).hws = s.hws := rfl
@[simp] theorem State.modDie_bends (s : State) (i : Nat) (f) : (s.modDie i f).bends = s.bends := rfl
@[simp] theorem State.modDie_jobAddr (s : State) (i : Nat) (f) : (s.modDie i f).jobAddr = s.jobAddr := rfl
@[simp] theorem State.modDie_jobEn (s : State) (i : Nat) (f) : (s.modDie i f).jobEn = s.jobEn := rfl
@[simp] theorem State.modDie_dlk (s : State) (i : Nat) (f) : (s.modDie i f).dlk = s.dlk := rfl
@[simp] theorem State.modDie_ncc (s : State) (i : Nat) (f) : (s.modDie i f).ncc = s.ncc := rfl
@[simp] theorem State.modDie_pins (s : State) (i : Nat) (f) : (s.modDie i f).pins = s.pins := rfl
@[simp] theorem State.modDie_queues (s : State) (i : Nat) (f) : (s.modDie i f).queues = s.queues := rfl
@[simp] theorem State.modDie_cmds (s : State) (i : Nat) (f) : (s.modDie i f).cmds = s.cmds := rfl
@[simp] theorem State.modDie_nextCmd (s : State) (i : Nat) (f) : (s.modDie i f).nextCmd = s.nextCmd := rfl
@[simp] theorem State.modDie_nextQueue (s : State) (i : Nat) (f) : (s.modDie i f).nextQueue = s.nextQueue := rfl
@[simp] theorem State.modDie_lastUnit (s : State) (i : Nat) (f) : (s.modDie i f).lastUnit = s.lastUnit := rfl
@[simp] theorem State.modDie_dma (s : State) (i : Nat) (f) : (s.modDie i f).dma = s.dma := rfl
@[simp] theorem State.modDie_units (s : State) (i : Nat) (f) : (s.modDie i f).units = s.units := rfl
@[simp] theorem State.modDie_clusters (s : State) (i : Nat) (f) : (s.modDie i f).clusters = s.clusters := rfl
@[simp] theorem State.modDie_xlt (s : State) (i : Nat) (f) : (s.modDie i f).xlt = s.xlt := rfl
@[simp] theorem State.modDie_agents (s : State) (i : Nat) (f) : (s.modDie i f).agents = s.agents := rfl
@[simp] theorem State.modDie_slices (s : State) (i : Nat) (f) : (s.modDie i f).slices = s.slices := rfl
@[simp] theorem State.modDie_coh (s : State) (i : Nat) (f) : (s.modDie i f).coh = s.coh := rfl
@[simp] theorem State.modDie_hbm (s : State) (i : Nat) (f) : (s.modDie i f).hbm = s.hbm := rfl
@[simp] theorem State.modDie_mem (s : State) (i : Nat) (f) : (s.modDie i f).mem = s.mem := rfl
@[simp] theorem State.modDie_memPoison (s : State) (i : Nat) (f) : (s.modDie i f).memPoison = s.memPoison := rfl
@[simp] theorem State.modDie_scratch (s : State) (i : Nat) (f) : (s.modDie i f).scratch = s.scratch := rfl
@[simp] theorem State.modDie_scratchPoison (s : State) (i : Nat) (f) : (s.modDie i f).scratchPoison = s.scratchPoison := rfl
@[simp] theorem State.modDie_net (s : State) (i : Nat) (f) : (s.modDie i f).net = s.net := rfl
@[simp] theorem State.modDie_depart (s : State) (i : Nat) (f) : (s.modDie i f).depart = s.depart := rfl
@[simp] theorem State.modDie_stuck (s : State) (i : Nat) (f) : (s.modDie i f).stuck = s.stuck := rfl
@[simp] theorem State.modDie_free (s : State) (i : Nat) (f) : (s.modDie i f).free = s.free := rfl
@[simp] theorem State.modDie_unit_at (s : State) (i j : Nat) (f) : (s.modDie i f).unit j = s.unit j := rfl
@[simp] theorem State.modDie_cluster_at (s : State) (i j : Nat) (f) : (s.modDie i f).cluster j = s.cluster j := rfl
@[simp] theorem State.modDie_agent_at (s : State) (i j : Nat) (f) : (s.modDie i f).agent j = s.agent j := rfl
@[simp] theorem State.modDie_slice_at (s : State) (i j : Nat) (f) : (s.modDie i f).slice j = s.slice j := rfl
@[simp] theorem State.modDie_stack_at (s : State) (i j : Nat) (f) : (s.modDie i f).stack j = s.stack j := rfl
@[simp] theorem State.modDie_queue_at (s : State) (i j : Nat) (f) : (s.modDie i f).queue j = s.queue j := rfl
@[simp] theorem State.modDie_dmaEng_at (s : State) (i j : Nat) (f) : (s.modDie i f).dmaEng j = s.dmaEng j := rfl
@[simp] theorem State.modDie_bend_at (s : State) (i j : Nat) (f) : (s.modDie i f).bend j = s.bend j := rfl
@[simp] theorem State.modDie_bundle_at (s : State) (i j : Nat) (f) : (s.modDie i f).bundle j = s.bundle j := rfl
@[simp] theorem State.modDie_port_at (s : State) (i j : Nat) (f) : (s.modDie i f).port j = s.port j := rfl
@[simp] theorem State.modDie_peer_at (s : State) (i j : Nat) (f) : (s.modDie i f).peer j = s.peer j := rfl
@[simp] theorem State.modDie_dom_at (s : State) (i j : Nat) (f) : (s.modDie i f).dom j = s.dom j := rfl
@[simp] theorem State.modDie_hart_at (s : State) (i j : Nat) (f) : (s.modDie i f).hart j = s.hart j := rfl
@[simp] theorem State.modDie_kwait_at (s : State) (i j : Nat) (f) : (s.modDie i f).kwait j = s.kwait j := rfl

/-! ### modHart -/

theorem State.modHart_hart (s : State) (i j : Nat) (f) (h : Tbl.wf {} s.ncc.harts = true) :
    (s.modHart i f).hart j = if j = i then f (s.hart i) else s.hart j := Tbl.get_upd _ _ _ _ _ h

@[simp] theorem State.modHart_now (s : State) (i : Nat) (f) : (s.modHart i f).now = s.now := rfl
@[simp] theorem State.modHart_pending (s : State) (i : Nat) (f) : (s.modHart i f).pending = s.pending := rfl
@[simp] theorem State.modHart_frm (s : State) (i : Nat) (f) : (s.modHart i f).frm = s.frm := rfl
@[simp] theorem State.modHart_frt (s : State) (i : Nat) (f) : (s.modHart i f).frt = s.frt := rfl
@[simp] theorem State.modHart_fea (s : State) (i : Nat) (f) : (s.modHart i f).fea = s.fea := rfl
@[simp] theorem State.modHart_err (s : State) (i : Nat) (f) : (s.modHart i f).err = s.err := rfl
@[simp] theorem State.modHart_lhr (s : State) (i : Nat) (f) : (s.modHart i f).lhr = s.lhr := rfl
@[simp] theorem State.modHart_boot (s : State) (i : Nat) (f) : (s.modHart i f).boot = s.boot := rfl
@[simp] theorem State.modHart_fuses (s : State) (i : Nat) (f) : (s.modHart i f).fuses = s.fuses := rfl
@[simp] theorem State.modHart_flash (s : State) (i : Nat) (f) : (s.modHart i f).flash = s.flash := rfl
@[simp] theorem State.modHart_mbx0 (s : State) (i : Nat) (f) : (s.modHart i f).mbx0 = s.mbx0 := rfl
@[simp] theorem State.modHart_mbx1 (s : State) (i : Nat) (f) : (s.modHart i f).mbx1 = s.mbx1 := rfl
@[simp] theorem State.modHart_mgmt (s : State) (i : Nat) (f) : (s.modHart i f).mgmt = s.mgmt := rfl
@[simp] theorem State.modHart_hpt (s : State) (i : Nat) (f) : (s.modHart i f).hpt = s.hpt := rfl
@[simp] theorem State.modHart_hws (s : State) (i : Nat) (f) : (s.modHart i f).hws = s.hws := rfl
@[simp] theorem State.modHart_bends (s : State) (i : Nat) (f) : (s.modHart i f).bends = s.bends := rfl
@[simp] theorem State.modHart_jobAddr (s : State) (i : Nat) (f) : (s.modHart i f).jobAddr = s.jobAddr := rfl
@[simp] theorem State.modHart_jobEn (s : State) (i : Nat) (f) : (s.modHart i f).jobEn = s.jobEn := rfl
@[simp] theorem State.modHart_dlk (s : State) (i : Nat) (f) : (s.modHart i f).dlk = s.dlk := rfl
@[simp] theorem State.modHart_pins (s : State) (i : Nat) (f) : (s.modHart i f).pins = s.pins := rfl
@[simp] theorem State.modHart_queues (s : State) (i : Nat) (f) : (s.modHart i f).queues = s.queues := rfl
@[simp] theorem State.modHart_cmds (s : State) (i : Nat) (f) : (s.modHart i f).cmds = s.cmds := rfl
@[simp] theorem State.modHart_nextCmd (s : State) (i : Nat) (f) : (s.modHart i f).nextCmd = s.nextCmd := rfl
@[simp] theorem State.modHart_nextQueue (s : State) (i : Nat) (f) : (s.modHart i f).nextQueue = s.nextQueue := rfl
@[simp] theorem State.modHart_lastUnit (s : State) (i : Nat) (f) : (s.modHart i f).lastUnit = s.lastUnit := rfl
@[simp] theorem State.modHart_dma (s : State) (i : Nat) (f) : (s.modHart i f).dma = s.dma := rfl
@[simp] theorem State.modHart_units (s : State) (i : Nat) (f) : (s.modHart i f).units = s.units := rfl
@[simp] theorem State.modHart_clusters (s : State) (i : Nat) (f) : (s.modHart i f).clusters = s.clusters := rfl
@[simp] theorem State.modHart_xlt (s : State) (i : Nat) (f) : (s.modHart i f).xlt = s.xlt := rfl
@[simp] theorem State.modHart_agents (s : State) (i : Nat) (f) : (s.modHart i f).agents = s.agents := rfl
@[simp] theorem State.modHart_slices (s : State) (i : Nat) (f) : (s.modHart i f).slices = s.slices := rfl
@[simp] theorem State.modHart_coh (s : State) (i : Nat) (f) : (s.modHart i f).coh = s.coh := rfl
@[simp] theorem State.modHart_hbm (s : State) (i : Nat) (f) : (s.modHart i f).hbm = s.hbm := rfl
@[simp] theorem State.modHart_mem (s : State) (i : Nat) (f) : (s.modHart i f).mem = s.mem := rfl
@[simp] theorem State.modHart_memPoison (s : State) (i : Nat) (f) : (s.modHart i f).memPoison = s.memPoison := rfl
@[simp] theorem State.modHart_scratch (s : State) (i : Nat) (f) : (s.modHart i f).scratch = s.scratch := rfl
@[simp] theorem State.modHart_scratchPoison (s : State) (i : Nat) (f) : (s.modHart i f).scratchPoison = s.scratchPoison := rfl
@[simp] theorem State.modHart_net (s : State) (i : Nat) (f) : (s.modHart i f).net = s.net := rfl
@[simp] theorem State.modHart_depart (s : State) (i : Nat) (f) : (s.modHart i f).depart = s.depart := rfl
@[simp] theorem State.modHart_stuck (s : State) (i : Nat) (f) : (s.modHart i f).stuck = s.stuck := rfl
@[simp] theorem State.modHart_free (s : State) (i : Nat) (f) : (s.modHart i f).free = s.free := rfl
@[simp] theorem State.modHart_unit_at (s : State) (i j : Nat) (f) : (s.modHart i f).unit j = s.unit j := rfl
@[simp] theorem State.modHart_cluster_at (s : State) (i j : Nat) (f) : (s.modHart i f).cluster j = s.cluster j := rfl
@[simp] theorem State.modHart_agent_at (s : State) (i j : Nat) (f) : (s.modHart i f).agent j = s.agent j := rfl
@[simp] theorem State.modHart_slice_at (s : State) (i j : Nat) (f) : (s.modHart i f).slice j = s.slice j := rfl
@[simp] theorem State.modHart_stack_at (s : State) (i j : Nat) (f) : (s.modHart i f).stack j = s.stack j := rfl
@[simp] theorem State.modHart_queue_at (s : State) (i j : Nat) (f) : (s.modHart i f).queue j = s.queue j := rfl
@[simp] theorem State.modHart_dmaEng_at (s : State) (i j : Nat) (f) : (s.modHart i f).dmaEng j = s.dmaEng j := rfl
@[simp] theorem State.modHart_bend_at (s : State) (i j : Nat) (f) : (s.modHart i f).bend j = s.bend j := rfl
@[simp] theorem State.modHart_bundle_at (s : State) (i j : Nat) (f) : (s.modHart i f).bundle j = s.bundle j := rfl
@[simp] theorem State.modHart_port_at (s : State) (i j : Nat) (f) : (s.modHart i f).port j = s.port j := rfl
@[simp] theorem State.modHart_peer_at (s : State) (i j : Nat) (f) : (s.modHart i f).peer j = s.peer j := rfl
@[simp] theorem State.modHart_dom_at (s : State) (i j : Nat) (f) : (s.modHart i f).dom j = s.dom j := rfl
@[simp] theorem State.modHart_die_at (s : State) (i j : Nat) (f) : (s.modHart i f).die j = s.die j := rfl
@[simp] theorem State.modHart_kwait_at (s : State) (i j : Nat) (f) : (s.modHart i f).kwait j = s.kwait j := rfl

/-! ### modKwait -/

theorem State.modKwait_kwait (s : State) (i j : Nat) (f) (h : Tbl.wf {} s.ncc.kwait = true) :
    (s.modKwait i f).kwait j = if j = i then f (s.kwait i) else s.kwait j := Tbl.get_upd _ _ _ _ _ h

@[simp] theorem State.modKwait_now (s : State) (i : Nat) (f) : (s.modKwait i f).now = s.now := rfl
@[simp] theorem State.modKwait_pending (s : State) (i : Nat) (f) : (s.modKwait i f).pending = s.pending := rfl
@[simp] theorem State.modKwait_frm (s : State) (i : Nat) (f) : (s.modKwait i f).frm = s.frm := rfl
@[simp] theorem State.modKwait_frt (s : State) (i : Nat) (f) : (s.modKwait i f).frt = s.frt := rfl
@[simp] theorem State.modKwait_fea (s : State) (i : Nat) (f) : (s.modKwait i f).fea = s.fea := rfl
@[simp] theorem State.modKwait_err (s : State) (i : Nat) (f) : (s.modKwait i f).err = s.err := rfl
@[simp] theorem State.modKwait_lhr (s : State) (i : Nat) (f) : (s.modKwait i f).lhr = s.lhr := rfl
@[simp] theorem State.modKwait_boot (s : State) (i : Nat) (f) : (s.modKwait i f).boot = s.boot := rfl
@[simp] theorem State.modKwait_fuses (s : State) (i : Nat) (f) : (s.modKwait i f).fuses = s.fuses := rfl
@[simp] theorem State.modKwait_flash (s : State) (i : Nat) (f) : (s.modKwait i f).flash = s.flash := rfl
@[simp] theorem State.modKwait_mbx0 (s : State) (i : Nat) (f) : (s.modKwait i f).mbx0 = s.mbx0 := rfl
@[simp] theorem State.modKwait_mbx1 (s : State) (i : Nat) (f) : (s.modKwait i f).mbx1 = s.mbx1 := rfl
@[simp] theorem State.modKwait_mgmt (s : State) (i : Nat) (f) : (s.modKwait i f).mgmt = s.mgmt := rfl
@[simp] theorem State.modKwait_hpt (s : State) (i : Nat) (f) : (s.modKwait i f).hpt = s.hpt := rfl
@[simp] theorem State.modKwait_hws (s : State) (i : Nat) (f) : (s.modKwait i f).hws = s.hws := rfl
@[simp] theorem State.modKwait_bends (s : State) (i : Nat) (f) : (s.modKwait i f).bends = s.bends := rfl
@[simp] theorem State.modKwait_jobAddr (s : State) (i : Nat) (f) : (s.modKwait i f).jobAddr = s.jobAddr := rfl
@[simp] theorem State.modKwait_jobEn (s : State) (i : Nat) (f) : (s.modKwait i f).jobEn = s.jobEn := rfl
@[simp] theorem State.modKwait_dlk (s : State) (i : Nat) (f) : (s.modKwait i f).dlk = s.dlk := rfl
@[simp] theorem State.modKwait_pins (s : State) (i : Nat) (f) : (s.modKwait i f).pins = s.pins := rfl
@[simp] theorem State.modKwait_queues (s : State) (i : Nat) (f) : (s.modKwait i f).queues = s.queues := rfl
@[simp] theorem State.modKwait_cmds (s : State) (i : Nat) (f) : (s.modKwait i f).cmds = s.cmds := rfl
@[simp] theorem State.modKwait_nextCmd (s : State) (i : Nat) (f) : (s.modKwait i f).nextCmd = s.nextCmd := rfl
@[simp] theorem State.modKwait_nextQueue (s : State) (i : Nat) (f) : (s.modKwait i f).nextQueue = s.nextQueue := rfl
@[simp] theorem State.modKwait_lastUnit (s : State) (i : Nat) (f) : (s.modKwait i f).lastUnit = s.lastUnit := rfl
@[simp] theorem State.modKwait_dma (s : State) (i : Nat) (f) : (s.modKwait i f).dma = s.dma := rfl
@[simp] theorem State.modKwait_units (s : State) (i : Nat) (f) : (s.modKwait i f).units = s.units := rfl
@[simp] theorem State.modKwait_clusters (s : State) (i : Nat) (f) : (s.modKwait i f).clusters = s.clusters := rfl
@[simp] theorem State.modKwait_xlt (s : State) (i : Nat) (f) : (s.modKwait i f).xlt = s.xlt := rfl
@[simp] theorem State.modKwait_agents (s : State) (i : Nat) (f) : (s.modKwait i f).agents = s.agents := rfl
@[simp] theorem State.modKwait_slices (s : State) (i : Nat) (f) : (s.modKwait i f).slices = s.slices := rfl
@[simp] theorem State.modKwait_coh (s : State) (i : Nat) (f) : (s.modKwait i f).coh = s.coh := rfl
@[simp] theorem State.modKwait_hbm (s : State) (i : Nat) (f) : (s.modKwait i f).hbm = s.hbm := rfl
@[simp] theorem State.modKwait_mem (s : State) (i : Nat) (f) : (s.modKwait i f).mem = s.mem := rfl
@[simp] theorem State.modKwait_memPoison (s : State) (i : Nat) (f) : (s.modKwait i f).memPoison = s.memPoison := rfl
@[simp] theorem State.modKwait_scratch (s : State) (i : Nat) (f) : (s.modKwait i f).scratch = s.scratch := rfl
@[simp] theorem State.modKwait_scratchPoison (s : State) (i : Nat) (f) : (s.modKwait i f).scratchPoison = s.scratchPoison := rfl
@[simp] theorem State.modKwait_net (s : State) (i : Nat) (f) : (s.modKwait i f).net = s.net := rfl
@[simp] theorem State.modKwait_depart (s : State) (i : Nat) (f) : (s.modKwait i f).depart = s.depart := rfl
@[simp] theorem State.modKwait_stuck (s : State) (i : Nat) (f) : (s.modKwait i f).stuck = s.stuck := rfl
@[simp] theorem State.modKwait_free (s : State) (i : Nat) (f) : (s.modKwait i f).free = s.free := rfl
@[simp] theorem State.modKwait_unit_at (s : State) (i j : Nat) (f) : (s.modKwait i f).unit j = s.unit j := rfl
@[simp] theorem State.modKwait_cluster_at (s : State) (i j : Nat) (f) : (s.modKwait i f).cluster j = s.cluster j := rfl
@[simp] theorem State.modKwait_agent_at (s : State) (i j : Nat) (f) : (s.modKwait i f).agent j = s.agent j := rfl
@[simp] theorem State.modKwait_slice_at (s : State) (i j : Nat) (f) : (s.modKwait i f).slice j = s.slice j := rfl
@[simp] theorem State.modKwait_stack_at (s : State) (i j : Nat) (f) : (s.modKwait i f).stack j = s.stack j := rfl
@[simp] theorem State.modKwait_queue_at (s : State) (i j : Nat) (f) : (s.modKwait i f).queue j = s.queue j := rfl
@[simp] theorem State.modKwait_dmaEng_at (s : State) (i j : Nat) (f) : (s.modKwait i f).dmaEng j = s.dmaEng j := rfl
@[simp] theorem State.modKwait_bend_at (s : State) (i j : Nat) (f) : (s.modKwait i f).bend j = s.bend j := rfl
@[simp] theorem State.modKwait_bundle_at (s : State) (i j : Nat) (f) : (s.modKwait i f).bundle j = s.bundle j := rfl
@[simp] theorem State.modKwait_port_at (s : State) (i j : Nat) (f) : (s.modKwait i f).port j = s.port j := rfl
@[simp] theorem State.modKwait_peer_at (s : State) (i j : Nat) (f) : (s.modKwait i f).peer j = s.peer j := rfl
@[simp] theorem State.modKwait_dom_at (s : State) (i j : Nat) (f) : (s.modKwait i f).dom j = s.dom j := rfl
@[simp] theorem State.modKwait_die_at (s : State) (i j : Nat) (f) : (s.modKwait i f).die j = s.die j := rfl
@[simp] theorem State.modKwait_hart_at (s : State) (i j : Nat) (f) : (s.modKwait i f).hart j = s.hart j := rfl

/-! ### modCmd and free values -/

@[simp] theorem State.modCmd_now (s : State) (i : Nat) (f) : (s.modCmd i f).now = s.now := rfl
@[simp] theorem State.modCmd_pending (s : State) (i : Nat) (f) : (s.modCmd i f).pending = s.pending := rfl
@[simp] theorem State.modCmd_frm (s : State) (i : Nat) (f) : (s.modCmd i f).frm = s.frm := rfl
@[simp] theorem State.modCmd_frt (s : State) (i : Nat) (f) : (s.modCmd i f).frt = s.frt := rfl
@[simp] theorem State.modCmd_fea (s : State) (i : Nat) (f) : (s.modCmd i f).fea = s.fea := rfl
@[simp] theorem State.modCmd_err (s : State) (i : Nat) (f) : (s.modCmd i f).err = s.err := rfl
@[simp] theorem State.modCmd_lhr (s : State) (i : Nat) (f) : (s.modCmd i f).lhr = s.lhr := rfl
@[simp] theorem State.modCmd_boot (s : State) (i : Nat) (f) : (s.modCmd i f).boot = s.boot := rfl
@[simp] theorem State.modCmd_fuses (s : State) (i : Nat) (f) : (s.modCmd i f).fuses = s.fuses := rfl
@[simp] theorem State.modCmd_flash (s : State) (i : Nat) (f) : (s.modCmd i f).flash = s.flash := rfl
@[simp] theorem State.modCmd_mbx0 (s : State) (i : Nat) (f) : (s.modCmd i f).mbx0 = s.mbx0 := rfl
@[simp] theorem State.modCmd_mbx1 (s : State) (i : Nat) (f) : (s.modCmd i f).mbx1 = s.mbx1 := rfl
@[simp] theorem State.modCmd_mgmt (s : State) (i : Nat) (f) : (s.modCmd i f).mgmt = s.mgmt := rfl
@[simp] theorem State.modCmd_hpt (s : State) (i : Nat) (f) : (s.modCmd i f).hpt = s.hpt := rfl
@[simp] theorem State.modCmd_hws (s : State) (i : Nat) (f) : (s.modCmd i f).hws = s.hws := rfl
@[simp] theorem State.modCmd_bends (s : State) (i : Nat) (f) : (s.modCmd i f).bends = s.bends := rfl
@[simp] theorem State.modCmd_jobAddr (s : State) (i : Nat) (f) : (s.modCmd i f).jobAddr = s.jobAddr := rfl
@[simp] theorem State.modCmd_jobEn (s : State) (i : Nat) (f) : (s.modCmd i f).jobEn = s.jobEn := rfl
@[simp] theorem State.modCmd_dlk (s : State) (i : Nat) (f) : (s.modCmd i f).dlk = s.dlk := rfl
@[simp] theorem State.modCmd_ncc (s : State) (i : Nat) (f) : (s.modCmd i f).ncc = s.ncc := rfl
@[simp] theorem State.modCmd_pins (s : State) (i : Nat) (f) : (s.modCmd i f).pins = s.pins := rfl
@[simp] theorem State.modCmd_queues (s : State) (i : Nat) (f) : (s.modCmd i f).queues = s.queues := rfl
@[simp] theorem State.modCmd_nextCmd (s : State) (i : Nat) (f) : (s.modCmd i f).nextCmd = s.nextCmd := rfl
@[simp] theorem State.modCmd_nextQueue (s : State) (i : Nat) (f) : (s.modCmd i f).nextQueue = s.nextQueue := rfl
@[simp] theorem State.modCmd_lastUnit (s : State) (i : Nat) (f) : (s.modCmd i f).lastUnit = s.lastUnit := rfl
@[simp] theorem State.modCmd_dma (s : State) (i : Nat) (f) : (s.modCmd i f).dma = s.dma := rfl
@[simp] theorem State.modCmd_units (s : State) (i : Nat) (f) : (s.modCmd i f).units = s.units := rfl
@[simp] theorem State.modCmd_clusters (s : State) (i : Nat) (f) : (s.modCmd i f).clusters = s.clusters := rfl
@[simp] theorem State.modCmd_xlt (s : State) (i : Nat) (f) : (s.modCmd i f).xlt = s.xlt := rfl
@[simp] theorem State.modCmd_agents (s : State) (i : Nat) (f) : (s.modCmd i f).agents = s.agents := rfl
@[simp] theorem State.modCmd_slices (s : State) (i : Nat) (f) : (s.modCmd i f).slices = s.slices := rfl
@[simp] theorem State.modCmd_coh (s : State) (i : Nat) (f) : (s.modCmd i f).coh = s.coh := rfl
@[simp] theorem State.modCmd_hbm (s : State) (i : Nat) (f) : (s.modCmd i f).hbm = s.hbm := rfl
@[simp] theorem State.modCmd_mem (s : State) (i : Nat) (f) : (s.modCmd i f).mem = s.mem := rfl
@[simp] theorem State.modCmd_memPoison (s : State) (i : Nat) (f) : (s.modCmd i f).memPoison = s.memPoison := rfl
@[simp] theorem State.modCmd_scratch (s : State) (i : Nat) (f) : (s.modCmd i f).scratch = s.scratch := rfl
@[simp] theorem State.modCmd_scratchPoison (s : State) (i : Nat) (f) : (s.modCmd i f).scratchPoison = s.scratchPoison := rfl
@[simp] theorem State.modCmd_net (s : State) (i : Nat) (f) : (s.modCmd i f).net = s.net := rfl
@[simp] theorem State.modCmd_depart (s : State) (i : Nat) (f) : (s.modCmd i f).depart = s.depart := rfl
@[simp] theorem State.modCmd_stuck (s : State) (i : Nat) (f) : (s.modCmd i f).stuck = s.stuck := rfl
@[simp] theorem State.modCmd_free (s : State) (i : Nat) (f) : (s.modCmd i f).free = s.free := rfl
@[simp] theorem State.freeVal_now (s : State) (w : Nat) : (s.freeVal w).2.now = s.now := rfl
@[simp] theorem State.freeVal_pending (s : State) (w : Nat) : (s.freeVal w).2.pending = s.pending := rfl
@[simp] theorem State.freeVal_frm (s : State) (w : Nat) : (s.freeVal w).2.frm = s.frm := rfl
@[simp] theorem State.freeVal_frt (s : State) (w : Nat) : (s.freeVal w).2.frt = s.frt := rfl
@[simp] theorem State.freeVal_fea (s : State) (w : Nat) : (s.freeVal w).2.fea = s.fea := rfl
@[simp] theorem State.freeVal_err (s : State) (w : Nat) : (s.freeVal w).2.err = s.err := rfl
@[simp] theorem State.freeVal_lhr (s : State) (w : Nat) : (s.freeVal w).2.lhr = s.lhr := rfl
@[simp] theorem State.freeVal_boot (s : State) (w : Nat) : (s.freeVal w).2.boot = s.boot := rfl
@[simp] theorem State.freeVal_fuses (s : State) (w : Nat) : (s.freeVal w).2.fuses = s.fuses := rfl
@[simp] theorem State.freeVal_flash (s : State) (w : Nat) : (s.freeVal w).2.flash = s.flash := rfl
@[simp] theorem State.freeVal_mbx0 (s : State) (w : Nat) : (s.freeVal w).2.mbx0 = s.mbx0 := rfl
@[simp] theorem State.freeVal_mbx1 (s : State) (w : Nat) : (s.freeVal w).2.mbx1 = s.mbx1 := rfl
@[simp] theorem State.freeVal_mgmt (s : State) (w : Nat) : (s.freeVal w).2.mgmt = s.mgmt := rfl
@[simp] theorem State.freeVal_hpt (s : State) (w : Nat) : (s.freeVal w).2.hpt = s.hpt := rfl
@[simp] theorem State.freeVal_hws (s : State) (w : Nat) : (s.freeVal w).2.hws = s.hws := rfl
@[simp] theorem State.freeVal_bends (s : State) (w : Nat) : (s.freeVal w).2.bends = s.bends := rfl
@[simp] theorem State.freeVal_jobAddr (s : State) (w : Nat) : (s.freeVal w).2.jobAddr = s.jobAddr := rfl
@[simp] theorem State.freeVal_jobEn (s : State) (w : Nat) : (s.freeVal w).2.jobEn = s.jobEn := rfl
@[simp] theorem State.freeVal_dlk (s : State) (w : Nat) : (s.freeVal w).2.dlk = s.dlk := rfl
@[simp] theorem State.freeVal_ncc (s : State) (w : Nat) : (s.freeVal w).2.ncc = s.ncc := rfl
@[simp] theorem State.freeVal_pins (s : State) (w : Nat) : (s.freeVal w).2.pins = s.pins := rfl
@[simp] theorem State.freeVal_queues (s : State) (w : Nat) : (s.freeVal w).2.queues = s.queues := rfl
@[simp] theorem State.freeVal_cmds (s : State) (w : Nat) : (s.freeVal w).2.cmds = s.cmds := rfl
@[simp] theorem State.freeVal_nextCmd (s : State) (w : Nat) : (s.freeVal w).2.nextCmd = s.nextCmd := rfl
@[simp] theorem State.freeVal_nextQueue (s : State) (w : Nat) : (s.freeVal w).2.nextQueue = s.nextQueue := rfl
@[simp] theorem State.freeVal_lastUnit (s : State) (w : Nat) : (s.freeVal w).2.lastUnit = s.lastUnit := rfl
@[simp] theorem State.freeVal_dma (s : State) (w : Nat) : (s.freeVal w).2.dma = s.dma := rfl
@[simp] theorem State.freeVal_units (s : State) (w : Nat) : (s.freeVal w).2.units = s.units := rfl
@[simp] theorem State.freeVal_clusters (s : State) (w : Nat) : (s.freeVal w).2.clusters = s.clusters := rfl
@[simp] theorem State.freeVal_xlt (s : State) (w : Nat) : (s.freeVal w).2.xlt = s.xlt := rfl
@[simp] theorem State.freeVal_agents (s : State) (w : Nat) : (s.freeVal w).2.agents = s.agents := rfl
@[simp] theorem State.freeVal_slices (s : State) (w : Nat) : (s.freeVal w).2.slices = s.slices := rfl
@[simp] theorem State.freeVal_coh (s : State) (w : Nat) : (s.freeVal w).2.coh = s.coh := rfl
@[simp] theorem State.freeVal_hbm (s : State) (w : Nat) : (s.freeVal w).2.hbm = s.hbm := rfl
@[simp] theorem State.freeVal_mem (s : State) (w : Nat) : (s.freeVal w).2.mem = s.mem := rfl
@[simp] theorem State.freeVal_memPoison (s : State) (w : Nat) : (s.freeVal w).2.memPoison = s.memPoison := rfl
@[simp] theorem State.freeVal_scratch (s : State) (w : Nat) : (s.freeVal w).2.scratch = s.scratch := rfl
@[simp] theorem State.freeVal_scratchPoison (s : State) (w : Nat) : (s.freeVal w).2.scratchPoison = s.scratchPoison := rfl
@[simp] theorem State.freeVal_net (s : State) (w : Nat) : (s.freeVal w).2.net = s.net := rfl
@[simp] theorem State.freeVal_depart (s : State) (w : Nat) : (s.freeVal w).2.depart = s.depart := rfl
@[simp] theorem State.freeVal_stuck (s : State) (w : Nat) : (s.freeVal w).2.stuck = s.stuck := rfl
@[simp] theorem State.freeChoice_now (s : State) : (s.freeChoice).2.now = s.now := rfl
@[simp] theorem State.freeChoice_pending (s : State) : (s.freeChoice).2.pending = s.pending := rfl
@[simp] theorem State.freeChoice_frm (s : State) : (s.freeChoice).2.frm = s.frm := rfl
@[simp] theorem State.freeChoice_frt (s : State) : (s.freeChoice).2.frt = s.frt := rfl
@[simp] theorem State.freeChoice_fea (s : State) : (s.freeChoice).2.fea = s.fea := rfl
@[simp] theorem State.freeChoice_err (s : State) : (s.freeChoice).2.err = s.err := rfl
@[simp] theorem State.freeChoice_lhr (s : State) : (s.freeChoice).2.lhr = s.lhr := rfl
@[simp] theorem State.freeChoice_boot (s : State) : (s.freeChoice).2.boot = s.boot := rfl
@[simp] theorem State.freeChoice_fuses (s : State) : (s.freeChoice).2.fuses = s.fuses := rfl
@[simp] theorem State.freeChoice_flash (s : State) : (s.freeChoice).2.flash = s.flash := rfl
@[simp] theorem State.freeChoice_mbx0 (s : State) : (s.freeChoice).2.mbx0 = s.mbx0 := rfl
@[simp] theorem State.freeChoice_mbx1 (s : State) : (s.freeChoice).2.mbx1 = s.mbx1 := rfl
@[simp] theorem State.freeChoice_mgmt (s : State) : (s.freeChoice).2.mgmt = s.mgmt := rfl
@[simp] theorem State.freeChoice_hpt (s : State) : (s.freeChoice).2.hpt = s.hpt := rfl
@[simp] theorem State.freeChoice_hws (s : State) : (s.freeChoice).2.hws = s.hws := rfl
@[simp] theorem State.freeChoice_bends (s : State) : (s.freeChoice).2.bends = s.bends := rfl
@[simp] theorem State.freeChoice_jobAddr (s : State) : (s.freeChoice).2.jobAddr = s.jobAddr := rfl
@[simp] theorem State.freeChoice_jobEn (s : State) : (s.freeChoice).2.jobEn = s.jobEn := rfl
@[simp] theorem State.freeChoice_dlk (s : State) : (s.freeChoice).2.dlk = s.dlk := rfl
@[simp] theorem State.freeChoice_ncc (s : State) : (s.freeChoice).2.ncc = s.ncc := rfl
@[simp] theorem State.freeChoice_pins (s : State) : (s.freeChoice).2.pins = s.pins := rfl
@[simp] theorem State.freeChoice_queues (s : State) : (s.freeChoice).2.queues = s.queues := rfl
@[simp] theorem State.freeChoice_cmds (s : State) : (s.freeChoice).2.cmds = s.cmds := rfl
@[simp] theorem State.freeChoice_nextCmd (s : State) : (s.freeChoice).2.nextCmd = s.nextCmd := rfl
@[simp] theorem State.freeChoice_nextQueue (s : State) : (s.freeChoice).2.nextQueue = s.nextQueue := rfl
@[simp] theorem State.freeChoice_lastUnit (s : State) : (s.freeChoice).2.lastUnit = s.lastUnit := rfl
@[simp] theorem State.freeChoice_dma (s : State) : (s.freeChoice).2.dma = s.dma := rfl
@[simp] theorem State.freeChoice_units (s : State) : (s.freeChoice).2.units = s.units := rfl
@[simp] theorem State.freeChoice_clusters (s : State) : (s.freeChoice).2.clusters = s.clusters := rfl
@[simp] theorem State.freeChoice_xlt (s : State) : (s.freeChoice).2.xlt = s.xlt := rfl
@[simp] theorem State.freeChoice_agents (s : State) : (s.freeChoice).2.agents = s.agents := rfl
@[simp] theorem State.freeChoice_slices (s : State) : (s.freeChoice).2.slices = s.slices := rfl
@[simp] theorem State.freeChoice_coh (s : State) : (s.freeChoice).2.coh = s.coh := rfl
@[simp] theorem State.freeChoice_hbm (s : State) : (s.freeChoice).2.hbm = s.hbm := rfl
@[simp] theorem State.freeChoice_mem (s : State) : (s.freeChoice).2.mem = s.mem := rfl
@[simp] theorem State.freeChoice_memPoison (s : State) : (s.freeChoice).2.memPoison = s.memPoison := rfl
@[simp] theorem State.freeChoice_scratch (s : State) : (s.freeChoice).2.scratch = s.scratch := rfl
@[simp] theorem State.freeChoice_scratchPoison (s : State) : (s.freeChoice).2.scratchPoison = s.scratchPoison := rfl
@[simp] theorem State.freeChoice_net (s : State) : (s.freeChoice).2.net = s.net := rfl
@[simp] theorem State.freeChoice_depart (s : State) : (s.freeChoice).2.depart = s.depart := rfl
@[simp] theorem State.freeChoice_stuck (s : State) : (s.freeChoice).2.stuck = s.stuck := rfl

/-! ### Mailboxes -/

@[simp] theorem State.modMbx_now (s : State) (c : Chan) (f) : (s.modMbx c f).now = s.now := by cases c <;> rfl
@[simp] theorem State.modMbx_pending (s : State) (c : Chan) (f) : (s.modMbx c f).pending = s.pending := by cases c <;> rfl
@[simp] theorem State.modMbx_frm (s : State) (c : Chan) (f) : (s.modMbx c f).frm = s.frm := by cases c <;> rfl
@[simp] theorem State.modMbx_frt (s : State) (c : Chan) (f) : (s.modMbx c f).frt = s.frt := by cases c <;> rfl
@[simp] theorem State.modMbx_fea (s : State) (c : Chan) (f) : (s.modMbx c f).fea = s.fea := by cases c <;> rfl
@[simp] theorem State.modMbx_err (s : State) (c : Chan) (f) : (s.modMbx c f).err = s.err := by cases c <;> rfl
@[simp] theorem State.modMbx_lhr (s : State) (c : Chan) (f) : (s.modMbx c f).lhr = s.lhr := by cases c <;> rfl
@[simp] theorem State.modMbx_boot (s : State) (c : Chan) (f) : (s.modMbx c f).boot = s.boot := by cases c <;> rfl
@[simp] theorem State.modMbx_fuses (s : State) (c : Chan) (f) : (s.modMbx c f).fuses = s.fuses := by cases c <;> rfl
@[simp] theorem State.modMbx_flash (s : State) (c : Chan) (f) : (s.modMbx c f).flash = s.flash := by cases c <;> rfl
@[simp] theorem State.modMbx_hpt (s : State) (c : Chan) (f) : (s.modMbx c f).hpt = s.hpt := by cases c <;> rfl
@[simp] theorem State.modMbx_hws (s : State) (c : Chan) (f) : (s.modMbx c f).hws = s.hws := by cases c <;> rfl
@[simp] theorem State.modMbx_bends (s : State) (c : Chan) (f) : (s.modMbx c f).bends = s.bends := by cases c <;> rfl
@[simp] theorem State.modMbx_jobAddr (s : State) (c : Chan) (f) : (s.modMbx c f).jobAddr = s.jobAddr := by cases c <;> rfl
@[simp] theorem State.modMbx_jobEn (s : State) (c : Chan) (f) : (s.modMbx c f).jobEn = s.jobEn := by cases c <;> rfl
@[simp] theorem State.modMbx_dlk (s : State) (c : Chan) (f) : (s.modMbx c f).dlk = s.dlk := by cases c <;> rfl
@[simp] theorem State.modMbx_ncc (s : State) (c : Chan) (f) : (s.modMbx c f).ncc = s.ncc := by cases c <;> rfl
@[simp] theorem State.modMbx_pins (s : State) (c : Chan) (f) : (s.modMbx c f).pins = s.pins := by cases c <;> rfl
@[simp] theorem State.modMbx_queues (s : State) (c : Chan) (f) : (s.modMbx c f).queues = s.queues := by cases c <;> rfl
@[simp] theorem State.modMbx_cmds (s : State) (c : Chan) (f) : (s.modMbx c f).cmds = s.cmds := by cases c <;> rfl
@[simp] theorem State.modMbx_nextCmd (s : State) (c : Chan) (f) : (s.modMbx c f).nextCmd = s.nextCmd := by cases c <;> rfl
@[simp] theorem State.modMbx_nextQueue (s : State) (c : Chan) (f) : (s.modMbx c f).nextQueue = s.nextQueue := by cases c <;> rfl
@[simp] theorem State.modMbx_lastUnit (s : State) (c : Chan) (f) : (s.modMbx c f).lastUnit = s.lastUnit := by cases c <;> rfl
@[simp] theorem State.modMbx_dma (s : State) (c : Chan) (f) : (s.modMbx c f).dma = s.dma := by cases c <;> rfl
@[simp] theorem State.modMbx_units (s : State) (c : Chan) (f) : (s.modMbx c f).units = s.units := by cases c <;> rfl
@[simp] theorem State.modMbx_clusters (s : State) (c : Chan) (f) : (s.modMbx c f).clusters = s.clusters := by cases c <;> rfl
@[simp] theorem State.modMbx_xlt (s : State) (c : Chan) (f) : (s.modMbx c f).xlt = s.xlt := by cases c <;> rfl
@[simp] theorem State.modMbx_agents (s : State) (c : Chan) (f) : (s.modMbx c f).agents = s.agents := by cases c <;> rfl
@[simp] theorem State.modMbx_slices (s : State) (c : Chan) (f) : (s.modMbx c f).slices = s.slices := by cases c <;> rfl
@[simp] theorem State.modMbx_coh (s : State) (c : Chan) (f) : (s.modMbx c f).coh = s.coh := by cases c <;> rfl
@[simp] theorem State.modMbx_hbm (s : State) (c : Chan) (f) : (s.modMbx c f).hbm = s.hbm := by cases c <;> rfl
@[simp] theorem State.modMbx_mem (s : State) (c : Chan) (f) : (s.modMbx c f).mem = s.mem := by cases c <;> rfl
@[simp] theorem State.modMbx_memPoison (s : State) (c : Chan) (f) : (s.modMbx c f).memPoison = s.memPoison := by cases c <;> rfl
@[simp] theorem State.modMbx_scratch (s : State) (c : Chan) (f) : (s.modMbx c f).scratch = s.scratch := by cases c <;> rfl
@[simp] theorem State.modMbx_scratchPoison (s : State) (c : Chan) (f) : (s.modMbx c f).scratchPoison = s.scratchPoison := by cases c <;> rfl
@[simp] theorem State.modMbx_net (s : State) (c : Chan) (f) : (s.modMbx c f).net = s.net := by cases c <;> rfl
@[simp] theorem State.modMbx_depart (s : State) (c : Chan) (f) : (s.modMbx c f).depart = s.depart := by cases c <;> rfl
@[simp] theorem State.modMbx_stuck (s : State) (c : Chan) (f) : (s.modMbx c f).stuck = s.stuck := by cases c <;> rfl
@[simp] theorem State.modMbx_free (s : State) (c : Chan) (f) : (s.modMbx c f).free = s.free := by cases c <;> rfl

theorem State.modMbx_mbx (s : State) (c d : Chan) (f) : (s.modMbx c f).mbx d = if d = c then f (s.mbx c) else s.mbx d := by
  cases c <;> cases d <;> rfl

end Sys2Proof.Machine
end

