-- ==== Sys2Proof/Laws/Unit.lean ====
section
/-! SUPPORT. What a strand's context says, what an issued instruction answers, and the shared operations of the units. -/

namespace Sys2Proof.Machine

open Sys2Proof

/-! ### Contexts -/

theorem State.ctx_some {s : State} {u slot : Nat} {c : Ctx} (h : s.ctx u slot = some c) :
    s.ctxAny u slot = some c ∧ c.t.wait = .ready ∧ s.alive = true ∧ s.unitFenced u = false ∧ s.lhr.stage = 0 ∧
      s.fetching u slot = false ∧ s.turn u slot = true := by
  unfold State.ctx at h
  split at h
  · cases h
  · rename_i hg
    simp only [Bool.or_eq_true, Bool.not_eq_true', bne_iff_ne, ne_eq, not_or, Bool.not_eq_true, Bool.not_eq_false,
      not_not] at hg
    obtain ⟨⟨⟨⟨ha, hf⟩, hl⟩, hr⟩, ht⟩ := hg
    simp only [State.strandReady, h, Option.any_some, Bool.and_eq_true, Bool.not_eq_true'] at hr
    refine ⟨h, ?_, ha, hf, hl, hr.2, ht⟩
    have h1 := hr.1
    cases hq : c.t.wait <;> simp [hq, Wait.isReady] at h1 ⊢

theorem State.ctxAny_some {s : State} {u slot : Nat} {c : Ctx} (h : s.ctxAny u slot = some c) :
    c.u = u ∧ c.slot = slot ∧ s.hankAt u slot = some c.hank ∧ c.hank.strands.find? (fun t => t.slot == slot) = some c.t ∧
      s.cmd? c.hank.launch = some c.cmd ∧ c.cmd.work = .launch c.l := by
  unfold State.ctxAny at h
  split at h
  · cases h
  · split at h
    · split at h
      · cases h
        refine ⟨rfl, rfl, by assumption, by assumption, by assumption, by assumption⟩
      · cases h
    · cases h

theorem State.ctx_u {s : State} {u slot : Nat} {c : Ctx} (h : s.ctx u slot = some c) : c.u = u :=
  (State.ctxAny_some (State.ctx_some h).1).1

theorem State.ctx_slot {s : State} {u slot : Nat} {c : Ctx} (h : s.ctx u slot = some c) : c.slot = slot :=
  (State.ctxAny_some (State.ctx_some h).1).2.1

theorem State.ctx_hank {s : State} {u slot : Nat} {c : Ctx} (h : s.ctx u slot = some c) : s.hankAt u slot = some c.hank :=
  (State.ctxAny_some (State.ctx_some h).1).2.2.1

theorem State.ctx_ready {s : State} {u slot : Nat} {c : Ctx} (h : s.ctx u slot = some c) : c.t.wait = .ready :=
  (State.ctx_some h).2.1

/-! ### Issue -/

@[simp] theorem need_true (e : Stop) : need true e = .ok () := rfl

@[simp] theorem need_false (e : Stop) : need false e = .error e := rfl

theorem need_of {p : Bool} (h : p = true) (e : Stop) : need p e = .ok () := by rw [h]; rfl

/-- Everything an issued instruction can answer. -/
theorem State.issue_cases (s : State) (u slot : Nat) (body : Ctx → Except Stop State) :
    s.issue u slot body = s ∨ ∃ c, s.ctx u slot = some c ∧
      ((∃ t, body c = .ok t ∧ s.issue u slot body = t.took u slot) ∨
        (body c = .error .notDue ∧ s.issue u slot body = s.took u slot) ∨
        ∃ st code kind a, body c = .error (.cause st code kind a) ∧ s.issue u slot body = (s.raise c st code kind a).took u slot) := by
  unfold State.issue
  split
  · exact .inl rfl
  · rename_i c hc
    split
    · exact .inr ⟨c, hc, .inl ⟨_, by assumption, rfl⟩⟩
    · exact .inr ⟨c, hc, .inr (.inl ⟨by assumption, rfl⟩)⟩
    · exact .inr ⟨c, hc, .inr (.inr ⟨_, _, _, _, by assumption, rfl⟩)⟩

theorem State.issue_ok {s t : State} {u slot : Nat} {c : Ctx} {body : Ctx → Except Stop State} (h : s.ctx u slot = some c)
    (hb : body c = .ok t) : s.issue u slot body = t.took u slot := by
  simp only [State.issue, h, hb]

theorem State.issue_cause {s : State} {u slot st code kind a : Nat} {c : Ctx} {body : Ctx → Except Stop State}
    (h : s.ctx u slot = some c) (hb : body c = .error (.cause st code kind a)) :
    s.issue u slot body = (s.raise c st code kind a).took u slot := by
  simp only [State.issue, h, hb]

theorem ShapeA.check_ok {k : ShapeA} {regs : Nat} {f : FmtA} (hl : k.legal f = true) (hf : k.fits regs f = true) :
    k.check regs f = .ok () := by
  simp [ShapeA.check, hl, hf, bind, Except.bind]

/-- A thread instruction that passes its checks. -/
theorem threadA_ok {u slot : Nat} {f : FmtA} {k : ShapeA} {extra : Bool} {body : Ctx → W32 → Strand × Ev} {s : State} {c : Ctx}
    (h : s.ctx u slot = some c) (he : extra = true) (hl : k.legal f = true) (hf : k.fits c.l.desc.regs f = true) :
    threadA u slot f k extra body s =
      ((s.countVts u (body c (c.t.acting f.pg f.pn)).2).retire c (body c (c.t.acting f.pg f.pn)).1.advance).took u slot := by
  refine State.issue_ok h ?_
  simp [he, ShapeA.check_ok hl hf, bind, Except.bind]

/-- A uniform instruction that passes its checks. -/
theorem uniformA_ok {u slot : Nat} {f : FmtA} {k : ShapeA} {extra : Bool} {body : Ctx → Strand} {s : State} {c : Ctx}
    (h : s.ctx u slot = some c) (he : extra = true) (hl : ({ k with uniform := true } : ShapeA).legal f = true)
    (hf : ({ k with uniform := true } : ShapeA).fits c.l.desc.regs f = true) :
    uniformA u slot f k extra body s = (s.retire c (body c).advance).took u slot := by
  refine State.issue_ok h ?_
  simp [he, ShapeA.check_ok hl hf, bind, Except.bind]

@[simp] theorem Ev.sum_nil : Ev.sum [] = {} := rfl

theorem Ev.add_zero (e : Ev) : e.add {} = e := by cases e; rfl

theorem Ev.sum_none (n : Nat) : Ev.sum (List.replicate n ({} : Ev)) = {} := by
  induction n with
  | zero => rfl
  | succ n ih => simpa [Ev.sum, List.replicate_succ, Ev.add] using ih

/-! ### Copies in flight -/

theorem State.copiesOf_nil {s : State} {c : Ctx} (h : (s.unit c.u).copies = []) : s.copiesOf c = [] := by
  simp [State.copiesOf, h]

theorem State.viewTiles_idle {s : State} {c : Ctx} (h : (s.unit c.u).copies = []) (ts : List Nat) :
    s.viewTiles c ts = (c.hank, s) := by
  simp [State.viewTiles, State.copiesOf_nil h]

theorem State.viewHmem_idle {s : State} {c : Ctx} (h : (s.unit c.u).copies = []) (k : Hank) (a n : Nat) :
    s.viewHmem c k a n = (k, s) := by
  simp [State.viewHmem, State.copiesOf_nil h]

theorem State.touchTile_idle {s : State} {c : Ctx} (h : (s.unit c.u).copies = []) (t : Nat) (rows : List Nat) (side : Bool) :
    s.touchTile c t rows side = s := by
  simp [State.touchTile, State.copiesOf_nil h]

theorem State.touchHmem_idle {s : State} {c : Ctx} (h : (s.unit c.u).copies = []) (a n : Nat) : s.touchHmem c a n = s := by
  simp [State.touchHmem, State.copiesOf_nil h]

end Sys2Proof.Machine
end

