-- ==== Sys2Proof/Machine/MsgWord.lean ====
section
/-! DEFINITION. The 128-bit header of a coherence message, both ways (R376, R377). -/

namespace Sys2Proof.Machine

open Sys2Proof

/-- TYPE of a message (R376). -/
def msgCode : MsgType → Nat
  | .rds => 0x01 | .rdo => 0x02 | .upg => 0x03 | .wbk => 0x04 | .evc => 0x05 | .sth => 0x06 | .wnc => 0x07 | .rnc => 0x08 | .anc => 0x09
  | .sns => 0x10 | .sni => 0x11 | .sno => 0x12 | .dat => 0x18 | .datd => 0x19 | .ack => 0x1A

/-- The message type of a code; other codes are reserved (R376). -/
def msgOfCode (n : Nat) : Option MsgType :=
  [.rds, .rdo, .upg, .wbk, .evc, .sth, .wnc, .rnc, .anc, .sns, .sni, .sno, .dat, .datd, .ack].find? (fun t => msgCode t == n)

/-- GRANT of a DAT (R377). -/
def grantCode : Grant → Nat
  | .s => 0 | .e => 1 | .m => 2

/-- The grant of a code; 3 is reserved. -/
def grantOfCode : Nat → Option Grant
  | 0 => some .s | 1 => some .e | 2 => some .m | _ => none

/-- Is it a data message, which says whether its data is poisoned? -/
def carriesData : MsgType → Bool
  | .wbk | .sth | .wnc | .dat | .datd => true
  | _ => false

/-- A DAT from the home grants a state. -/
def grants (t : MsgType) (src : Nat) : Bool := t == .dat && src == 1023

/-- The header of a message: fields that its type does not use are zero (R377). -/
def msgHead (m : Msg) : Nat :=
  let on (b : Bool) (x : Nat) := if b then x else 0
  joinBits [(5, msgCode m.ty), (10, m.src), (10, m.dst), (12, m.txn), (35, m.line / 128), (2, on (grants m.ty m.src) (grantCode m.grant)),
    (1, b2n (m.ty == .datd && m.retain)), (1, b2n (m.ty == .ack && m.no)), (1, b2n (m.ty == .dat && m.stash)),
    (1, b2n (carriesData m.ty && m.poison)), (5, on (m.ty == .anc) m.op), (1, b2n (m.ty == .anc && m.size)),
    (7, on (m.ty == .anc) m.offset), (12, on (m.ty == .sth) m.target), (25, 0)]

/-- The message a header spells, its payload aside: none where TYPE, or GRANT of a DAT from the home, is reserved. -/
def headMsg (w : Nat) : Option Msg :=
  match msgOfCode (bits w 0 5) with
  | none => none
  | some t =>
    let src := bits w 5 10
    match if grants t src then grantOfCode (bits w 72 2) else some .s with
    | none => none
    | some g =>
      some { ty := t, src := src, dst := bits w 15 10, txn := bits w 25 12, line := 128 * bits w 37 35, grant := g
             retain := t == .datd && bit w 74, no := t == .ack && bit w 75, stash := t == .dat && bit w 76
             poison := carriesData t && bit w 77, op := if t == .anc then bits w 78 5 else 0, size := t == .anc && bit w 83
             offset := if t == .anc then bits w 84 7 else 0, target := if t == .sth then bits w 91 12 else 0 }

end Sys2Proof.Machine
end

