-- ==== Sys2Proof/WellFormed.lean ====
section
/-! DEFINITION. Well-formed commands: every operand fits the field or the number of parts that the specification gives it. The
meanings are total and do not rely on it. -/

namespace Sys2Proof

/-- Every field fits its bits (R226, R228). -/
def FmtA.fits (f : FmtA) : Bool :=
  decide (f.pg < 8) && decide (f.d < 256) && decide (f.a < 256) && decide (f.b < 256) && decide (f.c < 256) && decide (f.mod < 16)
    && decide (f.rm < 8) && decide (f.usrc < 8) && decide (f.rsvd < 32)

/-- Every field fits its bits (R226, R229). -/
def FmtI.fits (f : FmtI) : Bool := decide (f.pg < 8) && decide (f.d < 256) && decide (f.a < 256)

/-- Every field fits its bits (R226, R230). -/
def FmtM.fits (f : FmtM) : Bool :=
  decide (f.pg < 8) && decide (f.ord < 4) && decide (f.data < 256) && decide (f.base < 256) && decide (f.size < 8)
    && decide (f.scope < 4)

/-- Every field fits its bits (R226, R231). -/
def FmtB.fits (f : FmtB) : Bool := decide (f.pg < 8) && decide (f.reg < 256)

/-- Every field fits its bits (R226, R232). -/
def FmtT.fits (f : FmtT) : Bool :=
  decide (f.pg < 8) && decide (f.x < 32) && decide (f.y < 32) && decide (f.z < 32) && decide (f.mg < 8) && decide (f.u < 64)
    && decide (f.sub < 64) && decide (f.ty < 8) && decide (f.rm < 8) && decide (f.seg < 16) && decide (f.mode < 4)
    && decide (f.ws < 4)

/-- Every field fits its bits (R226, R264). -/
def FmtQ.fits (f : FmtQ) : Bool :=
  decide (f.pg < 8) && decide (f.us < 64) && decide (f.ud < 64) && decide (f.ug < 64) && decide (f.ac < 32) && decide (f.td < 32)
    && decide (f.qf < 8) && decide (f.h < 4) && decide (f.rm < 8) && decide (f.cap < 4) && decide (f.ws < 4) && decide (f.rsvd < 128)

/-- A line address in the local map (R377). -/
def lineOk (l : Nat) : Bool := decide (l % 128 = 0) && decide (l < 2 ^ 42)

/-- Every field of the header fits its bits (R377). -/
def Msg.fits (m : Msg) : Bool :=
  decide (m.src < 1024) && decide (m.dst < 1024) && decide (m.txn < 4096) && lineOk m.line && decide (m.op < 32)
    && decide (m.offset < 128) && decide (m.target < 4096)

/-- Every field of the header fits its bits, and the payload its limit (R536). -/
def Packet.fits (k : Packet) : Bool :=
  decide (k.ty < 256) && decide (k.cls < 4) && decide (k.src < 16384) && decide (k.dst < 16384) && decide (k.tseq < 65536)
    && decide (k.tag < 4096) && decide (k.addr < 2 ^ 42) && decide (k.aux < 256) && decide (k.payload.length ≤ 512)

/-- Every field of the header fits its bytes, and the body is bytes 16 to 63 (R459). -/
def CmdImg.fits (c : CmdImg) : Bool :=
  decide (c.flags < 256) && decide (c.sigInc < 65536) && decide (c.rsvd < 2 ^ 32) && decide (c.sigKnot < 2 ^ 64)
    && c.body.length == 48

/-- A message at the management port fits its fields (R684). -/
def OpFrom.fits : OpFrom → Bool
  | .mgmt arg offset _ => decide (arg < 256) && decide (offset < 2 ^ 32)
  | _ => true

/-- A hart of the 96 (R18). -/
def Master.fits : Master → Bool
  | .host => true
  | .hart h => decide (h < 96)

/-- The command is well formed. -/
def Instr.wf : Instr → Bool
  | .frameTick _ => true
  | .beacon port master _ _ _ => decide (port < 48) && decide (master < 16384)
  | .beaconMiss => true
  | .frameLock => true
  | .electionStart => true
  | .elect src _ => decide (src < 16384)
  | .electionEnd => true
  | .reload m => m.fits
  | .fritVerifyEnd => true
  | .commit => true
  | .registerWrite m off _ _ => m.fits && decide (off < 2 ^ 28)
  | .nop u slot f => decide (u < 1024) && decide (slot < 32) && f.fits
  | .exit u slot f => decide (u < 1024) && decide (slot < 32) && f.fits
  | .bra u slot f => decide (u < 1024) && decide (slot < 32) && f.fits
  | .bru u slot f => decide (u < 1024) && decide (slot < 32) && f.fits
  | .brc u slot f => decide (u < 1024) && decide (slot < 32) && f.fits
  | .divPush u slot f => decide (u < 1024) && decide (slot < 32) && f.fits
  | .rcv u slot f => decide (u < 1024) && decide (slot < 32) && f.fits
  | .call u slot f => decide (u < 1024) && decide (slot < 32) && f.fits
  | .ret u slot f => decide (u < 1024) && decide (slot < 32) && f.fits
  | .collEnter u slot f => decide (u < 1024) && decide (slot < 32) && f.fits
  | .collExit u slot f => decide (u < 1024) && decide (slot < 32) && f.fits
  | .mov u slot f => decide (u < 1024) && decide (slot < 32) && f.fits
  | .add u slot f => decide (u < 1024) && decide (slot < 32) && f.fits
  | .sub u slot f => decide (u < 1024) && decide (slot < 32) && f.fits
  | .mul u slot f => decide (u < 1024) && decide (slot < 32) && f.fits
  | .mulhi u slot f => decide (u < 1024) && decide (slot < 32) && f.fits
  | .mad u slot f => decide (u < 1024) && decide (slot < 32) && f.fits
  | .and u slot f => decide (u < 1024) && decide (slot < 32) && f.fits
  | .or u slot f => decide (u < 1024) && decide (slot < 32) && f.fits
  | .xor u slot f => decide (u < 1024) && decide (slot < 32) && f.fits
  | .not u slot f => decide (u < 1024) && decide (slot < 32) && f.fits
  | .shl u slot f => decide (u < 1024) && decide (slot < 32) && f.fits
  | .shr u slot f => decide (u < 1024) && decide (slot < 32) && f.fits
  | .shra u slot f => decide (u < 1024) && decide (slot < 32) && f.fits
  | .min u slot f => decide (u < 1024) && decide (slot < 32) && f.fits
  | .max u slot f => decide (u < 1024) && decide (slot < 32) && f.fits
  | .sel u slot f => decide (u < 1024) && decide (slot < 32) && f.fits
  | .setp u slot f => decide (u < 1024) && decide (slot < 32) && f.fits
  | .popc u slot f => decide (u < 1024) && decide (slot < 32) && f.fits
  | .clz u slot f => decide (u < 1024) && decide (slot < 32) && f.fits
  | .fmov u slot f => decide (u < 1024) && decide (slot < 32) && f.fits
  | .fadd u slot f => decide (u < 1024) && decide (slot < 32) && f.fits
  | .fsub u slot f => decide (u < 1024) && decide (slot < 32) && f.fits
  | .fmul u slot f => decide (u < 1024) && decide (slot < 32) && f.fits
  | .ffma u slot f => decide (u < 1024) && decide (slot < 32) && f.fits
  | .fmin u slot f => decide (u < 1024) && decide (slot < 32) && f.fits
  | .fmax u slot f => decide (u < 1024) && decide (slot < 32) && f.fits
  | .fabs u slot f => decide (u < 1024) && decide (slot < 32) && f.fits
  | .fneg u slot f => decide (u < 1024) && decide (slot < 32) && f.fits
  | .fdiv u slot f => decide (u < 1024) && decide (slot < 32) && f.fits
  | .fsqrt u slot f => decide (u < 1024) && decide (slot < 32) && f.fits
  | .frcp u slot f => decide (u < 1024) && decide (slot < 32) && f.fits
  | .frsqrt u slot f => decide (u < 1024) && decide (slot < 32) && f.fits
  | .fexp2 u slot f => decide (u < 1024) && decide (slot < 32) && f.fits
  | .fexp u slot f => decide (u < 1024) && decide (slot < 32) && f.fits
  | .flog2 u slot f => decide (u < 1024) && decide (slot < 32) && f.fits
  | .flog u slot f => decide (u < 1024) && decide (slot < 32) && f.fits
  | .fsinpi u slot f => decide (u < 1024) && decide (slot < 32) && f.fits
  | .fcospi u slot f => decide (u < 1024) && decide (slot < 32) && f.fits
  | .ftanh u slot f => decide (u < 1024) && decide (slot < 32) && f.fits
  | .fsetp u slot f => decide (u < 1024) && decide (slot < 32) && f.fits
  | .fcvt u slot f => decide (u < 1024) && decide (slot < 32) && f.fits
  | .umov u slot f => decide (u < 1024) && decide (slot < 32) && f.fits
  | .uadd u slot f => decide (u < 1024) && decide (slot < 32) && f.fits
  | .usub u slot f => decide (u < 1024) && decide (slot < 32) && f.fits
  | .umul u slot f => decide (u < 1024) && decide (slot < 32) && f.fits
  | .umulhi u slot f => decide (u < 1024) && decide (slot < 32) && f.fits
  | .umad u slot f => decide (u < 1024) && decide (slot < 32) && f.fits
  | .uand u slot f => decide (u < 1024) && decide (slot < 32) && f.fits
  | .uor u slot f => decide (u < 1024) && decide (slot < 32) && f.fits
  | .uxor u slot f => decide (u < 1024) && decide (slot < 32) && f.fits
  | .unot u slot f => decide (u < 1024) && decide (slot < 32) && f.fits
  | .ushl u slot f => decide (u < 1024) && decide (slot < 32) && f.fits
  | .ushr u slot f => decide (u < 1024) && decide (slot < 32) && f.fits
  | .ushra u slot f => decide (u < 1024) && decide (slot < 32) && f.fits
  | .umin u slot f => decide (u < 1024) && decide (slot < 32) && f.fits
  | .umax u slot f => decide (u < 1024) && decide (slot < 32) && f.fits
  | .usel u slot f => decide (u < 1024) && decide (slot < 32) && f.fits
  | .uset u slot f => decide (u < 1024) && decide (slot < 32) && f.fits
  | .upopc u slot f => decide (u < 1024) && decide (slot < 32) && f.fits
  | .uclz u slot f => decide (u < 1024) && decide (slot < 32) && f.fits
  | .movi u slot f => decide (u < 1024) && decide (slot < 32) && f.fits
  | .addi u slot f => decide (u < 1024) && decide (slot < 32) && f.fits
  | .umovi u slot f => decide (u < 1024) && decide (slot < 32) && f.fits
  | .uaddi u slot f => decide (u < 1024) && decide (slot < 32) && f.fits
  | .umovhi u slot f => decide (u < 1024) && decide (slot < 32) && f.fits
  | .lshfl u slot f => decide (u < 1024) && decide (slot < 32) && f.fits
  | .lbal u slot f => decide (u < 1024) && decide (slot < 32) && f.fits
  | .lredAdd u slot f => decide (u < 1024) && decide (slot < 32) && f.fits
  | .lredMin u slot f => decide (u < 1024) && decide (slot < 32) && f.fits
  | .lredMax u slot f => decide (u < 1024) && decide (slot < 32) && f.fits
  | .lfirst u slot f => decide (u < 1024) && decide (slot < 32) && f.fits
  | .pand u slot f => decide (u < 1024) && decide (slot < 32) && f.fits
  | .por u slot f => decide (u < 1024) && decide (slot < 32) && f.fits
  | .pxor u slot f => decide (u < 1024) && decide (slot < 32) && f.fits
  | .pandn u slot f => decide (u < 1024) && decide (slot < 32) && f.fits
  | .pnot u slot f => decide (u < 1024) && decide (slot < 32) && f.fits
  | .pfromu u slot f => decide (u < 1024) && decide (slot < 32) && f.fits
  | .ptou u slot f => decide (u < 1024) && decide (slot < 32) && f.fits
  | .ld u slot f => decide (u < 1024) && decide (slot < 32) && f.fits
  | .st u slot f => decide (u < 1024) && decide (slot < 32) && f.fits
  | .uld u slot f => decide (u < 1024) && decide (slot < 32) && f.fits
  | .atomAdd u slot f => decide (u < 1024) && decide (slot < 32) && f.fits
  | .atomSmin u slot f => decide (u < 1024) && decide (slot < 32) && f.fits
  | .atomSmax u slot f => decide (u < 1024) && decide (slot < 32) && f.fits
  | .atomUmin u slot f => decide (u < 1024) && decide (slot < 32) && f.fits
  | .atomUmax u slot f => decide (u < 1024) && decide (slot < 32) && f.fits
  | .atomAnd u slot f => decide (u < 1024) && decide (slot < 32) && f.fits
  | .atomOr u slot f => decide (u < 1024) && decide (slot < 32) && f.fits
  | .atomXor u slot f => decide (u < 1024) && decide (slot < 32) && f.fits
  | .atomExch u slot f => decide (u < 1024) && decide (slot < 32) && f.fits
  | .atomCas u slot f => decide (u < 1024) && decide (slot < 32) && f.fits
  | .atomFadd u slot f => decide (u < 1024) && decide (slot < 32) && f.fits
  | .fenceAcq u slot f => decide (u < 1024) && decide (slot < 32) && f.fits
  | .fenceRel u slot f => decide (u < 1024) && decide (slot < 32) && f.fits
  | .fenceAr u slot f => decide (u < 1024) && decide (slot < 32) && f.fits
  | .tld u slot f => decide (u < 1024) && decide (slot < 32) && f.fits
  | .tst u slot f => decide (u < 1024) && decide (slot < 32) && f.fits
  | .tldSf u slot f => decide (u < 1024) && decide (slot < 32) && f.fits
  | .tstSf u slot f => decide (u < 1024) && decide (slot < 32) && f.fits
  | .tzero u slot f => decide (u < 1024) && decide (slot < 32) && f.fits
  | .tsetvl u slot f => decide (u < 1024) && decide (slot < 32) && f.fits
  | .tmma u slot f => decide (u < 1024) && decide (slot < 32) && f.fits
  | .tmmaStart u => decide (u < 1024)
  | .wtile u slot f => decide (u < 1024) && decide (slot < 32) && f.fits
  | .wchk u slot f => decide (u < 1024) && decide (slot < 32) && f.fits
  | .tew u slot f => decide (u < 1024) && decide (slot < 32) && f.fits
  | .tcmp u slot f => decide (u < 1024) && decide (slot < 32) && f.fits
  | .tmsk u slot f => decide (u < 1024) && decide (slot < 32) && f.fits
  | .tredRow u slot f => decide (u < 1024) && decide (slot < 32) && f.fits
  | .tredCol u slot f => decide (u < 1024) && decide (slot < 32) && f.fits
  | .tpermRow u slot f => decide (u < 1024) && decide (slot < 32) && f.fits
  | .tpermCol u slot f => decide (u < 1024) && decide (slot < 32) && f.fits
  | .tpermT u slot f => decide (u < 1024) && decide (slot < 32) && f.fits
  | .tqnt u slot f => decide (u < 1024) && decide (slot < 32) && f.fits
  | .tcvt u slot f => decide (u < 1024) && decide (slot < 32) && f.fits
  | .tcvtDq u slot f => decide (u < 1024) && decide (slot < 32) && f.fits
  | .tstat u slot f => decide (u < 1024) && decide (slot < 32) && f.fits
  | .sread u slot f => decide (u < 1024) && decide (slot < 32) && f.fits
  | .sreadw u slot f => decide (u < 1024) && decide (slot < 32) && f.fits
  | .acpyH u slot f => decide (u < 1024) && decide (slot < 32) && f.fits
  | .acpyT u slot f => decide (u < 1024) && decide (slot < 32) && f.fits
  | .acpySf u slot f => decide (u < 1024) && decide (slot < 32) && f.fits
  | .acpyQ u slot f => decide (u < 1024) && decide (slot < 32) && f.fits
  | .acwait u slot f => decide (u < 1024) && decide (slot < 32) && f.fits
  | .acread u slot f => decide (u < 1024) && decide (slot < 32) && f.fits
  | .blyArrive u slot f => decide (u < 1024) && decide (slot < 32) && f.fits
  | .blyWait u slot f => decide (u < 1024) && decide (slot < 32) && f.fits
  | .blySync u slot f => decide (u < 1024) && decide (slot < 32) && f.fits
  | .copyComplete u _ => decide (u < 1024)
  | .stall u _ _ => decide (u < 1024)
  | .writeCombiningDrain u _ => decide (u < 1024)
  | .l1Fill u _ => decide (u < 1024)
  | .walkComplete cl _ => decide (cl < 256)
  | .hankDispatch _ => true
  | .hankEnd u _ _ => decide (u < 1024)
  | .cmdNop q c => decide (q < 2048) && c.fits
  | .launch q c => decide (q < 2048) && c.fits
  | .cane q c => decide (q < 2048) && c.fits
  | .canePublish q c => decide (q < 2048) && c.fits
  | .dma q c => decide (q < 2048) && c.fits
  | .bend q c => decide (q < 2048) && c.fits
  | .knotSignal q c => decide (q < 2048) && c.fits
  | .knotWait q c => decide (q < 2048) && c.fits
  | .qfence q c => decide (q < 2048) && c.fits
  | .hintHeavy q c => decide (q < 2048) && c.fits
  | .hintLight q c => decide (q < 2048) && c.fits
  | .hintExpiry _ => true
  | .mark q c => decide (q < 2048) && c.fits
  | .tailRead q _ => decide (q < 2048)
  | .commandFetch q _ => decide (q < 2048)
  | .knotRead _ _ => true
  | .commandComplete _ => true
  | .timeout _ => true
  | .qdtEnable q => decide (q < 2048)
  | .qdtDisable q => decide (q < 2048)
  | .qdtCancel q => decide (q < 2048)
  | .qdtResume q => decide (q < 2048)
  | .dmaBurstData e c _ _ => decide (e < 16) && decide (c < 16)
  | .dmaTransferComplete e c => decide (e < 16) && decide (c < 16)
  | .dmaBusError e _ => decide (e < 16)
  | .dmaBusErrDrain e => decide (e < 16)
  | .starved e c => decide (e < 16) && decide (c < 16)
  | .paceRead e c => decide (e < 16) && decide (c < 16)
  | .dmaChDisable e c => decide (e < 16) && decide (c < 16)
  | .dmaChEnable e c => decide (e < 16) && decide (c < 16)
  | .rds m => m.fits
  | .rdo m => m.fits
  | .upg m => m.fits
  | .wbk m => m.fits
  | .evc m => m.fits
  | .sth m => m.fits
  | .wnc m => m.fits
  | .rnc m => m.fits
  | .anc m => m.fits
  | .sns m => m.fits
  | .sni m => m.fits
  | .sno m => m.fits
  | .dat m => m.fits
  | .datd m => m.fits
  | .ack m => m.fits
  | .fillComplete line => lineOk line
  | .spillRead line _ => lineOk line
  | .cleatExpiry _ line => lineOk line
  | .reclaimEnd => true
  | .xltInvGo => true
  | .xltInvDone => true
  | .hbmRead line _ => lineOk line
  | .scrubRead stack ch _ => decide (stack < 24) && decide (ch < 34)
  | .remapComplete stack ch _ _ => decide (stack < 24) && decide (ch < 32)
  | .trackerFree stack ch _ _ _ => decide (stack < 24) && decide (ch < 32)
  | .eyeTrack stack ch => decide (stack < 24) && decide (ch < 32)
  | .tgGo stack ch => decide (stack < 24) && decide (ch < 32)
  | .tgStop stack ch => decide (stack < 24) && decide (ch < 32)
  | .tgDone stack ch _ => decide (stack < 24) && decide (ch < 32)
  | .hbmStkClear stack _ => decide (stack < 24)
  | .hbmChCntClear stack ch _ => decide (stack < 24) && decide (ch < 32)
  | .uniVtsClear u _ => decide (u < 1024)
  | .llmCntClear n _ => decide (n < 48)
  | .cohCntClear n _ => decide (n < 48)
  | .hwsPortCntClear p _ => decide (p < 48)
  | .bndCntClear b _ => decide (b < 8)
  | .dlkCntClear n _ => decide (n < 48)
  | .flit p bytes _ _ _ => decide (p < 48) && bytes.length == 256
  | .lack p seq => decide (p < 48) && decide (seq < 4096)
  | .lnak p seq => decide (p < 48) && decide (seq < 4096)
  | .lcred p cls _ => decide (p < 48) && decide (cls < 4)
  | .linkAckDue p => decide (p < 48)
  | .e2eackDue peer cls => decide (peer < 16384) && decide (cls < 4)
  | .e2eack peer cls tseq => decide (peer < 16384) && decide (cls < 4) && decide (tseq < 65536)
  | .rd p k => decide (p < 48) && k.fits
  | .wr p k => decide (p < 48) && k.fits
  | .atomicPacket p k => decide (p < 48) && k.fits
  | .bwr p k => decide (p < 48) && k.fits
  | .data p k => decide (p < 48) && k.fits
  | .ackPacket p k => decide (p < 48) && k.fits
  | .refuse p k => decide (p < 48) && k.fits
  | .join p _ => decide (p < 48)
  | .drain src => decide (src < 16384)
  | .leave src => decide (src < 16384)
  | .leaveBroadcast => true
  | .absenceLimit peer => decide (peer < 16384)
  | .leafReport p _ _ => decide (p < 48)
  | .indexValid => true
  | .laneLockLoss p => decide (p < 48)
  | .laserLoss p => decide (p < 48)
  | .retrainStart p => decide (p < 48)
  | .retrainEnd p _ => decide (p < 48)
  | .portTrained p _ _ _ _ => decide (p < 48)
  | .portRetry p => decide (p < 48)
  | .retrain p => decide (p < 48)
  | .bendPacket b _ => decide (b < 8)
  | .abort b _ _ _ _ => decide (b < 8)
  | .collectiveComplete b _ => decide (b < 8)
  | .jobfreqResult _ _ => true
  | .bar2Read _ _ _ => true
  | .bar2Write _ _ _ _ => true
  | .hptFlush => true
  | .hostRetrain _ _ _ => true
  | .linkDown _ => true
  | .hotReset _ => true
  | .flr _ => true
  | .perstAssert _ => true
  | .perstRelease => true
  | .attach => true
  | .hptParkHead _ => true
  | .confirmReadback q _ => decide (q < 2048)
  | .overpower => true
  | .droop region _ => decide (region < 32)
  | .droopRelax region => decide (region < 32)
  | .rampGrant region => decide (region < 32)
  | .rampStep region => decide (region < 32)
  | .regionQuiet region => decide (region < 32)
  | .stageRequest _ => true
  | .stageExit => true
  | .memReady => true
  | .dlkFlit n _ bytes => decide (n < 48) && bytes.length == 64
  | .dlkNak n seq => decide (n < 48) && decide (seq < 4096)
  | .unitSram u => decide (u < 1024)
  | .clusterCache cl => decide (cl < 256)
  | .ccCache k => decide (k < 12)
  | .vital _ => true
  | .fenceReq => true
  | .errStatusClear _ _ => true
  | .errBankHead b _ => decide (b < 4)
  | .warmReset => true
  | .powerUp => true
  | .railRaise => true
  | .pwrGood => true
  | .marverStart => true
  | .trainingComplete _ _ _ => true
  | .memtestComplete _ => true
  | .nodeStart => true
  | .hartStart => true
  | .knotArm src => src.fits
  | .knotDisarm src => src.fits
  | .report src => src.fits
  | .cert src => src.fits
  | .log src => src.fits
  | .extend src => src.fits
  | .flashWrite src => src.fits
  | .flashActivate src => src.fits
  | .commitSvn src => src.fits
  | .revoke src => src.fits
  | .mbxOpDone _ => true
  | .status => true
  | .wake => true
  | .mgmtWarmReset => true
  | .sbRstAssert => true
  | .sbRstRelease => true
  | .vinUndervoltage => true
  | .vinOvervoltage => true
  | .vinLoss => true
  | .ftrefLoss => true
  | .ftrefReturn => true
  | .linkUp _ _ _ => true
  | .nodeCoreInstruction h _ => decide (h < 96)
  | .mtimecmpExpiry h => decide (h < 96)
  | .spdmRequest _ => true

end Sys2Proof
end

