-- ==== Sys2Proof/Laws/Words.lean ====
section
/-! SUPPORT. Words and headers read back: the fields of a word that fields were laid into are those fields, a unit instruction's word
spells it, and a message's header spells its fields. -/

namespace Sys2Proof.Machine

open Sys2Proof

/-! ### Fields laid one after another -/

theorem joinBits_cons (n v : Nat) (fs : List (Nat × Nat)) : joinBits ((n, v) :: fs) = v % 2 ^ n + 2 ^ n * joinBits fs := rfl

/-- The first field. -/
theorem bits_first (n v : Nat) (fs : List (Nat × Nat)) (h : v < 2 ^ n) : bits (joinBits ((n, v) :: fs)) 0 n = v := by
  rw [joinBits_cons, bits, pow_zero, Nat.div_one, Nat.add_mul_mod_self_left, Nat.mod_mod, Nat.mod_eq_of_lt h]

/-- Fields above the first. -/
theorem bits_skip (n v : Nat) (fs : List (Nat × Nat)) (lo w : Nat) (h : n ≤ lo) :
    bits (joinBits ((n, v) :: fs)) lo w = bits (joinBits fs) (lo - n) w := by
  obtain ⟨k, rfl⟩ := Nat.exists_eq_add_of_le h
  have hp : 0 < 2 ^ n := Nat.two_pow_pos n
  rw [joinBits_cons, bits, bits, Nat.pow_add, ← Nat.div_div_eq_div_mul, Nat.add_mul_div_left _ _ hp,
    Nat.div_eq_of_lt (Nat.mod_lt v hp), Nat.zero_add, Nat.add_sub_cancel_left]

theorem bit_eq (x k : Nat) : bit x k = decide (bits x k 1 = 1) := by
  simp [bit, bits, Nat.testBit_eq_decide_div_mod_eq]

theorem b2n_lt (b : Bool) : b2n b < 2 ^ 1 := by cases b <;> decide

theorem b2n_one (b : Bool) : decide (b2n b = 1) = b := by cases b <;> rfl

theorem joinBits_lt (fs : List (Nat × Nat)) : joinBits fs < 2 ^ (fs.map (·.1)).sum := by
  induction fs with
  | nil => decide
  | cons f fs ih =>
    obtain ⟨n, v⟩ := f
    rw [joinBits_cons, List.map_cons, List.sum_cons, Nat.pow_add]
    have h1 : v % 2 ^ n < 2 ^ n := Nat.mod_lt v (Nat.two_pow_pos n)
    calc v % 2 ^ n + 2 ^ n * joinBits fs < 2 ^ n + 2 ^ n * joinBits fs := by omega
      _ = 2 ^ n * (joinBits fs + 1) := by rw [Nat.mul_add, Nat.mul_one, Nat.add_comm]
      _ ≤ 2 ^ n * 2 ^ (fs.map (·.1)).sum := Nat.mul_le_mul_left _ ih

/-- Fields read out of a number, laid again one after another, from bit lo on. -/
theorem joinBits_of (w lo k n : Nat) (fs : List (Nat × Nat)) (hn : n ≤ k) (h : joinBits fs = bits w (lo + n) (k - n)) :
    joinBits ((n, bits w lo n) :: fs) = bits w lo k := by
  obtain ⟨m, rfl⟩ := Nat.exists_eq_add_of_le hn
  rw [Nat.add_sub_cancel_left] at h
  rw [joinBits_cons, h]
  simp only [bits]
  rw [Nat.mod_mod, Nat.pow_add 2 lo n, ← Nat.div_div_eq_div_mul, Nat.pow_add 2 n m, Nat.mod_mul]

theorem joinBits_end (w lo : Nat) : joinBits [] = bits w lo 0 := by simp [joinBits, bits, Nat.mod_one]

theorem b2n_bit (w k : Nat) : b2n (bit w k) = bits w k 1 := by
  have h : bits w k 1 < 2 := Nat.mod_lt _ (by decide)
  rw [bit_eq]
  rcases (by omega : bits w k 1 = 0 ∨ bits w k 1 = 1) with e | e <;> rw [e] <;> rfl

theorem bits_ofNat (w lo n : Nat) : (BitVec.ofNat n (bits w lo n)).toNat = bits w lo n := by
  rw [BitVec.toNat_ofNat]
  exact Nat.mod_eq_of_lt (Nat.mod_lt _ (Nat.two_pow_pos n))

theorem bits_whole (w : Nat) (h : w < 2 ^ 64) : bits w 0 64 = w := by
  rw [bits, pow_zero, Nat.div_one, Nat.mod_eq_of_lt h]

/-! ### The formats (R226 to R232, R264) -/

theorem encA_reads (f : FmtA) (cls op : Nat) (hf : f.fits = true) (hc : cls < 16) (ho : op < 256) :
    wordA (encA f cls op) = f ∧ bits (encA f cls op) 0 4 = cls ∧ bits (encA f cls op) 4 8 = op ∧ encA f cls op < 2 ^ 64 := by
  obtain ⟨pg, pn, d, a, b, c, mod, rm, sat, usrc, rsvd⟩ := f
  simp only [FmtA.fits, Bool.and_eq_true, decide_eq_true_eq] at hf
  refine ⟨?_, ?_, ?_, joinBits_lt _⟩
  all_goals
    simp (disch := first | decide | exact b2n_lt _ | omega) only [wordA, encA, wordHead, List.cons_append, List.nil_append, bit_eq,
      bits_skip, bits_first, Nat.reduceSub, b2n_one]

theorem encI_reads (f : FmtI) (cls op : Nat) (hf : f.fits = true) (hc : cls < 16) (ho : op < 256) :
    wordI (encI f cls op) = f ∧ bits (encI f cls op) 0 4 = cls ∧ bits (encI f cls op) 4 8 = op ∧ encI f cls op < 2 ^ 64 := by
  obtain ⟨pg, pn, d, a, imm⟩ := f
  simp only [FmtI.fits, Bool.and_eq_true, decide_eq_true_eq] at hf
  refine ⟨?_, ?_, ?_, joinBits_lt _⟩
  all_goals
    simp (disch := first | decide | exact b2n_lt _ | exact BitVec.isLt _ | omega) only [wordI, encI, wordHead, List.cons_append, List.nil_append,
      bit_eq, bits_skip, bits_first, Nat.reduceSub, b2n_one, BitVec.ofNat_toNat, BitVec.setWidth_eq]

theorem encM_reads (f : FmtM) (cls op : Nat) (hf : f.fits = true) (hc : cls < 16) (ho : op < 64) :
    wordM (encM f cls op) = f ∧ bits (encM f cls op) 0 4 = cls ∧ bits (encM f cls op) 4 8 % 64 = op ∧ encM f cls op < 2 ^ 64 := by
  have h8 : bits (encM f cls op) 4 8 = op + 64 * f.ord := by
    obtain ⟨pg, pn, ord, data, base, baseU, size, sign, scope, space, off⟩ := f
    simp only [FmtM.fits, Bool.and_eq_true, decide_eq_true_eq] at hf
    simp (disch := first | decide | omega) only [encM, wordHead, List.cons_append, List.nil_append, bits_skip, bits_first, Nat.reduceSub]
  have h2 : bits (encM f cls op) 10 2 = f.ord := by
    have hd : bits (encM f cls op) 10 2 = bits (encM f cls op) 4 8 / 64 := by
      simp only [bits]
      omega
    rw [hd, h8]
    omega
  have hm : bits (encM f cls op) 4 8 % 64 = op := by omega
  refine ⟨?_, ?_, hm, joinBits_lt _⟩
  all_goals
    try rw [wordM, h2]
    obtain ⟨pg, pn, ord, data, base, baseU, size, sign, scope, space, off⟩ := f
    simp only [FmtM.fits, Bool.and_eq_true, decide_eq_true_eq] at hf
    simp (disch := first | decide | exact b2n_lt _ | exact BitVec.isLt _ | omega) only [encM, wordHead, List.cons_append, List.nil_append,
      bit_eq, bits_skip, bits_first, Nat.reduceSub, b2n_one, BitVec.ofNat_toNat, BitVec.setWidth_eq]

theorem encB_reads (f : FmtB) (cls op : Nat) (hf : f.fits = true) (hc : cls < 16) (ho : op < 256) :
    wordB (encB f cls op) = f ∧ bits (encB f cls op) 0 4 = cls ∧ bits (encB f cls op) 4 8 = op ∧ encB f cls op < 2 ^ 64 := by
  obtain ⟨pg, pn, reg, target⟩ := f
  simp only [FmtB.fits, Bool.and_eq_true, decide_eq_true_eq] at hf
  refine ⟨?_, ?_, ?_, joinBits_lt _⟩
  all_goals
    simp (disch := first | decide | exact b2n_lt _ | exact BitVec.isLt _ | omega) only [wordB, encB, wordHead, List.cons_append, List.nil_append,
      bit_eq, bits_skip, bits_first, Nat.reduceSub, b2n_one, BitVec.ofNat_toNat, BitVec.setWidth_eq]

theorem encT_reads (f : FmtT) (cls op : Nat) (hf : f.fits = true) (hc : cls < 16) (ho : op < 256) :
    wordT (encT f cls op) = f ∧ bits (encT f cls op) 0 4 = cls ∧ bits (encT f cls op) 4 8 = op ∧ encT f cls op < 2 ^ 64 := by
  obtain ⟨pg, pn, x, y, z, mg, u, sub, ty, rm, sat, seg, mode, zf, w, ws, rsvd⟩ := f
  simp only [FmtT.fits, Bool.and_eq_true, decide_eq_true_eq] at hf
  refine ⟨?_, ?_, ?_, ?_⟩
  case refine_4 =>
    unfold encT
    refine lt_of_lt_of_eq (joinBits_lt _) ?_
    simp [wordHead]
  all_goals
    simp (disch := first | decide | exact b2n_lt _ | omega) only [wordT, encT, wordHead, List.cons_append, List.nil_append,
      bit_eq, bits_skip, bits_first, Nat.reduceSub, b2n_one]

theorem encQ_reads (f : FmtQ) (cls op : Nat) (hf : f.fits = true) (hc : cls < 16) (ho : op < 256) :
    wordQ (encQ f cls op) = f ∧ bits (encQ f cls op) 0 4 = cls ∧ bits (encQ f cls op) 4 8 = op ∧ encQ f cls op < 2 ^ 64 := by
  obtain ⟨pg, pn, us, ud, ug, ac, td, qf, h, rm, sf, cap, ws, rsvd⟩ := f
  simp only [FmtQ.fits, Bool.and_eq_true, decide_eq_true_eq] at hf
  refine ⟨?_, ?_, ?_, ?_⟩
  case refine_4 =>
    unfold encQ
    refine lt_of_lt_of_eq (joinBits_lt _) ?_
    simp [wordHead]
  all_goals
    simp (disch := first | decide | exact b2n_lt _ | omega) only [wordQ, encQ, wordHead, List.cons_append, List.nil_append,
      bit_eq, bits_skip, bits_first, Nat.reduceSub, b2n_one]

theorem encA_of (w : Nat) (h : w < 2 ^ 64) : encA (wordA w) (bits w 0 4) (bits w 4 8) = w := by
  refine Eq.trans ?_ (bits_whole w h)
  simp only [encA, wordA, wordHead, List.cons_append, List.nil_append, b2n_bit]
  repeat' refine joinBits_of _ _ _ _ _ (by decide) ?_
  exact joinBits_end _ _

theorem encI_of (w : Nat) (h : w < 2 ^ 64) : encI (wordI w) (bits w 0 4) (bits w 4 8) = w := by
  refine Eq.trans ?_ (bits_whole w h)
  simp only [encI, wordI, wordHead, List.cons_append, List.nil_append, b2n_bit, bits_ofNat]
  repeat' refine joinBits_of _ _ _ _ _ (by decide) ?_
  exact joinBits_end _ _

theorem encB_of (w : Nat) (h : w < 2 ^ 64) : encB (wordB w) (bits w 0 4) (bits w 4 8) = w := by
  refine Eq.trans ?_ (bits_whole w h)
  simp only [encB, wordB, wordHead, List.cons_append, List.nil_append, b2n_bit, bits_ofNat]
  repeat' refine joinBits_of _ _ _ _ _ (by decide) ?_
  exact joinBits_end _ _

theorem encT_of (w : Nat) (h : w < 2 ^ 64) : encT (wordT w) (bits w 0 4) (bits w 4 8) = w := by
  refine Eq.trans ?_ (bits_whole w h)
  simp only [encT, wordT, wordHead, List.cons_append, List.nil_append, b2n_bit]
  repeat' refine joinBits_of _ _ _ _ _ (by decide) ?_
  exact joinBits_end _ _

theorem encQ_of (w : Nat) (h : w < 2 ^ 64) : encQ (wordQ w) (bits w 0 4) (bits w 4 8) = w := by
  refine Eq.trans ?_ (bits_whole w h)
  simp only [encQ, wordQ, wordHead, List.cons_append, List.nil_append, b2n_bit]
  repeat' refine joinBits_of _ _ _ _ _ (by decide) ?_
  exact joinBits_end _ _

theorem encM_of (w : Nat) (h : w < 2 ^ 64) : encM (wordM w) (bits w 0 4) (bits w 4 8 % 64) = w := by
  have ho : bits w 4 8 % 64 + 64 * bits w 10 2 = bits w 4 8 := by
    simp only [bits]
    omega
  refine Eq.trans ?_ (bits_whole w h)
  simp only [encM, wordM, wordHead, List.cons_append, List.nil_append, b2n_bit, bits_ofNat, ho]
  repeat' refine joinBits_of _ _ _ _ _ (by decide) ?_
  exact joinBits_end _ _

/-! ### The opcode map (R227, R234, R265) -/

/-- A word spells an instruction. -/
def Spells (w : Nat) (i : Instr) : Prop := w < 2 ^ 64 ∧ ∃ u slot, unitInstr u slot w = some i

theorem spells_ctl {u slot op : Nat} {f : FmtB} {i : Instr} (hf : f.fits = true) (ho : op < 256) (h : opCtl u slot f op = some i) :
    Spells (encB f 0 op) i := by
  obtain ⟨h1, h2, h3, h4⟩ := encB_reads f 0 op hf (by decide) ho
  exact ⟨h4, u, slot, by rw [unitInstr, h1, h2, h3]; exact h⟩

theorem spells_ialu {u slot op : Nat} {f : FmtA} {i : Instr} (hf : f.fits = true) (ho : op < 256) (h : opIalu u slot f op = some i) :
    Spells (encA f 1 op) i := by
  obtain ⟨h1, h2, h3, h4⟩ := encA_reads f 1 op hf (by decide) ho
  exact ⟨h4, u, slot, by rw [unitInstr, h1, h2, h3]; exact h⟩

theorem spells_falu {u slot op : Nat} {f : FmtA} {i : Instr} (hf : f.fits = true) (ho : op < 256) (h : opFalu u slot f op = some i) :
    Spells (encA f 2 op) i := by
  obtain ⟨h1, h2, h3, h4⟩ := encA_reads f 2 op hf (by decide) ho
  exact ⟨h4, u, slot, by rw [unitInstr, h1, h2, h3]; exact h⟩

theorem spells_ualu {u slot op : Nat} {f : FmtA} {i : Instr} (hf : f.fits = true) (ho : op < 256) (h : opUalu u slot f op = some i) :
    Spells (encA f 3 op) i := by
  obtain ⟨h1, h2, h3, h4⟩ := encA_reads f 3 op hf (by decide) ho
  exact ⟨h4, u, slot, by rw [unitInstr, h1, h2, h3]; exact h⟩

theorem spells_imm {u slot op : Nat} {f : FmtI} {i : Instr} (hf : f.fits = true) (ho : op < 256) (h : opImm u slot f op = some i) :
    Spells (encI f 4 op) i := by
  obtain ⟨h1, h2, h3, h4⟩ := encI_reads f 4 op hf (by decide) ho
  exact ⟨h4, u, slot, by rw [unitInstr, h1, h2, h3]; exact h⟩

theorem spells_lane {u slot op : Nat} {f : FmtA} {i : Instr} (hf : f.fits = true) (ho : op < 256) (h : opLane u slot f op = some i) :
    Spells (encA f 5 op) i := by
  obtain ⟨h1, h2, h3, h4⟩ := encA_reads f 5 op hf (by decide) ho
  exact ⟨h4, u, slot, by rw [unitInstr, h1, h2, h3]; exact h⟩

theorem spells_pred {u slot op : Nat} {f : FmtA} {i : Instr} (hf : f.fits = true) (ho : op < 256) (h : opPred u slot f op = some i) :
    Spells (encA f 6 op) i := by
  obtain ⟨h1, h2, h3, h4⟩ := encA_reads f 6 op hf (by decide) ho
  exact ⟨h4, u, slot, by rw [unitInstr, h1, h2, h3]; exact h⟩

theorem spells_mem {u slot op : Nat} {f : FmtM} {i : Instr} (hf : f.fits = true) (ho : op < 64) (h : opMem u slot f op = some i) :
    Spells (encM f 7 op) i := by
  obtain ⟨h1, h2, h3, h4⟩ := encM_reads f 7 op hf (by decide) ho
  exact ⟨h4, u, slot, by rw [unitInstr, h1, h2, h3]; exact h⟩

theorem spells_tile {u slot op : Nat} {f : FmtT} {i : Instr} (hf : f.fits = true) (ho : op < 256) (h : opTile u slot f op = some i) :
    Spells (encT f 8 op) i := by
  obtain ⟨h1, h2, h3, h4⟩ := encT_reads f 8 op hf (by decide) ho
  exact ⟨h4, u, slot, by rw [unitInstr, h1, h2, h3]; exact h⟩

theorem spells_mma {u slot op : Nat} {f : FmtT} {i : Instr} (hf : f.fits = true) (ho : op < 256) (h : opMma u slot f op = some i) :
    Spells (encT f 9 op) i := by
  obtain ⟨h1, h2, h3, h4⟩ := encT_reads f 9 op hf (by decide) ho
  exact ⟨h4, u, slot, by rw [unitInstr, h1, h2, h3]; exact h⟩

theorem spells_vte {u slot op : Nat} {f : FmtT} {i : Instr} (hf : f.fits = true) (ho : op < 256) (h : opVte u slot f op = some i) :
    Spells (encT f 10 op) i := by
  obtain ⟨h1, h2, h3, h4⟩ := encT_reads f 10 op hf (by decide) ho
  exact ⟨h4, u, slot, by rw [unitInstr, h1, h2, h3]; exact h⟩

theorem spells_async {u slot op : Nat} {f : FmtQ} {i : Instr} (hf : f.fits = true) (ho : op < 256) (h : opAsync u slot f op = some i) :
    Spells (encQ f 11 op) i := by
  obtain ⟨h1, h2, h3, h4⟩ := encQ_reads f 11 op hf (by decide) ho
  exact ⟨h4, u, slot, by rw [unitInstr, h1, h2, h3]; exact h⟩

theorem spells_sys {u slot op : Nat} {f : FmtA} {i : Instr} (hf : f.fits = true) (ho : op < 256) (h : opSys u slot f op = some i) :
    Spells (encA f 12 op) i := by
  obtain ⟨h1, h2, h3, h4⟩ := encA_reads f 12 op hf (by decide) ho
  exact ⟨h4, u, slot, by rw [unitInstr, h1, h2, h3]; exact h⟩

theorem opCtl_word {u slot op : Nat} {f : FmtB} {i : Instr} (h : opCtl u slot f op = some i) :
    unitWord i = some (encB f 0 op) := by
  unfold opCtl at h
  split at h <;> cases h <;> rfl

theorem opIalu_word {u slot op : Nat} {f : FmtA} {i : Instr} (h : opIalu u slot f op = some i) :
    unitWord i = some (encA f 1 op) := by
  unfold opIalu at h
  split at h <;> cases h <;> rfl

theorem opFalu_word {u slot op : Nat} {f : FmtA} {i : Instr} (h : opFalu u slot f op = some i) :
    unitWord i = some (encA f 2 op) := by
  unfold opFalu at h
  split at h <;> cases h <;> rfl

theorem opUalu_word {u slot op : Nat} {f : FmtA} {i : Instr} (h : opUalu u slot f op = some i) :
    unitWord i = some (encA f 3 op) := by
  unfold opUalu at h
  split at h <;> cases h <;> rfl

theorem opImm_word {u slot op : Nat} {f : FmtI} {i : Instr} (h : opImm u slot f op = some i) :
    unitWord i = some (encI f 4 op) := by
  unfold opImm at h
  split at h <;> cases h <;> rfl

theorem opLane_word {u slot op : Nat} {f : FmtA} {i : Instr} (h : opLane u slot f op = some i) :
    unitWord i = some (encA f 5 op) := by
  unfold opLane at h
  split at h <;> cases h <;> rfl

theorem opPred_word {u slot op : Nat} {f : FmtA} {i : Instr} (h : opPred u slot f op = some i) :
    unitWord i = some (encA f 6 op) := by
  unfold opPred at h
  split at h <;> cases h <;> rfl

theorem opMem_word {u slot op : Nat} {f : FmtM} {i : Instr} (h : opMem u slot f op = some i) :
    unitWord i = some (encM f 7 op) := by
  unfold opMem at h
  split at h <;> cases h <;> rfl

theorem opTile_word {u slot op : Nat} {f : FmtT} {i : Instr} (h : opTile u slot f op = some i) :
    unitWord i = some (encT f 8 op) := by
  unfold opTile at h
  split at h <;> cases h <;> rfl

theorem opMma_word {u slot op : Nat} {f : FmtT} {i : Instr} (h : opMma u slot f op = some i) :
    unitWord i = some (encT f 9 op) := by
  unfold opMma at h
  split at h <;> cases h <;> rfl

theorem opVte_word {u slot op : Nat} {f : FmtT} {i : Instr} (h : opVte u slot f op = some i) :
    unitWord i = some (encT f 10 op) := by
  unfold opVte at h
  split at h <;> cases h <;> rfl

theorem opAsync_word {u slot op : Nat} {f : FmtQ} {i : Instr} (h : opAsync u slot f op = some i) :
    unitWord i = some (encQ f 11 op) := by
  unfold opAsync at h
  split at h <;> cases h <;> rfl

theorem opSys_word {u slot op : Nat} {f : FmtA} {i : Instr} (h : opSys u slot f op = some i) :
    unitWord i = some (encA f 12 op) := by
  unfold opSys at h
  split at h <;> cases h <;> rfl

/-- A word that spells an instruction is that instruction's word: no two words spell the same (R226 to R234, R265). -/
theorem unitWord_unitInstr {u slot w : Nat} {i : Instr} (hw : w < 2 ^ 64) (h : unitInstr u slot w = some i) : unitWord i = some w := by
  unfold unitInstr at h
  extract_lets op at h
  split at h
  · rename_i hc
    rw [opCtl_word h, ← hc, encB_of w hw]
  · rename_i hc
    rw [opIalu_word h, ← hc, encA_of w hw]
  · rename_i hc
    rw [opFalu_word h, ← hc, encA_of w hw]
  · rename_i hc
    rw [opUalu_word h, ← hc, encA_of w hw]
  · rename_i hc
    rw [opImm_word h, ← hc, encI_of w hw]
  · rename_i hc
    rw [opLane_word h, ← hc, encA_of w hw]
  · rename_i hc
    rw [opPred_word h, ← hc, encA_of w hw]
  · rename_i hc
    rw [opMem_word h, ← hc, encM_of w hw]
  · rename_i hc
    rw [opTile_word h, ← hc, encT_of w hw]
  · rename_i hc
    rw [opMma_word h, ← hc, encT_of w hw]
  · rename_i hc
    rw [opVte_word h, ← hc, encT_of w hw]
  · rename_i hc
    rw [opAsync_word h, ← hc, encQ_of w hw]
  · rename_i hc
    rw [opSys_word h, ← hc, encA_of w hw]
  · cases h

/-! ### Message headers (R376, R377) -/

theorem msgCode_lt (t : MsgType) : msgCode t < 2 ^ 5 := by cases t <;> decide

theorem msgOfCode_msgCode (t : MsgType) : msgOfCode (msgCode t) = some t := by cases t <;> decide

theorem grantOfCode_grantCode (g : Grant) : grantOfCode (grantCode g) = some g := by cases g <;> rfl

/-- A message's header spells its type, ends, transaction and line, and whatever else its type uses. -/
theorem headMsg_msgHead (m : Msg) (hf : m.fits = true) : ∃ k, headMsg (msgHead m) = some k ∧ k.ty = m.ty ∧ k.src = m.src ∧ k.dst = m.dst ∧
    k.txn = m.txn ∧ k.line = m.line ∧ (grants m.ty m.src = true → k.grant = m.grant) ∧ (m.ty = .datd → k.retain = m.retain) ∧
    (m.ty = .ack → k.no = m.no) ∧ (m.ty = .dat → k.stash = m.stash) ∧ (carriesData m.ty = true → k.poison = m.poison) ∧
    (m.ty = .anc → k.op = m.op ∧ k.size = m.size ∧ k.offset = m.offset) ∧ (m.ty = .sth → k.target = m.target) := by
  simp only [Msg.fits, lineOk, Bool.and_eq_true, decide_eq_true_eq] at hf
  have hl : m.line / 128 < 2 ^ 35 := by omega
  have hm : 128 * (m.line / 128) = m.line := by omega
  have hg : (if grants m.ty m.src then grantCode m.grant else 0) < 2 ^ 2 := by split <;> [(cases m.grant <;> decide); decide]
  have ho : (if m.ty == .anc then m.op else 0) < 2 ^ 5 := by split <;> omega
  have hx : (if m.ty == .anc then m.offset else 0) < 2 ^ 7 := by split <;> omega
  have ht : (if m.ty == .sth then m.target else 0) < 2 ^ 12 := by split <;> omega
  unfold headMsg msgHead
  simp (disch := first | assumption | decide | exact msgCode_lt _ | exact b2n_lt _ | omega) only [bit_eq, bits_skip, bits_first, Nat.reduceSub,
    b2n_one, msgOfCode_msgCode, hm]
  by_cases g : grants m.ty m.src = true
  · simp only [g, if_true, grantOfCode_grantCode]
    refine ⟨_, rfl, rfl, rfl, rfl, rfl, rfl, ?_⟩
    simp +contextual
  · simp only [g, if_false, Bool.false_eq_true]
    refine ⟨_, rfl, rfl, rfl, rfl, rfl, rfl, ?_⟩
    simp +contextual

end Sys2Proof.Machine
end

