-- ==== Sys2Proof/Tests/Slice0.lean ====
section
/-! SUPPORT. Tests: ill-formed commands are refused by `Instr.wf`; for each statement with hypotheses, concrete states and
operands that meet them together; and what single commands leave, the expected values taken from the specification. -/

namespace Sys2Proof.Tests

set_option Elab.async false

open Sys2Proof Sys2Proof.Machine

/-! ### Well-formed commands -/

def fmtA : FmtA := { pg := 7, d := 255, a := 255, b := 255, c := 255, mod := 15, rm := 7, usrc := 7, rsvd := 31 }
def fmtM : FmtM := { pg := 7, ord := 3, data := 255, base := 255, size := 7, scope := 3 }
def fmtT : FmtT :=
  { pg := 7, x := 31, y := 31, z := 31, mg := 7, u := 63, sub := 63, ty := 7, rm := 7, seg := 15, mode := 3, ws := 3 }
def fmtQ : FmtQ :=
  { pg := 7, us := 63, ud := 63, ug := 63, ac := 31, td := 31, qf := 7, h := 3, rm := 7, cap := 3, ws := 3, rsvd := 127 }
def msgFit : Msg := { ty := .rds, src := 1023, dst := 1023, txn := 4095, line := 2 ^ 42 - 128, op := 31, offset := 127, target := 4095 }
def packetFit : Packet :=
  { ty := 255, cls := 3, src := 16383, dst := 16383, tseq := 65535, tag := 4095, addr := 2 ^ 42 - 1, aux := 255 }
def imgFit : CmdImg := { flags := 255, sigInc := 65535, rsvd := 2 ^ 32 - 1, sigKnot := 2 ^ 64 - 1, body := List.replicate 48 0 }

theorem test_wf_accepts_every_operand_at_its_bound :
    (∀ i ∈ [Instr.mov 1023 31 fmtA, .movi 1023 31 { pg := 7, d := 255, a := 255 }, .ld 1023 31 fmtM, .bra 1023 31 { pg := 7, reg := 255 },
      .tew 1023 31 fmtT, .acpyH 1023 31 fmtQ, .rds msgFit, .rd 47 packetFit, .launch 2047 imgFit, .elect 16383 0, .reload (.hart 95),
      .registerWrite .host (2 ^ 28 - 1) 8 0, .dmaChEnable 15 15, .scrubRead 23 31 {}, .llmCntClear 47 0, .bndCntClear 7 0,
      .lack 47 4095, .e2eack 16383 3 65535, .droop 31 0, .errBankHead 3 0, .ccCache 11, .clusterCache 255, .mtimecmpExpiry 95,
      .dlkNak 47 4095, .knotArm (.mgmt 255 0 []), .walkComplete 255 0], i.wf = true) := by decide +kernel

theorem test_wf_refuses_thread_fields :
    (∀ f ∈ [{ fmtA with pg := 8 }, { fmtA with d := 256 }, { fmtA with a := 256 }, { fmtA with b := 256 }, { fmtA with c := 256 },
      { fmtA with mod := 16 }, { fmtA with rm := 8 }, { fmtA with usrc := 8 }, { fmtA with rsvd := 32 }],
      (Instr.fmov 0 0 f).wf = false) ∧
    (∀ f ∈ [{ pg := 8 }, { d := 256 }, { a := 256 }], (Instr.addi 0 0 f).wf = false) ∧
    (∀ f ∈ [{ pg := 8 }, { reg := 256 }], (Instr.call 0 0 f).wf = false) ∧
    (∀ f ∈ [{ fmtM with pg := 8 }, { fmtM with ord := 4 }, { fmtM with data := 256 }, { fmtM with base := 256 }, { fmtM with size := 8 },
      { fmtM with scope := 4 }], (Instr.st 0 0 f).wf = false) := by decide +kernel

theorem test_wf_refuses_tile_fields :
    (∀ f ∈ [{ fmtT with pg := 8 }, { fmtT with x := 32 }, { fmtT with y := 32 }, { fmtT with z := 32 }, { fmtT with mg := 8 },
      { fmtT with u := 64 }, { fmtT with sub := 64 }, { fmtT with ty := 8 }, { fmtT with rm := 8 }, { fmtT with seg := 16 },
      { fmtT with mode := 4 }, { fmtT with ws := 4 }], (Instr.tmma 0 0 f).wf = false) ∧
    (∀ f ∈ [{ fmtQ with pg := 8 }, { fmtQ with us := 64 }, { fmtQ with ud := 64 }, { fmtQ with ug := 64 }, { fmtQ with ac := 32 },
      { fmtQ with td := 32 }, { fmtQ with qf := 8 }, { fmtQ with h := 4 }, { fmtQ with rm := 8 }, { fmtQ with cap := 4 },
      { fmtQ with ws := 4 }, { fmtQ with rsvd := 128 }], (Instr.acpyQ 0 0 f).wf = false) := by decide +kernel

theorem test_wf_refuses_message_and_packet_fields :
    (∀ m ∈ [{ msgFit with src := 1024 }, { msgFit with dst := 1024 }, { msgFit with txn := 4096 }, { msgFit with line := 2 ^ 42 },
      { msgFit with line := 64 }, { msgFit with op := 32 }, { msgFit with offset := 128 }, { msgFit with target := 4096 }],
      (Instr.anc m).wf = false) ∧
    (∀ k ∈ [{ packetFit with ty := 256 }, { packetFit with cls := 4 }, { packetFit with src := 16384 }, { packetFit with dst := 16384 },
      { packetFit with tseq := 65536 }, { packetFit with tag := 4096 }, { packetFit with addr := 2 ^ 42 }, { packetFit with aux := 256 },
      { packetFit with payload := List.replicate 513 0 }], (Instr.data 0 k).wf = false) ∧
    (∀ c ∈ [{ imgFit with flags := 256 }, { imgFit with sigInc := 65536 }, { imgFit with rsvd := 2 ^ 32 }, { imgFit with sigKnot := 2 ^ 64 },
      { imgFit with body := [] }], (Instr.dma 0 c).wf = false) := by decide +kernel

theorem test_wf_refuses_numbers_of_parts_that_do_not_exist :
    (∀ i ∈ [Instr.nop 1024 0 {}, .nop 0 32 {}, .tmmaStart 1024, .walkComplete 256 0, .launch 2048 imgFit, .qdtEnable 2048,
      .tailRead 2048 .failed, .dmaChEnable 16 0, .dmaChEnable 0 16, .dmaBusError 16 0, .fillComplete 64, .hbmRead (2 ^ 42) {},
      .cleatExpiry 0 1, .scrubRead 24 0 {}, .scrubRead 0 34 {}, .hbmStkClear 24 0, .llmCntClear 48 0, .cohCntClear 48 0,
      .hwsPortCntClear 48 0, .bndCntClear 8 0, .dlkCntClear 48 0, .uniVtsClear 1024 0, .flit 48 (List.replicate 256 0) 0 false false,
      .flit 0 [] 0 false false, .lack 48 0, .lack 0 4096, .lcred 0 4 0, .e2eack 16384 0 0, .e2eack 0 4 0, .e2eack 0 0 65536,
      .rd 48 packetFit, .drain 16384, .leave 16384, .absenceLimit 16384, .elect 16384 0, .beacon 48 0 0 { period := 0 } 0, .beacon 0 16384 0 { period := 0 } 0,
      .laneLockLoss 48, .retrain 48, .bendPacket 8 { group := 0, tag := 0, number := 0, rank := 0, signature := 0, bytes := [] }, .collectiveComplete 8 0,
      .confirmReadback 2048 .failed, .droop 32 0, .rampGrant 32, .dlkFlit 48 false (List.replicate 64 0), .dlkFlit 0 false [],
      .dlkNak 0 4096, .unitSram 1024, .clusterCache 256, .ccCache 12, .errBankHead 4 0, .mtimecmpExpiry 96,
      .nodeCoreInstruction 96 .fence, .reload (.hart 96), .registerWrite .host (2 ^ 28) 8 0, .knotArm (.mgmt 256 0 []),
      .knotArm (.mgmt 0 (2 ^ 32) [])], i.wf = false) := by decide +kernel

/-! ### Witnesses: a strand on a unit -/

def desc : Desc := { entry := 0x1000, threads := 45, regs := 24, tiles := 32, masks := 7, hmem := 1, acs := 3, belays := 3, divSpill := 1 }
def launch : Launch := { desc := desc, args := 0xABC, hankCount := 9 }
def launchCmd : Cmd := { id := 7, queue := 0, seq := 0x1234, work := .launch launch, features := BitVec.allOnes 128 }
def strand : Strand :=
  { slot := 0, index := 0, pc := 0x1000, live := 0xFFFFFFFF, active := 0xFFFFFFFF, w := [(1, 5), (2, 7)], u := [(3, 0x2000)],
    p := [(1, 0xFF)] }
def ctxOf (t : Strand) (h : Hank := { launch := 7, index := 4, strands := [] }) : Ctx :=
  { u := 5, slot := 0, hank := { h with strands := [t] }, t := t, cmd := launchCmd, l := launch }
/-- A translation that maps every virtual address of the first 2^39 onto itself (R329, R331). -/
def page : Tlb := { asid := 0, glob := true, size := 2 ^ 39, vpage := 0, ppage := 0, flags := 0xDF, pbmt := 0 }
def stateOf (c : Ctx) (x : UnitSt := {}) : State :=
  { State.reset with now := 4096, cmds := [c.cmd], nextCmd := 8, units := [(5, { x with hanks := [c.hank], tlb := [page] })] }

theorem test_ctx_of_state (t : Strand) (h : t.slot = 0) (h' : t.wait = .ready) (x : UnitSt) (hi : x.issued = 31) (hf : x.fetchMiss = []) :
    (stateOf (ctxOf t) x).ctx 5 0 = some (ctxOf t) := by
  simp [State.ctx, State.ctxAny, State.hankAt, State.unit, stateOf, ctxOf, Tbl.get, h, h', hi, hf, State.cmd?, launchCmd, State.alive,
    State.unitFenced, State.reset, State.fetching, State.cluster, Wait.isReady, State.strandReady, State.turn]

def fA3 : FmtA := { pg := 7, pn := true, d := 22, a := 20, b := 18, mod := 1 }
def fA2 : FmtA := { fA3 with b := 0 }

theorem test_hyp_IaluResults :
    (stateOf (ctxOf strand)).ctx 5 0 = some (ctxOf strand) ∧
    (∀ b ∈ [Opnd.w, .unused], ∀ k ∈ [Opnd.w, .unused, .p],
      let f : FmtA := { fA3 with b := if b = .w then 18 else 0, c := if k = .w then 16 else if k = .p then 7 else 0 }
      f.mod < 4 ∧ (ialuShape f .w b k).legal f ∧ (ialuShape f .w b k).fits 24 f) := by decide +kernel

theorem test_hyp_ComparesSetTheirMask :
    (stateOf (ctxOf strand)).ctx 5 0 = some (ctxOf strand) ∧
    (∀ rm ∈ List.range 8,
      let f : FmtA := { pg := 7, d := 7, a := 22, b := 20, mod := 3, rm := rm }
      f.rm < 8 ∧ f.mod < 4 ∧ (ialuShape f .pd .w .unused).legal f ∧ (ialuShape f .pd .w .unused).fits 24 f) ∧
    (∀ mod ∈ List.range 5,
      let f : FmtA := { pg := 0, d := 1, a := 22, b := 63, mod := mod, rm := 7, usrc := 2 }
      let k : ShapeA := { d := .pd, a := .w, b := .w, wa := mod == 0, wb := mod == 0, usrc := true, modOk := true, rmOk := true }
      f.rm < 8 ∧ f.mod < 5 ∧ k.legal f ∧ k.fits 24 f) := by decide +kernel

theorem test_hyp_LaneWritesAreExact :
    Tbl.wf 0 strand.w = true ∧ Tbl.wf 0 strand.p = true ∧ Tbl.wf 0 strand.u = true ∧ 31 < 32 ∧ 255 < 256 ∧ 254 + b2n true < 256 := by
  decide +kernel

theorem test_hyp_FaluResults :
    (stateOf (ctxOf strand)).ctx 5 0 = some (ctxOf strand) ∧
    (∀ r ∈ [(0x00, Opnd.unused, Opnd.unused), (0x01, .w, .unused), (0x04, .w, .w), (0x05, .w, .unused), (0x07, .unused, .unused),
        (0x10, .w, .unused), (0x11, .unused, .unused)],
      let f : FmtA := { d := 22, a := 20, b := if r.2.1 = .w then 18 else 0, c := if r.2.2 = .w then 16 else 0 }
      tyAccepts f.mod r.1 ∧ (faluShape f.mod r.1 .w r.2.1 r.2.2).legal f ∧ (faluShape f.mod r.1 .w r.2.1 r.2.2).fits 24 f) ∧
    (∀ op ∈ [0x12, 0x13, 0x14, 0x15, 0x16, 0x17, 0x18, 0x19, 0x1A], ∀ mod ∈ [1, 2, 3],
      let f : FmtA := { d := 23, a := 23, mod := mod, rm := 4 }
      f.mod < 5 ∧ f.rm < 5 ∧ tyAccepts mod op ∧ (faluShape mod op .w .unused .unused).legal f ∧
        (faluShape mod op .w .unused .unused).fits 24 f) ∧
    (∀ mod ∈ List.range 5, ∀ c ∈ List.range 5,
      let f : FmtA := { d := 22, a := 20, c := c, mod := mod, rm := 4, sat := true }
      let k : ShapeA := { d := .w, a := .w, c := .code, wd := mod == 0, wa := c == 0, usrc := true, modOk := true, rmOk := true, satOk := true }
      f.c < 5 ∧ k.legal f ∧ k.fits 24 f) := by decide +kernel

/-- A strand about to leave: only lane 0 lives, three entries on the stack, one of them empty of live lanes. -/
def leaving : Strand :=
  { strand with live := 1, active := 1, stack := [{ pending := true, mask := 2, target := 8 }, { pending := false, mask := 3, target := 16 }] }

theorem test_hyp_ControlFlow :
    (stateOf (ctxOf strand)).ctx 5 0 = some (ctxOf strand) ∧ (stateOf (ctxOf leaving)).ctx 5 0 = some (ctxOf leaving) ∧
    (15 < 16 ∧ 63 < 64 ∧ strand.rdU 3 % 8 = 0 ∧ ({ strand with u := [(3, 4)] } : Strand).rdU 3 % 8 ≠ 0) ∧
    -- EXIT of some lanes, of the last active lane, of all lanes, and inside a collective region
    (let out := fun (t : Strand) => let e := t.active &&& t.rdP 1; (e, t.live &&& ~~~e, t.active &&& ~~~e)
     (strand.cd = 0 ∧ (out strand).2.1 ≠ 0 ∧ (out strand).2.2 ≠ 0) ∧
     (let t := { strand with active := 1 }; (out t).2.1 ≠ 0 ∧ (out t).2.2 = 0) ∧ (out leaving).2.1 = 0 ∧
     (let t := { strand with cd := 1 }; t.cd ≠ 0 ∧ (out t).1 ≠ 0)) := by decide +kernel

theorem test_hyp_ResumePopsThroughEmptyPaths :
    (∀ b ∈ leaving.spilled, 0 < b.length ∧ b.length ≤ 16) ∧ leaving.stack.length ≤ 32 ∧
    (let t := { strand with stack := List.replicate 32 { pending := false, mask := 1, target := 8 } }
     t.stack.length ≤ 32 ∧ (t.push 1 { pending := false, mask := 1, target := 8 }).isSome ∧
       t.push 0 { pending := false, mask := 1, target := 8 } = none) := by decide +kernel

theorem test_resume_skips_the_path_without_live_lanes :
    leaving.resume leaving.depth = some { leaving with stack := [], active := 1, pc := 16 } := by decide +kernel

theorem test_hyp_CollectiveRegions :
    (stateOf (ctxOf { strand with cd := 14 })).ctx 5 0 = some (ctxOf { strand with cd := 14 }) ∧
    (stateOf (ctxOf { strand with cd := 15 })).ctx 5 0 = some (ctxOf { strand with cd := 15 }) ∧
    (stateOf (ctxOf { strand with active := 1 })).ctx 5 0 = some (ctxOf { strand with active := 1 }) := by decide +kernel

def fU : FmtA := { d := 63, a := 63 }

theorem test_hyp_UniformResults :
    (stateOf (ctxOf strand)).ctx 5 0 = some (ctxOf strand) ∧
    (∀ b ∈ [Opnd.u, .unused], ∀ k ∈ [Opnd.u, .unused, .p],
      let f : FmtA := { fU with mod := 3, b := if b = .u then 63 else 0, c := if k = .u then 63 else if k = .p then 7 else 0 }
      let sh : ShapeA := { d := .u, a := .u, b := b, c := k, modOk := true, uniform := true }
      sh.legal f ∧ sh.fits 24 f) ∧
    (({ d := .u, a := .u, b := .u, modOk := true, rmOk := true, uniform := true } : ShapeA).legal { fU with b := 63, mod := 3, rm := 7 }) ∧
    (∀ x ∈ [(({ a := .p } : ShapeA), ({ d := 63, a := 7 } : FmtA)), ({ a := .w, usrc := true }, { d := 63, a := 23 })],
      ({ x.1 with d := .u, uniform := true } : ShapeA).legal x.2 ∧ ({ x.1 with d := .u, uniform := true } : ShapeA).fits 24 x.2) ∧
    (∀ x ∈ [(({ a := .p, b := .p } : ShapeA), ({ d := 7, a := 7, b := 7 } : FmtA)), ({ a := .p }, { d := 7, a := 7 }),
        ({ a := .u }, { d := 7, a := 63 })],
      ({ x.1 with d := .pd, uniform := true } : ShapeA).legal x.2 ∧ ({ x.1 with d := .pd, uniform := true } : ShapeA).fits 24 x.2) ∧
    (∀ n ∈ List.range 9, ({ d := .u, a := .code, uniform := true } : ShapeA).legal { d := 63, a := n }) := by decide +kernel

theorem test_hyp_LaneImmediates :
    (stateOf (ctxOf { strand with cd := 1 })).ctx 5 0 = some (ctxOf { strand with cd := 1 }) ∧
    (stateOf (ctxOf { strand with cd := 1, active := 1 })).ctx 5 0 = some (ctxOf { strand with cd := 1, active := 1 }) ∧
    (7 < 8 ∧ 23 < desc.regs) ∧
    (({ d := .w, a := .w, b := .w, usrc := true } : ShapeA).legal { d := 23, a := 23, b := 63, usrc := 2 } ∧
      ({ d := .w, a := .w, b := .w, usrc := true } : ShapeA).fits 24 { d := 23, a := 23, b := 63, usrc := 2 }) ∧
    (∀ n ∈ List.range 2, ({ d := .w, a := .code } : ShapeA).legal { d := 23, a := n } ∧ ({ d := .w, a := .code } : ShapeA).fits 24 { d := 23, a := n }) ∧
    (∀ mod ∈ List.range 4,
      let wide := mod.testBit 0
      let k : ShapeA := { d := .u, a := .w, wa := wide, uniform := true, usrc := true, modOk := true }
      k.legal { d := 63, a := 22, mod := mod } ∧ k.fits 24 { d := 63, a := 22, mod := mod }) := by decide +kernel

/-! ### Witnesses: memory instructions and tiles -/

/-- A strand whose base registers w[2..3], u[3] and u[4] hold addresses: hank byte 512, global byte 0x2000, a row step of 128. -/
def reader : Strand :=
  { strand with active := 1, w := [(2, 512), (4, 77)], u := [(3, 0x2000), (4, 128), (5, 0)] }
def fLd : FmtM := { data := 20, base := 2, size := 4, sign := true, space := true }
def fGl : FmtM := { data := 23, base := 3, baseU := true, size := 2 }

theorem test_hyp_MemoryInstructionsAccess :
    (stateOf (ctxOf reader)).ctx 5 0 = some (ctxOf reader) ∧
    (LdStFine false { fLd with ord := 1, off := -16 } (ctxOf reader) ∧ LdStFine true { fLd with ord := 2 } (ctxOf reader) ∧
      LdStFine false fGl (ctxOf reader)) ∧
    UldFine { fGl with data := 63, size := 3, ord := 1 } (ctxOf reader) ∧
    (∀ op ∈ [0x08, 0x09, 0x0A, 0x0B, 0x0C, 0x0D, 0x0E, 0x0F, 0x10, 0x11], AtomFine op { fGl with data := 22, size := 3, ord := 3, off := 4 } (ctxOf reader)) ∧
    AtomFine 0x12 { fGl with ord := 3, off := 5 } (ctxOf reader) ∧ FenceFine { scope := 3 } ∧
    -- misaligned, and past the hank's memory
    (laneAddress { fLd with off := 8 } reader 8 0 % 2 ^ 4 ≠ 0 ∧ laneAddress { fLd with off := 512 } reader 512 0 % 2 ^ 4 = 0 ∧
      1024 * desc.hmem < laneAddress { fLd with off := 512 } reader 512 0 + 2 ^ 4 ∧ BaseFits fLd desc.regs) := by
  repeat' apply And.intro
  all_goals repeat (first | unfold LdStFine | unfold UldFine | unfold AtomFine | unfold FenceFine | unfold Reachable | unfold BaseFits)
  all_goals (try dsimp only)
  all_goals decide +kernel

def together : Strand := { strand with cd := 1, u := [(3, 0x2000), (4, 128), (5, 0)] }
def fTld : FmtT := { x := 31, u := 3, sub := 4 }

theorem test_hyp_MemoryInstructionsAccess_of_tiles :
    (stateOf (ctxOf together)).ctx 5 0 = some (ctxOf together) ∧ ((stateOf (ctxOf together)).unit 5).copies = [] ∧
    TileMoveFine true false fTld (stateOf (ctxOf together)) (ctxOf together) ∧
    TileMoveFine true true fTld (stateOf (ctxOf together)) (ctxOf together) ∧
    TileMoveFine false false { fTld with sub := 0 } (stateOf (ctxOf together)) (ctxOf together) ∧
    TileMoveFine false true { fTld with sub := 0 } (stateOf (ctxOf together)) (ctxOf together) ∧
    -- in hank memory: all rows of the tile at byte 0, the side-file up to the last byte of the hank's 1 KiB
    TileMoveFine true false { x := 31, u := 5, sub := 5, mode := 1 } (stateOf (ctxOf together)) (ctxOf together) ∧
    TileMoveFine false true { x := 31, u := 5, mode := 1 } (stateOf (ctxOf together)) (ctxOf together) := by
  repeat' apply And.intro
  all_goals repeat (first | unfold TileMoveFine | unfold Together | unfold Reachable)
  all_goals (try dsimp only)
  all_goals decide +kernel

theorem test_hyp_HankMemoryCompletes :
    Tables (stateOf (ctxOf reader)) ∧ ((stateOf (ctxOf reader)).unit 5).copies = [] ∧
    AtomFine 0x11 { fLd with size := 3, off := 0x404 } (ctxOf reader) ∧
    ReleaseDone (stateOf (ctxOf reader)) 5 (atomOp 0x11 { fLd with size := 3, ord := 3 } (ctxOf reader)) ∧
    ReleaseDone (stateOf (ctxOf reader)) 5 (ldStOp true { fLd with ord := 2 } (ctxOf reader)) ∧
    ReleaseDone (stateOf (ctxOf reader)) 5 (fenceOp 3 { scope := 3 }) ∧
    (∀ r ∈ [(true, false), (true, true)],
      TileMoveFine r.1 r.2 { x := 31, u := 5, sub := 5, mode := 1 } (stateOf (ctxOf together)) (ctxOf together)) ∧
    (∀ r ∈ [(false, false), (false, true)], TileMoveFine r.1 r.2 { x := 31, u := 5, mode := 1 } (stateOf (ctxOf together)) (ctxOf together)) := by
  repeat' apply And.intro
  all_goals repeat (first | unfold Tables | unfold AtomFine | unfold TileMoveFine | unfold Together | unfold Reachable | unfold ReleaseDone | unfold BaseFits)
  all_goals (try dsimp only)
  all_goals decide +kernel

/-- A unit with the line of byte 0x2000 in its L1, and the same line in M at its cluster. -/
def cachedState : State :=
  { stateOf (ctxOf reader) { l1 := [{ addr := 0x2000, data := 0xABCD }] } with
    agents := [(1, { lines := [{ line := 0x2000, st := .M, data := 0xABCD }] })] }
def piece : Piece := { lane := 0, va := 0x2000, len := 4 }

theorem test_hyp_GlobalAccessesComplete :
    Tables cachedState ∧ cachedState.ctx 5 0 = some (ctxOf reader) ∧ fGl.space = false ∧
    (cachedState.unit 5).tlb.find? (fun t => t.hits (asAsid launchCmd.asroot) 0x2000) = some page ∧
    cachedState.route (ctxOf reader) (page.pa 0x2000) = .here 0x2000 ∧ cachedState.l1Tag (page.pa 0x2000) = some 0x2000 ∧ page.pbmt = 0 ∧
    (LdStFine false fGl (ctxOf reader) ∧ (ldStOp false fGl (ctxOf reader)).pieces = [piece] ∧
      UldFine fGl (ctxOf reader) ∧ (uldOp fGl (ctxOf reader)).pieces = [piece] ∧ permCause page.flags .load = none ∧
      ((cachedState.unit 5).l1Find 0x2000).isSome) ∧
    (LdStFine true fGl (ctxOf reader) ∧ (ldStOp true fGl (ctxOf reader)).pieces = [{ piece with bytes := leBytes 4 0 }] ∧
      permCause page.flags .store = none ∧ ReleaseDone cachedState 5 (ldStOp true fGl (ctxOf reader)) ∧ (cachedState.unit 5).wc.length < 32) ∧
    ((∀ op ∈ [0x08, 0x09, 0x0A, 0x0B, 0x0C, 0x0D, 0x0E, 0x0F, 0x10, 0x11, 0x12], AtomFine op { fGl with off := 4 } (ctxOf reader) ∧
      (atomOp op { fGl with off := 4 } (ctxOf reader)).pieces = [{ piece with bytes := leBytes 4 77 ++ leBytes 4 0 }]) ∧
      permCause page.flags .atomic = none ∧ (cachedState.unit 5).wc.any (fun w => w.addr == 0x2000) = false ∧
      ((cachedState.agent (clusterOf 5)).find 0x2000) = some { line := 0x2000, st := .M, data := 0xABCD }) := by
  repeat' apply And.intro
  all_goals repeat (first | unfold Tables | unfold LdStFine | unfold UldFine | unfold AtomFine | unfold Reachable | unfold BaseFits | unfold ReleaseDone)
  all_goals (try dsimp only)
  all_goals decide +kernel

theorem test_hyp_LoadsReachTheirRegisters :
    (∀ len ∈ [1, 2, 4, 8, 16],
      let o : MemOp := { kind := .ld, dst := 20, sign := true,
                         pieces := [{ lane := 31, va := 0, len := len, got := some (List.replicate len 0xFF) }] }
      (o.pieces.map (·.lane)).Nodup ∧ (∀ p ∈ o.pieces, p.lane < 32 ∧ p.got.elim false (fun bs => bs.length == p.len) = true) ∧
        (∀ p ∈ o.pieces, p.len ∈ [1, 2, 4, 8, 16]) ∧ o.dst + 3 < 256) ∧
    (∀ len ∈ [4, 8],
      let o : MemOp := { kind := .atom, dst := 252, pieces := [{ lane := 0, va := 0, len := len, got := some (List.replicate len 0xFF) }] }
      (o.pieces.map (·.lane)).Nodup ∧ (∀ p ∈ o.pieces, p.lane < 32 ∧ p.got.elim false (fun bs => bs.length == p.len) = true) ∧
        (∀ p ∈ o.pieces, p.len ∈ [4, 8]) ∧ o.sign = false ∧ o.dst + 3 < 256) := by decide +kernel

def tiled : State := stateOf (ctxOf strand)
def fT : FmtT := { x := 31, y := 30, z := 29, mg := 7 }

theorem test_hyp_TileElementOperations :
    tiled.ctx 5 0 = some (ctxOf strand) ∧ (tiled.unit 5).copies = [] ∧
    (∀ rw ∈ [([], [31]), ([30, 29, 31], [31]), ([30], [31]), ([30, 29], [])], (tiled.unit 5).mmaBlocks (ctxOf strand).hank rw.1 rw.2 = false) ∧
    (({ x := true } : ShapeT).legal { x := 31 } ∧ ({ u := true, sub := 6, mode := 1 } : ShapeT).legal { u := 63, sub := 63, mode := 1 }) ∧
    (∀ ty ∈ List.range 5, ∀ sub ∈ List.range 9, ∀ mode ∈ List.range 4,
      let f : FmtT := { fT with ty := ty, sub := sub, mode := mode, rm := 4 }
      ({ x := true, y := true, z := true, mg := true, u := true, sub := 6, ty := true, rm := true, mode := 2 } : ShapeT).legal f ∧ tyAccepts ty sub) ∧
    (tilesFit (ctxOf strand) [31, 30, 29] [7] ∧ tilesFit (ctxOf strand) [] [7, 6, 5]) ∧
    (∀ mode ∈ List.range 4, ({ x := true, y := true, z := true, mg := true, u := true, sub := 3, ty := true, mode := 2 } : ShapeT).legal
      { x := 7, y := 31, z := 31, mg := 7, u := 63, sub := 7, ty := 4, mode := mode }) ∧
    ({ x := true, y := true, z := true, sub := 4 } : ShapeT).legal { x := 7, y := 7, z := 7, sub := 6 } ∧
    (∀ sub ∈ [0, 8, 1, 10, 34],
      ({ x := true, y := true, mg := true, sub := 6, seg := true, rm := true, sat := true } : ShapeT).legal { x := 31, y := 30, sub := sub, rm := 4 } ∧
      0 < max (cvtFmt (sub % 8)).width (cvtFmt (sub / 8 % 8)).width / min (cvtFmt (sub % 8)).width (cvtFmt (sub / 8 % 8)).width) ∧
    (({ u := true, sub := 4 } : ShapeT).legal { u := 63, sub := 9 } ∧ ∀ m ∈ (tiled.unit 5).mmaQ, m.slot ≠ 0) := by decide +kernel

theorem test_hyp_TileReductionsAndPermutes :
    Together (ctxOf together) ∧ (stateOf (ctxOf together)).ctx 5 0 = some (ctxOf together) ∧
    (∀ sub ∈ List.range 3, ∀ ty ∈ List.range 5,
      ({ x := true, y := true, mg := true, sub := 3, ty := true } : ShapeT).legal { x := 31, y := 31, mg := 7, sub := sub, ty := ty }) ∧
    ({ x := true, y := true, z := true, mg := true } : ShapeT).legal fT ∧ tilesFit (ctxOf together) [31, 30, 29] [7] ∧
    ((stateOf (ctxOf together)).unit 5).mmaBlocks (ctxOf together).hank [30, 29] [31] = false := by
  repeat' apply And.intro
  all_goals decide +kernel

theorem test_hyp_TileQuantization :
    Tables (stateOf (ctxOf together)) ∧ Together (ctxOf together) ∧ (stateOf (ctxOf together)).ctx 5 0 = some (ctxOf together) ∧
    ((stateOf (ctxOf together)).unit 5).copies = [] ∧
    (∀ sub ∈ List.range 7, ∀ ty ∈ [1, 2], ∀ mode ∈ List.range 2,
      let f : FmtT := { x := 31, y := 30, sub := sub, ty := ty, mode := mode, rm := 4 }
      ({ x := true, y := true, sub := 3, ty := true, seg := true, mode := 2, rm := true } : ShapeT).legal f ∧
        f.seg < (blkFmt sub).blocksPerRow / ((if ty = 2 then 2 else 1) * (if sub = 6 then 2 else 1))) ∧
    launchCmd.features.getLsbD 6 = true ∧ tilesFit (ctxOf together) [31, 30] [] = true := by
  repeat' apply And.intro
  all_goals decide +kernel

/-! ### Witnesses: matrix instructions, copies and the units' events -/

def withMma (m : List Mma) : State := stateOf (ctxOf together) { mmaQ := m }
def mma (fmt tc ta tb : Nat) : Mma := { launch := 7, hank := 4, slot := 0, fmt := fmt, tc := tc, ta := ta, tb := tb, z := false, w := false, ws := 0 }

theorem test_hyp_MatrixInstructions_tmma :
    (∀ r ∈ [(0x00, 30, 28, 26), (0x10, 31, 30, 29), (0x13, 31, 30, 29), (0x14, 31, 30, 28), (0x15, 31, 28, 30)],
      let f : FmtT := { x := r.2.1, y := r.2.2.1, z := r.2.2.2, sub := r.1, zf := true, w := true, ws := 3 }
      let m := mma r.1 r.2.1 r.2.2.1 r.2.2.2
      ({ x := true, y := true, z := true, sub := 5, zf := true, w := true } : ShapeT).legal f ∧
        (mmaFmt r.1).any (fun k => (!k.accFp64 || r.2.1 % 2 == 0) && (!k.pairA || r.2.2.1 % 2 == 0) && (!k.pairB || r.2.2.2 % 2 == 0)) = true ∧
        (∀ t ∈ m.acc, t ∉ m.operands) ∧ (∀ t ∈ m.acc ++ m.operands, t < desc.tiles) ∧
        ((withMma []).unit 5).mmaBlocks (ctxOf together).hank m.operands [] = false) ∧
    launchCmd.features.getLsbD 6 = true ∧ (∀ q ∈ ((withMma []).unit 5).mmaQ, q.launch ≠ 7) := by decide +kernel

theorem test_hyp_MatrixInstructions_start :
    let s := withMma [mma 0 30 28 26]
    Tables s ∧ s.alive = true ∧ s.unitFenced 5 = false ∧ s.lhr.stage = 0 ∧ (s.unit 5).mmaFree ≤ s.now ∧ 4096 ≤ (s.unit 5).tokens ∧
      (s.unit 5).mmaNext = some (mma 0 30 28 26) ∧ s.ctxAny 5 0 = some (ctxOf together) ∧ (mmaFmt 0).isSome ∧ (s.unit 5).copies = [] ∧
      (ctxOf together).hank.wit.active = none := by unfold Tables; decide +kernel

def witLaunch : Launch := { launch with desc := { desc with witEn := true, witLog2N := 6, witTau := 4, witSeed := 1 } }
def witCtx (w : Witness) : Ctx :=
  let c := ctxOf strand { launch := 7, index := 4, strands := [], wit := w }
  { c with cmd := { launchCmd with work := .launch witLaunch }, l := witLaunch }
def fWt : FmtT := { x := 31, u := 9 }

theorem test_hyp_MatrixInstructions_witness :
    (∀ w ∈ [({} : Witness), { active := some (0, 31, 5) }], let c := witCtx w
      Tables (stateOf c) ∧ (stateOf c).ctx 5 0 = some c ∧ ((stateOf c).unit 5).copies = [] ∧ c.witnesses = true ∧ fWt.x < c.l.desc.tiles ∧
        ((stateOf c).unit 5).mmaBlocks c.hank [31] [] = false) ∧
    ({ x := true, u := true } : ShapeT).legal fWt ∧ ({ x := true } : ShapeT).legal { x := 31 } ∧
    -- coordinates that the rule of R160 takes and leaves
    (sampled 1 6 0x100000001 = true ∧ sampled 1 6 0 = false) := by
  repeat' apply And.intro
  all_goals repeat (first | unfold Tables)
  all_goals decide +kernel

theorem test_hyp_TileWritesAreExact :
    8 ∈ [8, 16, 32, 64] ∧ Tbl.wf 0 (ctxOf strand).hank.tiles = true ∧
    (∀ r ∈ [(0, (5 : BitVec 1024)), (31, 7)], r.1 < 32) ∧ ([(0, (5 : BitVec 1024)), (31, 7)].map (·.1)).Nodup := by decide +kernel

/-- UG 4 asks for 2 rows of 16 bytes 48 apart, UG 5 for none, and UG 6 for a stride that is no multiple of 16. -/
def copier : Strand :=
  { strand with active := 1, u := [(2, 32), (3, 0x2000), (4, BitVec.ofNat 64 (48 * 2 ^ 32 + 2 * 2 ^ 16 + 16)), (6, BitVec.ofNat 64 (40 * 2 ^ 32)),
                                   (7, BitVec.ofNat 64 (128 * 2 ^ 32)), (8, 0x2008)] }
def copyNow (k : CopyKind) : Copy := { kind := k, launch := 7, hank := 4, slot := 0, src := 0x2000, rows := 2, rowBytes := 16, stride := 48, dst := 32, ac := 2 }

theorem test_hyp_CopiesIssueAndComplete_issue :
    (stateOf (ctxOf copier)).ctx 5 0 = some (ctxOf copier) ∧ ((stateOf (ctxOf copier)).unit 5).inFlight < 64 ∧
    64 ≤ ((stateOf (ctxOf copier) { copies := List.replicate 64 (copyNow .h) }).unit 5).inFlight ∧
    (CopyKind.h.fields.legal { us := 3, ud := 2, ug := 4, ac := 2 } = true ∧ CopyKind.t.fields.legal { us := 3, ug := 7, ac := 2, td := 31 } = true ∧
      CopyKind.sf.fields.legal { us := 3, ac := 2, td := 31 } = true ∧
      CopyKind.q.fields.legal { us := 3, ug := 7, ac := 2, td := 31, qf := 6, h := 1, rm := 4, cap := 2, ws := 3 } = true ∧ 2 < desc.acs ∧ 31 < desc.tiles) ∧
    -- a shape that may run, two that may not, and a source that is not aligned
    (let g := copier.rdU 4
     bits g 0 16 = 16 ∧ bits g 16 16 = 2 ∧ bits g 32 32 % 16 = 0 ∧ copier.rdU 3 % 16 = 0 ∧ 32 % 16 = 0 ∧ 32 + 2 * 16 ≤ 1024 * desc.hmem) ∧
    (bits (copier.rdU 5) 0 16 = 0 ∧ bits (copier.rdU 6) 32 32 % 16 ≠ 0 ∧ copier.rdU 8 % 16 ≠ 0) ∧
    (launchCmd.features.getLsbD 4 = true ∧ launchCmd.features.getLsbD 6 = true) := by decide +kernel

def copying : State :=
  { stateOf (ctxOf copier) { copies := [{ copyNow .h with rows := 1 }] } with
    agents := [(1, { lines := [{ line := 0x2000, st := .M, data := 0xABCD }] })] }

theorem test_hyp_CopiesIssueAndComplete_complete :
    (copying.unit 5).copies[0]? = some { copyNow .h with rows := 1 } ∧ copying.ctxAny 5 0 = some (ctxOf copier) ∧ copying.alive = true ∧
    (match copying.copyRead { ctxOf copier with t := { copier with pc := 0 } } { copyNow .h with rows := 1 } with
      | (.ok _, s1) => (s1.hankAt 5 0).isSome && ((s1.unit 5).copies.drop 1).isEmpty
      | _ => false) = true := by decide +kernel

def fQ : FmtQ := { us := 3, ac := 2 }
def belayHank (arrived : BitVec 1024) : Hank := { launch := 7, index := 4, strands := [], acs := [(2, 5)], belays := [(2, { phase := 1, arrived := arrived })] }

theorem test_hyp_CountersAndBelays :
    (∀ a ∈ [0, 4294967296, 1], let c := ctxOf copier (belayHank (BitVec.ofNat 1024 a))
      (stateOf c).ctx 5 0 = some c ∧ ((stateOf c).unit 5).wc = [] ∧ ((stateOf c).unit 5).mmaQ = []) ∧
    (({ us := true } : ShapeQ).legal { us := 63, ac := 2 } ∧ ({ ud := true } : ShapeQ).legal { ud := 63, ac := 2 } ∧
      ({ ac := 16 } : ShapeQ).legal { ac := 2 } ∧ 2 < desc.acs ∧ 2 < desc.belays) ∧
    -- lane 0 has not arrived; lane 0 has arrived
    ((0 : BitVec 1024) &&& BitVec.ofNat 1024 copier.active.toNat = 0 ∧ (1 : BitVec 1024) &&& BitVec.ofNat 1024 copier.active.toNat ≠ 0) := by
  decide +kernel

/-- Counter value 5 against a target already passed, the last one short of half the range, and one still to come (R281). -/
theorem test_hyp_CountersAndBelays_targets :
    (∀ t ∈ [5, 4, 2147483654], (5 + 4294967296 - t) % 4294967296 < 2147483648) ∧ ¬ (5 + 4294967296 - 6) % 4294967296 < 2147483648 := by
  decide +kernel

/-- A belay complete for the 33 threads of two strands, and one that thread 32 has not reached. -/
theorem test_hyp_CountersAndBelays_complete :
    (∀ a ∈ [(8589934591, true), (4294967295, false)],
      let h : Hank := { belayHank (BitVec.ofNat 1024 a.1) with strands := [strand, { strand with slot := 1, index := 1, live := 1 }] }
      Tbl.wf {} h.belays = true ∧
        (h.strands.all (fun t => (List.range 32).all (fun l => !decide (32 * t.index + l < 33) || !t.live.getLsbD l ||
          (Tbl.get {} h.belays 2).arrived.getLsbD (32 * t.index + l)))) = a.2) := by decide +kernel

def wcEntry (a : Nat) : WcEntry := { addr := a, data := 0xFF, mask := 1, launch := 7 }
/-- A package that knows its index, 3, and whose peer 9 is UP. -/
def indexed (s : State) : State :=
  { s with hws := { s.hws with indexValid := true, indexChosen := true, index := 3, peers := [(9, { state := .up, planes := 1 })] } }

theorem test_hyp_UnitEventsAct_drain_and_fill :
    (let s := stateOf (ctxOf strand) { wc := [wcEntry 0x2000] }
     s.alive = true ∧ (s.unit 5).wc.find? (fun w => w.addr == 0x2000) = some (wcEntry 0x2000) ∧
       locality s.hws.indexValid s.hws.index 0x2000 = .here ∧
       (((s.obtain (clusterOf 5) 0x2000 true).agent (clusterOf 5)).find 0x2000).any (fun x => x.st == .M || x.st == .E) = true) ∧
    (let s := indexed (stateOf (ctxOf strand) { wc := [wcEntry (9 * 2 ^ 42)] })
     (s.unit 5).wc.find? (fun w => w.addr == 9 * 2 ^ 42) = some (wcEntry (9 * 2 ^ 42)) ∧
       locality s.hws.indexValid s.hws.index (9 * 2 ^ 42) = .remote 9) ∧
    (let s : State := { stateOf (ctxOf strand) { misses := [0x2000] } with agents := [(1, { lines := [{ line := 0x2000, st := .S, data := 5 }] })] }
     s.alive = true ∧ (s.unit 5).misses.contains 0x2000 = true ∧ s.agentData (clusterOf 5) (0x2000 % 2 ^ 42) = some (5, false) ∧
       (((s.modAgent 1 (fun g => g.use 0x2000)).agentDone 1 0x2000).modUnit 5 (fun x => { x with misses := x.misses.erase 0x2000 })).memSlots 5 = []) := by
  decide +kernel

/-- An ASROOT with its root table at 0x1000, whose first entry maps the first 2^48 addresses onto themselves (R325, R326). -/
def asroot : Nat := 10 * 2 ^ 60 + 1
def rootTable : List Host.Cell := [(0x1000, 0xDF)]

def walkCtx : Ctx := { ctxOf strand with cmd := { launchCmd with asroot := asroot } }
def walker (kind : Access) : Walk := { unit := 5, slot := 0, va := 0x3000, kind := kind }
def walking (kind : Access) (mem : List Host.Cell) : State :=
  { stateOf walkCtx with mem := mem, clusters := [(1, { walks := [walker kind] })] }

theorem test_hyp_UnitEventsAct_walk :
    let s := walking .fetch rootTable
    s.alive = true ∧ (s.cluster 1).walks[0]? = some (walker .fetch) ∧ s.xlt.busy = false ∧ s.ctxAny 5 0 = some walkCtx := by decide +kernel

theorem test_hyp_UnitEventsAct_walk_ends :
    (match (walk (clusterReader 1) 0 asroot 0x3000 [] (walking .fetch rootTable)).1 with | .leaf _ => true | _ => false) = true ∧
    (match (walk (clusterReader 1) 0 asroot 0x3000 [] (walking .load [])).1 with | .fault _ => true | _ => false) = true := by decide +kernel

/-- Both strands of a hank blocked: one on a counter nothing will bring on, one on a belay. -/
def stuck : Hank :=
  { launch := 7, index := 4, strands := [{ strand with wait := .ac 0 1 }, { strand with slot := 1, index := 1, wait := .belay 0 0 }] }

theorem test_hyp_UnitEventsAct_stall_and_end :
    (let s : State := { State.reset with lhr := { State.reset.lhr with doms := [(regionOf 5, { clk := 288 * 4096 })] }, cmds := [launchCmd], units := [(5, { hanks := [stuck] })] }
     s.alive = true ∧ (s.unit 5).hanks.find? (fun h => h.launch == 7 && h.index == 4) = some stuck ∧ (s.unit 5).copies = [] ∧
       stuck.progress + 4096 ≤ s.ucyc 5 ∧ (∀ x ∈ stuck.strands, x.wait.isEnded = false → 0 ≤ x.slot ∧ (stuck.blockedOn x).isSome = true)) ∧
    (let h : Hank := { stuck with strands := [{ strand with wait := .ended }] }
     ∀ n ∈ [9, 2],
       let l : Launch := { launch with nextHank := n, hanksDone := 8 }
       let s : State := { State.reset with cmds := [{ launchCmd with work := .launch l }], units := [(5, { hanks := [h] })] }
       let s1 := (s.modLaunch 7 (fun l => { l.addHank h with hanksDone := l.hanksDone + 1 })).freeHank 5 h
       (s.unit 5).hanks.find? (fun h => h.launch == 7 && h.index == 4) = some h ∧ (s.unit 5).mmaQ = [] ∧
         (∀ t ∈ h.strands, t.wait.isEnded = true) ∧ (s.unit 5).wc = [] ∧
         (s1.cmd? 7).any (fun c => match c.work with | .launch _ => true | _ => false) = true) := by decide +kernel

/-! ### Witnesses: queues and commands -/

/-- Bytes with fields (offset, bytes, value) in them. -/
def fieldsOf (n : Nat) (fs : List (Nat × Nat × Nat)) : List Byte :=
  (List.range n).map (fun i => match fs.find? (fun f => decide (f.1 ≤ i ∧ i < f.1 + f.2.1)) with
    | some f => BitVec.ofNat 8 (f.2.2 / 2 ^ (8 * (i - f.1)))
    | none => 0)
/-- Command bytes 16 to 63. -/
def image (fs : List (Nat × Nat × Nat)) : CmdImg := { body := fieldsOf 48 (fs.map (fun f => (f.1 - 16, f.2))) }
def cells (a : Nat) (bs : List Byte) : List Host.Cell := ((List.range bs.length).map (a + ·)).zip bs |>.filter (fun c => c.2 != 0)

/-- A frit image with one coil, 0, of region 0 and complex 0 (R68). -/
def frit : Frit := { seq := 1, digest := 0, bodies := [(1, fieldsOf 16 [(0, 1, 1), (10, 2, 1), (12, 4, 1)])] }
/-- Queue 2 runs, with one command in its ring at 0x40000. -/
def queue (kind : Nat) : Queue :=
  { state := .running, tail := 1, kind := kind, asroot := asroot, served := 536, size := 0, base := 0x40, tailAddr := 0x3000, tailDue := true }
def queued (kind : Nat) (mem : List Host.Cell) : State :=
  { State.reset with fea := { active := BitVec.allOnes 128, locked := true }, frt := { active := some frit }, queues := [(2, queue kind)]
                     mem := rootTable ++ mem }

theorem test_hyp_HankDispatchStartsAHank :
    (let l := launch
     let c : Cmd := { launchCmd with work := .launch l, engine := 536 }
     let s : State := { queued 0 [] with cmds := [c] }
     s.alive = true ∧ s.lhr.stage = 0 ∧ s.cmd? 7 = some c ∧ c.ending = none ∧ l.toGive = true ∧ s.firstToGive c = true ∧
       (s.unitOrder c).find? (fun u => s.hasRoom u l.desc) = some 0 ∧ s.splitFor 0 l.desc = some (s.unit 0).l1Code) ∧
    31 < 32 ∧ 255 < 256 := by decide +kernel

/-- The page of the next instruction: cached at the unit, at the cluster, and at neither. -/
theorem test_hyp_UnitWorkStaysInItsUnit :
    (let s := stateOf (ctxOf strand)
     Tables s ∧ (s.unit 5).tlb.find? (fun x => x.hits (asAsid launchCmd.asroot) strand.pc) = some page ∧ permCause page.flags .fetch = none ∧
       locality s.hws.indexValid s.hws.index (page.pa strand.pc) = .here ∧ s.localCause 0 (paLocal (page.pa strand.pc)) = none) ∧
    (let s : State := { State.reset with clusters := [(1, { tlb := [page] })] }
     Tables s ∧ (s.unit 5).tlb.find? (fun x => x.hits (asAsid launchCmd.asroot) strand.pc) = none ∧
       (s.cluster (clusterOf 5)).tlb.find? (fun x => x.hits (asAsid launchCmd.asroot) strand.pc) = some page ∧
       s.localCause 0 (paLocal (page.pa strand.pc)) = none) ∧
    (let s := State.reset
     Tables s ∧ (s.unit 5).tlb.find? (fun x => x.hits (asAsid launchCmd.asroot) strand.pc) = none ∧
       (s.cluster (clusterOf 5)).tlb.find? (fun x => x.hits (asAsid launchCmd.asroot) strand.pc) = none) := by
  repeat' apply And.intro
  all_goals decide +kernel

theorem test_hyp_CommandsActOnceAdmitted : MayAdmit (queued 0 []) 2 := by unfold MayAdmit; decide +kernel

/-- The commands that pass their checks, each in a queue of a kind that takes it. -/
theorem test_hyp_CommandsActOnceAdmitted_checked :
    (∀ r ∈ [(0x00, 0, image []), (0x0A, 0, image [(16, 1, 1)]), (0x0C, 0, image [(16, 8, 77)]), (0x0D, 0, image [(16, 8, 77)]),
            (0x0E, 0, image [(16, 8, 0x5000), (24, 1, 1)]), (0x01, 0, image [(16, 8, 0x4000), (32, 4, 1)]), (0x04, 1, image []), (0x05, 2, image [])],
      let s := queued r.2.1 []
      ((counted s 2 r.2.2).admitCheck r.1 r.2.2 (s.nextCommand 2 r.2.2) r.2.1).1 = none) := by decide +kernel

/-- KNOT.SIGNAL and KNOT.WAIT on the word at 0x5000. -/
theorem test_hyp_CommandsActOnceAdmitted_knots :
    (∀ r ∈ [(0x08, image [(16, 8, 0x5000), (24, 8, 1)]), (0x09, image [(16, 8, 0x5000), (24, 8, 2 ^ 63 - 1)])],
      let s := queued 0 []
      ((counted s 2 r.2).admitCheck r.1 r.2 (s.nextCommand 2 r.2) 0).1 = none) := by decide +kernel

/-- A MARK at once writes its 16 bytes. -/
theorem test_hyp_CommandsActOnceAdmitted_mark :
    (let c := image [(16, 8, 0x5000)]
     let s := queued 0 []
     let k := s.nextCommand 2 c
     (match ((counted s 2 c).modCmd k.id (fun c => { c with work := .mark 0x5000 false })).vmWrite k 0x5000
        (leBytes 8 0 ++ leBytes 4 0 ++ leBytes 4 0) .store with | (.ok _, _) => true | _ => false) = true) := by decide +kernel

/-- Images out of rule, kinds that do not fit, and a feature that is off. -/
theorem test_hyp_CommandsActOnceAdmitted_ends :
    (headOk' { image [] with flags := 4 } = false ∧ headOk' (image []) = true) ∧
    (∀ op ∈ [0x00, 0x09, 0x0C, 0x0E], cmdBodyOk op (image [(63, 1, 1)]) = false ∧ cmdBodyOk op (image []) = true) ∧
    (kindAccepts 0x04 0 = false ∧ kindAccepts 0x0C 1 = false ∧ kindAccepts 0x0C 0 = true ∧ opFeature 0x0C = some 11 ∧
      State.reset.fea.active.getLsbD 11 = false) := by decide +kernel

/-- A launch descriptor (R463) of 45 threads: 24 registers, 3 counters, 3 belays. -/
def descBytes : List Byte := fieldsOf 64 [(0, 8, 0x1000), (16, 2, 45), (18, 2, 24), (22, 1, 3), (23, 1, 3), (24, 2, 1)]

theorem test_hyp_LongCommandsBegin_launch :
    (let c := image [(16, 8, 0x4000), (24, 8, 5), (32, 4, 1)]
     let s := queued 0 (cells 0x4000 descBytes)
     let k := s.nextCommand 2 c
     match (counted s 2 c).vmRead k.engine k.coil k.asroot 0x4000 64 .load with
      | (.ok bs, s3) => (s3.cmd? k.id).any (fun c0 => (parseDesc bs).ok c0.features && !(parseDesc bs).rsvdSet &&
          !(s3.unitsOfCoil c0.coil).all (fun u => s3.unitFenced u))
      | _ => false) = true := by decide +kernel

/-- A cane of one node: header at 0x6000 with slot 0 PUBLISHED and slot 1 PUBLISHED, its table at 0x6400, its node at 0x6800. -/
def caneMem : List Host.Cell :=
  cells 0x6000 (fieldsOf 128 [(16, 4, 0), (20, 1, 1), (22, 2, 1), (24, 8, 0x6400), (36, 1, 1), (38, 2, 1), (40, 8, 0x6400)]) ++
    cells 0x6400 (leBytes 8 0x6800)

theorem test_hyp_LongCommandsBegin_cane :
    (let c := image [(16, 8, 0x6000), (24, 8, 0x7000)]
     let s := queued 0 caneMem
     let k := s.nextCommand 2 c
     match (counted s 2 c).caneAt k 0x6000 .atomic with
      | (.ok (header, nc), s3) => (match s3.bytesRead k.engine header 128 nc with
        | (.ok h, s4) =>
          let slot := bits (fieldAt h 0 8) 0 2
          let nodes := fieldAt h (16 + 16 * slot + 6) 2
          fieldAt h (16 + 16 * slot + 4) 1 == 1 && nodes == 1 && fieldAt h (16 + 16 * 1 + 4) 1 == 1 &&
          (match (s4.atomWord k.engine header 0x08 (2 ^ (14 * slot + 6)) 0 nc).2.scratchAt k 0x7000 nodes with
            | (none, s5) => (match s5.vmRead k.engine k.coil k.asroot (fieldAt h (16 + 16 * slot + 8) 8) (8 * nodes) .load with
              | (.ok _, s6) => (match s6.vmWrite k 0x7000 (List.replicate (8 * nodes) 0) .store with | (.ok _, _) => true | _ => false)
              | _ => false)
            | _ => false)
        | _ => false)
      | _ => false) = true := by decide +kernel

theorem test_hyp_LongCommandsBegin_dma :
    (let c := image [(16, 1, 3), (24, 8, 0x4000), (32, 8, 0x8000), (40, 4, 64)]
     let s := queued 1 []
     let k := s.nextCommand 2 c
     let x : Xfer := { cmd := k.id, queue := 2, seq := k.seq, coil := k.coil, asroot := k.asroot, features := k.features, image := c.body }
     x.ok = true ∧ (x.op = 2 → k.features.getLsbD 8 = true) ∧
       ((s.modCmd k.id (fun c => { c with work := .dma 0 3, engine := 512 })).dmaCh 0 3).disable = false) := by decide +kernel

/-- A BEND.ALLREDUCE image of 16 FP32 elements (R548), group table at 0x9000, and the two members 0 and 9. -/
def bendImage : CmdImg := image [(20, 2, 0), (24, 8, 0x4000), (32, 8, 0x8000), (40, 4, 16), (48, 8, 0x9000)]
def bendMem : List Host.Cell := cells 0x9000 (fieldsOf 20 [(0, 2, 1), (2, 2, 2), (18, 2, 9)])
def bendCmd : Cmd := { (queued 2 []).nextCommand 2 bendImage with engine := 528 }

theorem test_hyp_LongCommandsBegin_bend :
    bendBodyOk bendImage.body = true ∧ fieldAt bendImage.body 4 2 < 2 ∧ [0, 9].count (queued 2 []).hws.index = 1 ∧
    (let s3 := (counted (queued 2 bendMem) 2 bendImage).modCmd 0 (fun c => { c with work := .bend 0, engine := 528 })
     (s3.bend 0).early.contains (1, 0, 0) = false ∧
     (match s3.xlate 528 0 asroot 0x9000 .load with
      | (.here _ _, s4) => (match s4.vmRead 528 0 asroot 0x9000 16 .load with
        | (.ok head, s5) => fieldAt head 2 2 == 2 && (match s5.vmRead 528 0 asroot 0x9010 4 .load with
          | (.ok _, s6) => (s6.bendRange bendCmd 0x4000 64 .load).1 == none
          | _ => false)
        | _ => false)
      | _ => false) = true) := by decide +kernel

theorem test_hyp_LongCommandsBegin_bend_number :
    (let s := queued 2 bendMem
     match s.xlate 528 0 asroot 0x9008 .atomic with
      | (.here a nc, s9) => (match s9.atomWord 528 a 0x08 1 0 nc 4 with
        | (.ok n, s10) => n == 0 && !((s10.modBend 0 (fun y => y.sawNumber 1 0 n)).bend 0).early.contains (1, 0, n)
        | _ => false)
      | _ => false) = true ∧
    -- every other member UP; one of them gone
    ((∀ p ∈ [0, 9], p ≠ State.reset.hws.index → State.reset.peerGone p = false) ∧
      (let s : State := { State.reset with hws := { peers := [(9, { state := .gone })] } }
       ∃ p ∈ [0, 9], p ≠ s.hws.index ∧ s.peerGone p = true)) := by decide +kernel

theorem test_hyp_QueueControl_states :
    (queued 0 []).alive = true ∧
    (let s : State := { queued 0 [] with queues := [(2, { queue 0 with state := .disabled, cplBase := 0x50 })] }
     (s.queue 2).state = .disabled ∧ s.enableErr 2 = 0 ∧ State.reset.enableErr 2 ≠ 0) ∧
    ((queued 0 []).queue 2).state = .running ∧ ((queued 0 []).queue 2).tailDue = true ∧ ((queued 0 []).queue 2).ringLoc = false ∧
    (let q : Queue := { queue 0 with ringLoc := true }; q.ringLoc = true ∧ q.tailDue = true) := by decide +kernel

theorem test_hyp_QueueControl_reads :
    (match ((queued 0 []).modQueue 2 (fun k => { k with tailDue := false })).bytesRead 536 0x18000 8 with | (.ok _, _) => true | _ => false) = true ∧
    (match (queued 0 []).bytesRead 536 0x40000 64 with | (.ok _, _) => true | _ => false) = true := by decide +kernel

def waitCmd (w : Work) : Cmd := { id := 7, queue := 2, seq := 0, asroot := asroot, engine := 536, work := w }

theorem test_hyp_CommandsComplete :
    (let c := waitCmd (.signal 0x5000 1 false)
     let s : State := { queued 0 [] with cmds := [c] }
     s.alive = true ∧ s.cmd? 7 = some c ∧ s.earlierDone c = true ∧ c.ending = none) ∧
    (∀ st ∈ [0, 0x11],
      let c : Cmd := { launchCmd with ending := some { status := st, cause := st }, signalled := true }
      let s : State := { queued 0 [] with cmds := [c] }
      s.cmd? 7 = some c ∧ s.owes 7 = false ∧ c.record = none ∧ c.node = none ∧ c.ticksLeft = 0) := by decide +kernel

theorem test_hyp_CommandsComplete_knot :
    (let c := waitCmd (.knotWait 0x5000 3 true)
     let s : State := { queued 0 [] with cmds := [c] }
     match s.xlate 536 0 asroot 0x5000 .atomic with
      | (.here a nc, s1) => (match (s1.modCmd 7 (fun c => { c with work := .knotWait 0x5000 3 false })).knotLocal (.cmd 7) 536 a nc with
        | (.ok w, _) => w == 0
        | _ => false)
      | _ => false) = true := by decide +kernel

/-! ### Witnesses: DMA, collectives, coherence and stacked memory -/

def xfer (op : Nat) : Xfer :=
  { cmd := 7, queue := 2, seq := 0, coil := 0, asroot := asroot, features := BitVec.allOnes 128
    image := (image [(17, 1, op), (24, 8, 0x4000), (32, 8, 0x8000), (40, 4, 64)]).body }
def burst (ext : Bool) : Burst :=
  { from_ := 0, len := 64, parts := [{ n := 0, len := 64, src := if ext then .host 0x100 else .here 0x4000 false }] }
/-- Channel 3 of engine 15 at work. -/
def moving (k : DmaCh) (busErr : Bool := false) : State :=
  { queued 1 [] with dma := [(15, { busErr := busErr, channels := [(3, k)] })] }

def halfRead : Burst := { from_ := 0, len := 64, parts := [{ n := 0, len := 32, src := .host 0, got := some ([], false) }, { n := 32, len := 32, src := .host 32 }] }
def starving : DmaCh := { act := some (xfer 0), stallLimit := 16, starveTicks := 16, quiet := true, bursts := [halfRead] }

theorem test_hyp_DmaEventsAct :
    (∀ ext ∈ [true, false],
      let k : DmaCh := { act := some (xfer 0), bursts := [burst ext] }
      let s := moving k
      s.alive = true ∧ (s.dmaEng 15).busErr = false ∧ (s.dmaCh 15 3).act = some (xfer 0) ∧ (s.dmaCh 15 3).bursts[0]? = some (burst ext) ∧
        (burst ext).external = ext) ∧
    (let s := moving { act := some (xfer 0), issued := 64 }
     (s.dmaCh 15 3).act = some (xfer 0) ∧ (xfer 0).op ≠ 1 ∧ (s.dmaCh 15 3).bursts = [] ∧ (xfer 0).total ≤ (s.dmaCh 15 3).issued ∧ s.hws.reqs = [] ∧ 3 < 16) ∧
    ((moving {} true).dmaEng 15).busErr = true ∧
    (let k := starving
     k.stallLimit ≠ 0 ∧ k.starved = false ∧ k.starving = true ∧ k.stallLimit ≤ k.starveTicks) ∧
    (let k : DmaCh := { act := some (xfer 0), paceDue := true }; k.paceDue = true ∧ k.act ≠ none) ∧
    ((moving {}).dmaOver 15 3 = false ∧ ((moving {}).dmaCh 15 3).shd = none ∧ (moving { act := some (xfer 0) }).dmaOver 15 3 = false) := by
  decide +kernel

def collective : Collective :=
  { cmd := 7, group := 1, tag := 0, number := 0, members := [0], rank := 0, op := 4, dtype := 0, red := 0, out32 := false, root := 0
    src := 0, dst := 0x8000, count := 0, asroot := asroot, coil := 0, signature := 0, started := true, came := [0], got := [(0, [])] }
def collecting : State := { queued 2 [] with bends := [(7, { cols := [collective] })], cmds := [{ launchCmd with work := .bend 7 }] }

theorem test_hyp_CollectivesAct :
    collecting.alive = true ∧ 0x10 ≤ 0x18 ∧ 0 < 0x10 ∧
    (((collecting.bend 7).cols ++ (collecting.bend 7).queueing).find? (fun k => k.group == 1 && k.tag == 0 && k.number == 0) = some collective) ∧
    (((collecting.bend 7).cols ++ (collecting.bend 7).queueing).find? (fun k => k.group == 1 && k.tag == 0 && k.number == 1) = none) ∧
    ((collecting.bend 7).cols.find? (fun k => k.cmd == 7) = some collective ∧ (collecting.cmd? 7).isSome ∧ collecting.bendDone 7 collective = true) ∧
    (match collecting.vmWrite { launchCmd with work := .bend 7 } 0x8000 collective.result .store with | (.ok _, _) => true | _ => false) = true := by
  decide +kernel

/-- A state in which an agent holds the line 0x2000 in a given state. -/
def holding (st : CState) : State := { State.reset with agents := [(1, { lines := [{ line := 0x2000, st := st, data := 5 }] })] }
def toAgent (ty : MsgType) (g : Grant := .s) : Msg := { ty := ty, src := homeId, dst := 1, line := 0x2000, grant := g }

theorem test_hyp_AgentsAnswerByTheTable :
    (∀ m ∈ [toAgent .sni, toAgent .sns, toAgent .sno, toAgent .dat .s, toAgent .dat .e, toAgent .dat .m, toAgent .ack],
      (holding .M).alive = true ∧ (holding .M).coh.serving = true ∧ senderOk m = true ∧ (holding .M).net = [] ∧ m.src = homeId ∧
        isCaching m.dst = true ∧ m.dst ∉ (holding .M).coh.dead ∧ m.stash = false ∧ (msgEv m).isSome) ∧
    (∀ st ∈ [CState.ISd, .IMd, .S, .SMa, .SIa, .IIa, .E, .M, .O, .OMa, .MIa, .OIa, .EIa],
      let x : CLine := { line := 0x2000, st := st, data := 5 }
      ((holding st).agent 1).find 0x2000 = some x ∧ (holding st).cleatHolds x = false) ∧
    ((State.reset.agent 1).find 0x2000).getD { line := 0x2000, st := .I } = { line := 0x2000, st := .I } := by decide +kernel

/-- A message to the home of line 0x2000. -/
def toHome (ty : MsgType) (src : Nat) : Msg := { ty := ty, src := src, dst := homeId, line := 0x2000, txn := 9 }
/-- The home of the line with the line in its slice, and a directory entry or none. -/
def home (e : Option DirEntry) (dead : List Nat := []) : State :=
  { State.reset with slices := [(0, { lines := [{ line := 0x2000, data := 5 }], dir := e.toList })], coh := { dead := dead } }
def entry (st : DState) (owner : Nat) (sharers : List Nat) : DirEntry := { line := 0x2000, st := st, owner := owner, sharers := sharers }

/-- The premise `ServedNow` where the line has no spill set. -/
def servedNow (s : State) (m : Msg) (e : Option DirEntry) : Bool :=
  let k := s.slice (s.homeOf m.line)
  s.alive && s.coh.serving && senderOk m && s.net.isEmpty && !s.coh.dead.contains m.src && !s.coh.reclaim && (k.busyOf m.line).isNone
    && decide (k.busy.length < 256) && !s.setBlocked m.line && k.waiting.isEmpty && decide (∀ b ∈ k.busy, b.stalled = false) && s.dirReady m && decide (k.entry m.line = e)
    && (s.spillSet m.line).isNone

theorem servedNow_of (s : State) (m : Msg) (e : Option DirEntry) (h : servedNow s m e = true) : ServedNow s m e := by
  simp only [servedNow, Bool.and_eq_true, Bool.not_eq_true', decide_eq_true_eq, List.isEmpty_iff, Option.isNone_iff_eq_none,
    List.contains_eq_mem, decide_eq_false_iff_not] at h
  obtain ⟨⟨⟨⟨⟨⟨⟨⟨⟨⟨⟨⟨⟨h1, h2⟩, h3⟩, h4⟩, h5⟩, h6⟩, h7⟩, h8⟩, h9⟩, h10⟩, h11⟩, h12⟩, h13⟩, h14⟩ := h
  exact ⟨⟨h1, h2, h3, by simp [h4]⟩, h5, h6, h7, h8, h9, h10, h11, h12, h13, fun _ i a h => by simp [h14] at h⟩

def newcomers : List (MsgType × Nat) :=
  [(.rds, 1), (.rdo, 1), (.upg, 267), (.wbk, 1), (.evc, 1), (.sth, 568), (.wnc, 512), (.rnc, 536), (.anc, 640)]

theorem test_hyp_HomesServeLinesNobodyHolds : ∀ r ∈ newcomers, ServedNow (home none) (toHome r.1 r.2) none :=
  fun r hr => servedNow_of _ _ _
    ((by decide +kernel : ∀ r ∈ newcomers, servedNow (home none) (toHome r.1 r.2) none = true) r hr)

theorem test_hyp_HomesServeLinesNobodyHolds_data :
    (∀ s ∈ [taken (home none) (toHome .rds 1), (taken (home none) (toHome .rdo 1)).wake 0x2000],
      ∀ served ∈ [true, false], (match s.homeRead 0x2000 1 false served with | .data d _ => decide (d = (5, false)) | _ => false) = true) ∧
    ((({ toHome .wnc 512 with mask := BitVec.allOnes 128 } : Msg).mask = BitVec.allOnes 128) ∧ (toHome .wnc 512).mask ≠ BitVec.allOnes 128) ∧
    (home none).stashTarget (toHome .sth 568) = none := by decide +kernel

def askers : List (MsgType × Nat) :=
  [(.rds, 1), (.rnc, 512), (.rdo, 1), (.wnc, 512), (.anc, 512), (.sth, 568), (.upg, 1), (.upg, 2), (.upg, 3), (.wbk, 2), (.evc, 1), (.evc, 2)]

def entries : List DirEntry := [entry .X 2 [], entry .O 2 [1], entry .S 0 [1, 2]]

theorem test_hyp_HomesSnoopTheHolders : ∀ e ∈ entries, ∀ r ∈ askers, ServedNow (home (some e)) (toHome r.1 r.2) (some e) :=
  fun e he r hr => servedNow_of _ _ _
    ((by decide +kernel : ∀ e ∈ entries, ∀ r ∈ askers, servedNow (home (some e)) (toHome r.1 r.2) (some e) = true) e he r hr)

theorem test_hyp_HomesSnoopTheHolders_cases :
    -- the cases of UPG: the requester a sharer or not, the owner or not
    ((entry .S 0 [1, 2]).pointed 1 = true ∧ ((entry .S 0 [1, 2]).holders.filter (fun a => a != 1)) ≠ [] ∧ (entry .O 2 [1]).holders ≠ [] ∧
      (entry .O 2 [1]).owner = 2 ∧ (entry .O 2 [1]).pointed 1 = true ∧ (entry .S 0 [1, 2]).pointed 3 = false ∧ (entry .O 2 [1]).pointed 3 = false ∧
      2 ∉ (home none).coh.dead) := by decide +kernel

/-- A home that has snooped the owner, or a sharer, for a request of agent 1. -/
def snooped (req : MsgType) (owed : List (Nat × Bool)) (e : DirEntry) : BusyLine :=
  { line := 0x2000, why := .bs, req := toHome req 1, owed := owed, was := some e }
def asked (b : BusyLine) : State := { State.reset with slices := [(0, { dir := b.was.toList, busy := [b] })] }

theorem test_hyp_HomesTakeAnswers :
    (∀ r ∈ [(MsgType.ack, snooped .rdo [(2, false), (3, false)] (entry .S 0 [2, 3]), false),
            (.ack, snooped .upg [(2, false)] (entry .S 0 [1, 2]), false),
            (.dat, snooped .rds [(2, true)] (entry .X 2 []), true), (.datd, snooped .rds [(2, true)] (entry .O 2 [4]), true),
            (.datd, snooped .rdo [(2, true)] (entry .X 2 []), true)],
      AnswerDue (asked r.2.1) (toHome r.1 2) r.2.1 r.2.2) ∧
    (MayArrive (home none) (toHome .ack 2) ∧ ((home none).slice ((home none).homeOf 0x2000)).busyOf 0x2000 = none) := by
  unfold AnswerDue MayArrive; decide +kernel

/-- A frit image with a spill area (R346, R391). -/
def spilling : Frit := { frit with bodies := frit.bodies ++ [(2, fieldsOf 216 [(203, 1, 10)])] }
def filling (b : List BusyLine) (l : Nat) : State :=
  { State.reset with slices := [(0, { fills := [{ line := l, got := some (5, false) }], busy := b })] }
def awaited (why : Busy) : BusyLine := { line := 0x2000, why := why, req := toHome .rds 1 }

theorem test_hyp_HomeEventsAct_fills :
    (∀ why ∈ [Busy.bd, .bp], (filling [awaited why] 0x2000).alive = true ∧
      ((filling [awaited why] 0x2000).slice (homeSlice 0x2000)).fills.find? (fun f => f.line == 0x2000 && f.got.isSome) =
        some { line := 0x2000, got := some (5, false) } ∧
      (((filling [awaited why] 0x2000).sliceAlloc 0 { line := 0x2000, data := 5 } true).slice 0).busyOf 0x2000 = some (awaited why)) := by decide +kernel

theorem test_hyp_HomeEventsAct_spill :
    (let s : State := { State.reset with frt := { active := some spilling }, slices := [(0, { busy := [awaited .bp] })] }
     s.alive = true ∧ (s.slice (s.homeOf 0x2000)).busyOf 0x2000 = some (awaited .bp) ∧ (s.spillSet 0x2000).isSome) ∧
    (State.reset.readLine 0x4000 {}).count isUncorrectable = 0 ∧
    ((State.reset.readLine 0x4000 { cw0 := [(0, 1), (1, 2), (2, 3), (3, 4), (4, 5)] }).count isUncorrectable ≠ 0) := by decide +kernel

theorem test_hyp_HomeEventsAct_others :
    (let x : CLine := { line := 0x2000, st := .M, wonAt := some 0, cleat := 128, held := some (toAgent .sno) }
     let s : State := { State.reset with now := 256, agents := [(1, { lines := [x] })] }
     (s.agent 1).find 0x2000 = some x ∧ x.held = some (toAgent .sno) ∧ s.cleatHolds x = false ∧ (msgEv (toAgent .sno)).isSome) ∧
    (let s : State := { home (some (entry .S 0 [2])) [3] with coh := { reclaim := true, dead := [3] } }
     s.coh.reclaim = true ∧ (∀ e ∈ s.slices, e.2.busy = [])) ∧
    (State.reset.xlt.busy = false ∧ ({ State.reset with xlt := { busy := true } } : State).xlt.busy = true) ∧
    (let s : State := { State.reset with xlt := { busy := true } }; s.units = []) := by decide +kernel

theorem test_hyp_HbmReadsAndScrubs :
    (let s : State := { State.reset with slices := [(0, { fills := [{ line := 0x2000 }] })], frt := { active := some { frit with bodies := frit.bodies ++ [(2, fieldsOf 216 [])] } } }
     (s.slice (homeSlice 0x2000)).fills.find? (fun f => f.line == 0x2000 && f.got.isNone) = some { line := 0x2000 } ∧ s.hbmHeld 0x2000 = false ∧
       s.scrubCode ≠ 5 ∧ (s.stack 23).hold = false ∧ (s.stack 23).selfRefresh = false ∧ s.lhr.stage < 2 ∧ s.scrubTime.isSome) ∧
    ((State.reset.readLine 0x2000 {}).count isCorrected = 0 ∧ (State.reset.readLine 0x2000 {}).count isUncorrectable = 0) ∧
    -- a row that holds its own data, and a row that has been remapped away
    ((({} : Channel).logical 0 0 0).isSome ∧
      ({ remaps := [{ pch := 0, bank := 0, row := 0, newBank := 0, newRow := 16383, index := 0, active := true }] } : Channel).logical 0 0 0 = none) ∧
    (let e : Remap := { pch := 1, bank := 63, row := 16383, newBank := 63, newRow := 16382, index := 0 }
     let k : Stack := { channels := [(31, { remaps := [e] })] }
     k.hold = false ∧ k.selfRefresh = false ∧ (k.channel 31).remaps.find? (fun e => e.index == 0 && !e.active) = some e) ∧
    ((State.reset.stack 0).channel 0).eyeAt + 64 ≤ 64 := by decide +kernel

theorem test_hyp_TrafficGeneratorsRun :
    (let s : State := { State.reset with coh := { test := true } }
     s.alive = true ∧ s.tgRefused 23 { rowsLog2 := 1, rowLo := 2 } = false ∧ s.tgRefused 23 { rowsLog2 := 1, rowLo := 1 } = true ∧
       1 % 2 ^ 1 ≠ 0) ∧
    (State.reset.coh.test = false ∧ State.reset.feature 15 = false) ∧
    (let g : Tg := { busy := true, passes := 255 }; g.busy = true ∧ g.stopping = false ∧ g.passes ≠ 0 ∧ g.passes < 256) := by decide +kernel

/-! ### A flit with its CRC -/

theorem foldBits_lt (f : Nat → Bool) : ∀ (l : List Nat) (a : Nat), l.foldl (fun a k => 2 * a + b2n (f k)) a < (a + 1) * 2 ^ l.length
  | [], a => by simp
  | k :: l, a => by
    have h := foldBits_lt f l (2 * a + b2n (f k))
    have hb : b2n (f k) ≤ 1 := by cases f k <;> decide
    calc _ < (2 * a + b2n (f k) + 1) * 2 ^ l.length := h
      _ ≤ (2 * (a + 1)) * 2 ^ l.length := Nat.mul_le_mul_right _ (by omega)
      _ = (a + 1) * 2 ^ (k :: l).length := by rw [List.length_cons, pow_succ]; ring

theorem bitRev_lt (w x : Nat) : bitRev w x < 2 ^ w := by
  have h := foldBits_lt (fun k => x.testBit k) (List.range w) 0
  simpa [bitRev] using h

theorem crc32_lt (l : List Byte) : crc32 l < 2 ^ 32 := Nat.xor_lt_two_pow (bitRev_lt 32 _) (by decide)
theorem crc16_lt (l : List Byte) : crc16 l < 2 ^ 16 := bitRev_lt 16 _

theorem leNat_leBytes : ∀ n x : Nat, x < 256 ^ n → leNat (leBytes n x) = x
  | 0, x, h => by simp at h; simp [leBytes, leNat, h]
  | n + 1, x, h => by
    have := leNat_leBytes n (x / 256) (by rw [pow_succ] at h; omega)
    simp only [leBytes, leNat, this, BitVec.toNat_ofNat]; omega

theorem length_leBytes : ∀ n x : Nat, (leBytes n x).length = n
  | 0, _ => rfl
  | n + 1, x => by simp [leBytes, length_leBytes n]

/-- Bytes followed by their check value hold it. -/
theorem fieldAt_check (p : List Byte) (n k x : Nat) (hp : p.length = n) (hx : x < 256 ^ k) :
    fieldAt (p ++ leBytes k x) n k = x ∧ (p ++ leBytes k x).take n = p := by
  subst hp
  simp [fieldAt, List.take_of_length_le, length_leBytes, leNat_leBytes k x hx]

/-! ### Witnesses: the fabric -/

def linked (x : Port) : State := { State.reset with hws := { ports := [(47, x)] } }
def upPort : Port := { state := .up }
def zeroBytes (n : Nat) : List Byte := List.replicate n 0
theorem zeroBytes_length (n : Nat) : (zeroBytes n).length = n := List.length_replicate
def goodFlit : List Byte := zeroBytes 252 ++ leBytes 4 (crc32 (zeroBytes 252))

theorem test_hyp_LinksAcknowledgeAndReplay :
    Tables State.reset ∧ State.reset.pins.rails = true ∧
    (let x : Port := { upPort with replayBuf := [[], []], txSeq := 1 }
     Tables (linked x) ∧ x.state = .up ∧ x.txWait = [] ∧
       (∀ seq ∈ [(x.base + 1) % 4096, (x.base + 2) % 4096], let n := (seq + 4096 - x.base) % 4096; 0 < n ∧ n ≤ x.replayBuf.length) ∧
       (∀ seq ∈ [x.base, (x.base + 1) % 4096], (seq + 4096 - x.base) % 4096 < x.replayBuf.length)) ∧
    (∀ x ∈ [{ upPort with rxUnacked := 64 }, { upPort with rxUnacked := 1 }],
      x.state = .up ∧ 0 < x.rxUnacked ∧ (64 ≤ x.rxUnacked ∨ x.rxSince + 512 ≤ 512)) := by
  unfold Tables; decide +kernel

theorem test_hyp_LinksAcknowledgeAndReplay_good : goodFlit.length = 256 ∧ fieldAt goodFlit 252 4 = crc32 (goodFlit.take 252) := by
  have h := fieldAt_check (zeroBytes 252) 252 4 (crc32 (zeroBytes 252)) (zeroBytes_length 252) (crc32_lt _)
  exact ⟨by simp only [goodFlit, List.length_append, length_leBytes, zeroBytes_length], by rw [goodFlit, h.1, h.2]⟩

theorem test_hyp_LinksAcknowledgeAndReplay_bad :
    (List.replicate 255 (0 : Byte)).length ≠ 256 ∧ upPort.rxNak = false ∧ ({ upPort with rxNak := true } : Port).rxNak = true := by decide +kernel

/-- Package 3 with port 47 UP and its peer 9; every feature on. -/
def joined : State :=
  let s := indexed State.reset
  { s with hws := { s.hws with ports := [(47, upPort)] }, fea := { active := BitVec.allOnes 128, locked := true } }
def packet (ty cls : Nat) : Packet := { ty := ty, cls := cls, src := 9, dst := 3, tag := 5, addr := 0x2000 }

theorem test_hyp_PacketsAreDeliveredInOrder :
    Tables joined ∧ joined.pins.rails = true ∧ joined.hws.departing = false ∧ joined.feature 12 = true ∧ joined.hws.homeReqs = [] ∧ joined.lhr.stage = 0 ∧
    (∀ k ∈ [packet 0x01 1, { packet 0x02 1 with payload := List.replicate 144 0 }, { packet 0x03 1 with payload := List.replicate 16 0, aux := 8 },
        { packet 0x10 3 with payload := List.replicate 64 0 }, packet 0x09 2, { packet 0x08 2 with payload := List.replicate 128 0 }, { packet 0x0A 2 with aux := 1 }],
      (joined.port 47).state = .up ∧ Tbl.wf {} (joined.peer k.src).tr = true ∧ k.dst = joined.hws.index ∧
        ((joined.peer k.src).transport k.cls).early = [] ∧ k.tseq = ((joined.peer k.src).transport k.cls).rxNext ∧ k.tseq < 65536 ∧ k.bcast = false) := by
  unfold Tables; decide +kernel

def tookRequest : State := joined.modPeer 9 (fun x => x.modTransport 1 (fun t => { t with rxNext := 1, rxUnacked := 1 }))

theorem test_hyp_PacketsAreDeliveredInOrder_served :
    (∀ k ∈ [packet 0x01 1, { packet 0x02 1 with payload := List.replicate 144 0 }, { packet 0x03 1 with payload := List.replicate 16 0, aux := 8 },
        { packet 0x10 3 with payload := List.replicate 64 0 }],
      tookRequest.requestServed k = true ∧ tookRequest.lineAt k.addr = some 0x2000 ∧
        (k.ty = 0x10 → segments k.addr k.payload.length = [(k.addr, k.payload.length)])) ∧
    tookRequest.requestServed { packet 0x01 1 with addr := 0x18000000000 } = false ∧
    (match tookRequest.cohRead (576 + 47) 0x2000 with | (some (_, _), _) => true | _ => false) = true ∧
    (match tookRequest.cohAtomic (576 + 47) 0x2000 0 4 8 0 0 with | (some (_, _), _) => true | _ => false) = true := by decide +kernel

def request (who : Requester) (ty : Nat) : RemoteReq := { tag := 5, peer := 9, who := who, packet := { ty := ty, dst := 9 } }

theorem test_hyp_PacketsAreDeliveredInOrder_answers :
    (∀ r ∈ [request (.unitStore 5 7) 0x02, request (.hart 95) 0x02, request (.cmd 7) 0x02, request (.hart 95) 0x01],
      [r].find? (fun r => r.tag == 5 && r.peer == 9 && !r.held) = some r) ∧
    (let s : State := { joined with ncc := { harts := [(95, { wait := some (.load (.x 1) 0x2000 8 false, 0x2000) })] } }
     (s.hart 95).wait = some (.load (.x 1) 0x2000 8 false, 0x2000)) ∧
    (let t : Transport := { kept := [(packet 0x01 1, 47), ({ packet 0x01 1 with tseq := 1 }, 47)] }
     (2 + 65536 - 0) % 65536 ≤ min t.kept.length keepLimit) ∧
    (∀ t ∈ [({ rxUnacked := 64 } : Transport), { rxUnacked := 1 }], 0 < t.rxUnacked ∧ (64 ≤ t.rxUnacked ∨ t.rxSince + 3600 ≤ 3600)) := by
  decide +kernel

def join (index uid : Nat) : Join := { index := index, uid := uid, incarnation := 1, nonce := 2, halfTrip := 100 }

theorem test_hyp_PeersJoinDrainAndLeave :
    (joined.port 47).state = .up ∧ ((join 16383 5).index ≠ joined.hws.index) ∧ (joined.peer 16383).state = .absent ∧
    (let s : State := { joined with hws := { joined.hws with peers := [(9, { state := .gone })] } }; (s.peer 9).state = .gone) ∧
    (joined.hws.indexChosen = true ∧ (join 3 0).index = joined.hws.index ∧ (join 3 0).uid = joined.hws.uid) ∧
    (let s : State := { joined with hws := { joined.hws with indexValid := false, uid := 8, joinTicks := some 2 } }
     s.hws.indexChosen = true ∧ (join 3 7).uid ≠ s.hws.uid ∧ s.hws.indexValid = false ∧ s.hws.indexConflict = false ∧ (join 3 7).uid < s.hws.uid ∧
       s.hws.joinTicks = some 2 ∧ 2 ≤ 2) ∧
    (joined.peer 9).state = .up ∧
    (let s : State := { joined with hws := { joined.hws with peers := [(9, { state := .draining, absentFrames := joined.absenceLimit })] } }
     (s.peer 9).state = .draining ∧ (s.peer 9).planes = 0 ∧ s.absenceLimit ≤ (s.peer 9).absentFrames) ∧
    (∀ d ∈ [Departure.warmReset, .stage 4, .fabric], let s : State := { joined with depart := some d }
      s.alive = true ∧ s.hws.homeReqs = [] ∧ s.depart = some d) := by decide +kernel

theorem test_hyp_PortsTrainAndRetrain :
    Tables (linked { state := .training }) ∧
    (∀ st ∈ [PortState.up, .training, .down, .refused, .disabled], ((linked { state := st }).port 47).state = st) ∧
    (let s : State := { linked { state := .training, lockLost := some 0 } with now := 3600 }
     (s.port 47).retraining = false ∧ (s.port 47).state = .training ∧ (s.port 47).lockLost = some 0 ∧ 0 + 3600 ≤ s.now) ∧
    8 ≤ ({ upPort with failedReplays := 8 } : Port).failedReplays ∧
    (let x : Port := { state := .training, retraining := true }; x.state = .training ∧ x.retraining = true) ∧
    (let s := linked { state := .training }
     -- no plane fixed for the port; another port on the plane; the leaf another package's
     s.planeMap 47 = 0xFF ∧ ¬ (∃ q < 47, (s.port q).plane = 5 ∧ ((s.port q).state = .up ∨ (s.port q).state = .training ∧ (s.port q).retraining = true))) ∧
    (let s : State := { State.reset with hws := { ports := [(0, { upPort with plane := 5 }), (47, { state := .training })] } }
     ∃ q < 47, (s.port q).plane = 5 ∧ ((s.port q).state = .up ∨ (s.port q).state = .training ∧ (s.port q).retraining = true)) ∧
    (joined.hws.indexChosen = true ∧ 4 ≠ joined.hws.index ∧ 3 = joined.hws.index) ∧ State.reset.frm.count % 1024 = 0 := by
  repeat' apply And.intro
  all_goals decide +kernel

/-! ### Witnesses: the host port, the Lehr, failures -/

/-- A HOST section with requester 0x55 and one record: bytes 0x10000 to 0x1FFFF of BAR2 are those of HBM (R571, R572). -/
def hostBody : List Byte :=
  fieldsOf 168 [(1, 1, 1), (2, 2, 1), (8, 2, 0x55), (138, 1, 7), (140, 2, 256), (144, 8, 1), (152, 4, 1), (156, 4, 1), (160, 8, 0x10000)]
def placing : State :=
  { State.reset with
    frt := { active := some { frit with bodies := frit.bodies ++ [(6, hostBody)] } }, fea := { active := BitVec.allOnes 128 }
    hpt := { linkUp := true }, boot := { stage := .released } }

theorem test_hyp_HostAccessesAreAdmittedOrRefused :
    placing.alive = true ∧ placing.hpt.linkUp = true ∧
    -- requester, place and length: outside the record, then at both its ends
    (∀ a ∈ [(0x54, 0x10000, 8), (0x55, 0xFFFF, 8), (0x55, 0x1FFF9, 8), (0x55, 0x10000, 0)], ∀ w ∈ [true, false], placing.placed a.1 a.2.1 a.2.2 w = none) ∧
    (∀ a ∈ [(0x10000, 128, 0x10000), (0x1FFF8, 8, 0x1FFF8)], ∀ w ∈ [true, false], (placing.placed 0x55 a.1 a.2.1 w).map (·.2) = some a.2.2) ∧
    placing.drainInbound.placed 0x54 0x10000 8 false = none ∧
    (match placing.drainInbound.placed 0x55 0x10000 8 false with
      | some (_, a) => (match placing.drainInbound.bytesRead 568 a 8 with | (.ok _, _) => true | _ => false)
      | none => false) = true ∧
    placing.hpt.inbound = [] ∧
    (let s := State.reset; s.alive = true ∧ s.hpt.linkUp = false ∧ s.lhr.stage < 4 ∧ s.pins.perstN = true) ∧
    placing.boot.stage = .released ∧ placing.hpt.attached = false ∧
    (let s : State := { placing with hpt := { placing.hpt with parkHead := 2 ^ 32 - 1, parkTail := 1 } }
     let room := (s.hpt.parkTail + 2 ^ 32 - s.hpt.parkHead) % 2 ^ 32
     (∀ v ∈ [2 ^ 32 - 1, 0, 1], (v + 2 ^ 32 - s.hpt.parkHead) % 2 ^ 32 ≤ room) ∧ room < (2 + 2 ^ 32 - s.hpt.parkHead) % 2 ^ 32) := by
  decide +kernel

theorem test_hyp_HostAccessesAreAdmittedOrRefused_poisoned :
    let s : State := { placing with memPoison := [0x10000] }
    s.alive = true ∧ (match s.drainInbound.bytesRead 568 0x10000 8 with | (.poisoned, _) => true | _ => false) = true := by decide +kernel

theorem test_hyp_DetachParksAndHalts :
    placing.alive = true ∧ placing.hpt.linkUp = true ∧ placing.pins.perstN = true ∧ placing.perstPackage = false ∧
    (let s : State := { placing with frt := { active := some { frit with bodies := frit.bodies ++ [(6, fieldsOf 136 [(0, 1, 1)])] } } }; s.perstPackage = true) ∧
    (let s : State := { State.reset with pins := { perstN := false } }; s.alive = true ∧ s.pins.perstN = false) ∧
    (placing.queues = [] ∧ placing.dma = [] ∧ placing.hpt.confirms = [] ∧ (∀ w ∈ placing.hpt.posted.drop 0, w.record = none)) ∧
    (let c : Confirm := { queue := 2, seq := 5, bytes := List.replicate 16 0, park := true }
     let s : State := { placing with hpt := { placing.hpt with confirms := [c] } }
     s.hpt.confirms.find? (fun c => c.queue == 2) = some c ∧ ReadBack.failed ≠ .ok c.seq ∧ ReadBack.ok 6 ≠ .ok c.seq) := by decide +kernel

def awake : State := { State.reset with now := 4096 }

theorem test_hyp_LehrEventsAct :
    awake.alive = true ∧ awake.pins.rails = true ∧
    (∀ n ∈ [0, 1, 2, 15], let s : State := { awake with frm := { awake.frm with count := n }, lhr := { awake.lhr with jobRunning := true } }
      s.alive = true ∧ s.lhr.jobRunning = true ∧ (n < 2 → s.frm.count % 16 < 2) ∧ (2 ≤ n → 2 ≤ s.frm.count % 16)) ∧
    (let s : State := { awake with lhr := { awake.lhr with doms := [(31, { skip := 1, droopAt := 3840 })] } }
     (s.dom 31).skip ≠ 0 ∧ (s.dom 31).droopAt + 256 ≤ s.now) ∧
    (∀ heavy ∈ [true, false],
      let s : State := { awake with lhr := { awake.lhr with rampQ := [(31, 4000)], lastGrant := some 4000, doms := [(31, { hintLeft := if heavy then 1 else 0, armed := heavy })] } }
      let gap := if (s.dom 31).heavy then s.powerField 6 1 4 else s.powerField 5 1 16
      s.lhr.rampQ = (31, 4000) :: [] ∧ (∀ t0, s.lhr.lastGrant = some t0 → 5 * t0 + 18 * gap ≤ 5 * s.now)) ∧
    (let s : State := { awake with lhr := { awake.lhr with doms := [(31, { quiet := false, rampK := 7, rampAt := 4032 })] } }
     (s.dom 31).quiet = false ∧ (s.dom 31).rampK < 8 ∧ (∀ e ∈ s.lhr.rampQ, e.1 ≠ 31) ∧ (s.dom 31).rampAt + s.powerField 4 1 64 ≤ s.now) ∧
    (let s : State := { awake with lhr := { awake.lhr with doms := [(31, { quiet := false, lastMma := 3072, rampAt := 3072 })] } }
     (s.dom 31).quiet = false ∧ (s.dom 31).lastMma + 1024 ≤ s.now ∧ (s.dom 31).rampAt + 1024 ≤ s.now) ∧
    (∀ k ∈ [1, 3, 4, 5], let s : State := { awake with lhr := { awake.lhr with waking := true, stage := k } }
      s.lhr.waking = true ∧ s.pins.vinOk = true ∧ s.pins.sbRstN = true ∧ s.lhr.stage ≠ 0 ∧ (k < 4 → s.lhr.stage < 4) ∧ (4 ≤ k → 4 ≤ s.lhr.stage)) ∧
    (let s : State := { awake with lhr := { awake.lhr with memReady := false } }
     s.alive = true ∧ s.lhr.memReady = false ∧ s.lhr.stage = 0) := by
  repeat' apply And.intro
  all_goals decide +kernel

def bundled (b : Bundle) : State := { State.reset with dlk := [(47, b)] }
def goodDieFlit : List Byte := zeroBytes 62 ++ leBytes 2 (crc16 (zeroBytes 62))

theorem goodDieFlit_ok : goodDieFlit.length = 64 ∧ fieldAt goodDieFlit 62 2 = crc16 (goodDieFlit.take 62) := by
  have h := fieldAt_check (zeroBytes 62) 62 2 (crc16 (zeroBytes 62)) (zeroBytes_length 62) (crc16_lt _)
  exact ⟨by simp only [goodDieFlit, List.length_append, length_leBytes, zeroBytes_length], by rw [goodDieFlit, h.1, h.2]⟩

theorem goodDieFlit_take : goodDieFlit.take 62 = zeroBytes 62 := by
  rw [goodDieFlit, List.take_left' (zeroBytes_length 62)]

theorem goodDieFlit_seq : fieldAt goodDieFlit 60 2 = 0 := by
  have h : (goodDieFlit.drop 60).take 2 = (zeroBytes 62).drop 60 := by
    rw [← goodDieFlit_take, List.drop_take]
  unfold fieldAt
  rw [h]
  decide

theorem test_hyp_FailuresFenceOrEndService_good :
    (goodDieFlit.length = 64 ∧ fieldAt goodDieFlit 62 2 = crc16 (goodDieFlit.take 62)) ∧
    fieldAt goodDieFlit 60 2 % 4096 = ((bundled { state := .full }).bundle 47).rxSeq :=
  ⟨goodDieFlit_ok, by rw [goodDieFlit_seq]; decide +kernel⟩

theorem test_hyp_FailuresFenceOrEndService :
    State.reset.alive = true ∧ State.reset.coh.reclaim = false ∧
    (let s : State := { State.reset with coh := { State.reset.coh with reclaim := true } }; s.alive = true ∧ s.coh.reclaim = true) ∧
    (let s : State := { State.reset with err := { fmUnit := BitVec.ofNat 1024 (2 ^ 1023) } }
     s.err.fmUnit.getLsbD 1023 = true ∧ s.err.fmUnit.getLsbD 1022 = false) ∧
    (∀ st ∈ [DlkState.full, .narrow0, .narrow1], ((bundled { state := st }).bundle 47).up = true) ∧
    ¬ (([] : List Byte).length = 64 ∧ fieldAt [] 62 2 = crc16 (([] : List Byte).take 62)) ∧
    (∀ st ∈ [DlkState.full, .narrow1], ∀ n ∈ [6, 7],
      let s := bundled { state := st, rxNak := true, nakSeq := some 0, failedReplays := n }
      (s.bundle 47).up = true ∧ (s.bundle 47).rxNak = true ∧ (s.bundle 47).nakSeq = some (s.bundle 47).rxSeq ∧
        (n = 6 → (s.bundle 47).failedReplays + 1 < 8) ∧ (n = 7 → 8 ≤ (s.bundle 47).failedReplays + 1) ∧ (s.bundle 47).state = st) := by
  repeat' apply And.intro
  all_goals decide +kernel

/-! ### Witnesses: power, boot and the mailbox

`Config.sigOk` is a free function; that some image verifies is shown of one that accepts every signature. -/

def unpowered (p : Pins) : State := { State.reset with pins := p }

theorem test_hyp_PowerAndResetSequence :
    (∀ v ∈ [true, false], (unpowered { vinOk := v }).pins.vinOk = v) ∧
    (∀ r ∈ [true, false], ∀ v ∈ [true, false], (unpowered { sbRstN := r, vinOk := v }).pins.sbRstN = r) ∧
    (let powered := fun (s : State) => s.pins.vinOk = true ∧ s.pins.sbGood = true ∧ s.pins.sbRstN = true ∧ s.pins.thermtrip = false ∧ s.lhr.stage < 4
     (let s := unpowered { rails := false }; powered s ∧ s.pins.rails = false) ∧ ¬ powered (unpowered { thermtrip := true }) ∧
     ¬ powered { State.reset with lhr := { State.reset.lhr with stage := 4 } } ∧
     (let s := unpowered { pwrGood := false }; powered s ∧ s.pins.rails = true ∧ s.pins.pwrGood = false)) ∧
    Tbl.wf 0 State.reset.boot.meas = true ∧ State.reset.pins.rails = true ∧
    (∀ f ∈ [true, false], let s : State := { State.reset with err := { fatal := f } }; s.pins.rails = true ∧ s.err.fatal = f) ∧
    (State.reset.mgmtUp = true ∧ (let s := unpowered { thermtrip := true }; s.mgmtUp = true ∧ s.pins.thermtrip = true)) ∧
    (∀ k ∈ [1, 5], let s : State := { State.reset with lhr := { State.reset.lhr with stage := k } }
      s.mgmtUp = true ∧ s.pins.thermtrip = false ∧ s.lhr.stage ≠ 0 ∧ (s.pins.rails = true ∨ 4 ≤ s.lhr.stage)) ∧
    (State.reset.mgmt.busy = false ∧ Tbl.wf 0 State.reset.mgmt.buf = true) ∧
    (let s : State := { State.reset with frm := { State.reset.frm with ftrefPresent := false } }; s.frm.ftrefPresent = false) := by
  repeat' apply And.intro
  all_goals decide +kernel

/-- A slot with an image of a KIND, 64 bytes of program (R672), and a signature block of zeros; the key digests of the fuses
at reset are 0. -/
def slotImage (kind svn : Nat) : FlashSlot :=
  { size := 288
    bytes := cells 0 (fieldsOf 32 [(0, 4, 0x474D4950), (4, 1, kind), (5, 1, svn), (8, 4, 64), (16, 8, 0x4000), (24, 8, 0x4000)] ++ partBytes) }
def bootImage (kind svn : Nat) : BootImage :=
  { svn := svn, length := 64, entry := 0x4000, load := 0x4000, signed := (slotImage kind svn).read 192 }
/-- Powered, with images of SVN 2 in the A slots and of SVN 3 in the B slots. -/
def flashed : State :=
  { State.reset with
    pins := {}, flash := { marverA := slotImage 1 2, marverB := slotImage 1 3, nodeA := slotImage 2 2, nodeB := slotImage 2 3 } }

theorem slotCheck_image (h : ∀ k d r s, Config.sigOk k d r s = true) :
    ∀ kind ∈ [1, 2], ∀ svn ∈ [2, 3], flashed.slotCheck kind (slotImage kind svn) = (0, some (bootImage kind svn)) := by
  intro kind hk svn hs
  simp only [State.slotCheck, sigBlockOk, h, Bool.and_true]
  simp only [List.mem_cons, List.not_mem_nil, or_false] at hk hs
  rcases hk with rfl | rfl <;> rcases hs with rfl | rfl <;> decide +kernel

theorem test_hyp_BootSequenceRuns_choice (h : ∀ k d r s, Config.sigOk k d r s = true) :
    flashed.bootChoice 1 = some (true, bootImage 1 3) ∧ flashed.bootChoice 2 = some (true, bootImage 2 3) := by
  have c := slotCheck_image h
  have e : ∀ k ∈ [1, 2], ∀ b, flashed.flash.slot k b = slotImage k (if b then 3 else 2) := by decide +kernel
  have one : ∀ k ∈ [1, 2], flashed.bootChoice k = some (true, bootImage k 3) := by
    intro k hk
    simp only [State.bootChoice, e k hk, if_true, Bool.false_eq_true, if_false, c k hk 2 (by decide), c k hk 3 (by decide)]
    rfl
  exact ⟨one 1 (by decide), one 2 (by decide)⟩

def booting (st : BootStage) : State := { flashed with boot := { stage := st } }

theorem test_hyp_BootSequenceRuns :
    (flashed.alive = true ∧ flashed.pins.pwrGood = true ∧ flashed.boot.stage = .rom ∧ flashed.flash.ok = true) ∧
    (let s : State := { flashed with flash := { flashed.flash with answers := false } }; s.flash.ok = false) ∧
    (let s : State := { flashed with flash := {} }; s.flash.ok = true ∧ s.bootChoice 1 = none ∧ s.bootChoice 2 = none) ∧
    Tbl.wf 0 flashed.boot.meas = true ∧ Tables flashed ∧
    (booting .train).boot.stage = .train ∧
    -- both halves of bundle 40 or 47 fail; channel 767 fails; nothing fails
    (∀ n ∈ [40, 47], let t := (List.range 48).foldl (fun s m => s.trainBundle [2 * n, 2 * n + 1] m) (booting .train)
      (t.bundle n).state = .down ∧ (∀ m < n, 40 ≤ m → (t.bundle m).state ≠ .down)) ∧
    (let t := (List.range 48).foldl (fun s m => s.trainBundle [94] m) (booting .train)
     (∀ n < 48, (t.bundle n).state ≠ .down) ∧ (∀ c < 768, c ∉ ([] : List Nat)) ∧ t.boot.pprKept = false) ∧
    (767 ∈ [767] ∧ ∀ c < 767, c ∉ [767]) ∧
    (booting .test).boot.stage = .test ∧ (booting .released).boot.nodeState = 0 ∧
    ((booting .released).hartFenced (booting .released).ncc.startHart = false ∧ ((booting .released).hart (booting .released).ncc.startHart).state = .held) := by
  repeat' apply And.intro
  all_goals decide +kernel

theorem test_hyp_BootSequenceRuns_harts :
    (∀ c ∈ [0xFFE, 0], let s : State := { flashed with err := { fmCc := BitVec.ofNat 12 c } }
      (s.hartFenced 0 = false ∧ ∀ k < 0, s.hartFenced k = true) ∨ (s.hartFenced 8 = false ∧ ∀ k < 8, s.hartFenced k = true) ∨ c = 0) ∧
    (let s : State := { flashed with err := { fmCc := BitVec.allOnes 12 } }; ∀ h < 96, s.hartFenced h = true) := by decide +kernel

/-- Marver runs, with an operation running on both channels. -/
def serving (r : MbxRun) : State :=
  { booting .released with
    boot := { stage := .released, secretLocked := true, flashQ := [.ch0], nodeState := 1, svnMarver := 3, svnNode := 64 }
    mbx0 := { busy := true, running := some r }, mbx1 := { busy := true, running := some r }
    fuses := { ownerSet := 3 } }
def run (op arg : Nat) (input : List Byte) : MbxRun := { op := op, arg := arg, offset := 0, len := input.length, input := input }
/-- An address and a target of KNOT_ARM (R701). -/
def armInput (a : Nat) : List Byte := fieldsOf 32 [(0, 8, a), (8, 8, 7), (16, 2, 300)]
/-- What an operation is taken as from channel 0, channel 1 and the management port. -/
def taken (r : MbxRun) : List (Option (Chan × MbxRun)) :=
  [OpFrom.ch0, .ch1, .mgmt r.arg 0 r.input].map (fun src => ((serving r).opTake src r.op).map (fun x => (x.1, x.2.1)))

theorem test_hyp_MailboxOperationsAnswer :
    (let s := serving (run 1 0 (zeroBytes 32))
     s.alive = true ∧ s.boot.secretLocked = true ∧ s.mbx0.running = some (run 1 0 (zeroBytes 32)) ∧ s.mbx0.outcome = none ∧
       s.mbx1.running = some (run 1 0 (zeroBytes 32)) ∧ s.mbx1.outcome = none) ∧
    (∀ r ∈ [run 0x01 0 (zeroBytes 32), run 0x02 0 [], run 0x03 0 [], run 0x04 7 [], run 0x04 8 (zeroBytes 32), run 0x04 15 (zeroBytes 32), run 0x04 16 [],
        run 0x20 63 (armInput 0x2000), run 0x21 63 []],
      taken r = [some (.ch0, r), some (.ch1, r), some (.mgmt, r)]) ∧
    (let t := serving (run 0x20 63 (armInput 0x2000))
     (t.kwait 63).state ≠ .armed ∧ (fieldAt (armInput 0x2000) 8 8).testBit 63 = false ∧
       locality t.hws.indexValid t.hws.index (fieldAt (armInput 0x2000) 0 8) = .here ∧ fieldAt (armInput 0x2000) 0 8 % 8 = 0 ∧ fieldAt (armInput 0x2004) 0 8 % 8 ≠ 0) ∧
    (let t := (serving (run 0x21 63 [])).modKwait 63 (fun x => { x with state := .armed }); (t.kwait 63).state = .armed) ∧
    (let s : State := { State.reset with mbx1 := { busy := true, outcome := some (0, 32) } }; (s.mbx .ch1).outcome = some (0, 32)) ∧
    (let s := serving (run 0x55 0 [])
     (s.mbx .ch0).outcome = none ∧ (s.mbx .ch0).running = some (run 0x55 0 []) ∧
       (run 0x55 0 []).op ∉ [0x01, 0x02, 0x03, 0x04, 0x10, 0x11, 0x12, 0x13, 0x20, 0x21]) := by
  repeat' apply And.intro
  all_goals decide +kernel

theorem test_hyp_FlashFusesAndSpdm :
    (∀ r ∈ [run 0x10 1 [], run 0x10 3 [1], run 0x10 4 [], run 0x10 1 (zeroBytes 289), run 0x11 1 [], run 0x11 3 []],
      (taken r).head? = some (some (.ch0, r))) ∧
    (∀ r ∈ [run 0x12 1 [], run 0x12 2 [], run 0x12 3 [], run 0x13 1 (zeroBytes 96), run 0x13 2 [], run 0x13 4 [], run 0x13 1 (zeroBytes 95)],
      taken r = [some (.ch0, r), some (.ch1, r), some (.mgmt, r)]) ∧
    (let t := serving (run 0x10 1 [])
     t.flash.answers = true ∧ 0 + (zeroBytes 288).length ≤ (t.flash.slot 1 (t.inactiveSlot 1)).size ∧ (t.flash.slot 1 (t.inactiveSlot 1)).size < 0 + (zeroBytes 289).length ∧
       (t.flash.slot 3 (t.inactiveSlot 3)).size < 0 + 1) ∧
    (let t : State := { serving (run 0x11 1 []) with flash := { answers := false } }; t.flash.answers = false) ∧
    (let t : State := { serving (run 0x11 1 []) with flash := {} }; t.slotCheck 1 (t.flash.slot 1 (t.inactiveSlot 1)) = (2, none)) ∧
    (let t := serving (run 0x12 2 []); t.boot.nodeState = 1 ∧ ((3 : Nat) ≠ 1 ∧ ((3 : Nat) ≠ 2 ∨ t.boot.nodeState ≠ 1))) ∧
    (let t := serving (run 0x13 1 (zeroBytes 96))
     t.fuses.ownerLive 1 = true ∧ t.fuses.ownerLive 2 = false ∧ (List.range 4).filter (fun k => decide (k ≠ 1) && t.fuses.ownerLive k) = [0] ∧ ¬ 96 ≤ (zeroBytes 95).length) ∧
    (let s := serving (run 0x13 1 []); s.alive = true ∧ s.boot.secretLocked = true) ∧ placing.hpt.linkUp = true := by
  repeat' apply And.intro
  all_goals decide +kernel

theorem test_hyp_FlashFusesAndSpdm_signed (h : ∀ k d r s, Config.sigOk k d r s = true) :
    (let t := serving (run 0x11 1 []); t.slotCheck 1 (t.flash.slot 1 (t.inactiveSlot 1)) = (0, some (bootImage 1 3))) ∧
    (let t := serving (run 0x13 1 (zeroBytes 96)); let r := run 0x13 1 (zeroBytes 96)
     96 ≤ r.len ∧ sigBlockOk ([0].map (fun k => t.fuses.ownerKeys.getD k 0)) (r.input.take (r.len - 96)) ((r.input.drop (r.len - 96)).take 96) = true) := by
  refine ⟨slotCheck_image h 1 (by decide) 3 (by decide), by decide, ?_⟩
  simp only [sigBlockOk, h, Bool.and_true]
  decide +kernel

/-! ### Witnesses: node cores, the frame, images, registers, errors -/

/-- Hart 95 runs; its complex's cache holds the line 0x2000, whose word 1 is 9, in state M. -/
def nodeState (x : Hart) (s : State := State.reset) : State :=
  { s with ncc := { harts := [(95, x)] }, agents := [(267, { lines := [{ line := 0x2000, st := .M, data := 9 * 2 ^ 64 }] })] }
def runs : Hart := { state := .running }

/-- A hart in supervisor mode whose table at 0x1000 (Sv39, the first 1 GiB a leaf of type NC) or at 0x3000 (empty) translates. -/
def translated (root : Nat) : State :=
  let k : Hart := { runs with priv := 1, csr := [(0x180, 8 * 2 ^ 60 + root), (0x30A, 2 ^ 62)] }
  nodeState k { State.reset with mem := cells 0x1000 (leBytes 8 (2 ^ 61 + 0xCF)) }

theorem test_hyp_NodeInstructionsExecute :
    (let s := nodeState runs
     s.alive = true ∧ (s.hart 95).state = .running ∧ (s.hart 95).wait = none ∧ s.lhr.stage = 0 ∧ (s.hart 95).accessPriv false = 3 ∧
       (s.hart 95).priv = 3 ∧ 0x2008 % 4096 + 8 ≤ 4096) ∧
    (∀ root ∈ [1, 3], let s := translated root
      s.alive = true ∧ (s.hart 95).state = .running ∧ (s.hart 95).wait = none ∧ s.lhr.stage = 0 ∧ (s.hart 95).priv < 3) ∧
    (∀ write ∈ [true, false],
      (match (translated 1).nodeXlate 95 0x2008 8 false write with
        | (.at_ ps nc, t) => decide (ps = [(0x2008, 8)]) && nc && decide (t.nodeRoute 95 0x2008 8 = .memory 0x2008) &&
          (match t.bytesRead 267 0x2008 8 true with | (.ok _, _) => true | _ => false)
        | _ => false) = true ∧
      (match (translated 3).nodeXlate 95 0x2008 8 false write with | (.fault page, _) => page | _ => false) = true ∧
      (match (nodeState runs).nodeXlate 95 0x2008 8 false write with
        | (.at_ ps nc, t) => decide (ps = [(0x2008, 8)]) && !nc && decide (t = nodeState runs) | _ => false) = true) ∧
    (match (nodeState runs).nodeXlate 95 0x2008 4 true false with | (.at_ ps nc, _) => decide (ps = [(0x2008, 4)]) && !nc | _ => false) = true ∧
    (let s1 := nodeState runs
     (∀ n ∈ [4, 8], s1.nodeRoute 95 (9 * 2 ^ 42) n = .fault ∧ s1.nodeRoute 95 0x3EFFFFFFFFC 8 = .fault) ∧
       s1.nodeRoute 95 0x2008 8 = .memory 0x2008 ∧ s1.nodeRoute 95 0x2008 4 = .memory 0x2008 ∧ s1.nodeRoute 95 0x3F00000FFF8 8 = .register 0xFFF8) ∧
    (let s1 := nodeState runs joined
     s1.nodeRoute 95 (9 * 2 ^ 42 + 0x2078) 8 = .remote 9 ∧ (9 * 2 ^ 42 + 0x2078) % 128 + 8 ≤ 128) ∧
    (let s1 := nodeState runs
     (∀ fetch ∈ [true, false], (match s1.cachedRead 267 95 0x2008 8 fetch with | (.ok bs, _) => decide (bs = leBytes 8 9) | _ => false) = true) ∧
       (match s1.cachedWrite 267 95 0x2008 (leBytes 8 5) with | (true, t) => decide (t.agentData 267 0x2000 = some (5 * 2 ^ 64, false)) | _ => false) = true ∧
       (match ({ s1 with agents := [(267, { lines := [{ line := 0x2000, st := .M, data := 0, poison := true }] })] } : State).cachedRead 267 95 0x2008 8 false with
         | (.poisoned, _) => true | _ => false) = true) ∧
    (0x2004 % 8 ≠ 0 ∧ 0x2008 % 8 = 0) ∧
    (let s1 := nodeState runs
     (s1.linesOf (segments 0x2008 8)).head? = some 0x2000 ∧
       (match s1.gain 267 (s1.linesOf (segments 0x2008 8)) true with
         | (true, t) => decide (t.agentData 267 0x2000 = some (9 * 2 ^ 64, false)) && decide ((t.linesOf (segments 0x2008 8)).head? = some 0x2000)
         | _ => false) = true) ∧
    ((nodeState runs).hart 95).resv = none ∧
    (let s := nodeState { runs with resv := some 0x2080 }; (s.hart 95).resv ≠ none ∧ (s.hart 95).resv ≠ s.lineAt 0x2008) ∧
    (let s := nodeState { runs with resv := some 0x2000 }
     (s.hart 95).resv = some 0x2000 ∧ s.lineAt 0x2008 = some 0x2000 ∧
       (match s.gain 267 (s.linesOf (segments 0x2008 8)) true with
         | (true, t) => decide ((t.hart 95).resv = some 0x2000) && decide (t.lineAt 0x2008 = some 0x2000)
         | _ => false) = true) ∧
    (∀ csr ∈ [0xC00, 0xCC0, 0xFFF], csr / 1024 % 4 = 3) := by
  repeat' apply And.intro
  all_goals decide +kernel

theorem test_hyp_FrameTicksActInOrder :
    State.reset.pins.rails = true ∧ State.reset.lhr.stage < 4 ∧
    (∀ e ∈ [([115], [], some (5, 0)), ([114], [110], some (7, 0)), ([114], [109], none)], emergencyOf { die := e.1, stack := e.2.1 } = e.2.2) ∧
    State.reset.frm.pendingCount = none ∧
    (let s : State := { State.reset with frm := { State.reset.frm with pendingCount := some 7, state := .holdover } }
     s.frm.pendingCount = some 7 ∧ s.frm.state = .holdover) ∧ State.reset.frm.state ≠ .holdover := by decide +kernel

theorem test_hyp_GrantsStayWithinBudgetAndDemand :
    (∀ e ∈ [({ dom := 0, w := 4, want := 100, got := 100 } : Share), { dom := 31, w := 1, want := 50, got := 0 }], e.got ≤ e.want) ∧
    ((100 : Nat) ≤ 100 ∧ 0 < 100 ∧ 99 < 100) := by decide +kernel

/-- Package 3 reaches package 9 through port 47. -/
def hearing (f : Machine.Frm) (role : Nat := 1) (s : State := joined) : State :=
  { s with
    frm := f, hws := { s.hws with peers := [(9, { state := .up, planes := 2 ^ 47 }), (2, { state := .up, planes := 2 ^ 47 })] }
    frt := { active := some { frit with bodies := frit.bodies ++ [(3, fieldsOf 8 [(0, 1, 3), (1, 1, role), (2, 1, 5)])] } } }

theorem test_hyp_BeaconsAndElectionsKeepTheFrame :
    (let s := hearing {}
     s.alive = true ∧ 9 ≠ s.hws.index ∧ s.beaconPort 9 = some 47 ∧ s.frm.isMaster = false ∧ s.role ≠ 2 ∧ 2 ≠ s.period ∧ 3 = s.period ∧ s.beaconPort 9 ≠ some 46 ∧
       s.hws.indexValid = true) ∧
    (let s := hearing { isMaster := true, state := .locked }
     s.frm.isMaster = true ∧ s.role ≠ 0 ∧ ¬ (s.hws.indexValid = false ∨ 9 < s.hws.index)) ∧
    (∀ st ∈ [FrmState.acquiring, .locked], let s := hearing { state := st, missed := 4 }
      s.frm.isMaster = false ∧ 4 ≤ s.frm.missed ∧ s.frm.state = st) ∧
    (let s := hearing { state := .acquiring, inTol := 16 }; s.frm.isMaster = false ∧ s.frm.state = .acquiring ∧ 16 ≤ s.frm.inTol) ∧
    (∀ st ∈ [FrmState.free, .holdover], let s := hearing { state := st, heldFrames := 16 }
      s.electable = true ∧ s.frm.election = none ∧ (s.frm.state = .holdover → 16 ≤ s.frm.heldFrames)) ∧
    (∀ b ∈ [(5, 3), (9, 9)], let s := hearing { state := .holdover, election := some b }
      s.electable = true ∧ s.frm.election = some b ∧ (b.2 = 3 → b.2 = s.hws.index) ∧ (b.2 = 9 → b.2 ≠ s.hws.index)) := by
  repeat' apply And.intro
  all_goals decide +kernel

def structBody : List Byte := fieldsOf 16 [(0, 1, 1), (10, 2, 0xFFF), (12, 4, 1)]
def memoryBody : List Byte := fieldsOf 216 ((List.range 24).flatMap (fun g => [(9 + 8 * g, 1, 0xFF), (11 + 8 * g, 1, 1)]))
def frameBody : List Byte := fieldsOf 8 [(0, 1, 3), (1, 1, 1)]
def fabricBody : List Byte := fieldsOf 72 ([(1, 1, 47), (5, 1, 64), (6, 1, 64), (7, 1, 64)] ++ (List.range 48).map (fun p => (24 + p, 1, 0xFF)))
def bodies (fabric : Bool) : List (Nat × List Byte) :=
  [(1, structBody), (2, memoryBody), (3, frameBody)] ++ if fabric then [(5, fabricBody)] else []
/-- A frit image laid out by R61 to R63, with a signature block of zeros. -/
def fritImage (seq : Nat) (fabric : Bool) : List Byte :=
  let secs := (bodies fabric).flatMap (fun b => leBytes 2 b.1 ++ [0, 0] ++ leBytes 4 b.2.length ++ b.2)
  leBytes 4 0x54495246 ++ leBytes 2 1 ++ leBytes 2 (bodies fabric).length ++ leBytes 4 (64 + secs.length) ++ leBytes 4 seq ++ partBytes ++ zeroBytes 32
    ++ secs ++ zeroBytes 96

theorem fritCheck_ok (h : ∀ k d r s, Config.sigOk k d r s = true) (s : State) (reload : Bool) (img : List Byte) (secs : List (Nat × List Byte))
    (parsed : fritParse img = some secs) (part : (img.drop 16).take 16 = partBytes)
    (key : s.fuses.ownerDigests.contains (beNat (((img.drop (fritSigned img).length).take 96).take 32)) = true)
    (newer : (reload && s.frt.active.any (fun a => decide (fieldAt img 12 4 ≤ a.seq))) = false) (value : fritValueOk secs = true)
    (repair : (reload && s.frt.active.isSome && ((((((s.frt.active.map (·.bodies)).getD []).find? (fun b => b.1 == 2)).map (·.2)).getD []).drop 200).take 16
      != ((((secs.find? (fun b => b.1 == 2)).map (·.2)).getD []).drop 200).take 16) = false)
    (still : (reload && !(affectedCoils ((s.frt.active.map (·.bodies)).getD []) secs).all s.quiescent) = false) :
    ∃ f, s.fritCheck reload img = (0, some f) ∧ f.bodies = secs := by
  unfold State.fritCheck
  rw [parsed]
  simp only [part, sigBlockOk, key, h, newer, value, repair, still, ne_eq, not_true_eq_false, if_false, Bool.and_true, Bool.not_true, Bool.false_eq_true]
  exact ⟨_, rfl, rfl⟩

/-- Package 3, whose port 47 is UP, with the given image under verification. -/
def loading (active : Option Frit) (img : List Byte) : State :=
  { joined with boot := { stage := if active.isSome then .released else .waitFrit }, frt := { active := active, busy := true, checking := some img } }
def active1 : Frit := { seq := 1, digest := 0, bodies := bodies false }

theorem test_hyp_ImagesReloadAndFeaturesCommit (h : ∀ k d r s, Config.sigOk k d r s = true) :
    (∃ f, (loading none (fritImage 1 false)).fritCheck false (fritImage 1 false) = (0, some f) ∧ f.bodies = bodies false) ∧
    (∀ fabric ∈ [false, true], ∃ f, (loading (some active1) (fritImage 2 fabric)).fritCheck true (fritImage 2 fabric) = (0, some f) ∧
      f.bodies = bodies fabric ∧ (5 ∈ changed active1.bodies (bodies fabric) ↔ fabric = true)) := by
  refine ⟨fritCheck_ok h _ _ _ _ ?_ ?_ ?_ ?_ ?_ ?_ ?_, fun fabric hf => ?_⟩
  case refine_8 =>
    have : ∃ f, (loading (some active1) (fritImage 2 fabric)).fritCheck true (fritImage 2 fabric) = (0, some f) ∧ f.bodies = bodies fabric := by
      refine fritCheck_ok h _ _ _ _ ?_ ?_ ?_ ?_ ?_ ?_ ?_
      all_goals revert fabric; decide +kernel
    obtain ⟨f, hc, hb⟩ := this
    exact ⟨f, hc, hb, (show ∀ b ∈ [false, true], (5 ∈ changed active1.bodies (bodies b) ↔ b = true) by decide +kernel) fabric hf⟩
  all_goals decide +kernel

theorem test_hyp_ImagesReloadAndFeaturesCommit_others :
    (∀ a ∈ [none, some active1], let s := loading a (fritImage 2 true)
      s.alive = true ∧ s.frt.busy = true ∧ s.depart = none ∧ (s.boot.stage = .waitFrit ∨ s.boot.stage = .released) ∧
        s.frt.checking = some (fritImage 2 true) ∧ s.frt.active = a ∧ s.upPorts ≠ []) ∧
    State.reset.frt.busy = false ∧ (loading none []).fritCheck false [] = (2, none) ∧ joined.fea.locked = true ∧ State.reset.fea.locked = false := by
  repeat' apply And.intro
  all_goals decide +kernel

theorem test_hyp_RegisterWritesAct :
    (∀ m ∈ [Master.host, .hart 95], ∀ locked ∈ [true, false],
      let s : State := { nodeState runs placing with fea := { locked := locked } }
      s.reaches m = true ∧ s.released m = true ∧ s.err.fatal = false ∧ s.fea.locked = locked) ∧
    (∀ a ∈ [(0x20, 2), (0x24, 8), (0x22, 4), (0xFFFFFFC, 8)], ¬ ((a.2 = 4 ∨ a.2 = 8) ∧ a.1 % a.2 = 0)) ∧
    (((queued 0 []).queue 2).state ≠ .disabled ∧ ((queued 0 []).queue 2047).state = .disabled) ∧
    (∀ off ∈ [0x500000, 0x7FFFF8], 0x500000 ≤ off ∧ off < 0x800000 ∧ off % 8 = 0) := by
  repeat' apply And.intro
  all_goals decide +kernel

theorem test_hyp_EveryStepKeepsCanonicalForm :
    (let s : State := { State.reset with pending := [.hptFlush] }
     ∃ t, step s = .next t ∧ s.pending.head? = some .hptFlush ∧ cutsIsland .hptFlush = false) ∧
    Canonical { State.reset with pending := [.hptFlush] } ∧ State.reset.pending = [] := by
  refine ⟨⟨_, rfl, rfl, rfl⟩, ?_, rfl⟩
  unfold Canonical Tables
  decide +kernel

def banked (k : ErrBank) (frame : List (Nat × Nat × Nat)) : State := { State.reset with err := { bank0 := k, thisFrame := frame } }
def logged (idx : Nat) : ErrRec := { seq := 4, cls := .fe, code := 0x10, srcKind := 7, srcIndex := idx }

theorem test_hyp_ErrorRecordsAreCountedMergedAndKept :
    -- the FE bank of 16: not full, full, and full where the pointers have wrapped
    (∀ k ∈ [({ head := 0, tail := 15 } : ErrBank), { head := 2 ^ 32 - 1, tail := 14 }], (k.tail + 2 ^ 32 - k.head) % 2 ^ 32 ≠ 16 ∧ (7, 9, 0x10) ∉ (banked k []).err.thisFrame) ∧
    (∀ k ∈ [({ head := 0, tail := 16 } : ErrBank), { head := 2 ^ 32 - 1, tail := 15 }], (k.tail + 2 ^ 32 - k.head) % 2 ^ 32 = 16) ∧
    (∀ idx ∈ [9, 8],
      let s := banked { head := 0, tail := 5, recs := [(4, logged idx)] } [(7, 9, 0x10)]
      let k := s.err.bank 0
      ¬ (7, 9, 0x10) ∉ s.err.thisFrame ∧ k.at? ((k.tail + 2 ^ 32 - 1) % 2 ^ 32 % 16) = some (logged idx) ∧
        (idx = 9 → (logged idx).srcKind = 7 ∧ (logged idx).srcIndex = 9 ∧ (logged idx).code = 0x10 ∧ (logged idx).frame = s.frm.count) ∧
        (idx = 8 → (logged idx).srcIndex ≠ 9)) := by decide +kernel

/-! ### Further witnesses: one for each clause that the theorems above do not meet -/

/-- Words whose fields are not legal, whose MOD bits are not used, whose registers are not allocated, and a reserved word. -/
theorem test_hyp_words_that_trap :
    ((modFits 0x06 2 && (ialuShape { fA3 with mod := 2 } .w .w .unused).legal { fA3 with mod := 2 }) = false) ∧
    (∀ b ∈ [Opnd.w, .unused], ∀ k ∈ [Opnd.w, .unused, .p],
      let f : FmtA := { fA3 with d := 24, b := if b = .w then 18 else 0, c := if k = .w then 16 else if k = .p then 7 else 0 }
      modFits 0x01 f.mod ∧ (ialuShape f .w b k).legal f ∧ (ialuShape f .w b k).fits 24 f = false ∧
        (ialuShape f .w b k).legal { f with rsvd := 1 } = false) ∧
    (tyAccepts 4 0x10 = false ∧
      (let f : FmtA := { d := 22, a := 24 }
       tyAccepts 0 0x00 ∧ (faluShape 0 0x00 .w .unused .unused).legal f ∧ (faluShape 0 0x00 .w .unused .unused).fits 24 f = false)) ∧
    (let k : ShapeA := { d := .w, a := .w, c := .code, wd := true, wa := true, usrc := true, modOk := true, rmOk := true, satOk := true }
     k.legal { d := 23, a := 20 } = false ∧ k.legal { d := 24, a := 20 } ∧ k.fits 24 { d := 24, a := 20 } = false) ∧
    (let k : ShapeA := { d := .u, a := .u, b := .unused, c := .unused, modOk := true, uniform := true }
     (modFits 0x00 0 && k.legal { fU with pg := 1 }) = false ∧ (modFits 0x00 2 && k.legal { fU with mod := 2 }) = false) ∧
    (let k : ShapeA := { d := .u, a := .w, usrc := true, uniform := true }
     k.legal { d := 63, a := 24 } ∧ k.fits 24 { d := 63, a := 24 } = false ∧ k.legal { d := 63, a := 23, pn := true } = false) ∧
    (({ pg := 1 } : FmtB).pg ≠ 0 ∧ ({ pn := true } : FmtB).pn = true ∧ unitInstr 5 0 0x0B0 = none) := by decide +kernel

/-- A walk that faults while its load waits, for the last page or for an earlier address. -/
theorem test_hyp_UnitEventsAct_walk_of_a_load :
    (let o : MemOp := { kind := .ld, dst := 20, pieces := [{ lane := 0, va := 0x3000, len := 4 }] }
     let c : Ctx := { ctxOf { strand with wait := .mem o } with cmd := { launchCmd with asroot := asroot } }
     let s : State := { stateOf c with clusters := [(1, { walks := [walker .load] })] }
     s.alive = true ∧ (s.cluster 1).walks[0]? = some (walker .load) ∧ s.ctxAny 5 0 = some c ∧ c.t.wait = .mem o ∧
       (match (walk (clusterReader 1) 0 asroot 0x3000 [] s).1 with | .fault _ => true | _ => false) = true) ∧
    (let s : State := { stateOf { ctxOf strand with cmd := { launchCmd with asroot := asroot } } with clusters := [(1, { walks := [walker .copy] })] }
     (s.cluster 1).walks[0]? = some (walker .copy) ∧ (walker .copy).kind = .copy ∧
       (match (walk (clusterReader 1) 0 asroot 0x3000 [] s).1 with | .fault _ => true | _ => false) = true) := by decide +kernel

/-- The next instruction's line: in L1, and not in it. -/
theorem test_hyp_UnitWorkStaysInItsUnit_lines :
    page.pbmt = 0 ∧ (stateOf (ctxOf strand)).l1Tag (page.pa strand.pc) = some 0x1000 ∧
    (∀ l ∈ [[], [({ addr := 0x1000, data := 5 } : L1Line)]],
      let s := stateOf (ctxOf strand) { l1 := l }
      s.l1Tag (page.pa strand.pc) = some 0x1000 ∧ ((s.unit 5).l1Find 0x1000).isSome = !l.isEmpty) := by decide +kernel

/-- The short commands that pass their checks leave nothing waiting. -/
theorem test_hyp_CommandsActOnceAdmitted_goes :
    (∀ r ∈ [(0x00, image []), (0x0A, image [(16, 1, 1)]), (0x0C, image [(16, 8, 77)]), (0x08, image [(16, 8, 0x5000), (24, 8, 1)]),
            (0x09, image [(16, 8, 0x5000), (24, 8, 2 ^ 63 - 1)]), (0x0E, image [(16, 8, 0x5000), (24, 1, 1)])],
      let s := queued 0 []
      (((counted s 2 r.2).admitCheck r.1 r.2 (s.nextCommand 2 r.2) 0).2).stuck = false) ∧
    (∀ x ∈ (queued 0 []).queues, (queued 0 []).queueDist 536 2 ≤ (queued 0 []).queueDist 536 x.1) ∧
    (let c := image [(16, 8, 0x5000)]
     let s := queued 0 []
     let k := s.nextCommand 2 c
     (((counted s 2 c).modCmd k.id (fun c => { c with work := .mark 0x5000 false })).vmWrite k 0x5000
        (leBytes 8 0 ++ leBytes 4 0 ++ leBytes 4 0) .store).2.stuck = false) := by decide +kernel

theorem test_hyp_AgentsAnswerByTheTable_cached :
    ∀ m ∈ [toAgent .sni, toAgent .sns, toAgent .sno, toAgent .dat .s, toAgent .ack], m.nc = false ∧ forCache m = true := by decide +kernel

/-- A spill set with the entry asked for, one without it, one that is poisoned, and one that the controller holds. -/
def spilled (st : Stack) (poison : List Nat) (owner : DirEntry) : State :=
  let s : State := { State.reset with frt := { active := some spilling }, slices := [(0, { busy := [awaited .bp], summary := [32] })], hbm := [(0, st)] }
  { s with mem := cells ((s.spillSet 0x2000).getD (0, 0)).2 (leBytes 16 owner.encode), memPoison := poison }

theorem test_hyp_HomeEventsAct_spilled_sets :
    (∀ x ∈ [entry .X 2 [], { entry .X 2 [] with line := 0x2100 }],
      let s := spilled {} [] x
      let r := s.readLine 68652376064 {}
      s.alive = true ∧ s.spillSet 0x2000 = some (32, 68652376064) ∧ 32 ∈ (s.slice 0).summary ∧ s.hbmHeld 68652376064 = false ∧
        r.poisoned = false ∧
        ((decodeSpill 0 ((spillWords (s.readEvents 68652376064 r).1.1).getD 0 0)).map (·.line) = some 0x2000 ↔ x.line = 0x2000)) ∧
    (let s := spilled {} [68652376064] (entry .X 2 []); (s.readLine 68652376064 {}).poisoned = true ∧ s.hbmHeld 68652376064 = false) ∧
    (spilled { hold := true } [] (entry .X 2 [])).hbmHeld 68652376064 = true := by decide +kernel

theorem test_hyp_HomeEventsAct_ends :
    (let b : BusyLine := { awaited .bd with stalled := true }
     (filling [b] 0x2000).alive = true ∧
       (((filling [b] 0x2000).sliceAlloc 0 { line := 0x2000, data := 5 } true).slice 0).busyOf 0x2000 = some b) ∧
    (∀ e ∈ [(home (some (entry .S 0 [2])) [3], true), (asked (snooped .rdo [(2, false)] (entry .S 0 [2, 3])), false)],
      let s : State := { e.1 with coh := { reclaim := true, dead := [3] } }
      let ns := s.slices.map (·.1)
      let t := ns.foldl (fun s n => s.scanSlice n) s
      s.alive = true ∧ t.coh.serving = true ∧ ns = [0] ∧ t.scanned 0 = e.2) ∧
    (let s : State := { stateOf (ctxOf strand) with xlt := { busy := true } }
     let t := (s.units.map (·.1)).foldl (fun s u => s.drainWc u) s
     s.xlt.busy = true ∧ s.units ≠ [] ∧ ∀ u ∈ s.units.map (·.1), t.xltOutstanding u = false) := by decide +kernel

/-- The home performs a write, a masked write and an atomic of another package; a departing package, and one outside L0. -/
theorem test_hyp_PacketsAreDeliveredInOrder_performed :
    (tookRequest.cohPut (576 + 47) 0x2000 0 (BitVec.allOnes 128) false false).isSome = true ∧
    (tookRequest.cohPut (576 + 47) 0x2000 (linePlace 0 (List.replicate 64 0)) (byteMask 0 64) false false).isSome = true ∧
    (let s : State := { joined with hws := { joined.hws with departing := true } }; Tables s ∧ s.hws.homeReqs = [] ∧ s.hws.indexValid = true) ∧
    (let s : State := { joined with lhr := { joined.lhr with stage := 1 } }; s.lhr.stage ≠ 0 ∧ s.hws.departing = false ∧ s.feature 12 = true) := by
  unfold Tables; decide +kernel

/-- Another package claims this one's valid index, by a JOIN or in a reply. -/
theorem test_hyp_PeersJoinDrainAndLeave_conflict :
    let s : State := { joined with hws := { joined.hws with uid := 8 } }
    s.pins.rails = true ∧ (s.port 47).state = .up ∧ s.hws.indexChosen = true ∧ s.hws.indexValid = true ∧ s.hws.indexConflict = false ∧
      (∀ r ∈ [true, false], let j : Join := { join 3 7 with reply := r }; j.index = s.hws.index ∧ j.uid ≠ s.hws.uid ∧ j.reply = r) := by
  decide +kernel

/-- A flash write that power loss cuts. -/
theorem test_hyp_PowerAndResetSequence_torn :
    let r := run 0x10 1 [1, 2, 3]
    let s : State := { serving r with flash := { flashed.flash with marverB := { flashed.flash.marverB with size := 4096 } } }
    s.boot.flashQ = [.ch0] ∧ (s.mbx .ch0).running = some r ∧ r.op = 0x10 ∧ 1 ≤ r.arg ∧ r.arg ≤ 3 ∧ s.flash.answers = true ∧
      r.offset + r.len ≤ (s.flash.slot r.arg (s.inactiveSlot r.arg)).size ∧ s.pins.sbRstN = true := by decide +kernel

/-- Floating point that is on, off, and in a reserved rounding mode; CSRs that a privilege may and may not read. -/
theorem test_hyp_NodeInstructionsExecute_inside :
    (let k : Hart := { runs with csr := [(0x300, 0x2000)], f := [(1, 0x3FF8000000000000), (2, 0x4000000000000000)] }
     (k.fp .add .d 3 1 2 0 7).isSome = true ∧ k.fp .add .d 3 1 2 0 5 = none ∧ runs.fp .add .d 3 1 2 0 7 = none) ∧
    (∀ csr ∈ [0xCC0, 0xC01, 0xF14, 0x14D, 0x350, 0x150], csr / 256 % 4 ≤ runs.priv) ∧
    (({ runs with priv := 1 } : Hart).priv < 0xF14 / 256 % 4 ∧ ({ runs with priv := 0 } : Hart).priv < 0x150 / 256 % 4) ∧
    (8 ≤ 8 ∧ 0x10 ≤ 0x10) := by decide +kernel

/-- A package set to MASTER that hears a lower master, and masters by another role; its own index. -/
theorem test_hyp_BeaconsAndElectionsKeepTheFrame_roles :
    (let s := hearing {} 2
     s.alive = true ∧ s.role = 2 ∧ s.hws.indexValid = true ∧ s.beaconPort 2 = some 47 ∧ 2 < s.hws.index ∧ ¬ (9 < s.hws.index)) ∧
    (let s := hearing { isMaster := true, state := .locked } 1; s.frm.isMaster = true ∧ s.role = 1 ∧ ¬ (s.hws.indexValid = false ∨ 9 < s.hws.index)) ∧
    (let s : State := { hearing {} with hws := { (hearing {}).hws with indexValid := false } }; s.hws.indexValid = false ∧ s.beaconPort 9 = some 47) := by
  decide +kernel

theorem test_hyp_ImagesReloadAndFeaturesCommit_next :
    ∀ a ∈ [none, some active1], (loading a (fritImage 2 true)).frt.pending = none ∧ (loading a (fritImage 2 true)).depart = none := by decide +kernel

/-! ### The specification's worked examples -/

/-- The example after R18: unit 0x2B5. -/
theorem test_unit_index_fields :
    dieOf 0x2B5 = 5 ∧ regionOf 0x2B5 = 21 ∧ clusterOf 0x2B5 = 173 ∧ unitInCluster 0x2B5 = 1 ∧ nearStacks 5 = [15, 16, 17] := by decide

/-- The example after R30: an address of the mapped aperture. -/
theorem test_mapped_aperture : apertureDirect 0x20000019ABC = 0x01000001ABC ∧ homeSlice 0x01000001ABC = 3 := by decide

/-- The example after R359: group 0 backs 12 MiB and group 2 backs 48 MiB of the scratchpad window. -/
theorem test_scratchpad_slice :
    let s : State := { State.reset with frt := { active := some { frit with
      bodies := frit.bodies ++ [(2, fieldsOf 216 [(8, 1, 4), (9, 1, 0), (16, 1, 0), (24, 1, 16), (25, 1, 0)])] } } }
    s.placeOf 0x3C002000380 = .scratch 0x2000380 ∧ s.scrSlice 0x2000380 = 5 ∧ s.placeOf 0x3C003C00000 = .scratchUnbacked := by decide +kernel

/-- The examples after R122: FP32 to E4M3 with and without SAT, and FP32 to BF16. -/
theorem test_conversions :
    (convert (.fp fp32) (.fp e4m3) 0 true 0x43960000).1 = 0x79 ∧ (convert (.fp fp32) (.fp e4m3) 0 false 0x43960000).1 = 0x79 ∧
    (convert (.fp fp32) (.fp e4m3) 0 true 0x43EB0000).1 = 0x7E ∧ (convert (.fp fp32) (.fp e4m3) 0 false 0x43EB0000).1 = 0x7F ∧
    (convert (.fp fp32) (.fp bf16) 0 false 0x3F808000).1 = 0x3F80 ∧ (convert (.fp fp32) (.fp bf16) 0 false 0x3F818000).1 = 0x3F82 := by
  decide +kernel

/-- The example after R120: 32 values to MXFP4 with headroom 0 and 1. -/
theorem test_quantize_mxfp4 :
    let q := fun h => let r := quantBlock (.mx e2m1) h 0 false ([0x41780000, 0xC0466666, 0x3F333333, 0x3D4CCCCD] ++ List.replicate 28 0x3F800000)
      (r.1, packElems 4 r.2.1, r.2.2.1.saturations, r.2.2.1.underflows)
    q 0 = (0x80, 0x111111111111111111111111111101B7, 1, 1) ∧ q 1 = (0x81, 0xA6, 0, 30) := by decide +kernel

/-- The example after R120: sixteen values to T2 under AMEAN, and the scale under AMAX. -/
theorem test_quantize_t2 :
    let q := fun h => let r := quantBlock .t2 h 0 false ([0x3F4CCCCD, 0xBF4CCCCD, 0x3ECCCCCD, 0xBECCCCCD, 0x3E4CCCCD, 0xBE4CCCCD,
      0x3DCCCCCD, 0xBDCCCCCD, 0x3FCCCCCD] ++ List.replicate 7 0)
      (r.1, packElems 2 r.2.1, r.2.2.1.saturations)
    q 1 = (0x75, 0x00010DDD, 3) ∧ q 0 = (0x7E, 0x0001000D, 0) := by decide +kernel

/-- The example after R216: a row sum of FP32 by the tree, the other elements inactive. -/
theorem test_row_sum_tree :
    (reduceElems 1 0 ([some 0x4B800000, some 0x3F800000, some 0x3F800000, some 0xCB800000, some 0x40400000] ++ List.replicate 27 none)).1 = 0x40800000 := by
  decide +kernel

/-- The example after R145: an element of an MXFP4 product through the tree. -/
theorem test_dot_product_tree :
    tree (fun a b => (redCombine fp32 0 a b).1) 0 ([0x4B800000, 0x4A800000] ++ List.replicate 30 0 ++ [0x3F800000, 0x3F000000] ++ List.replicate 222 0)
      = 0x4BA00001 := by decide +kernel

/-- The example after R604: the rounds of R601 and the limits of R602, in mW. -/
theorem test_power_grants :
    let r := shareOut 64 (((List.range 32).map (fun d => ({ dom := d, w := 4, want := 75000, got := 1171 } : Share)))
      ++ [32, 33].map (fun d => { dom := d, w := 4, want := 180000, got := 2812 }) ++ (List.range 24).map (fun k => { dom := 34 + k, w := 8, want := 58333, got := 911 })) 3655040
    r.map (·.got) = List.replicate 32 68139 ++ [69780, 69780] ++ List.replicate 24 58333 ∧
      limitOf 68139 75000 = 58 ∧ limitOf 69780 180000 = 24 ∧ limitOf 58333 58333 = 64 := by decide +kernel

/-- The example of 02_frame_frit_features.md after R92: features withheld and declined. -/
theorem test_features :
    let s : State := { State.reset with fea := { accept := 0x7FDB }, frt := { active := some { frit with bodies := frit.bodies ++ [(8, fieldsOf 16 [(0, 2, 0x7FFF)])] } } }
    s.feaOffer = 0x7FFF ∧ (match exec .commit s with | .next t => decide (t.fea.active = 0x7FDB) && t.fea.locked | _ => false) = true := by decide +kernel

/-- The example of 21_register_index.md: HBM_TG_STATUS of channel 5 of stack 17 reads 0 after reset. -/
theorem test_register_place :
    (({ State.reset with boot := { stage := .released } } : State).regRead .host 0x1911B18 8).1 = 0 ∧
      (({ State.reset with ncc := { harts := [(0, { state := .running })] } } : State).regRead (.hart 0) 0x1911B18 8).1 = 0 := by decide +kernel

/-- FIPS 180-4's digest of the three bytes "abc". -/
theorem test_sha256 :
    sha256N [0x61, 0x62, 0x63] = 0xBA7816BF8F01CFEA414140DE5DAE2223B00361A396177A9CB410FF61F20015AD := by decide +kernel

/-- The command in front runs, and an empty queue passes one ucyc. -/
theorem test_step_takes_the_front :
    (match step { State.reset with pending := [.hptFlush, .commit] } with | .next t => decide (t.pending = [.commit]) && decide (t.now = 0) | _ => false) = true ∧
      (match step State.reset with | .next t => decide (t.now = 1) | _ => false) = true := by decide +kernel

/-! ### Words and headers, written out from the tables of R226 to R234, R264 and R377 -/

/-- One word of each class: CLASS 3:0, OP 11:4, PG 14:12, PN 15, and the format's fields above. -/
theorem test_words_of_the_formats :
    unitInstr 3 5 0x0000000010050040 = some (.brc 3 5 { reg := 5, target := 0x10 }) ∧
    unitInstr 3 5 0x000000030201A011 = some (.add 3 5 { pg := 2, pn := true, d := 1, a := 2, b := 3 }) ∧
    unitInstr 3 5 0x05A1000000000012 = some (.fadd 3 5 { mod := 1, rm := 2, sat := true, usrc := 5 }) ∧
    unitInstr 3 5 0x0001003F02010023 = some (.usub 3 5 { d := 1, a := 2, b := 0x3F, mod := 1 }) ∧
    unitInstr 3 5 0xDEADBEEF00070004 = some (.movi 3 5 { d := 7, imm := 0xDEADBEEF }) ∧
    unitInstr 3 5 0x0000000000040015 = some (.lbal 3 5 { d := 4 }) ∧
    unitInstr 3 5 0x0000000201060036 = some (.pandn 3 5 { d := 6, a := 1, b := 2 }) ∧
    unitInstr 3 5 0xFFFFF8F505040407 = some (.ld 3 5
      { ord := 1, data := 4, base := 5, baseU := true, size := 2, sign := true, scope := 3, space := true, off := 0xFFFFF8 }) ∧
    unitInstr 3 5 0x0000000000830008 = some (.tld 3 5 { x := 3, y := 4 }) ∧
    unitInstr 3 5 0x8000020000000009 = some (.tmma 3 5 { sub := 2, rsvd := true }) ∧
    unitInstr 3 5 0x000000000000008A = some (.tqnt 3 5 {}) ∧
    unitInstr 3 5 0x000000240000010B = some (.acwait 3 5 { ac := 9 }) ∧
    unitInstr 3 5 0x000000000001001C = some (.sreadw 3 5 { d := 1 }) := by decide +kernel

/-- A reserved CLASS, and an OP that the map does not list, spell nothing (R227, R234, R265). -/
theorem test_reserved_words : ∀ w ∈ [0xD, 0xE, 0xF, 0x131, 0x0B0, 0x092, 0x347, 0x0CA, 0x04B], unitInstr 3 5 w = none := by decide +kernel

/-- A strand that meets one has its launch end with STATE, cause ILLEGAL (R235). -/
theorem test_reserved_word_is_illegal :
    (match execWord 5 0 0xD (stateOf (ctxOf strand)) with
      | .next t => decide ((t.cmd? 7).any (fun c => c.ending.any (fun e => e.status == 0x10 && e.cause == 0x01)))
      | _ => false) = true := by decide +kernel

/-- The header of an ANC, and TYPE codes and a GRANT that are reserved (R376, R377). -/
theorem test_message_header :
    msgHead { ty := .anc, src := 3, dst := 1023, txn := 5, line := 0x1000, op := 0x11, size := true, offset := 8 } =
      0x09 + 3 * 2 ^ 5 + 1023 * 2 ^ 15 + 5 * 2 ^ 25 + 0x20 * 2 ^ 37 + 0x11 * 2 ^ 78 + 2 ^ 83 + 8 * 2 ^ 84 ∧
    headMsg (0x18 + 1023 * 2 ^ 5 + 7 * 2 ^ 15 + 2 * 2 ^ 72) = some { ty := .dat, src := 1023, dst := 7, line := 0, grant := .m } ∧
    (∀ w ∈ [0x00, 0x0A, 0x13, 0x1B, 0x18 + 1023 * 2 ^ 5 + 3 * 2 ^ 72], headMsg w = none) := by decide +kernel

end Sys2Proof.Tests
end

section
/-! SUPPORT. A step and the queue, and events of the stacked memory: what each command comes to where it is due. -/

namespace Sys2Proof.Machine

open Sys2Proof

/-! ### The queue -/

/-- Every command has a meaning, and none stops the machine. -/
theorem exec_next (c : Instr) (s : State) : ∃ t, exec c s = .next t := by
  cases c <;> exact ⟨_, rfl⟩

/-- A part of the state that no change in a run of changes touches. -/
theorem foldl_part {α β : Type} (p : State → β) {f : State → α → State} (hf : ∀ s a, p (f s a) = p s) (l : List α) (s : State) :
    p (l.foldl f s) = p s := by
  induction l generalizing s with
  | nil => rfl
  | cons a l ih => rw [List.foldl_cons, ih, hf]

/-- A part of the state that is not of a unit, a region, a slice or the time stays as time passes. -/
theorem State.pass_part {β : Type} (p : State → β) (hu : ∀ s i f, p (State.modUnit s i f) = p s)
    (hd : ∀ s i f, p (State.modDom s i f) = p s) (hk : ∀ s i f, p (State.modSlice s i f) = p s)
    (ht : ∀ (s : State) n, p { s with now := n } = p s) (s : State) (n : Nat) : p (s.pass n) = p s := by
  simp only [State.pass]
  rw [ht, foldl_part p fun _ _ => hk _ _ _, foldl_part p fun _ _ => hd _ _ _, foldl_part p fun _ _ => hu _ _ _]

@[simp] theorem State.pass_pending (s : State) (n : Nat) : (s.pass n).pending = s.pending :=
  State.pass_part State.pending (fun _ _ _ => rfl) (fun _ _ _ => rfl) (fun _ _ _ => rfl) (fun _ _ => rfl) s n

@[simp] theorem State.pass_mem (s : State) (n : Nat) : (s.pass n).mem = s.mem :=
  State.pass_part State.mem (fun _ _ _ => rfl) (fun _ _ _ => rfl) (fun _ _ _ => rfl) (fun _ _ => rfl) s n

@[simp] theorem State.pass_queues (s : State) (n : Nat) : (s.pass n).queues = s.queues :=
  State.pass_part State.queues (fun _ _ _ => rfl) (fun _ _ _ => rfl) (fun _ _ _ => rfl) (fun _ _ => rfl) s n

@[simp] theorem State.pass_now (s : State) (n : Nat) : (s.pass n).now = s.now + n := by
  simp only [State.pass]
  rw [foldl_part State.now fun _ _ => State.modSlice_now _ _ _, foldl_part State.now fun _ _ => State.modDom_now _ _ _,
    foldl_part State.now fun _ _ => State.modUnit_now _ _ _]

theorem step_cons (c : Instr) (rest : List Instr) (s : State) :
    step { s with pending := c :: rest } = exec c { s with pending := rest } := rfl

theorem step_empty {s : State} (h : s.pending = []) : step s = .next s.idle := by
  simp only [step, h]

/-- Settles O56: the front command is what a step performs, every command answers a next state, and an idle step is the passing of
one unit clock. -/
theorem stepTakesTheFrontCommand : Obligations.StepTakesTheFrontCommand := by
  refine ⟨step_cons, exec_next, fun s h => ⟨s.idle, step_empty h, ?_⟩⟩
  simp [State.idle, h]

/-! ### The bytes of a line -/

theorem leNat_append (l m : List Byte) : leNat (l ++ m) = leNat l + 256 ^ l.length * leNat m := by
  induction l with
  | nil => simp [leNat]
  | cons b l ih => simp only [List.cons_append, leNat, ih, List.length_cons, pow_succ]; ring

theorem leNat_lineByte (d : LineData) (n : Nat) : leNat ((List.range n).map (lineByte d)) = d.toNat % 256 ^ n := by
  induction n with
  | zero => simp [leNat, Nat.mod_one]
  | succ n ih =>
    have hb : (lineByte d n).toNat = d.toNat / 256 ^ n % 256 := by
      rw [lineByte, BitVec.extractLsb'_toNat, Nat.shiftRight_eq_div_pow, Nat.pow_mul]
    rw [List.range_succ, List.map_append, leNat_append, ih, pow_succ, Nat.mod_mul]
    simp [leNat, hb]

/-- A line read back from its bytes. -/
@[simp] theorem lineOfBytes_lineBytes (d : LineData) : lineOfBytes (lineBytes d) = d := by
  have hd : d.toNat < 256 ^ 128 := by
    rw [show 256 = 2 ^ 8 from rfl, ← Nat.pow_mul, show 8 * 128 = 1024 from rfl]
    exact d.isLt
  rw [lineOfBytes, lineBytes, leNat_lineByte, Nat.mod_eq_of_lt hd, BitVec.ofNat_toNat, BitVec.setWidth_eq]

/-! ### Reads (R409 to R413) -/

theorem b2n_eq_zero {b : Bool} : b2n b = 0 ↔ b = false := by cases b <;> simp [b2n]

theorem LineRead.count_eq_zero {r : LineRead} {p : Decoded → Bool} : r.count p = 0 ↔ p r.cw0 = false ∧ p r.cw1 = false := by
  rw [LineRead.count, Nat.add_eq_zero_iff, b2n_eq_zero, b2n_eq_zero]

theorem Decoded.bytes_stored {d : Decoded} (h : isCorrected d = false) (stored : List Byte) : d.bytes stored = stored := by
  cases d with
  | corrected x => cases h
  | clean => rfl
  | poisoned => rfl
  | uncorrectable => rfl

theorem LineRead.poisoned_of_no_ue {r : LineRead} (h : r.count isUncorrectable = 0) :
    r.poisoned = decide (r.count isPoisoned ≠ 0) := by
  rw [LineRead.poisoned, h, Nat.add_zero, bne, beq_eq_decide, decide_not]

/-- A read without errors returns the stored bytes and counts its poisoned codewords (R410, R411). -/
theorem State.readEvents_of_no_error {s : State} {l : Nat} {r : LineRead} (hc : r.count isCorrected = 0)
    (hu : r.count isUncorrectable = 0) :
    s.readEvents l r = (((s.hbmLine l).1, decide (r.count isPoisoned ≠ 0)), s.modStack (stackOf l) (fun k => k.modChannel (chOf l) (fun c =>
      { c with cntPoison := (c.cntPoison + r.count isPoisoned) % 2 ^ 64, cntCe := c.cntCe % 2 ^ 64, cntUe := c.cntUe % 2 ^ 64 }))) := by
  obtain ⟨h0, h1⟩ := LineRead.count_eq_zero.1 hc
  simp [State.readEvents, Decoded.bytes_stored h0, Decoded.bytes_stored h1, List.take_append_drop, hc, hu, wrapAdd, b2n,
    LineRead.poisoned_of_no_ue hu]

/-- HBM_READ of a line that waits and that nothing holds. -/
theorem execHbmRead_waiting {s : State} {l : Nat} {e : LineErr} {f : Fill} (ha : s.alive = true)
    (hf : (s.slice (homeSlice l)).fills.find? (fun f => f.line == l && f.got.isNone) = some f) (hh : s.hbmHeld l = false) :
    execHbmRead l e s = .next ((s.readEvents l (s.readLine l e)).2.modSlice (homeSlice l) (fun k =>
      { k with fills := k.fills.map (fun g => if g.line == l then { g with got := some (s.readEvents l (s.readLine l e)).1 } else g) })) := by
  simp only [execHbmRead, ha, if_true, State.hbmRead, hf, hh, Bool.false_eq_true, if_false]

/-! ### Scrubbing, the row tracker and eye tracking (R416 to R418, R425) -/

/-- SCRUB_READ of a channel while nothing stops the scrubber. -/
theorem execScrubRead_channel {s : State} {st ch : Nat} {err : LineErr} (ha : s.alive = true) (hc : s.scrubCode ≠ 5)
    (hh : (s.stack st).hold = false) (hr : (s.stack st).selfRefresh = false) (hl : s.lhr.stage < 2) (hch : ch < 32) :
    execScrubRead st ch err s = .next (s.scrubChannel st ch err) := by
  simp [execScrubRead, ha, hc, hh, hr, Nat.not_le.2 hl, hch]

/-- TRACKER_FREE under a scrub period. -/
theorem execTrackerFree_period {s : State} {st ch pch bank row n : Nat} (h : s.scrubTime = some n) :
    execTrackerFree st ch pch bank row s = .next (s.modStack st (fun k => k.modChannel ch (fun c => { c with
      tracker := c.tracker.filter (fun e => !decide (e.pch = pch ∧ e.bank = bank ∧ e.row = row ∧ e.at_ + n ≤ s.now)) }))) := by
  simp only [execTrackerFree, h, Bool.decide_and, beq_eq_decide, Bool.and_assoc]

/-- EYE_TRACK when 64 frames have gone by. -/
theorem execEyeTrack_due {s : State} {st ch : Nat} (ha : s.alive = true)
    (h : ((s.stack st).channel ch).eyeAt + 64 ≤ s.frm.ticks) :
    execEyeTrack st ch s = .next (s.modStack st (fun k => k.modChannel ch (fun c => { c with eyeAt := s.frm.ticks }))) := by
  simp [execEyeTrack, ha, Nat.not_lt.2 h]

section

variable {s : State} {st ch row bank ln pch : Nat} {err : LineErr}
  (hp : scrubPlace ((s.stack st).channel ch).scrubAt = (row, bank, ln, pch))
include hp

/-- The scrubber passes over a row whose data lies elsewhere. -/
theorem State.scrubChannel_away (hl : ((s.stack st).channel ch).logical pch bank row = none) :
    s.scrubChannel st ch err = s.modStack st (fun k => k.modChannel ch (fun c => { c with scrubAt := (c.scrubAt + 1) % 2 ^ 24 })) := by
  simp only [State.scrubChannel, hp, hl]

variable {b r : Nat} (hl : ((s.stack st).channel ch).logical pch bank row = some (b, r))
include hl

/-- The scrubber waits for a line that the controller holds. -/
theorem State.scrubChannel_held (hh : s.hbmHeld (addrOf st ch pch b r ln) = true) : s.scrubChannel st ch err = s := by
  simp only [State.scrubChannel, hp, hl, hh, if_true]

/-- The scrubber reads the line at its position, and goes on to the next. -/
theorem State.scrubChannel_read (hh : s.hbmHeld (addrOf st ch pch b r ln) = false) :
    s.scrubChannel st ch err =
      (s.modStack st (fun k => k.modChannel ch (fun c => { c with scrubAt := (c.scrubAt + 1) % 2 ^ 24 }))).copyLine
        (addrOf st ch pch b r ln) err := by
  simp only [State.scrubChannel, hp, hl, hh, Bool.false_eq_true, if_false, State.copyLine]

end

/-! ### Remapping (R421) -/

/-- REMAP_COMPLETE of an entry whose copy is under way. -/
theorem execRemapComplete_due {s : State} {st ch i : Nat} {errs : List LineErr} {e : Remap} (ha : s.alive = true)
    (hh : (s.stack st).hold = false) (hr : (s.stack st).selfRefresh = false)
    (he : ((s.stack st).channel ch).remaps.find? (fun e => e.index == i && !e.active) = some e) :
    let at' := fun (n : Nat) => addrOf st ch e.pch e.bank e.row n
    let t := (List.range 8).foldl (fun s n => s.copyLine (at' n) ((errs[n]?).getD {})) s
    let t1 := t.modStack st (fun k => (k.modChannel ch (fun c => { c with remaps := c.remaps.map (fun x =>
        if x.index == i then { x with active := true, moving := none } else x) })).addRepair (ch, e.pch, e.bank, e.row))
    execRemapComplete st ch i errs s = .next ((t1.flushHeld st).logErr .ce 0x11 7 (32 * st + ch)
      (e.newRow + e.newBank * 2 ^ 14 + e.pch * 2 ^ 20 + (i % 8) * 2 ^ 21 + (i / 8) * 2 ^ 24) (at' 0)) := by
  simp only [execRemapComplete, he, ha, hh, hr, Bool.not_true, Bool.or_self, Bool.false_eq_true, if_false]

/-- Settles O35: each event of the stacked memory by the lemma that says what it comes to. -/
theorem hbmReadsAndScrubs : Obligations.HbmReadsAndScrubs := by
  intro s ha
  refine ⟨?read, ?clean, ?scrub, ?remap, ?free, ?eye⟩
  case read => exact fun l e f hf hh => execHbmRead_waiting ha hf hh
  case clean => exact fun l e hc hu => State.readEvents_of_no_error hc hu
  case scrub =>
    intro st ch err hc hh hr hl hch
    have hx : exec (.scrubRead st ch err) s = .next (s.scrubChannel st ch err) := execScrubRead_channel ha hc hh hr hl hch
    refine ⟨fun bank row h => ⟨fun hn => ?_, fun hn => ?_⟩, fun h => ?_⟩
    · rw [hx, State.scrubChannel_read rfl h hn]; rfl
    · rw [hx, State.scrubChannel_held rfl h hn]
    · rw [hx, State.scrubChannel_away rfl h]
  case remap => exact fun st ch i errs e hh hr he => execRemapComplete_due ha hh hr he
  case free => exact fun st ch pch bank row n h => execTrackerFree_period h
  case eye => exact fun st ch h => execEyeTrack_due ha h

end Sys2Proof.Machine
end

section
/-! SUPPORT. What the service of memory, its messages and the sending of packets leave alone: the frame, the images and features, the boot,
the mailboxes, the units and whatever else lies aside of caches, homes, HBM, records, interrupts and ports. -/

namespace Sys2Proof.Machine

open Sys2Proof

/-- The parts of the state that no service of memory, no message and no packet touches. -/
def State.aside (s : State) :=
  ((s.now, s.pending, s.frm, s.frt, s.fea, s.boot, s.fuses, s.flash), (s.mbx0, s.mbx1, s.mgmt), (s.bends, s.jobAddr, s.jobEn, s.dlk, s.pins),
   (s.nextCmd, s.nextQueue, s.lastUnit, s.units, s.clusters, s.xlt, s.depart))

theorem State.frm_of_aside {s t : State} (h : t.aside = s.aside) : t.frm = s.frm := congrArg (·.1.2.2.1) h

/-! ### Changes of one part

`(rfl)` makes each a rewriting step: a definitional one would have the kernel compare whole states. -/

@[simp] theorem State.modAgent_aside (s : State) (i f) : (s.modAgent i f).aside = s.aside := (rfl)
@[simp] theorem State.modSlice_aside (s : State) (i f) : (s.modSlice i f).aside = s.aside := (rfl)
@[simp] theorem State.modStack_aside (s : State) (i f) : (s.modStack i f).aside = s.aside := (rfl)
@[simp] theorem State.modPeer_aside (s : State) (i f) : (s.modPeer i f).aside = s.aside := (rfl)
@[simp] theorem State.modHart_aside (s : State) (i f) : (s.modHart i f).aside = s.aside := (rfl)
@[simp] theorem State.freeVal_aside (s : State) (w) : (s.freeVal w).2.aside = s.aside := (rfl)
@[simp] theorem State.hbmPut_aside (s : State) (l d p) : (s.hbmPut l d p).aside = s.aside := by
  unfold State.hbmPut
  generalize lineBytes d = b
  rfl
@[simp] theorem State.scratchPut_aside (s : State) (o d p) : (s.scratchPut o d p).aside = s.aside := (rfl)
@[simp] theorem State.send_aside (s : State) (m) : (s.send m).aside = s.aside := (rfl)
@[simp] theorem State.setBusy_aside (s : State) (b) : (s.setBusy b).aside = s.aside := (rfl)
@[simp] theorem State.clearBusy_aside (s : State) (l) : (s.clearBusy l).aside = s.aside := (rfl)
@[simp] theorem State.setDir_aside (s : State) (l e) : (s.setDir l e).aside = s.aside := (rfl)
@[simp] theorem State.portSend_aside (s : State) (p k) : (s.portSend p k).aside = s.aside := (rfl)

/-- The fabric and the error banks are not of the parts aside. -/
theorem State.hws_aside (s : State) (x) : ({ s with hws := x } : State).aside = s.aside := rfl
theorem State.err_aside (s : State) (x) : ({ s with err := x } : State).aside = s.aside := rfl

@[simp] theorem State.ite_aside (c : Prop) [Decidable c] (a b : State) :
    (if c then a else b).aside = if c then a.aside else b.aside := apply_ite _ _ _ _

theorem State.aside_of_pair {β : Type} {p : β × State} {b : β} {t : State} (h : p = (b, t)) : t.aside = p.2.aside := by rw [h]

/-! ### Records and interrupts -/

@[simp] theorem State.raiseIrq_aside (s : State) (d n) : (s.raiseIrq d n).aside = s.aside := by
  unfold State.raiseIrq State.raiseMsix State.raiseRoute
  dsimp only
  repeat' split
  all_goals rfl

@[simp] theorem State.logErr_aside (s : State) (cls code kind index detail addr) :
    (s.logErr cls code kind index detail addr).aside = s.aside := by
  unfold State.logErr
  dsimp only
  repeat' split
  all_goals simp only [State.raiseIrq_aside, State.freeVal_aside, ↓State.err_aside]

/-! ### Packets -/

@[simp] theorem State.broadcast_aside (s : State) (k) : (s.broadcast k).aside = s.aside :=
  foldl_part State.aside (fun _ _ => State.portSend_aside ..) _ _

@[simp] theorem State.fatal_aside (s : State) (code kind index detail addr) :
    (s.fatal code kind index detail addr).aside = s.aside := by
  have h : (s.logErr .fe code kind index detail addr).aside = s.aside := State.logErr_aside ..
  unfold State.fatal
  dsimp only
  split
  · exact (State.broadcast_aside ..).trans h
  · exact h

@[simp] theorem State.protocol_aside (s : State) (kind index l) : (s.protocol kind index l).aside = s.aside := State.fatal_aside ..

@[simp] theorem State.portFor_aside (s : State) (k) : (s.portFor k).2.aside = s.aside := by
  unfold State.portFor
  dsimp only
  repeat' split
  all_goals rfl

@[simp] theorem State.sendPacket_aside (s : State) (k) : (s.sendPacket k).aside = s.aside := by
  unfold State.sendPacket
  extract_lets _ _
  split
  · split <;> next h => simp [State.aside_of_pair h]
  · dsimp only
    repeat' split
    all_goals simp

@[simp] theorem State.answer_aside (s : State) (k ty aux payload poison) : (s.answer k ty aux payload poison).aside = s.aside :=
  State.sendPacket_aside ..

/-! ### HBM and slices -/

@[simp] theorem State.hbmStore_aside (s : State) (l d p) : (s.hbmStore l d p).aside = s.aside := by
  simp [State.hbmStore]

@[simp] theorem State.remapStart_aside (s : State) (st ch pch bank row) : (s.remapStart st ch pch bank row).aside = s.aside := by
  unfold State.remapStart
  dsimp only
  repeat' split
  all_goals rfl

@[simp] theorem State.readEvents_aside (s : State) (l r) : (s.readEvents l r).2.aside = s.aside := by
  simp only [State.readEvents, State.ite_aside, State.remapStart_aside, State.logErr_aside, State.hbmPut_aside, ite_self]
  split <;> simp only [State.modStack_aside]

@[simp] theorem State.sliceAlloc_aside (s : State) (n x mru) : (s.sliceAlloc n x mru).aside = s.aside := by
  unfold State.sliceAlloc
  dsimp only
  repeat' split
  all_goals simp

@[simp] theorem State.homeWrite_aside (s : State) (l d p) : (s.homeWrite l d p).aside = s.aside := by
  simp [State.homeWrite]

@[simp] theorem State.homeWriteInPlace_aside (s : State) (l d p) : (s.homeWriteInPlace l d p).aside = s.aside := by
  unfold State.homeWriteInPlace
  repeat' split
  all_goals simp

@[simp] theorem State.prefetch_aside (s : State) (n miss ln) : (s.prefetch n miss ln).aside = s.aside := by
  simp [State.prefetch]

/-- The state that a home's read of a line leaves. -/
def HomeRead.after (s : State) : HomeRead → State
  | .data _ t => t
  | .fill t => t
  | .held => s

theorem State.homeRead_aside (s : State) (l q nc demand) : ((s.homeRead l q nc demand).after s).aside = s.aside := by
  unfold State.homeRead
  split
  · simp only [HomeRead.after, State.ite_aside, State.modSlice_aside, ite_self]
  · dsimp only
    split
    · rfl
    · exact foldl_part State.aside (fun _ _ => State.prefetch_aside ..) _ _

/-! ### Caching agents -/

@[simp] theorem State.coresLose_aside (s : State) (cc keep l) : (s.coresLose cc keep l).aside = s.aside :=
  foldl_part State.aside (fun _ _ => by simp only [State.ite_aside, State.modHart_aside, ite_self]) _ _

@[simp] theorem State.dropResv_aside (s : State) (a l) : (s.dropResv a l).aside = s.aside := by
  simp [State.dropResv]

theorem State.agentRoom_aside {s t : State} {a l} (h : s.agentRoom a l = some t) : t.aside = s.aside := by
  unfold State.agentRoom at h
  dsimp only at h
  repeat' split at h
  all_goals cases h
  all_goals simp only [State.send_aside, State.modAgent_aside, State.dropResv_aside]

@[simp] theorem State.stashOffer_aside (s : State) (m) : (s.stashOffer m).aside = s.aside := by
  unfold State.stashOffer
  extract_lets a g st inSet victim noRoom ack
  split
  · exact State.protocol_aside ..
  generalize hq : (if 16 ≤ s.offersAt m then s.freeChoice else (false, s)) = p
  have hp : p.2.aside = s.aside := by rw [← hq]; split <;> rfl
  obtain ⟨full, t⟩ := p
  dsimp only
  split_ifs
  · exact hp
  split
  · exact hp
  · next h => exact (State.agentRoom_aside h).trans hp

@[simp] theorem State.agentApply_aside (s : State) (m ev) : (s.agentApply m ev).aside = s.aside := by
  unfold State.agentApply
  extract_lets a x
  split
  · exact State.protocol_aside ..
  dsimp only
  split <;> simp only [State.send_aside, State.ite_aside, State.dropResv_aside, State.modAgent_aside, ite_self]

@[simp] theorem State.agentReceive_aside (s : State) (m) : (s.agentReceive m).aside = s.aside := by
  unfold State.agentReceive
  repeat' split
  all_goals simp

@[simp] theorem State.answerHeld_aside (s : State) (a l) : (s.answerHeld a l).aside = s.aside := by
  unfold State.answerHeld
  repeat' split
  all_goals simp

/-! ### Homes -/

@[simp] theorem State.wakeOne_aside (s : State) (w) : (s.wakeOne w).aside = s.aside := by
  unfold State.wakeOne
  split <;> rfl

@[simp] theorem State.wake_aside (s : State) (l) : (s.wake l).aside = s.aside :=
  foldl_part State.aside (fun _ _ => State.wakeOne_aside ..) _ _

@[simp] theorem State.snoops_aside (s : State) (l txn ty dsts) : (s.snoops l txn ty dsts).aside = s.aside :=
  foldl_part State.aside (fun _ _ => State.send_aside ..) _ _

@[simp] theorem State.writeSpill_aside (s : State) (n k a ws order) : (s.writeSpill n k a ws order).aside = s.aside :=
  State.hbmStore_aside ..

@[simp] theorem State.emptySpill_aside (s : State) (n k a ws j) : (s.emptySpill n k a ws j).aside = s.aside := State.writeSpill_aside ..

@[simp] theorem State.freeEntry_aside (s : State) (l) : (s.freeEntry l).aside = s.aside := by
  unfold State.freeEntry
  dsimp only
  repeat' split
  all_goals simp

@[simp] theorem State.force_aside (s : State) (e) : (s.force e).aside = s.aside := by
  unfold State.force
  dsimp only
  split <;> simp

/-- The state that a home's read of a spill set leaves. -/
def SpillSet.after (s : State) : SpillSet → State
  | .words _ t => t
  | .lost t => t
  | .held => s

theorem State.readSpill_aside (s : State) (n k a err) : ((s.readSpill n k a err).after s).aside = s.aside := by
  unfold State.readSpill
  split
  · rfl
  split
  · rfl
  extract_lets t r
  split
  · simp only [SpillSet.after, State.fatal_aside, State.modStack_aside, t, State.modSlice_aside]
  · simp only [SpillSet.after, State.readEvents_aside, t, State.modSlice_aside]

theorem State.spillOut_aside {s t : State} {n v k a} (h : s.spillOut n v k a = some t) : t.aside = s.aside := by
  have hr := State.readSpill_aside s n k a {}
  unfold State.spillOut at h
  extract_lets seen old full at h
  split at h
  · cases h
  split at h
  · cases h
  · next e =>
    rw [e] at hr
    cases h
    exact hr
  · next e =>
    rw [e, SpillSet.after] at hr
    split at h <;> cases h
    · simpa only [State.modSlice_aside, State.setDir_aside, State.writeSpill_aside] using hr
    · simpa only [State.force_aside] using hr

@[simp] theorem State.reply_aside (s : State) (m r) : (s.reply m r).aside = s.aside := by
  simp only [State.reply, State.ite_aside, State.send_aside, ite_self]

@[simp] theorem State.finishLine_aside (s : State) (b d) : (s.finishLine b d).aside = s.aside := by
  unfold State.finishLine
  dsimp only
  repeat' split
  all_goals simp only [State.reply_aside, State.setDir_aside, State.homeWrite_aside, State.homeWriteInPlace_aside, State.freeEntry_aside,
    State.send_aside, State.setBusy_aside, State.clearBusy_aside, State.modSlice_aside]

@[simp] theorem State.progress_aside (s : State) (b) : (s.progress b).aside = s.aside := by
  have hr := State.homeRead_aside s b.line b.req.src b.req.nc (b.req.ty != .wnc)
  unfold State.progress
  split
  · rfl
  split
  · split
    · exact State.finishLine_aside ..
    · split
      · next e => rw [e] at hr; exact (State.finishLine_aside ..).trans hr
      · next e => rw [e] at hr; exact hr
      · rfl
  · exact State.finishLine_aside ..

@[simp] theorem State.act_aside (s : State) (m e) : (s.act m e).aside = s.aside := by
  unfold State.act
  dsimp only
  repeat' split
  all_goals simp only [State.progress_aside, State.snoops_aside, State.wake_aside]

theorem State.scrub_aside (s : State) (e) : (s.scrub e).2.aside = s.aside := by
  unfold State.scrub
  split_ifs
  · have h : (s.homeWrite e.line 0 true).aside = s.aside := State.homeWrite_aside ..
    dsimp only
    split_ifs
    · exact h
    · exact (State.snoops_aside ..).trans h
  · rfl
  · rfl

theorem State.makeRoom_aside {s t : State} {l} (h : s.makeRoom l = some t) : t.aside = s.aside := by
  unfold State.makeRoom at h
  extract_lets n k leaving crowded at h
  split at h
  · cases h
  split at h
  · cases h
  split at h
  · split at h <;> cases h
    exact State.scrub_aside ..
  split at h
  · exact State.spillOut_aside h
  · split at h <;> cases h
    exact State.force_aside ..

@[simp] theorem State.serve_aside (s : State) (m) : (s.serve m).aside = s.aside := by
  unfold State.serve
  dsimp only
  repeat' split
  all_goals simp only [State.act_aside, State.modSlice_aside, State.setDir_aside, State.setBusy_aside, State.scrub_aside]

theorem State.pumpWaiting_aside {s t : State} {n} (ahead rest) (h : s.pumpWaiting n ahead rest = some t) : t.aside = s.aside := by
  induction rest generalizing ahead with
  | nil => cases h
  | cons m rest ih =>
    unfold State.pumpWaiting at h
    dsimp only at h
    split at h
    · exact ih _ h
    split at h
    · cases h
      simp only [State.serve_aside, State.modSlice_aside]
    split at h
    · next e =>
      cases h
      exact State.makeRoom_aside e
    · exact ih _ h

theorem State.pumpStep_aside {s t : State} {n} (h : s.pumpStep n = some t) : t.aside = s.aside := by
  unfold State.pumpStep at h
  split at h
  · cases h
    exact State.progress_aside ..
  · exact State.pumpWaiting_aside _ _ h

theorem State.drainHome_aside (fuel : Nat) (s : State) (n) : (State.drainHome fuel s n).aside = s.aside := by
  induction fuel generalizing s with
  | zero => rfl
  | succ fuel ih =>
    unfold State.drainHome
    split
    · next h => exact (ih _).trans (State.pumpStep_aside h)
    · rfl

@[simp] theorem State.pumpHome_aside (s : State) (n) : (s.pumpHome n).aside = s.aside := State.drainHome_aside ..

@[simp] theorem State.homeRequest_aside (s : State) (m) : (s.homeRequest m).aside = s.aside := by
  simp only [State.homeRequest, State.ite_aside, State.pumpHome_aside, State.serve_aside, State.modSlice_aside, ite_self]

@[simp] theorem State.homeResponse_aside (s : State) (m) : (s.homeResponse m).aside = s.aside := by
  unfold State.homeResponse
  dsimp only
  repeat' split
  all_goals simp only [State.protocol_aside, State.pumpHome_aside, State.modSlice_aside, State.setDir_aside, State.clearBusy_aside,
    State.progress_aside, State.homeWrite_aside]

/-! ### Data from HBM, and messages -/

@[simp] theorem State.hbmRead_aside (s : State) (l e) : (s.hbmRead l e).aside = s.aside := by
  unfold State.hbmRead
  dsimp only
  repeat' split
  all_goals simp only [State.modSlice_aside, State.readEvents_aside]

@[simp] theorem State.fillComplete_aside (s : State) (l) : (s.fillComplete l).aside = s.aside := by
  unfold State.fillComplete
  dsimp only
  repeat' split
  all_goals simp only [State.pumpHome_aside, State.finishLine_aside, State.modSlice_aside, State.sliceAlloc_aside]

@[simp] theorem State.spillRead_aside (s : State) (l e) : (s.spillRead l e).aside = s.aside := by
  unfold State.spillRead
  extract_lets n
  split
  · next k a _ _ =>
    have hr := State.readSpill_aside s n k a e
    split
    · rfl
    generalize s.readSpill n k a e = x at hr ⊢
    cases x with
    | held => rfl
    | lost t => exact hr
    | words ws t =>
      have hr : t.aside = s.aside := hr
      dsimp only
      split <;> simpa only [State.pumpHome_aside, State.act_aside, State.serve_aside, State.setDir_aside, State.emptySpill_aside,
        State.clearBusy_aside] using hr
  · rfl

@[simp] theorem State.arrive_aside (s : State) (m) : (s.arrive m).aside = s.aside := by
  unfold State.arrive
  extract_lets t
  simp only [State.ite_aside, State.homeRequest_aside, State.homeResponse_aside, State.agentReceive_aside, ite_self]
  rfl

theorem State.settleStep_aside {s t : State} {l} (h : s.settleStep l = some t) : t.aside = s.aside := by
  unfold State.settleStep at h
  dsimp only at h
  repeat' split at h
  all_goals cases h
  all_goals simp only [State.arrive_aside, State.spillRead_aside, State.fillComplete_aside, State.hbmRead_aside, State.answerHeld_aside]

theorem State.settleGo_aside (fuel : Nat) (s : State) (l) : (State.settleGo fuel s l).aside = s.aside := by
  induction fuel generalizing s with
  | zero => rfl
  | succ fuel ih =>
    unfold State.settleGo
    split
    · next h => exact (ih _).trans (State.settleStep_aside h)
    · rfl

@[simp] theorem State.settle_aside (s : State) (l) : (s.settle l).aside = s.aside := State.settleGo_aside ..

/-! ### Whole accesses -/

@[simp] theorem State.transact_aside (s : State) (m) : (s.transact m).2.aside = s.aside := by
  unfold State.transact
  extract_lets t0 t u
  have ht : t.aside = s.aside := (State.settle_aside ..).trans (foldl_part State.aside (fun _ _ => State.arrive_aside ..) _ _)
  have hu : u.aside = s.aside := by
    simp only [u, State.settle_aside, State.ite_aside, State.homeRequest_aside, ite_self, ht]
  split
  · split
    · exact hu
    · rfl
  · split
    · rfl
    · rfl
    · exact hu

@[simp] theorem State.cohRead_aside (s : State) (a l nc) : (s.cohRead a l nc).2.aside = s.aside := by
  unfold State.cohRead
  split <;> next h => exact (State.aside_of_pair h).trans (State.transact_aside ..)

@[simp] theorem State.cohWrite_aside (s : State) (a l d mask nc p) : (s.cohWrite a l d mask nc p).aside = s.aside :=
  State.transact_aside ..

theorem State.cohPut_aside {s t : State} {a l d mask nc p} (h : s.cohPut a l d mask nc p = some t) : t.aside = s.aside := by
  unfold State.cohPut at h
  dsimp only at h
  repeat' split at h
  all_goals cases h
  exact State.cohWrite_aside ..

@[simp] theorem State.cohAtomic_aside (s : State) (a l off n op src cmp nc) : (s.cohAtomic a l off n op src cmp nc).2.aside = s.aside := by
  unfold State.cohAtomic
  split <;> next h => exact (State.aside_of_pair h).trans (State.transact_aside ..)

@[simp] theorem State.bytesSend_aside (s : State) (a n bs) : (s.bytesSend a n bs).aside = s.aside :=
  foldl_part State.aside (fun _ _ => by split <;> simp only [State.cohWrite_aside]) _ _

@[simp] theorem State.packageWrite_aside (s : State) (a n bs) : (s.packageWrite a n bs).aside = s.aside := by
  simp only [State.packageWrite, State.ite_aside, State.bytesSend_aside, ite_self]

/-! ### Requests of other packages, and the fabric's events -/

theorem foldl_bind_none {α β : Type} (f : α → β → Option β) (l : List α) : l.foldl (fun acc a => acc.bind (f a)) none = none := by
  induction l with
  | nil => rfl
  | cons a l ih => exact ih

/-- A part that no change in a run of changes touches, where each may fail. -/
theorem foldl_bind_part {α β : Type} (p : State → β) {f : α → State → Option State} (hf : ∀ a s t, f a s = some t → p t = p s)
    (l : List α) {s t : State} (h : l.foldl (fun acc a => acc.bind (f a)) (some s) = some t) : p t = p s := by
  induction l generalizing s with
  | nil => cases h; rfl
  | cons a l ih =>
    rw [List.foldl_cons, Option.bind_some] at h
    cases e : f a s with
    | none => rw [e, foldl_bind_none] at h; cases h
    | some u => rw [e] at h; exact (ih h).trans (hf a s u e)

theorem State.perform_aside {s t : State} {p k} (h : s.perform p k = some t) : t.aside = s.aside := by
  unfold State.perform at h
  extract_lets agent at h
  split at h
  · cases h; rfl
  split at h
  · split at h <;> cases h
    next e => exact (State.answer_aside ..).trans ((State.aside_of_pair e).trans (State.cohRead_aside ..))
  split at h
  · split at h <;> cases h
    next e => exact (State.answer_aside ..).trans ((State.aside_of_pair e).trans (State.cohAtomic_aside ..))
  · rw [Option.map_eq_some_iff] at h
    obtain ⟨u, hu, rfl⟩ := h
    refine (State.answer_aside ..).trans ?_
    split at hu
    · exact State.cohPut_aside hu
    · refine foldl_bind_part State.aside (fun g s t h => ?_) _ hu
      split at h
      · exact State.cohPut_aside h
      · cases h; rfl

theorem State.answerHome_aside {s t : State} {r} (h : s.answerHome r = some t) : t.aside = s.aside := by
  unfold State.answerHome at h
  split_ifs at h
  · cases h
    exact State.answer_aside ..
  · exact State.perform_aside h

@[simp] theorem State.retryHome_aside (s : State) : s.retryHome.aside = s.aside := by
  unfold State.retryHome
  split
  · rfl
  · refine foldl_part State.aside (fun t r => ?_) _ _
    split
    · next u h => exact (State.answerHome_aside h : u.aside = t.aside)
    · rfl

@[simp] theorem State.hwsEvent_aside (s : State) (ty new old cause num inc) : (s.hwsEvent ty new old cause num inc).aside = s.aside := by
  unfold State.hwsEvent
  split
  · rfl
  · exact (State.raiseIrq_aside ..).trans ((State.hws_aside ..).trans (State.packageWrite_aside ..))

end Sys2Proof.Machine
end

section
/-! SUPPORT. Peers, the index and departure: what each event comes to where it is due. -/

namespace Sys2Proof.Machine

open Sys2Proof

/-! ### Peers (R530 to R533) -/

section

variable {s : State} {p : Nat} {j : Join} (hr : s.pins.rails = true) (hp : (s.port p).state = .up)
include hr hp

/-- A JOIN at an UP port. -/
theorem execJoin_up : execJoin p j s = .next (s.joinIn p j) := by
  simp [execJoin, hr, hp]

/-- A JOIN of another index, from a peer that was absent or had gone, makes it UP; its JOIN is answered (R531). -/
theorem execJoin_new (hi : s.hws.indexChosen = false ∨ j.index ≠ s.hws.index)
    (hx : (s.peer j.index).state = .absent ∨ (s.peer j.index).state = .gone) :
    let t := (s.modPeer j.index (fun x => { x with
      planes := if x.planes.testBit p then x.planes else x.planes + 2 ^ p, incarnation := j.incarnation, nonce := j.nonce
      uid := j.uid, halfTrips := Tbl.set 0 x.halfTrips p j.halfTrip })).peerBack j.index
    execJoin p j s = .next (if j.reply = true ∨ t.hws.indexChosen = false then t
      else t.sendPacket { (t.joinPacket p true) with dst := j.index }) := by
  intro t
  have hg : (s.hws.indexChosen && decide (j.index = s.hws.index)) = false := by
    rcases hi with h | h <;> simp [h]
  have hj : s.joined p j = t := by
    rcases hx with h | h <;> simp only [State.joined, h] <;> rfl
  rw [execJoin_up hr hp]
  simp [State.joinIn, hg, hj]

variable (hc : s.hws.indexChosen = true) (hi : j.index = s.hws.index)
include hc hi

/-- A JOIN of the package's own index changes nothing where it is its own, the conflict is known, or it is the reply to a valid index. -/
theorem execJoin_own_ignored (h : j.uid = s.hws.uid ∨ s.hws.indexConflict = true ∨ s.hws.indexValid = true ∧ j.reply = true) :
    execJoin p j s = .next s := by
  rw [execJoin_up hr hp]
  rcases h with h | h | ⟨hv, hj⟩
  · simp [State.joinIn, hc, hi, h]
  · simp [State.joinIn, hc, hi, h]
  · simp [State.joinIn, hc, hi, hv, hj]

variable (hu : j.uid ≠ s.hws.uid) (hf : s.hws.indexConflict = false)
include hu hf

/-- A joiner with the package's own valid index learns of the conflict by the reply (R528). -/
theorem execJoin_own_valid (hv : s.hws.indexValid = true) (hj : j.reply = false) :
    execJoin p j s = .next (s.portSend p { (s.joinPacket p true) with dst := j.index }) := by
  rw [execJoin_up hr hp]
  simp [State.joinIn, hc, hi, hu, hf, hv, hj]

/-- A JOIN of the package's own index from one who precedes it is a conflict (R528). -/
theorem execJoin_own_conflict (hv : s.hws.indexValid = false) (hj : j.senderUp = true ∨ j.uid < s.hws.uid) :
    execJoin p j s = .next ((({ s with hws := { s.hws with indexConflict := true } } : State).hwsEvent 2 2 0 0 0 0).logErr .event 0x41 0 0) := by
  have hs : s.setIndex false true = ({ s with hws := { s.hws with indexConflict := true } } : State).hwsEvent 2 2 0 0 0 0 := by
    simp [State.setIndex, hv, hf, b2n]
  rw [execJoin_up hr hp]
  simp [State.joinIn, hc, hi, hu, hf, hv, hj, hs]

end

section

variable {s : State} (hr : s.pins.rails = true)
include hr

theorem execDrain_up {i : Nat} (h : (s.peer i).state = .up) :
    execDrain i s = .next ((s.setPeer i .draining).modPeer i (fun x => { x with drained := true })) := by
  simp [execDrain, hr, State.drainIn, h]

theorem execDrain_not_up {i : Nat} (h : (s.peer i).state ≠ .up) : execDrain i s = .next s := by
  simp [execDrain, hr, State.drainIn, h]

theorem execLeave_known {i : Nat} (h : (s.peer i).state = .up ∨ (s.peer i).state = .draining) : execLeave i s = .next (s.peerLost i) := by
  simp [execLeave, hr, State.leaveIn, h]

theorem execAbsenceLimit_due {i : Nat} (h : (s.peer i).state = .draining) (hp : (s.peer i).planes = 0)
    (ha : s.absenceLimit ≤ (s.peer i).absentFrames) : execAbsenceLimit i s = .next (s.peerLost i) := by
  simp [execAbsenceLimit, hr, h, hp, ha]

/-- A leaf that left takes its plane from the peer (R531). -/
theorem execLeafReport_left {p : Nat} (leaf : Nat) (hp : (s.port p).state = .up) :
    let m := if (s.peer leaf).planes.testBit p then (s.peer leaf).planes - 2 ^ p else (s.peer leaf).planes
    let t := s.modPeer leaf (fun x => { x with planes := m })
    execLeafReport p leaf false s = .next (if (s.peer leaf).state = .up ∧ m = 0 then t.setPeer leaf .draining else t) := by
  have hx : execLeafReport p leaf false s = .next (s.planeLost leaf p) := by simp [execLeafReport, hr, hp]
  rw [hx, State.planeLost]
  extract_lets _ m
  simp only [Bool.and_eq_true, decide_eq_true_eq]
  rfl

end

/-- A leaf that joined changes no peer: its JOIN does (R523). -/
theorem execLeafReport_joined (s : State) (p leaf : Nat) : execLeafReport p leaf true s = .next s := by
  simp [execLeafReport]

/-! ### The index (R528) -/

/-- The index becomes valid without a conflict: an event, and no other change of the fabric's registers (R535). -/
theorem State.setIndex_valid {s : State} (hv : s.hws.indexValid = false) (hf : s.hws.indexConflict = false) :
    s.setIndex true false = ({ s with hws := { s.hws with indexValid := true } } : State).hwsEvent 2 1 0 0 0 0 := by
  simp [State.setIndex, hv, hf, b2n]

/-- INDEX_VALID at the second tick after the first JOIN; nothing on the way touches the frame, so that a master stays one (R51, R54). -/
theorem execIndexValid_due {s : State} {n : Nat} (hr : s.pins.rails = true) (hc : s.hws.indexChosen = true) (hv : s.hws.indexValid = false)
    (hf : s.hws.indexConflict = false) (hj : s.hws.joinTicks = some n) (hn : 2 ≤ n) :
    let t := (({ s with hws := { s.hws with indexValid := true } } : State).hwsEvent 2 1 0 0 0 0).retryHome
    execIndexValid s = .next (if s.frm.isMaster then { t with frm := t.frm.setMaster t.hws.index } else t.claimMaster) := by
  intro t
  have ht : t.aside = s.aside := (State.retryHome_aside _).trans ((State.hwsEvent_aside ..).trans (State.hws_aside ..))
  rw [← State.frm_of_aside ht]
  simp [execIndexValid, hr, hc, hv, hf, hj, hn, State.setIndex_valid hv hf, t]

/-! ### Departure (R534) -/

/-- LEAVE_BROADCAST once every accepted request is complete. -/
theorem execLeaveBroadcast_idle {s : State} {d : Departure} (ha : s.alive = true) (hq : s.hws.homeReqs = []) (hd : s.depart = some d) :
    execLeaveBroadcast s = .next s.departed := by
  simp [execLeaveBroadcast, ha, hd, State.homeIdle, hq]

/-- Settles O40: each event of the peers, the index and departure by the lemma that says what it comes to. -/
theorem peersJoinDrainAndLeave : Obligations.PeersJoinDrainAndLeave := by
  intro s hr
  refine ⟨?join, ?own, ?peer, ?joined, ?left, ?valid, ?leave⟩
  case join => exact fun p j hp hi hx => execJoin_new hr hp hi hx
  case own =>
    exact fun p j hp hc hi => ⟨execJoin_own_ignored hr hp hc hi, fun hu hf hv hj => execJoin_own_valid hr hp hc hi hu hf hv hj,
      fun hu hv hf hj => execJoin_own_conflict hr hp hc hi hu hf hv hj⟩
  case peer => exact fun i => ⟨execDrain_up hr, execDrain_not_up hr, execLeave_known hr, execAbsenceLimit_due hr⟩
  case joined => exact execLeafReport_joined s
  case left => exact fun p leaf hp => execLeafReport_left hr leaf hp
  case valid => exact fun n hc hv hf hj hn => execIndexValid_due hr hc hv hf hj hn
  case leave =>
    intro ha hq
    refine ⟨fun hd => ?_, fun n hd => ?_, fun hd => ?_⟩ <;> refine (execLeaveBroadcast_idle ha hq hd).trans ?_ <;>
      simp only [State.departed, hd, State.leaveNow]

end Sys2Proof.Machine
end

section
/-! SUPPORT. The frame and its master, the images and features, and the state after reset: what each event comes to where it is due. -/

namespace Sys2Proof.Machine

open Sys2Proof

/-! ### The tick (R40, R42, R47, R50) -/

/-- Whether a count waits or not, the tick counts frames in `frm` as said: what the record of a step touches lies aside. -/
theorem State.tickCount_frm (s : State) : s.tickCount.frm = { s.frm with
    count := s.frm.pendingCount.getD ((s.frm.count + 1) % 2 ^ 64), pendingCount := none, tickAt := s.tickCount.frm.tickAt
    ticks := s.frm.ticks + 1, adjust := if s.frm.state = .holdover then s.frm.adjust else s.frm.nextAdjust, nextAdjust := 0
    steps := if s.frm.pendingCount.isSome then satAdd 16 s.frm.steps 1 else s.frm.steps } := by
  have h (c : Bool) (t : State) : (if c then t.logErr .event 0x02 0 0 else t).frm = t.frm := by
    cases c
    · rfl
    · exact State.frm_of_aside (State.logErr_aside t .event 0x02 0 0 0 0)
  simp only [State.tickCount, h]

@[simp] theorem State.pass_err (s : State) (n : Nat) : (s.pass n).err = s.err :=
  State.pass_part State.err (fun _ _ _ => rfl) (fun _ _ _ => rfl) (fun _ _ _ => rfl) (fun _ _ => rfl) s n

/-- A tick that loads no count logs nothing, and forgets which records the frame had logged (R649). -/
theorem State.tickCount_err {s : State} (h : s.frm.pendingCount = none) : s.tickCount.err = { s.err with thisFrame := [] } := by
  simp [State.tickCount, h]

section

variable {i : TickIn} {s : State} (hr : s.pins.rails = true) (hl : s.lhr.stage < 4)
include hr hl

/-- A reading that calls for it is an emergency stop, after the host port's release and before any power is granted (R621). -/
theorem execFrameTick_emergency {kind index : Nat} (h : emergencyOf i = some (kind, index)) :
    let s1 := s.tickCount
    let s2 := if s1.alive then s1.applyFrit else s1
    let s3 := if s1.boot.releaseDue && s2.alive then s2.hostRelease else s2
    execFrameTick i s = .next (s3.emergencyStop kind index 0) := by
  simp only [execFrameTick, hr, Nat.not_le.2 hl, h, Bool.not_true, decide_false, Bool.or_self, Bool.false_eq_true, if_false]

/-- A tick without such a reading: what it does, in R42's order. -/
theorem execFrameTick_normal (h : emergencyOf i = none) :
    let s1 := s.tickCount
    let s2 := if s1.alive then s1.applyFrit else s1
    let s3 := if s1.boot.releaseDue && s2.alive then s2.hostRelease else s2
    let s4 := s3.epochFrame
    let s5 := if s4.frm.count % 16 = 0 then s4.epochStart else s4
    let s6 := ((s5.readings i).hints.idleGate.grants i).rails
    let s7 := if s6.frm.count % 16 = 2 then s6.jobApply else s6
    let s8 := s7.tickBeacon.claimMaster.creditEpoch
    let s9 := ({ s8 with coh := { s8.coh with cleat := s8.coh.cleatNext } } : State).dlkTick
    let s10 := if s9.alive then s9.tickWork.polls else s9
    execFrameTick i s = .next (if s10.alive then s10.stageTick.beaconSend else s10) := by
  simp only [execFrameTick, hr, Nat.not_le.2 hl, h, Bool.not_true, decide_false, Bool.or_self, Bool.false_eq_true, if_false]

end

/-- Settles O51: the tick's order by its two lemmas, and its count by what counting does to `frm` and to the records. -/
theorem frameTicksActInOrder : Obligations.FrameTicksActInOrder := by
  intro i s hr hl
  refine ⟨fun kind index h => execFrameTick_emergency hr hl h, fun h => ?normal, fun hp => ?count, fun n hp => ?load,
    fun hh => ?adjust, fun hh => ?hold⟩
  case normal =>
    have hn := execFrameTick_normal hr hl h
    dsimp only at hn ⊢
    exact hn
  case count =>
    rw [State.tickCount_frm, State.tickCount_err hp]
    simp [hp]
  case load =>
    rw [State.tickCount_frm]
    simp [hp, satAdd]
  case adjust =>
    rw [State.tickCount_frm]
    simp [hh]
  case hold =>
    rw [State.tickCount_frm]
    simp [hh]

/-! ### Beacons (R45 to R50, R53) -/

section

variable {s : State} {p m : Nat}

/-- A beacon of the package's own index, or through another port than the master's, is not used (R45). -/
theorem State.beaconIn_unused (count : Nat) (b : BeaconBody) (send : Nat) (h : s.hws.indexValid = true ∧ m = s.hws.index ∨ s.beaconPort m ≠ some p) :
    s.beaconIn p m count b send = s := by
  rcases h with ⟨hv, rfl⟩ | h <;> simp [State.beaconIn, *]

/-- A beacon of a master that this package outranks is not used (R51, R53). -/
theorem State.beaconIn_outranked {body : BeaconBody} (count send : Nat) (h : s.outranks m body.byRole = true) :
    s.beaconIn p m count body send = s := by
  simp [State.beaconIn, h]

theorem State.frm_period (s : State) (f : Frm) : ({ s with frm := f } : State).period = s.period := rfl

section

variable (count : Nat) {body : BeaconBody} (send : Nat) (ha : s.alive = true) (hm : s.hws.indexValid = false ∨ m ≠ s.hws.index)
  (hp : s.beaconPort m = some p)
include ha hm hp

/-- What a beacon comes to that is used (R48, R49, R53). -/
theorem State.beaconIn_used (h : s.outranks m body.byRole = false) :
    s.beaconIn p m count body send =
      let t : State := if s.role = 2 && s.hws.indexValid then { s with frm := { s.frm with roleConflict := true } } else s
      if body.period ≠ t.period then t.mismatched m else t.takeBeacon p m count send := by
  have hg : (s.hws.indexValid && m == s.hws.index) = false := by
    rcases hm with h | h <;> simp [h]
  simp only [State.beaconIn, ha, hg, hp, h, Bool.not_true, Bool.or_self, ne_eq, not_true_eq_false, decide_false, Bool.false_eq_true, if_false]

/-- A package that is not master and not set to MASTER follows the beacon (R48, R49). -/
theorem State.beaconIn_followed (hf : s.frm.isMaster = false) (hr : s.role ≠ 2) :
    s.beaconIn p m count body send = if body.period = s.period then s.takeBeacon p m count send else s.mismatched m := by
  rw [State.beaconIn_used count send ha hm hp (by simp [State.outranks, hf, hr])]
  simp [hr]

/-- A package set to MASTER yields to one set to MASTER of a lower index, with ROLE_CONFLICT (R53). -/
theorem State.beaconIn_yields (hr : s.role = 2) (hv : s.hws.indexValid = true) (hb : body.byRole = true) (hl : m < s.hws.index) :
    let t : State := { s with frm := { s.frm with roleConflict := true } }
    s.beaconIn p m count body send = if body.period = s.period then t.takeBeacon p m count send else t.mismatched m := by
  rw [State.beaconIn_used count send ha hm hp (by simp [State.outranks, hr, hv, hb, hl])]
  simp [hr, hv, State.frm_period]

end

/-- One set to MASTER yields to no other (R53). -/
theorem State.outranks_byRole {b : Bool} (hr : s.role = 2) (hv : s.hws.indexValid = true)
    (h : b = false ∨ ¬ (s.hws.indexValid = false ∨ m < s.hws.index)) : s.outranks m b = true := by
  rcases h with h | h <;> simp_all [State.outranks]

/-- A candidate that is master yields to no candidate of a higher index (R51; the choice of notes/assumptions/33.md). -/
theorem State.outranks_candidate {b : Bool} (hf : s.frm.isMaster = true) (hr : s.role = 1) (hb : b = false)
    (h : ¬ (s.hws.indexValid = false ∨ m < s.hws.index)) : s.outranks m b = true := by
  simp_all [State.outranks]

end

/-! ### The frame's state (R48) -/

theorem execBeaconMiss_due {s : State} (ha : s.alive = true) (hm : s.frm.isMaster = false) (h : 4 ≤ s.frm.missed)
    (hs : s.frm.state = .acquiring ∨ s.frm.state = .locked) :
    execBeaconMiss s = .next { s with frm := { (s.frm.leaves .holdover) with heldFrames := 0 } } := by
  have hx : (s.frm.state == .acquiring || s.frm.state == .locked) = true := by
    rcases hs with h | h <;> simp [h]
  simp [execBeaconMiss, ha, hm, Nat.not_lt.2 h, hx]

theorem execFrameLock_due {s : State} (ha : s.alive = true) (hm : s.frm.isMaster = false) (hs : s.frm.state = .acquiring)
    (h : 16 ≤ s.frm.inTol) : execFrameLock s = .next { s with frm := { s.frm with state := .locked } } := by
  simp [execFrameLock, ha, hm, hs, Nat.not_lt.2 h]

/-! ### Elections (R52) -/

theorem State.alive_of_electable {s : State} (h : s.electable = true) : s.alive = true := by
  simp only [State.electable, Bool.and_eq_true] at h
  exact h.1.1.1.1

theorem execElectionStart_due {s : State} (he : s.electable = true) (hn : s.frm.election = none)
    (hh : s.frm.state = .holdover → 16 ≤ s.frm.heldFrames) : execElectionStart s = .next s.startElection := by
  have hx : (s.frm.state == .holdover && decide (s.frm.heldFrames < 16)) = false := by
    by_cases h : s.frm.state = .holdover
    · simp [Nat.not_lt.2 (hh h)]
    · simp [h]
  simp [execElectionStart, he, hn, hx]

/-- How long the package has been without an offer or a beacon plays no part in whether it may take part. -/
theorem State.electable_alone (s : State) (n : Nat) : ({ s with frm := { s.frm with alone := n } } : State).electable = s.electable := rfl

/-- An offer during an election: the better one is kept (R52). -/
theorem execElect_during {s : State} {b : Nat × Nat} (src prio : Nat) (he : s.electable = true) (hb : s.frm.election = some b) :
    execElect src prio s = .next { s with frm := { s.frm with
      alone := 0, election := some (if b.1 < prio ∨ prio = b.1 ∧ src < b.2 then (prio, src) else b) } } := by
  simp only [execElect, State.electIn, State.electable_alone, he, Bool.not_true, Bool.false_eq_true, if_false]
  simp [hb, betterOffer]

theorem execElectionEnd_won {s : State} {b : Nat × Nat} (ha : s.alive = true) (hb : s.frm.election = some b) (hi : b.2 = s.hws.index) :
    execElectionEnd s = .next s.becomeMaster := by
  simp [execElectionEnd, ha, hb, hi]

theorem execElectionEnd_lost {s : State} {b : Nat × Nat} (ha : s.alive = true) (hb : s.frm.election = some b) (hi : b.2 ≠ s.hws.index) :
    execElectionEnd s = .next { s with frm := { s.frm with election := none, heldFrames := 0 } } := by
  simp [execElectionEnd, ha, hb, hi]

/-- A new master keeps its count and phase, and names itself once its index is valid (R49, R52). -/
theorem State.becomeMaster_frm (s : State) :
    let f := s.becomeMaster.frm
    f.state = .locked ∧ f.isMaster = true ∧ f.election = none ∧ f.count = s.frm.count ∧ f.tickAt = s.frm.tickAt ∧ f.roleConflict = false ∧
      (s.hws.indexValid = true → f.masterValid = true ∧ f.masterIndex = s.hws.index) := by
  cases h : s.hws.indexValid <;> simp [State.becomeMaster, Frm.setMaster, h]

/-- Settles O53: beacons by what `beaconIn` does with one that is used, followed or outranked, the other events by a lemma each. -/
theorem beaconsAndElectionsKeepTheFrame : Obligations.BeaconsAndElectionsKeepTheFrame := by
  intro s ha
  refine ⟨fun p m count body send hm hp => ⟨?follow, ?yield, ?set, ?candidate⟩, ?own, ?port, ?miss, ?lock, ?start, ?elect, ?won, ?lost⟩
  case follow => exact fun hf hr => congrArg _ (State.beaconIn_followed count send ha hm hp hf hr)
  case yield => exact fun hr hv hb hl => congrArg _ (State.beaconIn_yields count send ha hm hp hr hv hb hl)
  case set => exact fun hr hv h => congrArg _ (State.beaconIn_outranked count send (State.outranks_byRole hr hv h))
  case candidate => exact fun hf hr hb h => congrArg _ (State.beaconIn_outranked count send (State.outranks_candidate hf hr hb h))
  case own => exact fun p count body send hv => congrArg _ (State.beaconIn_unused count body send (.inl ⟨hv, rfl⟩))
  case port => exact fun p m count body send h => congrArg _ (State.beaconIn_unused count body send (.inr h))
  case miss => exact fun hm h hs => execBeaconMiss_due ha hm h hs
  case lock => exact fun hm hs h => execFrameLock_due ha hm hs h
  case start => exact fun he hn hh => execElectionStart_due he hn hh
  case elect => exact fun src prio b he hb => execElect_during src prio he hb
  case won =>
    intro b hb hi
    obtain ⟨h1, h2, h3, h4, h5, h6, h7⟩ := State.becomeMaster_frm s
    exact ⟨_, execElectionEnd_won ha hb hi, h1, h2, h3, h4, h5, h6, rfl, rfl, h7⟩
  case lost => exact fun b hb hi => execElectionEnd_lost ha hb hi

/-! ### Reloading the image (R66, R67, R77, R78) -/

theorem State.rails_of_alive {s : State} (h : s.alive = true) : s.pins.rails = true := by
  simp only [State.alive, Bool.and_eq_true] at h
  exact h.2

theorem execReload_busy {s : State} (m : Master) (hr : s.pins.rails = true) (hb : s.frt.busy = true) :
    execReload m s = .next { s with frt := { s.frt with refused := true } } := by
  simp [execReload, hr, hb]

theorem execReload_free {s : State} (m : Master) (hr : s.pins.rails = true) (hb : s.frt.busy = false) :
    execReload m s = .next { s with frt := { s.frt with busy := true, refused := false, checking := some (s.mbx (chanOf m)).image } } := by
  simp [execReload, hr, hb]

theorem execCommit_locked {s : State} (hl : s.fea.locked = true) : execCommit s = .next s := by
  simp [execCommit, hl]

theorem execCommit_unlocked {s : State} (hr : s.pins.rails = true) (hl : s.fea.locked = false) :
    execCommit s = .next { s with fea := { s.fea with active := s.fea.accept &&& s.feaOffer, locked := true } } := by
  simp [execCommit, hr, hl]

/-- FRIT_VERIFY_END where nothing holds it back. -/
theorem execFritVerifyEnd_due {s : State} (hr : s.pins.rails = true) (hd : s.depart = none) (hp : s.frt.pending = none)
    (hb : s.boot.stage = .waitFrit ∨ s.boot.stage = .released) : execFritVerifyEnd s = .next (s.verifyEnd false) := by
  have hx : (s.boot.stage == .waitFrit || s.boot.stage == .released) = true := by
    rcases hb with h | h <;> simp [h]
  simp [execFritVerifyEnd, hr, hd, hp, hx]

/-- An image that passed is measured and waits for the next tick, its check over (R67, R78). -/
def State.imageWaits (s : State) (f : Frit) : State :=
  { (s.accept f) with frt := { (s.accept f).frt with checking := none } }

section

variable {s : State} {img : List Byte} (hi : s.frt.checking = some img)
include hi

/-- An image that fails leaves its result code (R66). -/
theorem State.verifyEnd_failed {r : Nat} (h : s.fritCheck s.frt.active.isSome img = (r, none)) :
    s.verifyEnd false = { s with frt := { s.frt with busy := false, checking := none, lastResult := r } } := by
  simp [State.verifyEnd, hi, h]

variable {r : Nat} {f : Frit} (h : s.fritCheck s.frt.active.isSome img = (r, some f))
include h

/-- Before release the mailbox is recorded as the image's source (R669). -/
theorem State.verifyEnd_first (ha : s.frt.active = none) :
    s.verifyEnd false = ({ s with boot := { s.boot with fritSrc := 2 } } : State).imageWaits f := by
  simp only [State.verifyEnd, hi, h]
  simp [ha, State.imageWaits]

/-- A reload that changes no FABRIC section waits for its tick. -/
theorem State.verifyEnd_reload {a : Frit} (ha : s.frt.active = some a) (hc : 5 ∉ changed a.bodies f.bodies) :
    s.verifyEnd false = s.imageWaits f := by
  simp only [State.verifyEnd, hi, h]
  simp [ha, hc, State.imageWaits]

/-- A change of FABRIC with a port UP is announced to the fabric first (R534). -/
theorem State.verifyEnd_fabric {a : Frit} (hal : s.alive = true) (ha : s.frt.active = some a) (hc : 5 ∈ changed a.bodies f.bodies)
    (hu : s.upPorts ≠ []) : s.verifyEnd false = s.announce .fabric := by
  simp only [State.verifyEnd, hi, h]
  simp [ha, hc, hal, hu]

end

/-- Settles O54: each event of the image and the features by the lemma that says what it comes to. -/
theorem imagesReloadAndFeaturesCommit : Obligations.ImagesReloadAndFeaturesCommit := by
  intro s ha
  have hr := State.rails_of_alive ha
  refine ⟨fun hb m => execReload_busy m hr hb, fun hb => ⟨execReload_free .host hr hb, fun h => execReload_free (.hart h) hr hb⟩, ?verify,
    execCommit_locked, execCommit_unlocked hr⟩
  case verify =>
    intro hd hp hb img hi
    have hv : exec .fritVerifyEnd s = .next (s.verifyEnd false) := execFritVerifyEnd_due hr hd hp hb
    rw [hv]
    exact ⟨fun r h => congrArg _ (State.verifyEnd_failed hi h), fun r f h =>
      ⟨fun hn => congrArg _ (State.verifyEnd_first hi h hn), fun a hs hc => congrArg _ (State.verifyEnd_reload hi h hs hc),
        fun a hs hc hu => congrArg _ (State.verifyEnd_fabric hi h ha hs hc hu)⟩⟩

/-! ### Reset (R707) -/

theorem canonical_reset : Canonical State.reset := by
  refine ⟨?_, Memory.wf_reset⟩
  simp [Tables, State.reset]

/-- Settles O57: every field stands at its declared default, and what is read of an empty table is its default. -/
theorem resetLeavesTheStatedValues : Obligations.ResetLeavesTheStatedValues := by
  refine ⟨canonical_reset, rfl, rfl, fun _ => rfl, fun _ => rfl, fun _ => rfl, rfl, rfl, rfl, rfl, rfl, fun b _ => ?bank,
    rfl, rfl, rfl, rfl, rfl, rfl, rfl, rfl, rfl, rfl, rfl, rfl, rfl, rfl, rfl, rfl,
    fun _ => rfl, fun _ => rfl, fun _ => rfl, rfl, rfl, rfl, rfl, rfl, rfl⟩
  case bank =>
    unfold Err.bank
    split <;> rfl

end Sys2Proof.Machine
end

section
/-! SUPPORT. Instructions of the node cores: what each comes to where its access goes to one place, and the timers' expiry. -/

namespace Sys2Proof.Machine

open Sys2Proof

/-! ### Reading a hart back -/

/-- An entry that is not the default reads back, in any array. -/
theorem Tbl.get_set_of_ne {α : Type} [DecidableEq α] {d x : α} (hx : x ≠ d) (t : Tbl α) (i : Nat) :
    Tbl.get d (Tbl.set d t i x) i = x := by
  induction t with
  | nil => simp [Tbl.set, hx, Tbl.get]
  | cons e t ih =>
    obtain ⟨k, v⟩ := e
    rw [Tbl.set]
    rcases Nat.lt_trichotomy i k with hlt | rfl | hgt
    · simp [hlt, hx, Tbl.get]
    · simp [hx, Tbl.get]
    · rw [if_neg (by omega), if_neg (by omega), Tbl.get, if_neg (by omega), ih]

/-- A hart that runs after a change is what the change makes of it: the default of the table is a hart that is held. -/
theorem State.modHart_hart_running {s : State} {h : Nat} {f : Hart → Hart} (hr : (f (s.hart h)).state = .running) :
    (s.modHart h f).hart h = f (s.hart h) :=
  Tbl.get_set_of_ne (fun hd => absurd (hr.symm.trans (congrArg Hart.state hd)) (by decide)) _ _

/-- A hart that begins an instruction: the last one's exception is no longer shown. -/
def State.nodeBegin (s : State) (h : Nat) : State := s.modHart h (fun x => { x with trap := none })

theorem State.nodeBegin_hart {s : State} {h : Nat} (hr : (s.hart h).state = .running) :
    (s.nodeBegin h).hart h = { s.hart h with trap := none } :=
  State.modHart_hart_running (f := fun x => { x with trap := none }) hr

/-! ### The command -/

section

variable {s t : State} {h : Nat} {o : NodeOp} (ha : s.alive = true) (hh : h < 96) (hr : (s.hart h).state = .running)
include ha hh hr

theorem execMtimecmpExpiry_running : exec (.mtimecmpExpiry h) s = .next (s.timer h) := by
  change execMtimecmpExpiry h s = _
  simp [execMtimecmpExpiry, ha, hh, hr]

variable (hw : (s.hart h).wait = none) (hl : s.lhr.stage = 0)
include hw hl

/-- An instruction that does not complete leaves what it did, the pc where it is or at the vector. -/
theorem execNode_stays (ho : (s.nodeBegin h).nodeOp h o = (false, t)) : exec (.nodeCoreInstruction h o) s = .next t := by
  change execNodeCoreInstruction h o s = _
  rw [State.nodeBegin] at ho
  simp [execNodeCoreInstruction, ha, hh, hr, hw, hl, ho]

/-- One that completes takes a free value for its pc. -/
theorem execNode_done (ho : (s.nodeBegin h).nodeOp h o = (true, t)) :
    exec (.nodeCoreInstruction h o) s = .next (t.hartNext h) := by
  change execNodeCoreInstruction h o s = _
  rw [State.nodeBegin] at ho
  simp [execNodeCoreInstruction, ha, hh, hr, hw, hl, ho]

end

/-! ### Translation in machine mode (R330) -/

theorem blockPieces_one {b a n : Nat} (hn : 0 < n) (h : a % b + n ≤ b) : blockPieces b a n = [(a, n)] := by
  have hb : 0 < b := by omega
  have hd : a / b * b + a % b = a := Nat.div_add_mod' a b
  have hlast : (a + n - 1) / b = a / b := by
    rw [Nat.div_eq_iff hb]
    omega
  rw [blockPieces, if_neg hn.ne', hlast, Nat.add_sub_cancel_left]
  simp only [List.range_one, List.map_cons, List.map_nil, Nat.mul_zero, Nat.zero_add, Nat.mul_one, Nat.add_zero]
  rw [max_eq_left (by omega), min_eq_left (by omega), Nat.add_sub_cancel_left]

/-- Machine mode has no translation: an access within a page goes where its address says. -/
theorem State.nodeXlate_machine {s : State} {h va n : Nat} {fetch : Bool} (write : Bool) (hp : (s.hart h).accessPriv fetch = 3)
    (hn : 0 < n) (hpage : va % 4096 + n ≤ 4096) (hva : va < 2 ^ 56) :
    s.nodeXlate h va n fetch write = (.at_ [(va, n)] false, s) := by
  have hm : va % 2 ^ 64 = va := Nat.mod_eq_of_lt (by omega)
  have h1 : s.nodeXlate1 h va fetch write = (.at_ [(va, 0)] false, s) := by
    rw [State.nodeXlate1, if_pos (.inl hp), if_pos hva]
  simp only [State.nodeXlate, blockPieces_one hn hpage, List.foldl_cons, List.foldl_nil, hm, h1, List.nil_append, Bool.or_self]

/-! ### Pieces: an access that goes to one place -/

theorem paLocal_eq (pa : Nat) : paLocal pa = pa % 2 ^ 42 := by
  rw [paLocal, bits, pow_zero, Nat.div_one]

theorem State.nodeReads_one {s : State} {h pa n : Nat} {nc fetch : Bool} {r : ReadBack (List Byte) × State}
    (hr : s.nodeRead h (pa % 2 ^ 42) n nc fetch = r) : s.nodeReads h [(pa, n)] nc fetch = r := by
  rw [← paLocal_eq] at hr
  simp only [State.nodeReads, List.foldl_cons, List.foldl_nil, hr]
  rcases r with ⟨_ | _, _⟩ <;> rfl

theorem State.nodeRead_cached {s : State} {h a n : Nat} {fetch : Bool} {r : ReadBack (List Byte) × State}
    (hb : s.cachedRead (256 + h / 8) h a n fetch = r) : s.nodeRead h a n false fetch = r := hb

theorem State.nodeRead_home {s u : State} {h a n : Nat} {bs : List Byte} (fetch : Bool)
    (hb : s.bytesRead (256 + h / 8) a n true = (.ok bs, u)) : s.nodeRead h a n true fetch = (.ok bs, u) := by
  simp [State.nodeRead, ccOfHart, hb]

theorem leBytes_length (n v : Nat) : (leBytes n v).length = n := by
  induction n generalizing v with
  | zero => rfl
  | succ n ih => rw [leBytes, List.length_cons, ih]

theorem oneLine_eq {a n : Nat} (h : a % 128 + n ≤ 128) : oneLine a n = true := decide_eq_true h

/-! ### Loads, stores and fetches (R320, R321, R371, R542, R691)

Each lemma is one way that the access can end, from where the translation leads and where its address goes. -/

section

variable {s t u : State} {h pa n va a off p v : Nat} {nc page sg : Bool} {rd : NodeReg} {bs : List Byte}

theorem State.nodeLoad_stop (hx : s.nodeXlate h va n false false = (.fault page, t)) :
    s.nodeLoad h rd va n sg = (false, t.hartTrap h (if page then 13 else 5) va) := by
  simp [State.nodeLoad, hx, State.nodeStop, pageFault, accessFault, opVa]

theorem State.nodeStore_stop (hx : s.nodeXlate h va n false true = (.fault page, t)) :
    s.nodeStore h va n v = (false, t.hartTrap h (if page then 15 else 7) va) := by
  simp [State.nodeStore, hx, State.nodeStop, pageFault, accessFault, opVa]

section load

variable (hx : s.nodeXlate h va n false false = (.at_ [(pa, n)] nc, t))
include hx

theorem State.nodeLoad_fault (hr : t.nodeRoute h pa n = .fault) : s.nodeLoad h rd va n sg = (false, t.hartTrap h 5 va) := by
  simp [State.nodeLoad, hx, State.nodeRoutes, hr, State.nodeFault, accessFault, opVa]

theorem State.nodeLoad_read (hr : t.nodeRoute h pa n = .memory a) (hb : t.nodeRead h (pa % 2 ^ 42) n nc false = (.ok bs, u)) :
    s.nodeLoad h rd va n sg = (true, u.hartPut h rd (regLoaded rd n sg bs)) := by
  simp [State.nodeLoad, hx, State.nodeRoutes, hr, State.nodeReads_one hb]

theorem State.nodeLoad_poisoned (hr : t.nodeRoute h pa n = .memory a)
    (hb : t.nodeRead h (pa % 2 ^ 42) n nc false = (.poisoned, u)) :
    s.nodeLoad h rd va n sg = (false, (u.poisonUse 4 (h / 8) (pa % 2 ^ 42)).hartTrap h 5 va) := by
  simp [State.nodeLoad, hx, State.nodeRoutes, hr, State.nodeReads_one hb, State.nodePoison, State.nodeFault, accessFault,
    opVa, ccOfHart, paLocal_eq]

theorem State.nodeLoad_remote (hr : t.nodeRoute h pa n = .remote p) (h1 : pa % 128 + n ≤ 128) :
    s.nodeLoad h rd va n sg = (false, t.nodeAsk h pa p (.load rd va n sg) (rdPacket (paLocal pa))) := by
  simp [State.nodeLoad, hx, State.nodeRoutes, hr, oneLine_eq h1]

end load

section store

variable (hx : s.nodeXlate h va n false true = (.at_ [(pa, n)] nc, t))
include hx

theorem State.nodeStore_fault (hr : t.nodeRoute h pa n = .fault) : s.nodeStore h va n v = (false, t.hartTrap h 7 va) := by
  simp [State.nodeStore, hx, State.nodeRoutes, hr, State.nodeFault, accessFault, opVa]

theorem State.nodeStore_cached (hr : t.nodeRoute h pa n = .memory a) (hnc : nc = false)
    (hb : t.cachedWrite (256 + h / 8) h (pa % 2 ^ 42) (leBytes n v) = (true, u)) : s.nodeStore h va n v = (true, u) := by
  rw [← paLocal_eq] at hb
  have hall : (leBytes n v).take n = leBytes n v := List.take_of_length_le (leBytes_length n v).le
  simp [State.nodeStore, hx, State.nodeRoutes, hr, hnc, hall, ccOfHart, hb]

theorem State.nodeStore_register (hr : t.nodeRoute h pa n = .register off) :
    s.nodeStore h va n v = (true, t.regWrite (.hart h) off n v) := by
  simp [State.nodeStore, hx, State.nodeRoutes, hr]

theorem State.nodeStore_remote (hr : t.nodeRoute h pa n = .remote p) (h1 : pa % 128 + n ≤ 128) :
    s.nodeStore h va n v = (false, t.nodeAsk h pa p (.store va n v)
      (wrPacket (paLocal pa) (linePlace (pa % 128) (leBytes n v)) (byteMask (pa % 128) n))) := by
  simp [State.nodeStore, hx, State.nodeRoutes, hr, oneLine_eq h1]

end store

section fetch

variable (hx : s.nodeXlate h va 4 true false = (.at_ [(pa, 4)] nc, t))
include hx

theorem State.nodeFetch_fault (hr : t.nodeRoute h pa 4 = .fault) : s.nodeFetch h va = (false, t.hartTrap h 1 va) := by
  simp [State.nodeFetch, hx, State.nodeRoutes, hr, State.nodeFault, accessFault, opVa]

theorem State.nodeFetch_read (hr : t.nodeRoute h pa 4 = .memory a) (hb : t.nodeRead h (pa % 2 ^ 42) 4 nc true = (.ok bs, u)) :
    s.nodeFetch h va = (false, u) := by
  simp [State.nodeFetch, hx, State.nodeRoutes, hr, State.nodeReads_one hb]

end fetch

end

/-! ### AMOs, LR and SC (R317, R371, R377) -/

section

variable {s t u : State} {h rd va n op v pa a l : Nat} {nc : Bool} {d : LineData} {bs : List Byte} (hn : n = 4 ∨ n = 8)
include hn

/-- The widths of atomics. -/
theorem atomicSize_eq_true : (n == 4 || n == 8) = true := by
  rcases hn with rfl | rfl <;> rfl

section

variable (h8 : 8 ≤ op) (h16 : op ≤ 0x10)
include h8 h16

theorem State.nodeAmo_misaligned (hm : va % n ≠ 0) : s.nodeAmo h rd va n op v = (false, s.hartTrap h 6 va) := by
  simp [State.nodeAmo, amoOp, h8, h16, atomicSize_eq_true hn, hm, State.nodeMisaligned, accessFault, opVa]

/-- At the complex cache: the old value to rd, the new one into the line, which the complex's other harts lose. -/
theorem State.nodeAmo_cached (hm : va % n = 0) (hx : s.nodeXlate h va n false true = (.at_ [(pa, n)] false, t))
    (hr : t.nodeRoute h pa n = .memory a) (hl : (t.linesOf (segments a n)).head? = some l)
    (hg : t.gain (256 + h / 8) (t.linesOf (segments a n)) true = (true, u)) (hd : u.agentData (256 + h / 8) l = some (d, false)) :
    s.nodeAmo h rd va n op v =
      let r := lineAtomic d (a % 128) n op v 0
      let w := match r.2 with | some d => u.agentWrite (256 + h / 8) l d false | none => u
      (true, ((w.coresLose (h / 8) (some h) l).coreUse h [l] false).hartSet h rd (loadValue n true (leBytes n r.1))) := by
  simp only [State.nodeAmo, amoOp, h8, h16, atomicSize_eq_true hn, hm, hx, hr, hl, hg, hd, ccOfHart, List.head?_cons, Option.map_some,
    Option.getD_some, decide_true, Bool.and_self, Bool.not_true, Bool.or_self, Bool.false_eq_true, if_false, ne_eq, not_true_eq_false] <;> rfl

end

theorem State.nodeLr_read (hm : va % n = 0) (hx : s.nodeXlate h va n false false = (.at_ [(pa, n)] nc, t))
    (hr : t.nodeRoute h pa n = .memory a) (hb : t.cachedRead (256 + h / 8) h a n false = (.ok bs, u)) :
    s.nodeLr h rd va n = (true, (u.hartSet h rd (loadValue n true bs)).modHart h (fun x => { x with resv := u.lineAt a })) := by
  simp [State.nodeLr, atomicSize_eq_true hn, hm, hx, hr, ccOfHart, hb]

section

variable (hm : va % n = 0) (hx : s.nodeXlate h va n false true = (.at_ [(pa, n)] nc, t)) (hr : t.nodeRoute h pa n = .memory a)
include hm hx hr

theorem State.nodeSc_lost (hl : (t.hart h).resv = none ∨ (t.hart h).resv ≠ t.lineAt a) :
    s.nodeSc h rd va n v = (true, (t.hartSet h rd 1).modHart h (fun x => { x with resv := none })) := by
  have hh : ((t.hart h).resv.isSome && (t.hart h).resv == t.lineAt a) = false := by
    rcases hl with hl | hl <;> simp [hl]
  simp [State.nodeSc, atomicSize_eq_true hn, hm, hx, hr, hh]

/-- The reservation holds before the line is gained and after it. -/
theorem State.nodeSc_held (ht : (t.hart h).resv = some l) (htl : t.lineAt a = some l)
    (hg : t.gain (256 + h / 8) (t.linesOf (segments a n)) true = (true, u)) (hu : (u.hart h).resv = some l) (hul : u.lineAt a = some l) :
    s.nodeSc h rd va n v =
      (true, ((u.cachedWrite (256 + h / 8) h a (leBytes n v)).2.hartSet h rd 0).modHart h (fun x => { x with resv := none })) := by
  simp [State.nodeSc, atomicSize_eq_true hn, hm, hx, hr, ht, htl, ccOfHart, hg, hu, hul]

end

end

/-! ### CSRs (R692 to R694) -/

/-- The CSRs of the manual that have a value of their own, with what each reads. -/
def State.nodeCsrs (s : State) (h : Nat) : List (Nat × Nat) :=
  [(0xCC0, s.frm.count), (0xCC1, s.phase % 2 ^ 32), (0xC01, s.now / 36), (0xF14, h), (0x14D, (s.hart h).stimecmp),
   (0x350, (s.hart h).misel), (0x150, (s.hart h).sisel)]

theorem State.nodeCsrs_begin {s : State} {h : Nat} (hr : (s.hart h).state = .running) : (s.nodeBegin h).nodeCsrs h = s.nodeCsrs h := by
  simp only [State.nodeCsrs, State.nodeBegin_hart hr]
  rfl

theorem State.csrValue_of_mem {s : State} {h : Nat} {e : Nat × Nat} (he : e ∈ s.nodeCsrs h) : s.csrValue h e.1 = some e.2 := by
  simp only [State.nodeCsrs, List.mem_cons, List.not_mem_nil, or_false] at he
  rcases he with rfl | rfl | rfl | rfl | rfl | rfl | rfl <;> rfl

/-- Only satp has a rule of its own for who may reach it. -/
theorem Hart.csrDenied_eq {csr : Nat} (k : Hart) (hc : csr ≠ 0x180) : k.csrDenied csr = decide (k.priv < csr / 256 % 4) := by
  simp only [Hart.csrDenied, beq_false_of_ne hc, Bool.false_and, Bool.or_false, bits]
  rfl

theorem State.nodeCsrs_ne_satp {s : State} {h : Nat} {e : Nat × Nat} (he : e ∈ s.nodeCsrs h) : e.1 ≠ 0x180 := by
  simp only [State.nodeCsrs, List.mem_cons, List.not_mem_nil, or_false] at he
  rcases he with rfl | rfl | rfl | rfl | rfl | rfl | rfl <;> simp

theorem State.nodeCsrRead_allowed {s : State} {h rd : Nat} {e : Nat × Nat} (he : e ∈ s.nodeCsrs h)
    (hp : e.1 / 256 % 4 ≤ (s.hart h).priv) : s.nodeCsrRead h rd e.1 = (true, s.hartSet h rd e.2) := by
  simp [State.nodeCsrRead, Hart.csrDenied_eq _ (State.nodeCsrs_ne_satp he), State.csrValue_of_mem he, hp]

theorem State.nodeCsrRead_denied {s : State} {h rd : Nat} {e : Nat × Nat} (he : e ∈ s.nodeCsrs h)
    (hp : (s.hart h).priv < e.1 / 256 % 4) : s.nodeCsrRead h rd e.1 = (false, s.hartTrap h 2) := by
  simp [State.nodeCsrRead, Hart.csrDenied_eq _ (State.nodeCsrs_ne_satp he), hp]

theorem State.nodeCsrWrite_readOnly {csr : Nat} (s : State) (h v : Nat) (hc : csr / 1024 % 4 = 3) :
    s.nodeCsrWrite h csr v = (false, s.hartTrap h 2) := by
  simp [State.nodeCsrWrite, hc]

theorem State.nodeCsrWrite_miselect {s : State} {h : Nat} (v : Nat) (hp : (s.hart h).priv = 3) :
    s.nodeCsrWrite h 0x350 v = (true, s.modHart h (fun x => { x with misel := v % 2 ^ 64 })) := by
  simp [State.nodeCsrWrite, Hart.csrDenied_eq, hp]

/-! ### Instructions inside the core (R100, R688) -/

theorem State.nodeOp_mret {s : State} {h : Nat} (hp : (s.hart h).priv = 3) : s.nodeOp h .mret = (false, s.modHart h Hart.mret) := by
  simp [State.nodeOp, hp]

/-- Settles O50: an instruction of a running hart is `State.nodeOp` after the last exception is cleared, which the lemma of its kind
says, and then the free pc where it completes. -/
theorem nodeInstructionsExecute : Obligations.NodeInstructionsExecute := by
  intro h s ha hh hr
  refine ⟨execMtimecmpExpiry_running ha hh hr, fun hw hl => ?_⟩
  intro s1 cc stays done fault ask goes
  have hk : s1.hart h = { s.hart h with trap := none } := State.nodeBegin_hart hr
  have hstays : ∀ {o t}, s1.nodeOp h o = (false, t) → stays o t := execNode_stays ha hh hr hw hl
  have hdone : ∀ {o t}, s1.nodeOp h o = (true, t) → done o t := execNode_done ha hh hr hw hl
  refine ⟨?bare, ?load, ?store, ?fetch, ?atomic, hdone rfl, fun rd v => hdone rfl, ?csrRead, ?csrWrite, ?select, ?fp, ?ecall, ?mret⟩
  case bare =>
    intro hp va n write hn hpage hva
    exact State.nodeXlate_machine write (by rw [hk]; exact hp) hn hpage hva
  case load =>
    intro rd va n sg
    refine ⟨fun page t hx => hstays (State.nodeLoad_stop hx), fun pa nc t hx =>
      ⟨fun hf => hstays (State.nodeLoad_fault hx hf), ?cached, ?home, fun p hp h1 => hstays (State.nodeLoad_remote hx hp h1)⟩⟩
    case cached =>
      rintro a hm rfl
      exact ⟨fun bs u hb => hdone (State.nodeLoad_read hx hm (State.nodeRead_cached hb)),
        fun u hb => hstays (State.nodeLoad_poisoned hx hm (State.nodeRead_cached hb))⟩
    case home =>
      rintro a bs u hm rfl hb
      exact hdone (State.nodeLoad_read hx hm (State.nodeRead_home false hb))
  case store =>
    intro va n v
    exact ⟨fun page t hx => hstays (State.nodeStore_stop hx), fun pa nc t hx =>
      ⟨fun hf => hstays (State.nodeStore_fault hx hf), fun a u hm hnc hb => hdone (State.nodeStore_cached hx hm hnc hb),
        fun off ho => hdone (State.nodeStore_register hx ho), fun p hp h1 => hstays (State.nodeStore_remote hx hp h1)⟩⟩
  case fetch =>
    intro va pa nc t hx
    refine ⟨fun hf => hstays (State.nodeFetch_fault hx hf), ?_⟩
    rintro a bs u hm rfl hb
    exact hstays (State.nodeFetch_read hx hm (State.nodeRead_cached hb))
  case atomic =>
    intro n hn rd va
    refine ⟨fun op v h8 h16 => ⟨fun hm => hstays (State.nodeAmo_misaligned hn h8 h16 hm),
        fun hm pa t a l u d hx hmem hl hg _ hd => hdone (State.nodeAmo_cached hn h8 h16 hm hx hmem hl hg hd)⟩,
      fun hm pa nc t a bs u hx hmem hb => hdone (State.nodeLr_read hn hm hx hmem hb),
      fun v hm pa nc t a hx hmem => ⟨fun hl => hdone (State.nodeSc_lost hn hm hx hmem hl),
        fun l u ht htl hg hu hul => hdone (State.nodeSc_held hn hm hx hmem ht htl hg hu hul)⟩⟩
  case csrRead =>
    intro rd e he
    have he1 : e ∈ s1.nodeCsrs h := (State.nodeCsrs_begin hr).symm ▸ he
    exact ⟨fun hp => hdone (State.nodeCsrRead_allowed he1 (by rw [hk]; exact hp)),
      fun hp => hstays (State.nodeCsrRead_denied he1 (by rw [hk]; exact hp))⟩
  case csrWrite => exact fun csr v hc => hstays (State.nodeCsrWrite_readOnly s1 h v hc)
  case select => exact fun v hp => hdone (State.nodeCsrWrite_miselect v (by rw [hk]; exact hp))
  case fp =>
    intro op fmt rd a b c rm
    exact ⟨fun k hf => hdone (congrArg (s1.nodeInner h) hf), fun hf => hstays (congrArg (s1.nodeInner h) hf)⟩
  case ecall =>
    have hp : (s1.hart h).priv = (s.hart h).priv := by rw [hk]
    exact hstays (congrArg (fun p => (false, s1.hartTrap h (8 + p))) hp)
  case mret => exact fun hp => hstays (State.nodeOp_mret (by rw [hk]; exact hp))

end Sys2Proof.Machine
end

section
/-! SUPPORT. The events of a unit: what each comes to where it is due. -/

namespace Sys2Proof.Machine

open Sys2Proof

/-! ### Write-combining drains (R310, R340) -/

/-- An entry of a local line drains into the cluster's cache once the line is held there in M or E. -/
theorem State.drainEntry_here {s : State} {u : Nat} {e : WcEntry} {x : CLine}
    (hl : locality s.hws.indexValid s.hws.index e.addr = .here)
    (hx : ((s.obtain (clusterOf u) (paLocal e.addr) true).agent (clusterOf u)).find (paLocal e.addr) = some x)
    (hst : x.st = .M ∨ x.st = .E) :
    s.drainEntry u e = ((s.obtain (clusterOf u) (paLocal e.addr) true).agentWrite (clusterOf u) (paLocal e.addr)
      (mergeLine x.data e.data e.mask) (x.poison && e.mask != BitVec.allOnes 128)).modUnit u (fun y => { y with wc := y.wc.erase e }) := by
  simp only [State.drainEntry, hl, hx, if_pos hst]

/-- An entry of another package's line goes to its home. -/
theorem State.drainEntry_remote {s : State} {u p : Nat} {e : WcEntry}
    (hl : locality s.hws.indexValid s.hws.index e.addr = .remote p) :
    s.drainEntry u e = (((s.modUnit u (fun x => { x with remoteStores := x.remoteStores + 1 })).markStale u
      (fun r => r.peer == p && r.packet.addr == paLocal e.addr)).remoteRequest (.unitStore u e.launch) p
        (wrPacket (paLocal e.addr) e.data e.mask) e.site).modUnit u (fun y => { y with wc := y.wc.erase e }) := by
  simp only [State.drainEntry, hl]

theorem execWriteCombiningDrain_entry {s : State} {u line : Nat} {e : WcEntry} (ha : s.alive = true)
    (he : (s.unit u).wc.find? (fun w => w.addr == line) = some e) :
    execWriteCombiningDrain u line s = .next ((s.drainEntry u e).pumpUnit u) := by
  simp only [execWriteCombiningDrain, he, ha, if_true]

/-- A unit whose buffers are empty has nothing to drain. -/
theorem State.drainWc_empty {s : State} {u : Nat} (h : (s.unit u).wc = []) : s.drainWc u = s := by
  simp only [State.drainWc, h, List.foldl_nil]

/-! ### Line fills (R244, R311, R339) -/

/-- A clean line that strands wait for as their next instruction lets them issue. -/
theorem State.fetched_clean (s : State) (u tag : Nat) :
    s.fetched u tag false none = s.modUnit u (fun x => { x with fetchMiss := x.fetchMiss.filter (fun e => e.2 != tag) }) := by
  simp [State.fetched, bne]

/-- A clean line that no memory instruction waits for only fills L1. -/
theorem State.fillUnit_unawaited {s : State} {u tag : Nat} {d : LineData} (h : s.memSlots u = []) :
    s.fillUnit u tag d false true none = (s.modUnit u (fun x => x.l1Fill tag (x.ownStores tag d) none)).modUnit u
      (fun x => { x with fetchMiss := x.fetchMiss.filter (fun e => e.2 != tag) }) := by
  simp [State.fillUnit, h, State.fetched_clean]

theorem execL1Fill_held {s : State} {u line : Nat} {d : LineData} {poison : Bool} (ha : s.alive = true)
    (hm : (s.unit u).misses.contains line = true) (hd : s.agentData (clusterOf u) (line % 2 ^ 42) = some (d, poison)) :
    execL1Fill u line s = .next ((((s.modAgent (clusterOf u) (fun g => g.use (line % 2 ^ 42))).agentDone (clusterOf u)
      (line % 2 ^ 42)).modUnit u (fun x => { x with misses := x.misses.erase line })).fillUnit u line d poison true none) := by
  simp only [execL1Fill, ha, hm, hd, Bool.not_true, Bool.or_self, Bool.false_eq_true, if_false]

/-! ### Walks (R326, R336, R342) -/

/-- The context that a walk acts for: of a copy, that of its ACPY. -/
def Walk.actsFor (w : Walk) (c : Ctx) : Ctx := if w.kind = .copy then { c with t := { c.t with pc := w.pc } } else c

/-- A walk has ended with these non-leaf entries read. -/
def State.endWalk (s : State) (cl : Nat) (w : Walk) (nl : List NonLeaf) : State :=
  s.modCluster cl (fun x => { x with walks := x.walks.erase w, nonLeaf := nl.foldl (fun a e => keepMru 128 e a) x.nonLeaf })

/-- A leaf that a walk found, in the caches of its cluster and unit. -/
def State.keepWalked (s : State) (cl u : Nat) (t : Tlb) : State :=
  (s.modCluster cl (fun x => { x with tlb := keepLeaf t x.tlb })).modUnit u (fun x => { x with tlb := keepMru 64 t x.tlb })

/-- A fault ends the launch of the strand that the walk was for, unless it is a memory instruction's and a read of another package at a
lower address may still be refused (R336). -/
def State.walkFault (s : State) (c : Ctx) (w : Walk) (k : Nat) : State :=
  match c.t.wait with
  | .mem o => if w.kind ≠ .fetch ∧ w.kind ≠ .copy ∧ s.mayRefuse o w.va then s.memGo c (o.failPage w.va 0x17 k)
              else s.raise c 0x17 k w.kind.code w.va
  | _ => s.raise c 0x17 k w.kind.code w.va

theorem State.walkFault_mem {s : State} {c : Ctx} {w : Walk} {o : MemOp} (k : Nat) (ho : c.t.wait = .mem o) (hf : w.kind ≠ .fetch)
    (hc : w.kind ≠ .copy) :
    s.walkFault c w k = if s.mayRefuse o w.va then s.memGo c (o.failPage w.va 0x17 k) else s.raise c 0x17 k w.kind.code w.va := by
  simp only [State.walkFault, ho, ne_eq, hf, hc, not_false_eq_true, true_and]

theorem State.walkFault_raises {s : State} {c : Ctx} {w : Walk} (k : Nat)
    (h : w.kind = .fetch ∨ w.kind = .copy ∨ ∀ o, c.t.wait ≠ .mem o) : s.walkFault c w k = s.raise c 0x17 k w.kind.code w.va := by
  unfold State.walkFault
  split
  · rename_i o ho
    exact if_neg fun hq => h.elim hq.1 fun h => h.elim hq.2.1 fun hn => hn o ho
  · rfl

section

variable {cl i : Nat} {s s1 : State} {w : Walk} {c : Ctx} {nl : List NonLeaf} (ha : s.alive = true)
  (hw : (s.cluster cl).walks[i]? = some w) (hi : i < 2) (hb : s.xlt.busy = false) (hc : s.ctxAny w.unit w.slot = some c)
include ha hw hi hb hc

/-- A walk that finds a leaf: what asked for it goes on. -/
theorem execWalkComplete_leaf {t : Tlb} (h : walk (clusterReader cl) (w.actsFor c).cmd.coil (w.actsFor c).cmd.asroot w.va
      (s.cluster cl).nonLeaf s = (.leaf t, nl, s1)) :
    execWalkComplete cl i s = .next (
      if w.kind = .fetch then ((s1.endWalk cl w nl).keepWalked cl w.unit t).fetchAhead (w.actsFor c) w.va
      else if w.kind = .copy then (s1.endWalk cl w nl).keepWalked cl w.unit t
      else ((s1.endWalk cl w nl).keepWalked cl w.unit t).memResume w.unit w.slot) := by
  unfold Walk.actsFor at *
  simp only [execWalkComplete, hw, ha, hb, hc, h, Nat.not_le.2 hi, Bool.not_true, Bool.or_self, decide_false, Bool.false_eq_true,
    if_false]
  cases w.kind <;> rfl

/-- A walk that finds a fault. -/
theorem execWalkComplete_fault {k : Nat} (h : walk (clusterReader cl) (w.actsFor c).cmd.coil (w.actsFor c).cmd.asroot w.va
      (s.cluster cl).nonLeaf s = (.fault k, nl, s1)) :
    execWalkComplete cl i s = .next ((s1.endWalk cl w nl).walkFault (w.actsFor c) w k) := by
  unfold Walk.actsFor at *
  simp only [execWalkComplete, hw, ha, hb, hc, h, Nat.not_le.2 hi, Bool.not_true, Bool.or_self, decide_false, Bool.false_eq_true,
    if_false]
  rfl

end

/-! ### Stall and the end of a hank (R253, R290 to R292) -/

theorem lowestSlot_concat (ts : List Strand) (a : Strand) :
    lowestSlot (ts ++ [a]) = some ((lowestSlot ts).elim a (fun x => if x.slot ≤ a.slot then x else a)) := by
  simp only [lowestSlot, List.foldl_append, List.foldl_cons, List.foldl_nil]
  split
  next x hx => simp only [hx, Option.elim_some, apply_ite some]
  next hn => simp only [hn, Option.elim_none]

/-- The lowest slot is a strand of the list, and none of the list lies below it; an empty list has none. -/
theorem lowestSlot_spec (ts : List Strand) :
    (lowestSlot ts = none ∧ ts = []) ∨ ∃ x ∈ ts, lowestSlot ts = some x ∧ ∀ y ∈ ts, x.slot ≤ y.slot := by
  induction ts using List.reverseRecOn with
  | nil => exact .inl ⟨rfl, rfl⟩
  | append_singleton ts a ih =>
    refine .inr ?_
    rw [lowestSlot_concat]
    obtain ⟨hn, rfl⟩ | ⟨x, hx, hs, hm⟩ := ih
    · exact ⟨a, by simp, by rw [hn]; rfl, by simp⟩
    · rw [hs, Option.elim_some]
      by_cases hxa : x.slot ≤ a.slot
      · exact ⟨x, by simp [hx], by rw [if_pos hxa], by simpa [or_imp, forall_and] using ⟨hm, hxa⟩⟩
      · refine ⟨a, by simp, by rw [if_neg hxa], ?_⟩
        simpa [or_imp, forall_and] using fun y hy => (Nat.le_of_not_le hxa).trans (hm y hy)

/-- A strand that no other of its list lies below or beside is the lowest. -/
theorem lowestSlot_eq {ts : List Strand} {t : Strand} (ht : t ∈ ts) (hl : ∀ x ∈ ts, t.slot ≤ x.slot)
    (hu : ∀ x ∈ ts, x.slot = t.slot → x = t) : lowestSlot ts = some t := by
  obtain ⟨-, rfl⟩ | ⟨x, hx, he, hm⟩ := lowestSlot_spec ts
  · cases ht
  · rw [he, hu x hx (Nat.le_antisymm (hm t ht) (hl x hx))]

section

variable {s : State} {u launch hank : Nat} {h : Hank} (ha : s.alive = true)
  (hh : (s.unit u).hanks.find? (fun h => h.launch == launch && h.index == hank) = some h)
  (hk : ∀ k ∈ (s.unit u).copies, k.launch = launch → k.hank = hank → k.done = true)

include hk in
/-- No copy of the hank is in flight. -/
theorem State.noCopyInFlight : (s.unit u).copies.any (fun k => k.launch == launch && k.hank == hank && !k.done) = false := by
  simp only [List.any_eq_false, Bool.and_eq_true, beq_iff_eq, Bool.not_eq_true', not_and, Bool.not_eq_false, and_imp]
  exact hk

include ha hh hk

/-- STALL of a hank whose live strands have all been blocked for 4,096 ucyc with nothing outstanding. -/
theorem execStall_blocked {t : Strand} {b : Bool} {n : Nat} (hp : h.progress + 4096 ≤ s.ucyc u)
    (hl : lowestSlot (h.strands.filter (fun t => !t.wait.isEnded)) = some t)
    (hb : ∀ x ∈ h.strands, x.wait.isEnded = false → (h.blockedOn x).isSome = true) (ht : h.blockedOn t = some (b, n)) :
    execStall u launch hank s = .next (s.endLaunch launch
      { status := 0x12, cause := 0x30, dkind := 1, detail := u + 1024 * t.slot,
        fault := some { cause := 0x30, pc := t.pc, obj := n, objBelay := b, unit := some (u, t.slot) } }) := by
  have hall : (h.strands.filter (fun t => !t.wait.isEnded)).any (fun t => (h.blockedOn t).isNone) = false := by
    simpa [Option.isSome_iff_ne_none] using hb
  simp only [execStall, hh, ha, State.noCopyInFlight hk, hall, hl, ht, Nat.not_lt.2 hp, Bool.not_true, Bool.or_self, decide_false,
    Bool.false_eq_true, if_false, Option.getD_some]

/-- HANK_END of a hank that has nothing left on its unit. -/
theorem execHankEnd_over {c : Cmd} {l : Launch} (hq : ∀ m ∈ (s.unit u).mmaQ, m.launch = launch → m.hank ≠ hank)
    (he : ∀ t ∈ h.strands, t.wait.isEnded = true) (hw : (s.unit u).wc = [])
    (hc : ((s.modLaunch launch (fun l => { l.addHank h with hanksDone := l.hanksDone + 1 })).freeHank u h).cmd? launch = some c)
    (hl : c.work = .launch l) :
    execHankEnd u launch hank s = .next (
      if l.hanksDone = l.hankCount then
        ((s.modLaunch launch (fun l => { l.addHank h with hanksDone := l.hanksDone + 1 })).freeHank u h).endCmd launch
          { status := l.status }
      else (s.modLaunch launch (fun l => { l.addHank h with hanksDone := l.hanksDone + 1 })).freeHank u h) := by
  have hmma : (s.unit u).mmaQ.any (fun m => m.launch == launch && m.hank == hank) = false := by simpa using hq
  have hend : h.strands.all (fun t => t.wait.isEnded) = true := List.all_eq_true.2 he
  simp only [execHankEnd, hh, ha, State.noCopyInFlight hk, hmma, hend, State.drainWc_empty hw, hw, hc, hl, List.isEmpty_nil,
    Bool.not_true, Bool.or_self, Bool.false_eq_true, if_false]

end

/-- Settles O21: each event of a unit by the lemma that says what it comes to. -/
theorem unitEventsAct : Obligations.UnitEventsAct := by
  refine ⟨?drain, ?fill, ?walk, ?hank⟩
  case drain =>
    intro u line s e ha he
    have hx : exec (.writeCombiningDrain u line) s = .next ((s.drainEntry u e).pumpUnit u) := execWriteCombiningDrain_entry ha he
    refine ⟨fun hl x hf hst => ?_, fun p hl => ?_⟩
    · rw [hx, State.drainEntry_here hl hf hst]
    · rw [hx, State.drainEntry_remote hl]
  case fill =>
    intro u line s d ha hm _ hd _ hn
    exact (execL1Fill_held ha hm hd).trans (congrArg _ (State.fillUnit_unawaited hn))
  case walk =>
    intro cl i s s1 w c nl ha hw hi hb hc
    refine ⟨fun t h => execWalkComplete_leaf ha hw hi hb hc h, fun k h => ?_⟩
    have hx : exec (.walkComplete cl i) s = _ := execWalkComplete_fault ha hw hi hb hc h
    exact ⟨fun hq => hx.trans (congrArg _ (State.walkFault_raises k hq)),
      fun hf hcp o ho => hx.trans (congrArg _ (State.walkFault_mem k ho hf hcp))⟩
  case hank =>
    intro u launch hank s h ha hh hk
    refine ⟨fun hp t ht hlive hblk hu b n hb => ?_, fun hq he hw c l hc hl => execHankEnd_over ha hh hk hq he hw hc hl⟩
    refine execStall_blocked ha hh hk hp (lowestSlot_eq ?_ ?_ ?_) (fun x hx hxl => (hblk x hx hxl).2) hb
    · simpa using ⟨ht, hlive⟩
    · simpa using fun x hx hxl => (hblk x hx hxl).1
    · simpa using fun x hx _ => hu x hx

end Sys2Proof.Machine
end

section
/-! SUPPORT. The start of a TMMA and the witness tiles of the hanks it writes. -/

namespace Sys2Proof.Machine

open Sys2Proof

/-! ### Hanks of a unit -/

theorem State.wf_modUnit {s : State} (u : Nat) (f : UnitSt → UnitSt) (h : Tbl.wf {} s.units = true) :
    Tbl.wf {} (s.modUnit u f).units = true := Tbl.wf_upd _ _ _ _ h

theorem State.modUnit_unit_same {s : State} (u : Nat) (f : UnitSt → UnitSt) (h : Tbl.wf {} s.units = true) :
    (s.modUnit u f).unit u = f (s.unit u) := by
  rw [State.modUnit_unit s u u f h, if_pos rfl]

/-- The coordinates of the active witness tiles of a unit's hanks, hank by hank. -/
def State.activeTiles (s : State) (u : Nat) : List (Option (Nat × Nat × Nat)) := (s.unit u).hanks.map (·.wit.active)

theorem State.activeTiles_modDom (s : State) (u d : Nat) (f : Dom → Dom) : (s.modDom d f).activeTiles u = s.activeTiles u := rfl

/-- A change of a unit that keeps its hanks keeps their witness tiles. -/
theorem State.activeTiles_modUnit {s : State} {u : Nat} {f : UnitSt → UnitSt} (h : Tbl.wf {} s.units = true)
    (hf : (f (s.unit u)).hanks = (s.unit u).hanks) : (s.modUnit u f).activeTiles u = s.activeTiles u := by
  rw [State.activeTiles, State.modUnit_unit_same u f h, hf, State.activeTiles]

theorem State.activeTiles_countVts {s : State} {u : Nat} (e : Ev) (h : Tbl.wf {} s.units = true) :
    (s.countVts u e).activeTiles u = s.activeTiles u := State.activeTiles_modUnit h rfl

/-- A change of a context's hank reaches every hank that its unit lists under that launch and index. -/
theorem State.activeTiles_onHank {s : State} {c : Ctx} {f : Hank → Hank} (h : Tbl.wf {} s.units = true) :
    (s.onHank c f).activeTiles c.u = (s.unit c.u).hanks.map (fun x =>
      if x.launch == c.hank.launch && x.index == c.hank.index then (f x).wit.active else x.wit.active) := by
  simp only [State.activeTiles, State.onHank, State.modHank, State.modUnit_unit_same c.u _ h, List.map_map, Function.comp_def,
    apply_ite (fun x : Hank => x.wit.active)]

/-- With no copy in flight no write of a tile is one that a copy also makes. -/
theorem State.foldl_touchTile_idle {s : State} {c : Ctx} (h : (s.unit c.u).copies = []) (ts rows : List Nat) (side : Bool) :
    ts.foldl (fun s t => s.touchTile c t rows side) s = s :=
  List.foldl_fixed' (fun t => State.touchTile_idle h t rows side) ts

theorem State.onHank_copies {s : State} {c : Ctx} (f : Hank → Hank) (h : Tbl.wf {} s.units = true) :
    ((s.onHank c f).unit c.u).copies = (s.unit c.u).copies := by
  rw [State.onHank, State.modHank, State.modUnit_unit_same _ _ h]

/-- The active witness tiles after a change of a context's hank and changes of its unit and region that keep the hanks. -/
theorem State.activeTiles_start {s : State} {c : Ctx} {F : Hank → Hank} {e : Ev} {G : UnitSt → UnitSt} {d : Nat} {D : Dom → Dom}
    (hw : Tbl.wf {} s.units = true) (hG : ∀ x, (G x).hanks = x.hanks) :
    ((((s.onHank c F).countVts c.u e).modUnit c.u G).modDom d D).activeTiles c.u = (s.unit c.u).hanks.map (fun x =>
      if x.launch == c.hank.launch && x.index == c.hank.index then (F x).wit.active else x.wit.active) := by
  have hw1 : Tbl.wf {} (s.onHank c F).units = true := State.wf_modUnit _ _ hw
  have hw2 : Tbl.wf {} ((s.onHank c F).countVts c.u e).units = true := State.wf_modUnit _ _ hw1
  rw [State.activeTiles_modDom, State.activeTiles_modUnit hw2 (hG _), State.activeTiles_countVts e hw1, State.activeTiles_onHank hw]

/-! ### TMMA_START (R143, R161) -/

/-- Changes of a hank that leave its witness area alone, one after another. -/
theorem Hank.foldl_wit {α : Type} {f : Hank → α → Hank} (hf : ∀ h a, (f h a).wit = h.wit) (l : List α) (h : Hank) :
    (l.foldl f h).wit = h.wit := by
  induction l generalizing h with
  | nil => rfl
  | cons a l ih => rw [List.foldl_cons, ih, hf]

theorem Hank.setElem_wit (h : Hank) (t r w n v : Nat) : (h.setElem t r w n v).wit = h.wit := rfl

/-- The TMMA writes the active witness tile of a hank without owning it (R161). -/
def Mma.loses (m : Mma) (h : Hank) : Bool := h.wit.active.any (fun a => m.acc.contains a.2.1 && a.1 != m.slot)

section

variable {s : State} {u : Nat} {m : Mma} {c : Ctx} {k : MmaFmt} (hw : Tbl.wf {} s.units = true) (ha : s.alive = true)
  (hf : s.unitFenced u = false) (hl : s.lhr.stage = 0) (hfree : (s.unit u).mmaFree ≤ s.ucyc u) (htok : 4096 ≤ (s.unit u).tokens)
  (hm : (s.unit u).mmaNext = some m) (hc : s.ctxAny u m.slot = some c) (hk : mmaFmt m.fmt = some k) (hcp : (s.unit u).copies = [])
include hw ha hf hl hfree htok hm hc hk hcp

/-- TMMA_START of a TMMA that may start: a change of the strand's hank, which abandons a witness tile that the TMMA writes and does not
own (R161), then of the unit's counters and of what the unit and its region hold beside the hanks. -/
theorem execTmmaStart_due : ∃ F e G D, execTmmaStart u s = .next ((((s.onHank c F).countVts u e).modUnit u G).modDom (regionOf u) D) ∧
    (∀ x, (F x).wit.active = if m.loses x then none else x.wit.active) ∧ ∀ x, (G x).hanks = x.hanks := by
  obtain ⟨rfl, -⟩ := State.ctxAny_some hc
  have hgo : (!s.alive || s.unitFenced c.u || s.lhr.stage != 0 || decide (s.ucyc c.u < (s.unit c.u).mmaFree) ||
      decide ((s.unit c.u).tokens < 4096)) = false := by simp [ha, hf, hl, hfree, htok]
  have htouch : ∀ F, m.acc.foldl (fun s t => s.touchTile c t (List.range 32) false) (s.onHank c F) = s.onHank c F := fun F =>
    State.foldl_touchTile_idle (State.onHank_copies F hw ▸ hcp) ..
  simp only [execTmmaStart, hgo, hm, hc, hk, State.viewTiles_idle hcp, htouch, Bool.false_eq_true, if_false]
  refine ⟨_, _, _, _, rfl, fun x => ?_, fun x => rfl⟩
  generalize hy : List.foldl _ x (mmaCompute k m c.hank) = y
  have hyx : y.wit = x.wit := by
    rw [← hy]
    exact Hank.foldl_wit (fun _ _ => Hank.setElem_wit ..) _ _
  rw [apply_ite Hank.wit, apply_ite Witness.active, Mma.loses, hyx]
  cases x.wit.active <;> rfl

/-- A start that leaves the witness tile of every hank active as it was had none to abandon. -/
theorem Mma.loses_eq_false {F : Hank → Hank} {e : Ev} {G : UnitSt → UnitSt} {D : Dom → Dom}
    (h : execTmmaStart u s = .next ((((s.onHank c F).countVts u e).modUnit u G).modDom (regionOf u) D))
    (hF : ∀ x, (F x).wit.active = x.wit.active) (hG : ∀ x, (G x).hanks = x.hanks) {x : Hank} (hx : x ∈ (s.unit u).hanks)
    (hxl : x.launch = c.hank.launch) (hxi : x.index = c.hank.index) : m.loses x = false := by
  obtain ⟨F', e', G', D', h', hF', hG'⟩ := execTmmaStart_due hw ha hf hl hfree htok hm hc hk hcp
  obtain ⟨rfl, -⟩ := State.ctxAny_some hc
  have he := congrArg (State.activeTiles · c.u) (Host.Outcome.next.inj (h.symm.trans h'))
  simp only [State.activeTiles_start hw hG, State.activeTiles_start hw hG', hF, hF'] at he
  have hxe := List.map_inj_left.1 he x hx
  cases ho : x.wit.active with
  | none => simp [Mma.loses, ho]
  | some o => simpa [hxl, hxi, ho] using hxe

end

/-! ### A hank listed twice -/

/-- A strand of launch 0 with nothing in its registers. -/
def twinStrand : Strand := { slot := 0, index := 0, pc := 0, live := 1, active := 1 }

/-- A BF16 TMMA of that strand with its accumulator in tile 0. -/
def twinMma : Mma := { launch := 0, hank := 0, slot := 0, fmt := 2, tc := 0, ta := 1, tb := 2, z := true, w := false, ws := 0 }

/-- A second hank under the same launch and index, where the strand of slot 1 owns the witness tile on that accumulator. -/
def twinHank : Hank := { launch := 0, index := 0, strands := [], wit := { active := some (1, 0, 0) } }

/-- What the strand runs in. -/
def twinCtx : Ctx :=
  { u := 0, slot := 0, hank := { launch := 0, index := 0, strands := [twinStrand] }, t := twinStrand,
    cmd := { id := 0, queue := 0, seq := 0, work := .launch { desc := { tiles := 3 } } }, l := { desc := { tiles := 3 } } }

/-- A unit that lists both hanks, with the TMMA waiting. -/
def twinState : State :=
  { State.reset with cmds := [twinCtx.cmd], units := [(0, { hanks := [twinCtx.hank, twinHank], mmaQ := [twinMma] })] }

theorem twinState_due :
    Tables twinState ∧ twinState.alive = true ∧ twinState.unitFenced 0 = false ∧ twinState.lhr.stage = 0 ∧
      (twinState.unit 0).mmaFree ≤ twinState.ucyc 0 ∧ 4096 ≤ (twinState.unit 0).tokens ∧ (twinState.unit 0).mmaNext = some twinMma ∧
      twinState.ctxAny 0 twinMma.slot = some twinCtx ∧ (twinState.unit 0).copies = [] ∧ twinCtx.hank.wit.active = none ∧
      twinHank ∈ (twinState.unit 0).hanks ∧ twinMma.loses twinHank = true := by
  unfold Tables; decide +kernel

/-- Refutes O17: TMMA_START is stated for every state, those included whose unit lists a second hank under the launch and index of the
TMMA's strand. The TMMA's writes reach that hank too, and where another strand owns a witness tile on the accumulator in it they abandon
that tile (R161), while the statement keeps it active: its premises keep only the
strand's own hank from having an active tile, and none says that a unit lists a hank once. -/
theorem not_matrixInstructions : ¬ Obligations.MatrixInstructions := by
  rintro ⟨-, hstart, -⟩
  obtain ⟨hT, ha, hf, hl, hfree, htok, hm, hc, hcp, hwit, hmem, hloses⟩ := twinState_due
  have hkept : twinMma.loses twinHank = false := Mma.loses_eq_false hT.1 ha hf hl hfree htok hm hc rfl hcp
    (hstart 0 twinState twinMma twinCtx _ hT ha hf hl hfree htok hm hc rfl hcp hwit) (fun _ => rfl) (fun _ => rfl) hmem rfl rfl
  exact absurd (hloses.symm.trans hkept) (by decide)

end Sys2Proof.Machine
end

section
/-! SUPPORT. Writes of the clear registers and of the ERR block. -/

namespace Sys2Proof.Machine

open Sys2Proof

/-- A flag after a write of 1s: it stays where its bit is not written, or where hardware sets it at that moment (R662). -/
theorem w1c_keeps {f : Bool} {v m k : Nat} :
    (f && (!bit v k || bit m k)) = true ↔ f = true ∧ (v.testBit k = true → m.testBit k = true) := by
  simp only [bit, Bool.and_eq_true, Bool.or_eq_true, Bool.not_eq_true', imp_iff_not_or, Bool.not_eq_true]

section

variable {s : State} {b v : Nat} (hb : b < 4) (hv : v < 2 ^ 32)
include hb hv

/-- HEAD moves by at most the records that the bank holds (R663). -/
theorem execErrBankHead_within
    (h : (v + 2 ^ 32 - (s.err.bank b).head) % 2 ^ 32 ≤ ((s.err.bank b).tail + 2 ^ 32 - (s.err.bank b).head) % 2 ^ 32) :
    execErrBankHead b v s = .next { s with err := s.err.setBank b { s.err.bank b with head := v } } := by
  simp only [execErrBankHead, Nat.not_le.2 hb, Nat.not_le.2 hv, Nat.not_lt.2 h, decide_false, Bool.or_self, Bool.false_eq_true, if_false]

/-- A move of HEAD past the records that the bank holds changes nothing (R663). -/
theorem execErrBankHead_past
    (h : ((s.err.bank b).tail + 2 ^ 32 - (s.err.bank b).head) % 2 ^ 32 < (v + 2 ^ 32 - (s.err.bank b).head) % 2 ^ 32) :
    execErrBankHead b v s = .next s := by
  simp only [execErrBankHead, Nat.not_le.2 hb, Nat.not_le.2 hv, h, decide_true, Bool.or_true, if_true]

end

/-- Settles O37: each clear is its register's own mask over the counters that it names, a flag of ERR_STATUS stays by `w1c_keeps`, and
the head of a bank moves by the records that the bank holds. -/
theorem clearsZeroExactlyTheNamedCounters : Obligations.ClearsZeroExactlyTheNamedCounters := by
  intro s v
  refine ⟨fun _ => rfl, fun _ => rfl, fun _ => rfl, fun _ => rfl, fun _ _ => rfl, fun _ => rfl, fun _ => rfl, ?status, ?head⟩
  case status => exact fun meets => ⟨_, rfl, rfl, w1c_keeps, w1c_keeps, w1c_keeps, w1c_keeps⟩
  case head => exact fun b hb hv => ⟨execErrBankHead_within hb hv, execErrBankHead_past hb hv⟩

end Sys2Proof.Machine
end

section
/-! SUPPORT. Thread comparisons and floating-point instructions: what each comes to, legal or not. -/

namespace Sys2Proof.Machine

open Sys2Proof

/-! ### Checks of a thread instruction (R225, R235) -/

section

variable {u slot : Nat} {f : FmtA} {k : ShapeA} {extra : Bool} {body : Ctx → W32 → Strand × Ev} {s : State} {c : Ctx}
  (hc : s.ctx u slot = some c)
include hc

/-- A thread instruction with a field that is not legal ends its launch with ILLEGAL. -/
theorem threadA_illegal (hl : (extra && k.legal f) = false) :
    threadA u slot f k extra body s = (s.raise c 0x10 0x01 0 0).took u slot := by
  refine State.issue_cause hc ?_
  cases extra
  · rfl
  · rw [Bool.true_and] at hl
    simp [ShapeA.check, hl, illegal, bind, Except.bind]

/-- A legal thread instruction with a register outside the allocation ends its launch with RESOURCE. -/
theorem threadA_resource (he : extra = true) (hl : k.legal f = true) (hf : k.fits c.l.desc.regs f = false) :
    threadA u slot f k extra body s = (s.raise c 0x10 0x02 0 0).took u slot := by
  refine State.issue_cause hc ?_
  simp [ShapeA.check, he, hl, hf, resource, bind, Except.bind]

end

/-! ### Comparisons (R187) -/

/-- FP64 to FP16 compare by value, INT32 as signed. -/
theorem tyCmp_fst (ty cond a b : Nat) : (tyCmp ty cond a b).1 =
    condHolds cond (if ty = 4 then some (compare (toS 32 a) (toS 32 b)) else cmpV ((tyFmt ty).input a) ((tyFmt ty).input b)) := by
  unfold tyCmp
  split <;> rfl

/-- Only the flushed inputs of a floating-point comparison are counted. -/
theorem tyCmp_snd (ty cond a b : Nat) : (tyCmp ty cond a b).2 =
    if ty = 4 then {} else { flushIn := flushCount (tyFmt ty) a + flushCount (tyFmt ty) b } := by
  unfold tyCmp
  split <;> rfl

/-- Settles O2: both comparisons are thread instructions that pass their checks, and set the acting lanes' bits of a mask by the condition
of `condHolds`. -/
theorem comparesSetTheirMask : Obligations.ComparesSetTheirMask := by
  intro u slot f s c hc hrm
  refine ⟨fun hm hl hf => ?setp, fun hm hl hf => ?fsetp⟩
  case setp => exact congrArg _ (threadA_ok hc (by rw [hm, decide_eq_true hrm, Bool.and_self]) hl hf)
  case fsetp =>
    refine (congrArg Host.Outcome.next (threadA_ok hc ?_ hl hf)).trans ?_
    · rw [decide_eq_true hm, decide_eq_true hrm, Bool.and_self]
    · simp only [tyCmp_fst, tyCmp_snd]
      rfl

/-! ### Floating-point instructions (R182, R239) -/

/-- MOV of R182 delivers the low bits of its source and counts nothing. -/
theorem tyOp_mov {ty : Nat} (ht : ty < 5) (rm a b k : Nat) : tyOp ty 0x00 rm a b k = (b % 2 ^ (8 * tyBytes ty), {}) := by
  interval_cases ty <;> rfl

/-- The scalar that source `n` of a lane gives to a floating-point operation. -/
def faluSrc (t : Strand) (f : FmtA) (n l r : Nat) : Nat := t.src (f.mod == 0) (bit f.usrc n) l r % 2 ^ (8 * tyBytes f.mod)

/-- What the operation of a code delivers in a lane, with its counts; FMOV delivers its only source. -/
def faluOut (op : Nat) (t : Strand) (f : FmtA) (l : Nat) : Nat × Ev :=
  if op = 0x00 then (faluSrc t f 0 l f.a % 2 ^ (8 * tyBytes f.mod), {})
  else tyOp f.mod op f.rm (faluSrc t f 0 l f.a) (faluSrc t f 1 l f.b) (faluSrc t f 2 l f.c)

section

variable {u slot : Nat} {f : FmtA} {s : State} {c : Ctx} {op : Nat} {ob oc : Opnd} {i : Instr} (hc : s.ctx u slot = some c)
  (hm : f.mod < 5) (hr : f.rm < 5) (hi : exec i s = .next (falu op ob oc u slot f s))
include hc hm hr hi

theorem falu_illegal (hl : (tyAccepts f.mod op && (faluShape f.mod op .w ob oc).legal f) = false) :
    exec i s = .next ((s.raise c 0x10 0x01 0 0).took u slot) := by
  refine hi.trans (congrArg Host.Outcome.next ?_)
  unfold falu
  refine threadA_illegal hc ?_
  rw [decide_eq_true hm, decide_eq_true hr, Bool.true_and, Bool.and_true, hl]

theorem falu_resource (ha : tyAccepts f.mod op = true) (hl : (faluShape f.mod op .w ob oc).legal f = true)
    (hf : (faluShape f.mod op .w ob oc).fits c.l.desc.regs f = false) :
    exec i s = .next ((s.raise c 0x10 0x02 0 0).took u slot) := by
  refine hi.trans (congrArg Host.Outcome.next ?_)
  unfold falu
  refine threadA_resource hc ?_ hl hf
  rw [decide_eq_true hm, decide_eq_true hr, ha]; rfl

theorem falu_ok (ha : tyAccepts f.mod op = true) (hl : (faluShape f.mod op .w ob oc).legal f = true)
    (hf : (faluShape f.mod op .w ob oc).fits c.l.desc.regs f = true) :
    exec i s = .next (((s.countVts u (Ev.sum ((lanesOf (c.t.acting f.pg f.pn)).map (fun l => (faluOut op c.t f l).2)))).retire c
      (c.t.wrLanes (c.t.acting f.pg f.pn) (f.mod == 0) f.d (fun l => (faluOut op c.t f l).1)).advance).took u slot) := by
  have hout (l : Nat) : tyOp f.mod op f.rm (faluSrc c.t f 0 l f.a) (if op = 0 then faluSrc c.t f 0 l f.a else faluSrc c.t f 1 l f.b)
      (faluSrc c.t f 2 l f.c) = faluOut op c.t f l := by
    unfold faluOut
    split
    next h => rw [h, tyOp_mov hm]
    next => rfl
  refine hi.trans (congrArg Host.Outcome.next ?_)
  unfold falu
  refine (threadA_ok hc ?_ hl hf).trans ?_
  · rw [decide_eq_true hm, decide_eq_true hr, ha]; rfl
  · simp only [← hout]
    rfl

end

/-- Settles O4: the twenty operations are one thread instruction under their codes (`falu`), which the three lemmas above follow through
its checks; FCVT is a thread instruction of its own. -/
theorem faluResults : Obligations.FaluResults := by
  intro u slot f s c hc hm hr
  refine ⟨fun r hrow => ?falu, fun hfrom => ?fcvt⟩
  case falu =>
    have hi : exec r.2.1 s = .next (falu r.1 r.2.2.1 r.2.2.2 u slot f s) := by
      fin_cases hrow <;> rfl
    exact ⟨falu_illegal hc hm hr hi, falu_resource hc hm hr hi, falu_ok hc hm hr hi⟩
  case fcvt =>
    have he : (decide (f.mod < 5) && decide (f.c < 5) && decide (f.rm < 5)) = true := by simp [hm, hfrom, hr]
    exact ⟨fun hl => congrArg _ (threadA_illegal hc (by rw [he, Bool.true_and]; exact hl)),
      fun hl hf => congrArg _ (threadA_resource hc he hl hf), fun hl hf => congrArg _ (threadA_ok hc he hl hf)⟩

end Sys2Proof.Machine
end

section
/-! SUPPORT. Rows of tiles: their elements, what a tile result writes, and what is read after it. -/

namespace Sys2Proof.Machine

open Sys2Proof

/-! ### Elements of a row (R170) -/

theorem rowElem_eq_bits (row : BitVec 1024) (w j : Nat) : rowElem row w j = bits row.toNat (w * j) w := rfl

/-- Elements of one width, one after another, are the fields of a word. -/
theorem rowOf'_eq_joinBits (w : Nat) (xs : List Nat) : rowOf' w xs = BitVec.ofNat 1024 (joinBits (xs.map (Prod.mk w))) := by
  have h : xs.foldr (fun x a => x % 2 ^ w + 2 ^ w * a) 0 = joinBits (xs.map (Prod.mk w)) := by
    induction xs with
    | nil => rfl
    | cons x xs ih => rw [List.foldr_cons, ih, List.map_cons, joinBits_cons]
  rw [rowOf', h]

theorem bits_joinBits_elem (w : Nat) (xs : List Nat) (j : Nat) (hj : j < xs.length) :
    bits (joinBits (xs.map (Prod.mk w))) (w * j) w = xs[j] % 2 ^ w := by
  induction xs generalizing j with
  | nil => exact absurd hj (Nat.not_lt_zero j)
  | cons x xs ih =>
    rw [List.map_cons]
    cases j with
    | zero => simp [bits, joinBits_cons]
    | succ j =>
      rw [bits_skip _ _ _ _ _ (Nat.le_mul_of_pos_right w j.succ_pos), Nat.mul_succ, Nat.add_sub_cancel, ih j (Nat.lt_of_succ_lt_succ hj),
        List.getElem_cons_succ]

theorem joinBits_elems_lt {w n : Nat} {xs : List Nat} (h : w * xs.length ≤ n) : joinBits (xs.map (Prod.mk w)) < 2 ^ n := by
  refine (joinBits_lt _).trans_le (Nat.pow_le_pow_right Nat.two_pos ?_)
  simpa [Function.comp_def, Nat.mul_comm] using h

theorem toNat_ofNat_joinBits {w n : Nat} {xs : List Nat} (h : w * xs.length ≤ n) :
    (BitVec.ofNat n (joinBits (xs.map (Prod.mk w)))).toNat = joinBits (xs.map (Prod.mk w)) := by
  rw [BitVec.toNat_ofNat, Nat.mod_eq_of_lt (joinBits_elems_lt h)]

theorem rowElem_rowOf' {w : Nat} {xs : List Nat} (hl : w * xs.length ≤ 1024) {j : Nat} (hj : j < xs.length) :
    rowElem (rowOf' w xs) w j = xs[j] % 2 ^ w := by
  rw [rowElem_eq_bits, rowOf'_eq_joinBits, toNat_ofNat_joinBits hl, bits_joinBits_elem w xs j hj]

/-- An updated row holds the low bits of each value given, and its old element where none is given (R174). -/
theorem rowElem_rowUpdate (old : BitVec 1024) {w : Nat} (f : Nat → Option Nat) {j : Nat} (hj : j < 1024 / w) :
    rowElem (rowUpdate old w f) w j = match f j with
      | some x => x % 2 ^ w
      | none => rowElem old w j := by
  rw [rowUpdate, rowElem_rowOf' (by simpa using Nat.mul_div_le 1024 w) (by simpa using hj), List.getElem_map, List.getElem_range]
  cases f j with
  | some x => rfl
  | none => exact Nat.mod_mod ..

/-- A row is updated by what is given for its own elements. -/
theorem rowUpdate_congr (old : BitVec 1024) {w : Nat} {f g : Nat → Option Nat} (h : ∀ j < 1024 / w, f j = g j) :
    rowUpdate old w f = rowUpdate old w g := by
  unfold rowUpdate
  congr 1
  refine List.map_congr_left fun j hj => ?_
  rw [h j (List.mem_range.1 hj)]

/-! ### Results of a tile operation (R172 to R176, R204) -/

/-- What `tileMap` writes of a row: nothing where no element has a result. -/
def tileMapRow (dst : Nat → BitVec 1024) (w : Nat) (f : Nat → Nat → Option (Nat × Ev)) (i : Nat) : Option (Nat × BitVec 1024) :=
  if ∀ j < 1024 / w, f i j = none then none else some (i, rowUpdate (dst i) w (fun j => (f i j).map (·.1)))

/-- The counts of a row's elements, in the order of the elements. -/
def rowEvents {α : Type} (w : Nat) (f : Nat → Nat → Option (α × Ev)) (i : Nat) : List Ev :=
  (List.range (1024 / w)).filterMap (fun j => (f i j).map (·.2))

/-- Counts added element by element are their row's counts added in order. -/
theorem foldl_rowEvents {α : Type} {w : Nat} {f : Nat → Nat → Option (α × Ev)} {i : Nat} {g : Ev → Nat → Ev}
    (hg : ∀ a j, g a j = (f i j).elim a (fun x => a.add x.2)) (a : Ev) :
    (List.range (1024 / w)).foldl g a = (rowEvents w f i).foldl Ev.add a := by
  rw [rowEvents, List.foldl_filterMap]
  congr
  funext a j
  rw [hg]
  cases f i j <;> rfl

/-- A result with what one more row adds to it. -/
def TileOut.addRow (o : TileOut) (row : Option (Nat × BitVec 1024)) (evs : List Ev) : TileOut :=
  { rows := o.rows ++ row.toList, ev := evs.foldl Ev.add o.ev }

theorem TileOut.foldl_addRow (row : Nat → Option (Nat × BitVec 1024)) (evs : Nat → List Ev) (l : List Nat) (o : TileOut) :
    l.foldl (fun o i => o.addRow (row i) (evs i)) o = { rows := o.rows ++ l.filterMap row, ev := (l.flatMap evs).foldl Ev.add o.ev } := by
  induction l generalizing o with
  | nil => rw [List.filterMap_nil, List.append_nil]; rfl
  | cons i l ih =>
    rw [List.foldl_cons, ih, TileOut.addRow, List.flatMap_cons, List.foldl_append]
    cases hi : row i <;> simp [hi]

section

variable (dst : Nat → BitVec 1024) (w : Nat) (f : Nat → Nat → Option (Nat × Ev))

theorem tileMap_eq_foldl :
    tileMap dst w f = (List.range 32).foldl (fun o i => o.addRow (tileMapRow dst w f i) (rowEvents w f i)) {} := by
  unfold tileMap
  congr
  funext o i
  have hall : ((List.range (1024 / w)).map (f i)).all (·.isNone) = true ↔ ∀ j < 1024 / w, f i j = none := by simp
  have hrow : rowUpdate (dst i) w (fun j => ((((List.range (1024 / w)).map (f i))[j]?).getD none).map (·.1)) =
      rowUpdate (dst i) w (fun j => (f i j).map (·.1)) :=
    rowUpdate_congr _ fun j hj => by simp [hj]
  simp only [TileOut.addRow, tileMapRow, hall, hrow]
  split
  next h =>
    have he : rowEvents w f i = [] := by simpa [rowEvents] using h
    simp [he]
  next =>
    rw [List.foldl_map, foldl_rowEvents (f := f) (i := i) fun a j => ?_]
    · rfl
    · cases f i j <;> rfl

theorem tileMap_rows : (tileMap dst w f).rows = (List.range 32).filterMap (tileMapRow dst w f) := by
  rw [tileMap_eq_foldl, TileOut.foldl_addRow, List.nil_append]

theorem tileMap_ev : (tileMap dst w f).ev = Ev.sum ((List.range 32).flatMap (rowEvents w f)) := by
  rw [tileMap_eq_foldl, TileOut.foldl_addRow, Ev.sum]

/-- The row of a number among the results of a list of rows. -/
theorem find?_tileMapRow (l : List Nat) (i : Nat) :
    (l.filterMap (tileMapRow dst w f)).find? (fun r => r.1 == i) = if i ∈ l then tileMapRow dst w f i else none := by
  induction l with
  | nil => rfl
  | cons k l ih =>
    by_cases hn : ∀ j < 1024 / w, f k j = none
    · have hk : tileMapRow dst w f k = none := if_pos hn
      rw [List.filterMap_cons_none hk, ih]
      by_cases hik : i = k
      · subst hik; simp [hk]
      · simp [hik]
    · have hk : tileMapRow dst w f k = some (k, _) := if_neg hn
      rw [List.filterMap_cons_some hk, List.find?_cons]
      by_cases hik : i = k
      · subst hik; simp [hk]
      · rw [beq_false_of_ne (Ne.symm hik)]; simp [ih, hik]

end

/-! ### Tiles after a write (R170, R205) -/

theorem Hank.tileRow_setTileRow {h : Hank} (hw : Tbl.wf 0 h.tiles = true) {t t' r i : Nat} (v : BitVec 1024) (hr : r < 32) (hi : i < 32) :
    (h.setTileRow t r v).tileRow t' i = if t' = t ∧ i = r then v else h.tileRow t' i := by
  have hk : 32 * t' + i = 32 * t + r ↔ t' = t ∧ i = r := by omega
  simp only [Hank.tileRow, Hank.setTileRow, Tbl.get_set _ _ _ _ _ hw, hk]

theorem Hank.wf_setTileRow {h : Hank} (hw : Tbl.wf 0 h.tiles = true) (t r : Nat) (v : BitVec 1024) :
    Tbl.wf 0 (h.setTileRow t r v).tiles = true := Tbl.wf_set _ _ _ _ hw

/-- Rows put in a tile one after another, each once. -/
theorem Hank.tileRow_foldl_setTileRow {t : Nat} {rows : List (Nat × BitVec 1024)} {h : Hank} (hw : Tbl.wf 0 h.tiles = true)
    (hr : ∀ r ∈ rows, r.1 < 32) (hd : (rows.map (·.1)).Nodup) {t' i : Nat} (hi : i < 32) :
    (rows.foldl (fun h r => h.setTileRow t r.1 r.2) h).tileRow t' i =
      if t' = t then ((rows.find? (fun r => r.1 == i)).map (·.2)).getD (h.tileRow t i) else h.tileRow t' i := by
  induction rows generalizing h with
  | nil => split <;> simp [*]
  | cons r rows ih =>
    obtain ⟨hr0, hrs⟩ := List.forall_mem_cons.1 hr
    rw [List.map_cons, List.nodup_cons] at hd
    obtain ⟨hnew, hd⟩ := hd
    rw [List.foldl_cons, ih (Hank.wf_setTileRow hw t r.1 r.2) hrs hd, Hank.tileRow_setTileRow hw _ hr0 hi,
      Hank.tileRow_setTileRow hw _ hr0 hi]
    by_cases ht : t' = t
    · by_cases hir : i = r.1
      · have hnone : rows.find? (fun x => x.1 == i) = none := by
          rw [List.find?_eq_none]
          intro x hx hxi
          exact hnew (hir ▸ beq_iff_eq.1 hxi ▸ List.mem_map_of_mem hx)
        simp [ht, hir ▸ hnone, hir]
      · rw [List.find?_cons, beq_false_of_ne (Ne.symm hir)]
        simp [ht, hir]
    · simp [ht]

/-- Rows put in a tile leave everything of the hank but its tiles. -/
theorem Hank.foldl_setTileRow_frame (t : Nat) (rows : List (Nat × BitVec 1024)) (h : Hank) :
    { rows.foldl (fun h r => h.setTileRow t r.1 r.2) h with tiles := h.tiles } = h := by
  have hf (k : Hank) (hk : { k with tiles := h.tiles } = h) :
      { rows.foldl (fun h r => h.setTileRow t r.1 r.2) k with tiles := h.tiles } = h := by
    induction rows generalizing k with
    | nil => exact hk
    | cons r rows ih => exact ih _ hk
  exact hf h rfl

/-- Settles O18: a row of a result is the old row updated by the values of its elements, the counts are those of all elements, and the
rows of a result go into the tile one by one. -/
theorem tileWritesAreExact : Obligations.TileWritesAreExact := by
  refine ⟨fun dst w f _ => ⟨fun i hi => ?row, tileMap_ev dst w f⟩, fun h t rows hw hr hd =>
    ⟨fun t' i hi => Hank.tileRow_foldl_setTileRow hw hr hd hi, Hank.foldl_setTileRow_frame t rows h⟩⟩
  case row =>
    rw [tileMap_rows, find?_tileMapRow, if_pos (List.mem_range.2 hi)]
    by_cases hn : ∀ j < 1024 / w, f i j = none
    · rw [show tileMapRow dst w f i = none from if_pos hn]
      exact hn
    · rw [show tileMapRow dst w f i = some (i, _) from if_neg hn]
      refine ⟨by simpa using hn, fun j hj => ?_⟩
      rw [rowElem_rowUpdate _ _ hj]
      cases f i j <;> rfl

end Sys2Proof.Machine
end

section
/-! SUPPORT. Rows of mask tiles: the bits that the elements of a comparison set, and what is read after the rows are written. -/

namespace Sys2Proof.Machine

open Sys2Proof

/-! ### Bits of a row (R176, R187) -/

theorem setBits_one (m k : Nat) (b : Bool) : setBits m k 1 (b2n b) = 2 ^ k * (2 * (m / 2 ^ k / 2) + b2n b) + m % 2 ^ k := by
  have hb : b2n b % 2 = b2n b := by cases b <;> rfl
  have hm : m = 2 ^ k * (2 * (m / 2 ^ k / 2)) + m / 2 ^ k % 2 * 2 ^ k + m % 2 ^ k := by
    conv_lhs => rw [← Nat.div_add_mod m (2 ^ k), ← Nat.div_add_mod (m / 2 ^ k) 2]
    ring
  rw [setBits, pow_one, hb, Nat.mul_add, Nat.mul_comm (2 ^ k) (b2n b)]
  omega

theorem testBit_setBits_one (m k : Nat) (b : Bool) (i : Nat) : (setBits m k 1 (b2n b)).testBit i = if i = k then b else m.testBit i := by
  have hr : m % 2 ^ k < 2 ^ k := Nat.mod_lt _ (Nat.two_pow_pos k)
  have hm : m.testBit i = if i < k then (m % 2 ^ k).testBit i else (m / 2 ^ k).testBit (i - k) := by
    rw [← Nat.testBit_two_pow_mul_add _ hr, Nat.div_add_mod]
  rw [setBits_one, Nat.testBit_two_pow_mul_add _ hr, hm]
  obtain hi | rfl | hi := Nat.lt_trichotomy i k
  · simp [hi, Nat.ne_of_lt hi]
  · cases b <;> simp [b2n]
  · have hb : (2 * (m / 2 ^ k / 2) + b2n b) / 2 = m / 2 ^ k / 2 := by have := b2n_lt b; omega
    obtain ⟨n, hn⟩ := Nat.exists_eq_add_of_lt hi
    rw [if_neg (Nat.not_lt_of_gt hi), if_neg (Nat.ne_of_gt hi), if_neg (Nat.not_lt_of_gt hi), hn, Nat.add_assoc, Nat.add_sub_cancel_left,
      Nat.testBit_succ, Nat.testBit_succ, hb]

/-- Bits set one after another to one value. -/
theorem testBit_foldl_setBits (l : List Nat) (m : Nat) (b : Bool) (i : Nat) :
    (l.foldl (fun m k => setBits m k 1 (b2n b)) m).testBit i = if i ∈ l then b else m.testBit i := by
  induction l generalizing m with
  | nil => rfl
  | cons k l ih =>
    rw [List.foldl_cons, ih, testBit_setBits_one]
    by_cases hl : i ∈ l <;> by_cases hk : i = k <;> simp [hl, hk]

theorem tyBytes_cases (ty : Nat) : tyBytes ty = 2 ∨ tyBytes ty = 4 ∨ tyBytes ty = 8 := by
  unfold tyBytes
  split <;> simp

/-- The mask bits of an element are those whose bytes it holds. -/
theorem mem_elemMaskBits {nb : Nat} (hn : nb = 2 ∨ nb = 4 ∨ nb = 8) {j k : Nat} : k ∈ elemMaskBits nb j ↔ j = 2 * k / nb := by
  simp only [elemMaskBits, List.mem_map, List.mem_range]
  constructor
  · rintro ⟨x, hx, rfl⟩
    rcases hn with rfl | rfl | rfl <;> omega
  · rintro rfl
    refine ⟨2 * k % nb, Nat.mod_lt _ (by omega), ?_⟩
    rw [Nat.div_add_mod' , Nat.mul_div_cancel_left k Nat.two_pos]

/-- A row of a mask in which the bits of every element with a result take it. -/
def maskUpdate (nb : Nat) (g : Nat → Option Bool) (js : List Nat) (old : Nat) : Nat :=
  js.foldl (fun m j => (g j).elim m (fun b => (elemMaskBits nb j).foldl (fun m k => setBits m k 1 (b2n b)) m)) old

theorem testBit_maskUpdate {nb : Nat} (hn : nb = 2 ∨ nb = 4 ∨ nb = 8) (g : Nat → Option Bool) (js : List Nat) (old i : Nat) :
    (maskUpdate nb g js old).testBit i = if 2 * i / nb ∈ js then (g (2 * i / nb)).getD (old.testBit i) else old.testBit i := by
  unfold maskUpdate
  induction js generalizing old with
  | nil => rfl
  | cons j js ih =>
    rw [List.foldl_cons, ih]
    by_cases hj : 2 * i / nb = j
    · subst hj
      cases hg : g (2 * i / nb) <;> simp [testBit_foldl_setBits, mem_elemMaskBits hn]
    · have hne : j ≠ 2 * i / nb := Ne.symm hj
      cases hg : g j <;> simp [testBit_foldl_setBits, mem_elemMaskBits hn, hj, hne]

/-! ### Mask tiles after a write (R177) -/

/-- Rows of a mask tile written one after another. -/
def Hank.setMaskRows (h : Hank) (x : Nat) (row : Nat → BitVec 64) (l : List Nat) : Hank :=
  l.foldl (fun h i => h.setMaskRow x i (row i)) h

theorem Hank.maskRow_setMaskRow {h : Hank} (hw : Tbl.wf 0 h.masks = true) {x r m i : Nat} (hx : 0 < x) (v : BitVec 64) (hr : r < 32)
    (hm : 0 < m) (hi : i < 32) : (h.setMaskRow x r v).maskRow m i = if m = x ∧ i = r then v else h.maskRow m i := by
  have hk : 32 * m + i = 32 * x + r ↔ m = x ∧ i = r := by omega
  simp only [Hank.maskRow, Hank.setMaskRow, Nat.ne_of_gt hx, Nat.ne_of_gt hm, if_false, Tbl.get_set _ _ _ _ _ hw, hk]

theorem Hank.wf_setMaskRow {h : Hank} (hw : Tbl.wf 0 h.masks = true) (x r : Nat) (v : BitVec 64) :
    Tbl.wf 0 (h.setMaskRow x r v).masks = true := by
  unfold Hank.setMaskRow
  split
  · exact hw
  · exact Tbl.wf_set _ _ _ _ hw

theorem Hank.maskRow_setMaskRows {h : Hank} (hw : Tbl.wf 0 h.masks = true) {x m i : Nat} (hx : 0 < x) (row : Nat → BitVec 64)
    {l : List Nat} (hl : ∀ r ∈ l, r < 32) (hm : 0 < m) (hi : i < 32) :
    (h.setMaskRows x row l).maskRow m i = if m = x ∧ i ∈ l then row i else h.maskRow m i := by
  unfold Hank.setMaskRows
  induction l generalizing h with
  | nil => simp
  | cons r l ih =>
    obtain ⟨hr, hl⟩ := List.forall_mem_cons.1 hl
    rw [List.foldl_cons, ih (Hank.wf_setMaskRow hw x r _) hl, Hank.maskRow_setMaskRow hw hx _ hr hm hi]
    by_cases hmx : m = x <;> by_cases hil : i ∈ l <;> by_cases hir : i = r <;> simp [hmx, hil, hir]

/-- Two results gathered side by side. -/
theorem foldl_pair {α β γ : Type} (f : β → α → β) (g : γ → α → γ) (l : List α) (b : β) (c : γ) :
    l.foldl (fun p a => (f p.1 a, g p.2 a)) (b, c) = (l.foldl f b, l.foldl g c) := by
  induction l generalizing b c with
  | nil => rfl
  | cons a l ih => exact ih ..

/-- The rows of a mask and the counts of their elements, row by row. -/
theorem foldl_maskRows {x w : Nat} {row : Nat → BitVec 64} {cell : Nat → Nat → Option (Bool × Ev)} {step : Hank × Ev → Nat → Hank × Ev}
    (hs : ∀ p i, step p i = (p.1.setMaskRow x i (row i), (rowEvents w cell i).foldl Ev.add p.2)) (l : List Nat) (h : Hank) :
    l.foldl step (h, {}) = (h.setMaskRows x row l, Ev.sum (l.flatMap (rowEvents w cell))) := by
  rw [funext fun p => funext (hs p), Ev.sum, List.foldl_flatMap]
  exact foldl_pair (fun h i => h.setMaskRow x i (row i)) (fun e i => (rowEvents w cell i).foldl Ev.add e) l h {}

end Sys2Proof.Machine
end

section
/-! SUPPORT. Tile instructions that pass their checks, with no copy in flight: what each comes to. -/

namespace Sys2Proof.Machine

open Sys2Proof

/-! ### Active and enabled elements (R172, R176) -/

theorem elemActive_iff {vl nb j : Nat} : elemActive vl nb j = true ↔ (j + 1) * nb ≤ 4 * vl := decide_eq_true_iff

/-- An element is computed where it is active and its mask bit enables it. -/
theorem elemGoverned_iff {h : Hank} {vl mg i nb j : Nat} :
    (elemActive vl nb j && h.elemOn mg i nb j) = true ↔ (j + 1) * nb ≤ 4 * vl ∧ (h.maskRow mg i).getLsbD (j * nb / 2) = true := by
  rw [Bool.and_eq_true, elemActive_iff, Hank.elemOn]

/-- An element of 4 bytes is governed by mask bit 2j. -/
theorem wordGoverned_iff {h : Hank} {vl mg i j : Nat} :
    (elemActive vl 4 j && h.elemOn mg i 4 j) = true ↔ (j + 1) * 4 ≤ 4 * vl ∧ (h.maskRow mg i).getLsbD (2 * j) = true := by
  rw [elemGoverned_iff, show j * 4 / 2 = 2 * j by omega]

/-- Tiles read by TEW and TCMP (R181). -/
theorem tewReads_eq (f : FmtT) (a b : Bool) :
    tewReads f a b = (if a = true then [f.y] else []) ++ (if b = true ∧ f.mode < 3 then [f.z] else []) := by
  simp [tewReads]

/-- A group-wide instruction of a strand inside a collective region with every lane active passes (R250). -/
theorem collCheck_of_together {c : Ctx} (h : Together c) : collCheck c.t = .ok () := by
  obtain ⟨hd, ha⟩ := h
  simp [collCheck, ha, hd, bind, Except.bind]

/-! ### Elements computed (R180, R187, R198 to R203) -/

/-- The element that TEW computes. -/
def tewElem (c : Ctx) (f : FmtT) (i j : Nat) : Option (Nat × Ev) :=
  if elemActive c.t.vl (tyBytes f.ty) j && c.hank.elemOn f.mg i (tyBytes f.ty) j then
    some (tyOp f.ty f.sub f.rm (rowElem (c.hank.tileRow f.y i) (8 * tyBytes f.ty) j) (tewB c.hank c.t f (8 * tyBytes f.ty) i j)
      (rowElem (c.hank.tileRow f.x i) (8 * tyBytes f.ty) j))
  else none

/-- The source element that TCVT converts into element j: none outside the segment (R203). -/
def cvtFrom (f : FmtT) (j : Nat) : Option Nat :=
  if 1024 / (cvtFmt (f.sub % 8)).width ≤ 1024 / (cvtFmt (f.sub / 8 % 8)).width then
    (if f.seg * (1024 / (cvtFmt (f.sub % 8)).width) ≤ j ∧ j < f.seg * (1024 / (cvtFmt (f.sub % 8)).width) + 1024 / (cvtFmt (f.sub % 8)).width
      then some (j - f.seg * (1024 / (cvtFmt (f.sub % 8)).width)) else none)
  else some (f.seg * (1024 / (cvtFmt (f.sub / 8 % 8)).width) + j)

/-- The element that TCVT computes: active on the wider side, enabled at the destination. -/
def cvtElem (c : Ctx) (f : FmtT) (i j : Nat) : Option (Nat × Ev) :=
  (cvtFrom f j).bind (fun k =>
    if (if (cvtFmt (f.sub / 8 % 8)).width ≤ (cvtFmt (f.sub % 8)).width then elemActive c.t.vl ((cvtFmt (f.sub % 8)).width / 8) k
        else elemActive c.t.vl ((cvtFmt (f.sub / 8 % 8)).width / 8) j) && c.hank.elemOn f.mg i ((cvtFmt (f.sub / 8 % 8)).width / 8) j then
      some (convert (cvtFmt (f.sub % 8)) (cvtFmt (f.sub / 8 % 8)) f.rm f.sat
        (rowElem (c.hank.tileRow f.y i) (cvtFmt (f.sub % 8)).width k))
    else none)

/-- The element that TCMP compares. -/
def cmpElem (c : Ctx) (f : FmtT) (i j : Nat) : Option (Bool × Ev) :=
  if elemActive c.t.vl (tyBytes f.ty) j && c.hank.elemOn f.mg i (tyBytes f.ty) j then
    some (tyCmp f.ty f.sub (rowElem (c.hank.tileRow f.y i) (8 * tyBytes f.ty) j) (tewB c.hank c.t f (8 * tyBytes f.ty) i j))
  else none

/-- The row of M[x] that TCMP leaves. -/
def cmpRow (c : Ctx) (f : FmtT) (i : Nat) : BitVec 64 :=
  BitVec.ofNat 64 (maskUpdate (tyBytes f.ty) (fun j => (cmpElem c f i j).map (·.1)) (List.range (1024 / (8 * tyBytes f.ty)))
    (c.hank.maskRow f.x i).toNat)

/-- The bits of a mask row that TCMP leaves: an element's result in all its bits, the old bit where the element has none (R176, R187). -/
theorem getLsbD_cmpRow (c : Ctx) (f : FmtT) (i : Nat) {k : Nat} (hk : k < 64) : (cmpRow c f i).getLsbD k =
    ((cmpElem c f i (2 * k / tyBytes f.ty)).map (·.1)).getD ((c.hank.maskRow f.x i).getLsbD k) := by
  have hj : 2 * k / tyBytes f.ty < 1024 / (8 * tyBytes f.ty) := by
    rcases tyBytes_cases f.ty with h | h | h <;> rw [h] <;> omega
  rw [cmpRow, BitVec.getLsbD_ofNat, testBit_maskUpdate (tyBytes_cases f.ty), if_pos (List.mem_range.2 hj), decide_eq_true hk, Bool.true_and]
  rfl

/-- The width of the elements that TQNT reads and TCVT.DQ writes: BF16 or FP32. -/
def quantBits (f : FmtT) : Nat := if f.ty == 2 then 16 else 32

/-- A source row quantized: its blocks, its range-watch events and its flushed inputs. -/
def quantSrc (c : Ctx) (f : FmtT) (i : Nat) : List (Nat × Nat) × RangeEv × Nat :=
  quantRow (blkFmt f.sub) f.mode f.rm (f.ty == 2) ((List.range (1024 / quantBits f)).map (rowElem (c.hank.tileRow f.y i) (quantBits f)))

/-- The row and the side-file row of Td with those blocks in the segment's place. -/
def quantPut (c : Ctx) (f : FmtT) (i : Nat) : BitVec 1024 × BitVec 256 :=
  putBlocks (blkFmt f.sub) (f.seg * blocksQ f.sub (f.ty == 2)) (c.hank.tileRow f.x i) (c.hank.sideRow f.x i) (quantSrc c f i).1

/-- What TQNT leaves of a hank before it writes the tile: the scale bytes in the side-file, and the range-watch events counted. -/
def quantSides (c : Ctx) (f : FmtT) (h : Hank) : Hank :=
  { (List.range 32).foldl (fun h i => h.setSideRow f.x i (quantPut c f i).2) h with
    range := h.range.count ((List.range 32).foldl (fun a i => a.add (quantSrc c f i).2.1) {}) }

theorem Hank.foldl_setSideRow_range (t : Nat) (v : Nat → BitVec 256) (l : List Nat) (h : Hank) :
    (l.foldl (fun h i => h.setSideRow t i (v i)) h).range = h.range := by
  induction l generalizing h with
  | nil => rfl
  | cons i l ih => exact (ih _).trans rfl

theorem blockLegal_of {f : FmtT} (hs : f.sub < 7) (hty : f.ty = 1 ∨ f.ty = 2) (hr : f.rm < 5)
    (hg : f.seg < (blkFmt f.sub).blocksPerRow / blocksQ f.sub (f.ty == 2)) : blockLegal f = true := by
  simp [blockLegal, hs, hty, hr, hg]

/-- The element that TCVT.DQ computes: the dequantized code of its block with that block's scale byte (R202). -/
def dequantElem (c : Ctx) (f : FmtT) (i j : Nat) : Option (Nat × Ev) :=
  some (dequant (blkFmt f.sub) (f.ty == 2) f.rm
    (c.hank.sideByte f.y i (f.seg * blocksQ f.sub (f.ty == 2) + j / (blkFmt f.sub).blockLen))
    (bits (c.hank.tileRow f.y i).toNat (8 * (blkFmt f.sub).fieldBytes * (f.seg * blocksQ f.sub (f.ty == 2) + j / (blkFmt f.sub).blockLen) +
      (blkFmt f.sub).width * (j % (blkFmt f.sub).blockLen)) (blkFmt f.sub).width))

/-! ### TZERO, TSETVL and TSTAT (R173, R210, R233) -/

section

variable {s : State} {u slot : Nat} {f : FmtT} {c : Ctx} (hc : s.ctx u slot = some c)
include hc

/-- No reader of a tile sees a copy in flight. -/
theorem State.ctx_viewTiles (hcp : (s.unit u).copies = []) (ts : List Nat) : s.viewTiles c ts = (c.hank, s) :=
  State.viewTiles_idle (State.ctx_u hc ▸ hcp) ts

theorem execTzero_ok (hl : ({ x := true } : ShapeT).legal f = true) (ht : tilesFit c [f.x] [] = true)
    (hb : (s.unit u).mmaBlocks c.hank [] [f.x] = false) :
    execTzero u slot f s =
      .next (((s.tileWrite c f.x { rows := (List.range 32).map (fun i => (i, 0)) }).retire c c.t.advance).took u slot) := by
  refine congrArg Host.Outcome.next (State.issue_ok hc ?_)
  simp [hl, ht, hb, bind, Except.bind]

theorem execTsetvl_ok (hl : ({ u := true, sub := 6, mode := 1 } : ShapeT).legal f = true) :
    execTsetvl u slot f s = .next ((s.retire c { (c.t.advance.wrU f.u (vlOf (if f.mode = 1 then c.t.rdU f.sub else f.sub))) with
      vl := vlOf (if f.mode = 1 then c.t.rdU f.sub else f.sub) }).took u slot) := by
  refine congrArg Host.Outcome.next (State.issue_ok hc ?_)
  simp [hl, bind, Except.bind]

theorem execTstat_ok (hcp : (s.unit u).copies = []) (hl : ({ u := true, sub := 4 } : ShapeT).legal f = true) (hs : f.sub < 10)
    (hq : ∀ m ∈ (s.unit u).mmaQ, m.slot ≠ slot) :
    execTstat u slot f s = .next ((s.retire c (c.t.advance.wrU f.u ((s.unit u).vts.nth f.sub))).took u slot) := by
  refine congrArg Host.Outcome.next (State.issue_ok hc ?_)
  have hmma : (s.unit u).mmaQ.any (fun m => m.slot == slot) = false := by simpa using hq
  simp [hl, hs, hmma, hcp, bind, Except.bind]

/-! ### TEW and TCVT (R180, R203) -/

theorem execTew_ok (hcp : (s.unit u).copies = [])
    (hl : ({ x := true, y := true, z := true, mg := true, u := true, sub := 6, ty := true, rm := true, mode := 2 } : ShapeT).legal f = true)
    (ha : tyAccepts f.ty f.sub = true) (hr : f.rm < 5) (ht : tilesFit c (f.x :: tewReads f (f.sub != 0) (!tewUnary f.sub)) [f.mg] = true)
    (hb : (s.unit u).mmaBlocks c.hank (tewReads f (f.sub != 0) (!tewUnary f.sub) ++ (if f.sub = 4 then [f.x] else [])) [f.x] = false) :
    execTew u slot f s = .next (((s.tileWrite c f.x (tileMap (c.hank.tileRow f.x) (8 * tyBytes f.ty) (tewElem c f))).retire c
      c.t.advance).took u slot) := by
  refine congrArg Host.Outcome.next (State.issue_ok hc ?_)
  simp only [hl, ha, hr, ht, hb, State.ctx_viewTiles hc hcp, decide_true, Bool.and_self, need_true, bind, Except.bind,
    Bool.false_eq_true, if_false]
  rfl

theorem execTcvt_ok (hcp : (s.unit u).copies = [])
    (hl : ({ x := true, y := true, mg := true, sub := 6, seg := true, rm := true, sat := true } : ShapeT).legal f = true) (hr : f.rm < 5)
    (hs : f.seg < max (cvtFmt (f.sub % 8)).width (cvtFmt (f.sub / 8 % 8)).width / min (cvtFmt (f.sub % 8)).width (cvtFmt (f.sub / 8 % 8)).width)
    (ht : tilesFit c [f.x, f.y] [f.mg] = true) (hb : (s.unit u).mmaBlocks c.hank [f.y] [f.x] = false) :
    execTcvt u slot f s = .next (((s.tileWrite c f.x (tileMap (c.hank.tileRow f.x) (cvtFmt (f.sub / 8 % 8)).width (cvtElem c f))).retire c
      c.t.advance).took u slot) := by
  refine congrArg Host.Outcome.next (State.issue_ok hc ?_)
  simp only [hl, hr, hs, ht, hb, State.ctx_viewTiles hc hcp, decide_true, Bool.and_self, need_true, bind, Except.bind,
    Bool.false_eq_true, if_false]
  rfl

/-! ### TCMP and TMSK (R187, R188) -/

theorem execTcmp_ok (hcp : (s.unit u).copies = [])
    (hl : ({ x := true, y := true, z := true, mg := true, u := true, sub := 3, ty := true, mode := 2 } : ShapeT).legal f = true)
    (hty : f.ty < 5) (hx : 0 < f.x) (hx' : f.x < 8) (ht : tilesFit c (tewReads f true true) [f.x, f.mg] = true)
    (hb : (s.unit u).mmaBlocks c.hank (tewReads f true true) [] = false) :
    execTcmp u slot f s = .next ((((s.onHank c (fun h =>
      { h with masks := (c.hank.setMaskRows f.x (cmpRow c f) (List.range 32)).masks })).countVts u
      (Ev.sum ((List.range 32).flatMap (rowEvents (8 * tyBytes f.ty) (cmpElem c f))))).retire c c.t.advance).took u slot) := by
  refine congrArg Host.Outcome.next (State.issue_ok hc ?_)
  simp only [hl, hty, hx, hx', ht, hb, State.ctx_viewTiles hc hcp, decide_true, Bool.and_self, need_true, bind, Except.bind,
    Bool.false_eq_true, if_false]
  rw [foldl_maskRows (x := f.x) (row := cmpRow c f) (w := 8 * tyBytes f.ty) (cell := cmpElem c f) fun acc i => Prod.ext ?mask ?counts]
  case mask =>
    simp only [List.foldl_map, cmpRow, maskUpdate]
    congr
    funext m j
    simp only [cmpElem]
    split_ifs <;> rfl
  case counts =>
    simp only [List.foldl_map]
    refine foldl_rowEvents (fun a j => ?_) _
    simp only [cmpElem]
    split_ifs <;> rfl

theorem execTmsk_ok (hl : ({ x := true, y := true, z := true, sub := 4 } : ShapeT).legal f = true) (hs : f.sub < 7) (hx : 0 < f.x)
    (hx' : f.x < 8) (hy : f.y < 8) (hz : f.z < 8) (ht : tilesFit c [] [f.x, f.y, f.z] = true) :
    execTmsk u slot f s = .next (((s.onHank c (fun k => { k with masks := (c.hank.setMaskRows f.x
      (fun i => maskOp f.sub (c.hank.maskRow f.y i) (c.hank.maskRow f.z i)) (List.range 32)).masks })).retire c c.t.advance).took u slot) := by
  refine congrArg Host.Outcome.next (State.issue_ok hc ?_)
  simp only [hl, hs, hx, hx', hy, hz, ht, decide_true, Bool.and_self, need_true, bind, Except.bind]
  rfl

/-! ### Reductions and permutes (R189 to R197) -/

theorem tred_ok (result : Ctx → Hank → TileOut) (hcp : (s.unit u).copies = [])
    (hl : ({ x := true, y := true, mg := true, sub := 3, ty := true } : ShapeT).legal f = true) (hs : f.sub < 3) (hty : f.ty < 5)
    (ht : tilesFit c [f.x, f.y] [f.mg] = true) (hg : Together c) (hb : (s.unit u).mmaBlocks c.hank [f.y] [f.x] = false) :
    tred u slot f result s = ((s.tileWrite c f.x (result c c.hank)).retire c c.t.advance).took u slot := by
  refine State.issue_ok hc ?_
  simp only [hl, hs, hty, ht, hb, collCheck_of_together hg, State.ctx_viewTiles hc hcp, decide_true, Bool.and_self, need_true, bind, Except.bind,
    Bool.false_eq_true, if_false]

theorem tperm_ok {index : Bool} (elem : Ctx → Hank → Nat → Nat → Nat × Bool) (hcp : (s.unit u).copies = [])
    (hl : ({ x := true, y := true, z := index, mg := true } : ShapeT).legal f = true)
    (ht : tilesFit c (f.x :: if index then [f.y, f.z] else [f.y]) [f.mg] = true)
    (hb : (s.unit u).mmaBlocks c.hank (if index then [f.y, f.z] else [f.y]) [f.x] = false) :
    tperm index u slot f elem s = ((s.tileWrite c f.x (tileMap (c.hank.tileRow f.x) 32 (fun i j =>
      if elemActive c.t.vl 4 j && c.hank.elemOn f.mg i 4 j then
        some ((elem c c.hank i j).1, { indexRange := b2n (elem c c.hank i j).2 }) else none))).retire c c.t.advance).took u slot := by
  refine State.issue_ok hc ?_
  simp only [hl, ht, hb, State.ctx_viewTiles hc hcp, need_true, bind, Except.bind, Bool.false_eq_true, if_false]

/-! ### Quantization (R198 to R202) -/

theorem execTqnt_ok (hw : Tbl.wf {} s.units = true) (hcp : (s.unit u).copies = [])
    (hl : ({ x := true, y := true, sub := 3, ty := true, seg := true, mode := 2, rm := true } : ShapeT).legal f = true)
    (hk : blockLegal f = true) (hm : f.sub = 6 → f.mode < 2) (hfe : f.sub = 6 → c.cmd.features.getLsbD 6 = true)
    (ht : tilesFit c [f.x, f.y] [] = true) (hg : Together c) (hb : (s.unit u).mmaBlocks c.hank [f.y] [f.x] = false) :
    execTqnt u slot f s = .next ((((s.onHank c (quantSides c f)).tileWrite c f.x
      { rows := (List.range 32).map (fun i => (i, (quantPut c f i).1)),
        ev := { flushIn := (List.range 32).foldl (fun a i => a + (quantSrc c f i).2.2) 0 } }).retire c c.t.advance).took u slot) := by
  refine congrArg Host.Outcome.next (State.issue_ok hc ?_)
  have hm' : (f.sub != 6 || decide (f.mode < 2)) = true := by simpa [imp_iff_not_or] using hm
  have hfe' : (f.sub != 6 || c.cmd.features.getLsbD 6) = true := by simpa [imp_iff_not_or] using hfe
  have htouch (F : Hank → Hank) (rows : List Nat) : (s.onHank c F).touchTile c f.x rows true = s.onHank c F :=
    State.touchTile_idle (by rw [State.onHank_copies F hw, State.ctx_u hc, hcp]) ..
  simp only [hl, hk, hm', hfe', ht, hb, collCheck_of_together hg, State.ctx_viewTiles hc hcp, htouch, List.foldl_map, List.map_map,
    Hank.foldl_setSideRow_range, Bool.and_self, need_true, bind, Except.bind, Bool.false_eq_true, if_false]
  rfl

theorem execTcvtDq_ok (hcp : (s.unit u).copies = [])
    (hl : ({ x := true, y := true, sub := 3, ty := true, seg := true, rm := true } : ShapeT).legal f = true)
    (hk : blockLegal f = true) (hfe : f.sub = 6 → c.cmd.features.getLsbD 6 = true)
    (ht : tilesFit c [f.x, f.y] [] = true) (hb : (s.unit u).mmaBlocks c.hank [f.y] [f.x] = false) :
    execTcvtDq u slot f s = .next (((s.tileWrite c f.x (tileMap (c.hank.tileRow f.x) (quantBits f) (dequantElem c f))).retire c
      c.t.advance).took u slot) := by
  refine congrArg Host.Outcome.next (State.issue_ok hc ?_)
  have hfe' : (f.sub != 6 || c.cmd.features.getLsbD 6) = true := by simpa [imp_iff_not_or] using hfe
  simp only [hl, hk, hfe', ht, hb, State.ctx_viewTiles hc hcp, Bool.and_self, need_true, bind, Except.bind, Bool.false_eq_true, if_false]
  rfl

end

/-- Settles O14: each instruction by the lemma that says what it comes to, and the bits that TCMP leaves by those of its rows. -/
theorem tileElementOperations : Obligations.TileElementOperations := by
  intro u slot f s c hc hcp
  refine ⟨?tzero, ?tsetvl, ?tew, ?tcmp, ?tmsk, ?tcvt, ?tstat⟩
  case tzero => exact fun hl hx hb => execTzero_ok hc hl (by simpa [tilesFit] using hx) hb
  case tsetvl => exact fun hl => execTsetvl_ok hc hl
  case tew =>
    intro hl ha hr reads ht hb
    have hreads : reads = tewReads f (f.sub != 0) (!tewUnary f.sub) := by simp [reads, tewReads_eq]
    simp only [← elemGoverned_iff]
    exact execTew_ok hc hcp hl ha hr (hreads ▸ ht) (hreads ▸ hb)
  case tcmp =>
    intro hl hty hx hx' reads ht hb cell
    have hreads : reads = tewReads f true true := by simp [reads, tewReads_eq]
    have hcell : cell = cmpElem c f := by
      funext i j
      simp only [cell, ← elemGoverned_iff]
      rfl
    refine ⟨(c.hank.setMaskRows f.x (cmpRow c f) (List.range 32)).masks, ?_, fun hw m i k hi hk hm => ?_⟩
    · rw [hcell]
      exact execTcmp_ok hc hcp hl hty hx hx' (hreads ▸ ht) (hreads ▸ hb)
    · have hrow := Hank.maskRow_setMaskRows hw hx (cmpRow c f) (fun r hr => List.mem_range.1 hr) hm hi
      rw [hcell, show ({ c.hank with masks := _ } : Hank).maskRow m i = _ from hrow]
      by_cases hmx : m = f.x
      · rw [if_pos ⟨hmx, List.mem_range.2 hi⟩, if_pos hmx, getLsbD_cmpRow c f i hk, hmx]
        cases cmpElem c f i (2 * k / tyBytes f.ty) <;> rfl
      · rw [if_neg (fun h => hmx h.1), if_neg hmx]
  case tmsk => exact fun hl hs hx hx' hy hz ht => execTmsk_ok hc hl hs hx hx' hy hz ht
  case tcvt =>
    intro src dst es ed hl hr hs ht hb
    simp only [← Bool.and_eq_true]
    exact execTcvt_ok hc hcp hl hr hs ht hb
  case tstat => exact fun hl hs hq => execTstat_ok hc hcp hl hs hq

/-- Settles O15: a reduction and a permute are each one instruction over the elements that they give (`tred_ok`, `tperm_ok`). -/
theorem tileReductionsAndPermutes : Obligations.TileReductionsAndPermutes := by
  intro u slot f s c hc hcp h free go nb n wide src on pick
  have hsrc : src = redElem c h f := by
    funext i j
    simp only [src, ← elemGoverned_iff]
    rfl
  have hpick (el : Nat → Nat → Nat × Bool) : pick el = go (tileMap (h.tileRow f.x) 32 (fun i j =>
      if elemActive c.t.vl 4 j && h.elemOn f.mg i 4 j then some ((el i j).1, { indexRange := b2n (el i j).2 }) else none)) := by
    simp only [pick, on, ← wordGoverned_iff]
    rfl
  refine ⟨?reduce, ?index, ?transpose⟩
  case reduce =>
    intro hl hs hty ht hg hb
    have hcol (i k : Nat) : (decide (i * (1024 / wide) + k < n) && elemActive c.t.vl nb (i * (1024 / wide) + k)) = true ↔
        i * (1024 / wide) + k < n ∧ (i * (1024 / wide) + k + 1) * nb ≤ 4 * c.t.vl := by
      rw [Bool.and_eq_true, decide_eq_true_iff, elemActive_iff]
    simp only [hsrc, ← hcol]
    exact ⟨congrArg Host.Outcome.next (tred_ok hc _ hcp hl hs hty ht hg hb),
      congrArg Host.Outcome.next (tred_ok hc _ hcp hl hs hty ht hg hb)⟩
  case index =>
    intro hl ht hb
    simp only [hpick]
    exact ⟨congrArg Host.Outcome.next (tperm_ok hc _ hcp hl ht hb), congrArg Host.Outcome.next (tperm_ok hc _ hcp hl ht hb)⟩
  case transpose =>
    intro hl ht hb
    simp only [hpick]
    exact congrArg Host.Outcome.next (tperm_ok (index := false) hc _ hcp hl ht hb)

/-- Settles O16: both instructions pass their checks; the quantized blocks and the dequantized elements are those of their rows. -/
theorem tileQuantization : Obligations.TileQuantization := by
  intro u slot f s c hT hc hcp h b bf w q legal
  have hbits : quantBits f = w := by simp [quantBits, w]
  have hq : blocksQ f.sub (f.ty == 2) = q := by simp [blocksQ, q]
  refine ⟨?tqnt, ?dq⟩
  case tqnt =>
    simp only [← hbits, ← hq]
    rintro hl ⟨hs, hty, hr, hg, hfe, ht, hb⟩ hm htog
    exact execTqnt_ok hc hT.1 hcp hl (blockLegal_of hs hty hr (hq ▸ hg)) hm hfe ht htog hb
  case dq =>
    simp only [← hbits, ← hq]
    rintro hl ⟨hs, hty, hr, hg, hfe, ht, hb⟩
    exact execTcvtDq_ok hc hcp hl (blockLegal_of hs hty hr (hq ▸ hg)) hfe ht hb

end Sys2Proof.Machine
end

section
/-! SUPPORT. The control instructions of a strand, its divergence stack and its collective regions: what each comes to. -/

namespace Sys2Proof.Machine

open Sys2Proof

/-! ### Checks -/

/-- A check that passes lets what follows go on. -/
theorem need_bind {α : Type} {p : Bool} (h : p = true) (e : Stop) (k : Unit → Except Stop α) : (need p e >>= k) = k () := by
  rw [h]; rfl

/-- A check that fails stops what follows. -/
theorem need_stop {α : Type} {p : Bool} (h : p = false) (e : Stop) (k : Unit → Except Stop α) : (need p e >>= k) = .error e := by
  rw [h]; rfl

/-! ### Checks of a control instruction (R231, R235) -/

theorem Strand.push_pc {t t' : Strand} {blocks : Nat} {e : DivEntry} (h : t.push blocks e = some t') : t'.pc = t.pc := by
  unfold Strand.push at h
  split at h
  next => cases h; rfl
  next =>
    split at h
    next => cases h; rfl
    next => cases h

section

variable {u slot regMax : Nat} {f : FmtB} {usesReg usesTarget : Bool} {body : Ctx → Except Stop Strand} {s : State} {c : Ctx}
  (hc : s.ctx u slot = some c)
include hc

/-- A control instruction with a field that is not legal ends its launch with ILLEGAL. -/
theorem ctl_illegal (hl : bLegal usesReg usesTarget false regMax f = false) :
    ctl u slot f usesReg usesTarget regMax body s = (s.raise c 0x10 0x01 0 0).took u slot :=
  State.issue_cause hc (by rw [hl]; rfl)

theorem ctl_ok {t : Strand} (hl : bLegal usesReg usesTarget false regMax f = true) (hb : body c = .ok t) :
    ctl u slot f usesReg usesTarget regMax body s = (s.retire c t).took u slot :=
  State.issue_ok hc (by rw [hl, hb]; rfl)

theorem ctl_cause {st code kind a : Nat} (hl : bLegal usesReg usesTarget false regMax f = true)
    (hb : body c = .error (.cause st code kind a)) :
    ctl u slot f usesReg usesTarget regMax body s = (s.raise c st code kind a).took u slot :=
  State.issue_cause hc (by rw [hl, hb]; rfl)

/-- A control instruction that pushes an entry: it goes on with the strand, or ends its launch with DIV_DEPTH (R246, R247). -/
theorem ctl_push {blocks : Nat} {e : DivEntry} {g g' : Strand → Strand} (hl : bLegal usesReg usesTarget false regMax f = true)
    (hb : body c = orStop (c.t.push blocks e) divDepth >>= fun t => .ok (g t)) (hg : ∀ t, t.pc = c.t.pc → g t = g' t) :
    ctl u slot f usesReg usesTarget regMax body s =
      (match c.t.push blocks e with | some t => s.retire c (g' t) | none => s.raise c 0x10 0x03 0 0).took u slot := by
  cases hp : c.t.push blocks e with
  | none => exact ctl_cause hc hl (by rw [hb, hp]; rfl)
  | some t => exact (ctl_ok hc hl (by rw [hb, hp]; rfl)).trans (by rw [hg t (Strand.push_pc hp)])

end

/-- A guard makes every control instruction but EXIT illegal. -/
theorem bLegal_guarded {f : FmtB} (h : f.pg ≠ 0 ∨ f.pn = true) (usesReg usesTarget : Bool) (regMax : Nat) :
    bLegal usesReg usesTarget false regMax f = false := by
  rcases h with h | h <;> simp [bLegal, headOk, h]

/-- A word without a guard that uses neither REG nor, where it is zero, TARGET. -/
theorem bLegal_noReg {f : FmtB} {usesTarget : Bool} {regMax : Nat} (hg : f.pg = 0) (hn : f.pn = false) (hr : f.reg = 0)
    (ht : usesTarget = true ∨ f.target = 0) : bLegal false usesTarget false regMax f = true := by
  simpa [bLegal, headOk, hg, hn, hr] using ht

/-- A word without a guard whose REG is in range. -/
theorem bLegal_reg {f : FmtB} {usesTarget : Bool} {regMax : Nat} (hg : f.pg = 0) (hn : f.pn = false) (hr : f.reg < regMax)
    (ht : usesTarget = true ∨ f.target = 0) : bLegal true usesTarget false regMax f = true := by
  simpa [bLegal, headOk, hg, hn, hr] using ht

/-! ### Collective regions (R249) -/

/-- Settles O7: COLL.ENTER and COLL.EXIT, "COLL.ENTER with A = L = 0xFFFF_FFFF increments CD" and the four other cases of R249. -/
theorem collectiveRegions : Obligations.CollectiveRegions := by
  intro u slot f s c hc hg hn hr ht
  have hl : bLegal false false false 64 f = true := bLegal_noReg hg hn hr (.inr ht)
  refine ⟨fun ha hv hd => ?enter, fun hp => ?partly, fun ha hv hd => ?deep, fun hd => ?exit, fun hd => ?unbalanced⟩
  case enter =>
    exact congrArg _ (ctl_ok hc hl ((need_bind (by simp [ha, hv]) _ _).trans (need_bind (decide_eq_true hd) _ _)))
  case partly => exact congrArg _ (ctl_cause hc hl (need_stop (by simpa using hp) _ _))
  case deep =>
    exact congrArg _ (ctl_cause hc hl ((need_bind (by simp [ha, hv]) _ _).trans (need_stop (decide_eq_false (Nat.not_lt.2 hd)) _ _)))
  case exit => exact congrArg _ (ctl_ok hc hl (need_bind (decide_eq_true hd) _ _))
  case unbalanced => exact congrArg _ (ctl_cause hc hl (need_stop (by simp [hd]) _ _))

/-! ### The divergence stack (R245 to R247) -/

/-- No spilled block is empty or longer than 16 entries (R247). -/
def Strand.blocksFull (t : Strand) : Prop := ∀ b ∈ t.spilled, 0 < b.length ∧ b.length ≤ 16

/-- A strand with an entry's path taken: the entry's lanes that still live, at its target. -/
def Strand.onPath (t : Strand) (e : DivEntry) (stack : List DivEntry) (spilled : List (List DivEntry)) : Strand :=
  { t with active := e.mask &&& t.live, pc := e.target, stack := stack, spilled := spilled }

theorem Strand.pop_nil {t : Strand} (h : t.entries = []) : t.pop = none := by
  obtain ⟨hs, hq⟩ := List.append_eq_nil_iff.1 h
  simp only [Strand.pop, hs]
  split
  next hsp =>
    rw [hsp] at hq
    simp at hq
  next => rfl

/-- The newest entry is popped, and those below it remain in their order. -/
theorem Strand.pop_cons {t : Strand} {e : DivEntry} {rest : List DivEntry} (hb : t.blocksFull) (h : t.entries = e :: rest) :
    ∃ r q, t.pop = some (e, { t with stack := r, spilled := q }) ∧ r ++ q.flatten = rest ∧ ∀ b ∈ q, b ∈ t.spilled := by
  unfold Strand.pop
  unfold Strand.entries at h
  split
  next x r hs =>
    rw [hs, List.cons_append] at h
    obtain ⟨rfl, hr⟩ := List.cons.inj h
    exact ⟨r, t.spilled, rfl, hr, fun b hb => hb⟩
  next hs =>
    split
    next x r q hq =>
      rw [hs, hq, List.nil_append, List.flatten_cons, List.cons_append] at h
      obtain ⟨rfl, hr⟩ := List.cons.inj h
      exact ⟨r, q, rfl, hr, fun b hb => by rw [hq]; exact List.mem_cons_of_mem _ hb⟩
    next hn =>
      cases hq : t.spilled with
      | nil => simp [hs, hq] at h
      | cons b q =>
        cases b with
        | nil => exact absurd (hb [] (by simp [hq])).1 (by simp)
        | cons x r => exact (hn x r q hq).elim

theorem Strand.resume_nil {t : Strand} (h : t.entries = []) (n : Nat) : t.resume n = none := by
  cases n with
  | zero => rfl
  | succ n => simp only [Strand.resume, Strand.pop_nil h]

/-- A resume takes the newest entry's path, or drops the entry where none of its lanes lives. -/
theorem Strand.resume_cons {t : Strand} {e : DivEntry} {rest : List DivEntry} (hb : t.blocksFull) (h : t.entries = e :: rest) (n : Nat) :
    ∃ r q, r ++ q.flatten = rest ∧ (∀ b ∈ q, b ∈ t.spilled) ∧
      t.resume (n + 1) = if e.mask &&& t.live = 0 then (t.onPath e r q).resume n else some (t.onPath e r q) := by
  obtain ⟨r, q, hp, hr, hq⟩ := Strand.pop_cons hb h
  refine ⟨r, q, hr, hq, ?_⟩
  simp only [Strand.resume, hp]
  rfl

/-- Every entry that a resume passes over leaves it one step, so that with more steps than entries it finds the first entry with a live
lane, or none. -/
theorem Strand.resume_spec (n : Nat) (t : Strand) (hb : t.blocksFull) (hn : t.entries.length < n) :
    match t.entries.dropWhile (fun e => e.mask &&& t.live == 0) with
    | [] => t.resume n = none
    | e :: rest => ∃ r q, r ++ q.flatten = rest ∧ t.resume n = some (t.onPath e r q) := by
  induction n generalizing t with
  | zero => exact absurd hn (Nat.not_lt_zero _)
  | succ n ih =>
    cases he : t.entries with
    | nil => exact Strand.resume_nil he _
    | cons x rest =>
      obtain ⟨r, q, hr, hq, hres⟩ := Strand.resume_cons hb he n
      rw [hres]
      by_cases hx : x.mask &&& t.live = 0
      · have hlen : (t.onPath x r q).entries.length < n := by
          rw [he, List.length_cons] at hn
          exact (congrArg List.length hr).trans_lt (Nat.lt_of_succ_lt_succ hn)
        have hrest : (t.onPath x r q).entries = rest := hr
        have := ih (t.onPath x r q) (fun b h => hb b (hq b h)) hlen
        rw [hrest] at this
        rw [List.dropWhile_cons_of_pos (by simpa using hx), if_pos hx]
        exact this
      · rw [List.dropWhile_cons_of_neg (by simpa using hx), if_neg hx]
        exact ⟨r, q, hr, rfl⟩

theorem Strand.entries_length_lt_depth {t : Strand} (hb : t.blocksFull) : t.entries.length < t.depth := by
  have hsum : t.spilled.flatten.length ≤ 16 * t.spilled.length := by
    rw [List.length_flatten, Nat.mul_comm]
    exact (List.sum_le_card_nsmul _ 16 (by simpa using fun b h => (hb b h).2)).trans (by simp)
  simp only [Strand.entries, Strand.depth, List.length_append]
  omega

/-- A push adds its entry on top, spilling the 16 oldest entries on chip where 32 are held (R247). -/
theorem Strand.push_spec {t : Strand} {blocks : Nat} (e : DivEntry) (h : t.stack.length ≤ 32) :
    (t.push blocks e = none ∧ t.stack.length = 32 ∧ blocks ≤ t.spilled.length) ∨
    ∃ r q, t.push blocks e = some { t with stack := r, spilled := q } ∧ r ++ q.flatten = e :: t.entries ∧ r.length ≤ 32 ∧
      q.length ≤ max t.spilled.length blocks := by
  unfold Strand.push
  by_cases h1 : t.stack.length < 32
  · rw [if_pos h1]
    exact .inr ⟨_, _, rfl, rfl, h1, le_max_left ..⟩
  · rw [if_neg h1]
    by_cases h2 : t.spilled.length < blocks
    · rw [if_pos h2]
      refine .inr ⟨_, _, rfl, ?_, ?_, ?_⟩
      · rw [List.flatten_cons, List.cons_append, ← List.append_assoc, List.take_append_drop, Strand.entries]
      · simp only [List.length_cons, List.length_take]
        omega
      · rw [List.length_cons]
        exact le_max_of_le_right h2
    · rw [if_neg h2]
      exact .inl ⟨rfl, by omega, by omega⟩

/-- Settles O6: a resume by `Strand.resume_spec`, its steps being more than the entries; a push by its two cases. -/
theorem resumePopsThroughEmptyPaths : Obligations.ResumePopsThroughEmptyPaths := by
  refine ⟨fun t hb => ?resume, fun t blocks e h => ?push⟩
  case resume =>
    have := Strand.resume_spec t.depth t hb (Strand.entries_length_lt_depth hb)
    generalize t.entries.dropWhile (fun e => e.mask &&& t.live == 0) = l at this ⊢
    cases l with
    | nil => rw [this]; trivial
    | cons e rest =>
      obtain ⟨r, q, hr, ht⟩ := this
      rw [ht]
      exact ⟨hr, rfl⟩
  case push =>
    obtain ⟨hp, hs, hq⟩ | ⟨r, q, hp, he, hr, hq⟩ := Strand.push_spec (blocks := blocks) e h
    · rw [hp]; exact ⟨hs, hq⟩
    · rw [hp]; exact ⟨he, hr, hq, rfl⟩

theorem Strand.pop_wait {t t' : Strand} {e : DivEntry} (h : t.pop = some (e, t')) : t'.wait = t.wait := by
  unfold Strand.pop at h
  split at h
  next => cases h; rfl
  next =>
    split at h
    next => cases h; rfl
    next => cases h

/-- A resumed strand waits for nothing new. -/
theorem Strand.resume_wait {n : Nat} {t t' : Strand} (h : t.resume n = some t') : t'.wait = t.wait := by
  induction n generalizing t with
  | zero => cases h
  | succ n ih =>
    unfold Strand.resume at h
    split at h
    next => cases h
    next e t1 hp =>
      have hw : t1.wait = t.wait := Strand.pop_wait hp
      dsimp only at h
      split at h
      next => exact (ih h).trans hw
      next => cases h; exact hw

/-! ### EXIT (R246, R251) -/

/-- A strand with lanes gone. -/
def Strand.without (t : Strand) (e : W32) : Strand := { t with live := t.live &&& ~~~e, active := t.active &&& ~~~e }

section

variable {t : Strand} {e : W32}

theorem Strand.leave_last (h : (t.without e).live = 0) : t.leave e = some { t.without e with wait := .ended } := if_pos h

theorem Strand.leave_path (h : (t.without e).live ≠ 0) (ha : (t.without e).active = 0) :
    t.leave e = (t.without e).resume (t.without e).depth := (if_neg h).trans (if_pos ha)

theorem Strand.leave_some (h : (t.without e).live ≠ 0) (ha : (t.without e).active ≠ 0) :
    t.leave e = some (t.without e).advance := (if_neg h).trans (if_neg ha)

end

/-- What EXIT does beside its strand: the hank's progress, the witness tile of a strand that has ended, and its belays. -/
def State.exited (s : State) (c : Ctx) (slot : Nat) (e : W32) (ended : Bool) : State :=
  (s.onHank c (fun h =>
    { h with progress := if e = 0 then h.progress else s.ucyc c.u,
             wit := if ended && h.wit.ownedBy slot then h.wit.abandon else h.wit })).settleBelays c

section

variable {u slot : Nat} {f : FmtB} {s : State} {c : Ctx} (hc : s.ctx u slot = some c) (hg : f.pg < 8) (hr : f.reg = 0)
  (ht : f.target = 0)
include hc hg hr ht

/-- EXIT inside a collective region (R249). -/
theorem execExit_inside (hd : c.t.cd ≠ 0) (he : c.t.acting f.pg f.pn ≠ 0) :
    execExit u slot f s = .next ((s.raise c 0x13 0x13 0 0).took u slot) := by
  refine congrArg _ (State.issue_cause hc ?_)
  exact (need_bind (by simp [bLegal, headOk, hg, hr, ht]) _ _).trans (need_stop (by simpa [hd] using he) _ _)

/-- EXIT of lanes after which the strand ends or goes on. -/
theorem execExit_leaves (hd : c.t.cd = 0 ∨ c.t.acting f.pg f.pn = 0) :
    execExit u slot f s = .next ((match c.t.leave (c.t.acting f.pg f.pn) with
      | some t => (if t.wait.isEnded then s.setStrand c t else s.retire c t).exited c slot (c.t.acting f.pg f.pn) t.wait.isEnded
      | none => s.raise c 0x10 0x04 0 0).took u slot) := by
  have hl : bLegal false false true 64 f = true := by simp [bLegal, headOk, hg, hr, ht]
  have hcd : (c.t.cd == 0 || c.t.acting f.pg f.pn == 0) = true := by simpa using hd
  cases hv : c.t.leave (c.t.acting f.pg f.pn) with
  | none =>
    refine congrArg _ (State.issue_cause hc ?_)
    exact (need_bind hl _ _).trans ((need_bind hcd _ _).trans (by rw [hv]; rfl))
  | some t =>
    refine congrArg _ (State.issue_ok hc ?_)
    exact (need_bind hl _ _).trans ((need_bind hcd _ _).trans (by rw [hv]; rfl))

variable (hd : c.t.cd = 0 ∨ c.t.acting f.pg f.pn = 0)
include hd

/-- Lanes of the path remain: the strand goes on. -/
theorem execExit_goesOn (hv : (c.t.without (c.t.acting f.pg f.pn)).live ≠ 0) (ha : (c.t.without (c.t.acting f.pg f.pn)).active ≠ 0) :
    execExit u slot f s = .next (((s.retire c (c.t.without (c.t.acting f.pg f.pn)).advance).exited c slot
      (c.t.acting f.pg f.pn) false).took u slot) := by
  have hw : (c.t.without (c.t.acting f.pg f.pn)).advance.wait = .ready := State.ctx_ready hc
  rw [execExit_leaves hc hg hr ht hd, Strand.leave_some hv ha]
  dsimp only
  rw [hw]
  rfl

/-- The path is left empty: the strand resumes another, or has none. -/
theorem execExit_path (hv : (c.t.without (c.t.acting f.pg f.pn)).live ≠ 0) (ha : (c.t.without (c.t.acting f.pg f.pn)).active = 0) :
    execExit u slot f s = .next ((match (c.t.without (c.t.acting f.pg f.pn)).resume (c.t.without (c.t.acting f.pg f.pn)).depth with
      | some t => (s.retire c t).exited c slot (c.t.acting f.pg f.pn) false
      | none => s.raise c 0x10 0x04 0 0).took u slot) := by
  rw [execExit_leaves hc hg hr ht hd, Strand.leave_path hv ha]
  cases hres : (c.t.without (c.t.acting f.pg f.pn)).resume (c.t.without (c.t.acting f.pg f.pn)).depth with
  | none => rfl
  | some t =>
    have hw : t.wait = .ready := (Strand.resume_wait hres).trans (State.ctx_ready hc)
    dsimp only
    rw [hw]
    rfl

/-- The last lane leaves: the strand ends. -/
theorem execExit_last (hv : (c.t.without (c.t.acting f.pg f.pn)).live = 0) :
    execExit u slot f s = .next (((s.setStrand c { c.t.without (c.t.acting f.pg f.pn) with wait := .ended }).exited c slot
      (c.t.acting f.pg f.pn) true).took u slot) := by
  rw [execExit_leaves hc hg hr ht hd, Strand.leave_last hv]
  rfl

end

/-! ### Branches (R246) -/

/-- BRC: no lane takes the branch, every lane does, or both ways are taken and the lanes that branch wait. -/
theorem execBrc_ok {u slot : Nat} {f : FmtB} {s : State} {c : Ctx} (hc : s.ctx u slot = some c)
    (hl : bLegal true true false 16 f = true) :
    let pm := if bit f.reg 3 then ~~~(c.t.rdP (f.reg % 8)) else c.t.rdP (f.reg % 8)
    execBrc u slot f s = .next ((
      if c.t.active &&& pm = 0 then s.retire c c.t.advance
      else if c.t.active &&& ~~~pm = 0 then s.retire c { c.t with pc := branchTo c.t.pc f.target }
      else match c.t.push c.l.desc.divSpill { pending := true, mask := c.t.active &&& pm, target := branchTo c.t.pc f.target } with
        | some t => s.retire c { t with active := c.t.active &&& ~~~pm, pc := (c.t.pc + 8) % 2 ^ 64 }
        | none => s.raise c 0x10 0x03 0 0).took u slot) := by
  intro pm
  refine congrArg Host.Outcome.next ?_
  by_cases h0 : c.t.active &&& pm = 0
  · rw [if_pos h0]
    exact ctl_ok hc hl (if_pos h0)
  · rw [if_neg h0]
    by_cases h1 : c.t.active &&& ~~~pm = 0
    · rw [if_pos h1]
      exact ctl_ok hc hl ((if_neg h0).trans (if_pos h1))
    · rw [if_neg h1]
      refine ctl_push hc hl ((if_neg h0).trans (if_neg h1)) fun t ht => ?_
      rw [← ht]; rfl

/-- BRU: the branch where the register is not zero. -/
theorem execBru_ok {u slot : Nat} {f : FmtB} {s : State} {c : Ctx} (hc : s.ctx u slot = some c)
    (hl : bLegal true true false 64 f = true) :
    execBru u slot f s = .next ((s.retire c
      { c.t with pc := if c.t.rdU f.reg ≠ 0 then branchTo c.t.pc f.target else (c.t.pc + 8) % 2 ^ 64 }).took u slot) := by
  refine congrArg _ (ctl_ok hc hl (congrArg Except.ok ?_))
  split <;> rfl

/-- RET: to a multiple of 8 (R255). -/
theorem execRet_ok {u slot : Nat} {f : FmtB} {s : State} {c : Ctx} (hc : s.ctx u slot = some c)
    (hl : bLegal true false false 64 f = true) :
    execRet u slot f s = .next ((if c.t.rdU f.reg % 8 = 0 then s.retire c { c.t with pc := c.t.rdU f.reg }
      else s.raise c 0x17 0x20 3 (c.t.rdU f.reg)).took u slot) := by
  refine congrArg Host.Outcome.next ?_
  by_cases h : c.t.rdU f.reg % 8 = 0
  · rw [if_pos h]
    exact ctl_ok hc hl (need_bind (by simpa using h) _ _)
  · rw [if_neg h]
    exact ctl_cause hc hl (need_stop (by simpa using h) _ _)

/-- Settles O5: each control instruction through its checks to the strand that it leaves; EXIT by what is left of the strand. -/
theorem controlFlow : Obligations.ControlFlow := by
  intro u slot f s c hc
  refine ⟨fun hg i hi => ?guarded, fun w hw => ?word, fun hg hn hr ht => ⟨?nop, ?rcv⟩, fun hg hn hr => ⟨?bra, ?divPush⟩,
    fun hg hn hr => ⟨?bru, ?call⟩, fun hg hn hr => ?brc, fun hg hn hr ht => ?ret, fun hg hr ht => ?exit⟩
  case guarded =>
    fin_cases hi <;> exact congrArg _ (ctl_illegal hc (bLegal_guarded hg ..))
  case word =>
    unfold execWord
    rw [hw]
    exact congrArg _ (State.issue_cause hc rfl)
  case nop => exact congrArg _ (ctl_ok hc (bLegal_noReg hg hn hr (.inr ht)) rfl)
  case rcv =>
    refine congrArg Host.Outcome.next ?_
    cases h : c.t.resume c.t.depth with
    | none => exact ctl_cause hc (bLegal_noReg hg hn hr (.inr ht)) (by rw [h]; rfl)
    | some t => exact ctl_ok hc (bLegal_noReg hg hn hr (.inr ht)) (by rw [h]; rfl)
  case bra => exact congrArg _ (ctl_ok hc (bLegal_noReg hg hn hr (.inl rfl)) rfl)
  case divPush =>
    exact congrArg _ (ctl_push hc (bLegal_noReg hg hn hr (.inl rfl)) rfl fun t ht => by rw [← ht]; rfl)
  case bru => exact execBru_ok hc (bLegal_reg hg hn hr (.inl rfl))
  case call => exact congrArg _ (ctl_ok hc (bLegal_reg hg hn hr (.inl rfl)) rfl)
  case brc => exact execBrc_ok hc (bLegal_reg hg hn hr (.inl rfl))
  case ret => exact execRet_ok hc (bLegal_reg hg hn hr (.inr ht))
  case exit =>
    exact ⟨fun hd hv ha => execExit_goesOn hc hg hr ht hd hv ha, fun hd hv ha => execExit_path hc hg hr ht hd hv ha,
      fun hd hv => execExit_last hc hg hr ht hd hv, fun hd he => execExit_inside hc hg hr ht hd he⟩

end Sys2Proof.Machine
end

section
/-! SUPPORT. Register files: what is read after the lanes' registers, a mask or a uniform register have been written. -/

namespace Sys2Proof.Machine

open Sys2Proof

/-! ### One register, or a pair (R223) -/

theorem Strand.wf_wrW {t : Strand} (h : Tbl.wf 0 t.w = true) (l r v : Nat) : Tbl.wf 0 (t.wrW l r v).w = true := Tbl.wf_set _ _ _ _ h

theorem Strand.wf_wrWX {t : Strand} (h : Tbl.wf 0 t.w = true) (wide : Bool) (l r v : Nat) : Tbl.wf 0 (t.wrWX wide l r v).w = true := by
  cases wide
  · exact Strand.wf_wrW h ..
  · exact Strand.wf_wrW (Strand.wf_wrW h ..) ..

theorem Strand.rdW_wrW {t : Strand} (h : Tbl.wf 0 t.w = true) {d r : Nat} (hd : d < 256) (hr : r < 256) (l l' v : Nat) :
    (t.wrW l d v).rdW l' r = if l' = l ∧ r = d then v % 2 ^ 32 else t.rdW l' r := by
  have hk : 256 * l' + r = 256 * l + d ↔ l' = l ∧ r = d := by omega
  simp only [Strand.rdW, Strand.wrW, Tbl.get_set _ _ _ _ _ h, hk]
  split
  · exact BitVec.toNat_ofNat ..
  · rfl

/-- What a register holds once a value has been written to another register, or to the pair at it: none, what it held. -/
def pairValue (wide : Bool) (d v r : Nat) : Option Nat :=
  if r = d then some (v % 2 ^ 32) else if wide = true ∧ r = d + 1 then some (v / 2 ^ 32 % 2 ^ 32) else none

theorem pairValue_low (wide : Bool) (d v : Nat) : pairValue wide d v d = some (v % 2 ^ 32) := if_pos rfl

theorem pairValue_high (d v : Nat) : pairValue true d v (d + 1) = some (v / 2 ^ 32 % 2 ^ 32) :=
  (if_neg (Nat.succ_ne_self d)).trans (if_pos ⟨rfl, rfl⟩)

theorem pairValue_other {wide : Bool} {d v r : Nat} (h : r < d ∨ d + 1 < r) : pairValue wide d v r = none :=
  (if_neg (by omega)).trans (if_neg (by omega))

theorem Strand.rdW_wrWX {t : Strand} (h : Tbl.wf 0 t.w = true) {wide : Bool} {d r : Nat} (hd : d + b2n wide < 256) (hr : r < 256)
    (l l' v : Nat) :
    (t.wrWX wide l d v).rdW l' r = if l' = l then (pairValue wide d v r).getD (t.rdW l' r) else t.rdW l' r := by
  cases wide with
  | false =>
    simp only [Strand.wrWX, Strand.rdW_wrW h (show d < 256 from hd) hr, pairValue, Bool.false_eq_true, if_false, false_and]
    split_ifs <;> simp_all
  | true =>
    have hd1 : d + 1 < 256 := hd
    simp only [Strand.wrWX, Strand.rdW_wrW (Strand.wf_wrW h ..) hd1 hr, Strand.rdW_wrW h (Nat.lt_of_succ_lt hd1) hr, pairValue,
      if_true, true_and]
    split_ifs <;> simp_all

/-! ### The lanes' registers, lane after lane (R237) -/

/-- A write of one lane leaves the values given in that lane, what was there where none is given, and every other lane. -/
def Strand.WritesLane (wr : Strand → Nat → Strand) (val : Nat → Option Nat) (l : Nat) : Prop :=
  ∀ t : Strand, Tbl.wf 0 t.w = true → Tbl.wf 0 (wr t l).w = true ∧
    ∀ l' r, r < 256 → (wr t l).rdW l' r = if l' = l then (val r).getD (t.rdW l' r) else t.rdW l' r

theorem Strand.foldl_writesLane {wr : Strand → Nat → Strand} {val : Nat → Nat → Option Nat} {ls : List Nat}
    (hw : ∀ l ∈ ls, Strand.WritesLane wr (val l) l) {t : Strand} (ht : Tbl.wf 0 t.w = true) :
    Tbl.wf 0 (ls.foldl wr t).w = true ∧
      ∀ l r, r < 256 → (ls.foldl wr t).rdW l r = if l ∈ ls then (val l r).getD (t.rdW l r) else t.rdW l r := by
  induction ls generalizing t with
  | nil => exact ⟨ht, fun l r _ => by simp⟩
  | cons a ls ih =>
    obtain ⟨hwf, hrd⟩ := hw a (by simp) t ht
    obtain ⟨hwf', hrd'⟩ := ih (fun l h => hw l (by simp [h])) hwf
    refine ⟨hwf', fun l r hr => ?_⟩
    rw [List.foldl_cons, hrd' l r hr, hrd l r hr]
    by_cases hla : l = a
    · subst hla
      cases val l r <;> simp
    · simp [hla]

/-- A part of a strand that no write of a lane changes. -/
theorem Strand.foldl_part {α : Type} {p : Strand → α} {wr : Strand → Nat → Strand} (h : ∀ t l, p (wr t l) = p t) (ls : List Nat)
    (t : Strand) : p (ls.foldl wr t) = p t := by
  induction ls generalizing t with
  | nil => rfl
  | cons a ls ih => rw [List.foldl_cons, ih, h]

/-- A strand but for its thread registers. -/
def Strand.noW (t : Strand) : Strand := { t with w := [] }

theorem Strand.with_w_eq {t t' : Strand} (h : t'.noW = t.noW) : { t' with w := t.w } = t := by
  cases t; cases t'; simp_all [Strand.noW]

@[simp] theorem Strand.wrW_noW (t : Strand) (l r v : Nat) : (t.wrW l r v).noW = t.noW := rfl

@[simp] theorem Strand.wrWX_noW (t : Strand) (wide : Bool) (l r v : Nat) : (t.wrWX wide l r v).noW = t.noW := by cases wide <;> rfl

theorem mem_lanesOf {m : W32} {l : Nat} : l ∈ lanesOf m ↔ l < 32 ∧ m.getLsbD l = true := by simp [lanesOf]

theorem Strand.wrWX_writesLane {wide : Bool} {d : Nat} (hd : d + b2n wide < 256) (v : Nat → Nat) (l : Nat) :
    Strand.WritesLane (fun t l => t.wrWX wide l d (v l)) (pairValue wide d (v l)) l := fun _ ht =>
  ⟨Strand.wf_wrWX ht .., fun l' _ hr => Strand.rdW_wrWX ht hd hr l l' (v l)⟩

/-! ### The bits of a mask (R224) -/

/-- Bits put at rising places. -/
theorem testBit_foldl_bits (p : Nat → Bool) (n i : Nat) :
    ((List.range n).foldl (fun a l => a + b2n (p l) * 2 ^ l) 0) < 2 ^ n ∧
      ((List.range n).foldl (fun a l => a + b2n (p l) * 2 ^ l) 0).testBit i = (decide (i < n) && p i) := by
  induction n with
  | zero => simp
  | succ n ih =>
    obtain ⟨hlt, hbit⟩ := ih
    rw [List.range_succ, List.foldl_append, List.foldl_cons, List.foldl_nil]
    generalize List.foldl _ 0 (List.range n) = a at hlt hbit ⊢
    refine ⟨?_, ?_⟩
    · rw [pow_succ]
      cases p n <;> simp [b2n] <;> omega
    · rw [Nat.add_comm, Nat.mul_comm, Nat.testBit_two_pow_mul_add _ hlt, hbit]
      have hp : b2n (p n) = (p n).toNat := by cases p n <;> rfl
      rw [hp, Nat.testBit_bool_toNat]
      by_cases h : i < n
      · simp [h, Nat.lt_succ_of_lt h]
      · have hi : (i - n = 0 ↔ i = n) ∧ (i < n + 1 ↔ i = n) := by omega
        by_cases hn : i = n <;> simp [h, hi, hn]

/-- Settles O3: registers by `Strand.foldl_writesLane`, a mask by its bits, masks and uniform registers by the tables they are. -/
theorem laneWritesAreExact : Obligations.LaneWritesAreExact := by
  refine ⟨fun t m wide d v l r ht hl hr hd => ?lanes, fun t m wide d v => ⟨?frame, fun ht => ?form⟩, fun old m v l hl => ?bits,
    fun t r q x ht => ?mask, fun t r q x ht => ?uniform⟩
  case lanes =>
    rw [Strand.wrLanes, (Strand.foldl_writesLane (val := fun l => pairValue wide d (v l)) (fun l _ => Strand.wrWX_writesLane hd v l) ht).2 l r hr]
    simp only [mem_lanesOf, hl, true_and, pairValue]
    split_ifs <;> simp_all
  case frame => exact Strand.with_w_eq (Strand.foldl_part (fun t l => Strand.wrWX_noW ..) _ t)
  case form =>
    refine List.foldlRecOn (motive := fun x : Strand => Tbl.wf 0 x.w = true) _ _ ht fun x hx l _ => Strand.wf_wrWX hx ..
  case bits =>
    rw [predLanes, BitVec.getLsbD_ofNat, (testBit_foldl_bits _ 32 l).2]
    simp [hl]
  case mask =>
    unfold Strand.wrP Strand.rdP
    by_cases hr : r = 0
    · simp only [hr, if_true]
      split_ifs <;> rfl
    · simp only [if_neg hr, Tbl.get_set _ _ _ _ _ ht]
      split_ifs <;> rfl
  case uniform =>
    simp only [Strand.rdU, Strand.wrU, Tbl.get_set _ _ _ _ _ ht]
    split
    · exact BitVec.toNat_ofNat ..
    · rfl

/-! ### A finished memory instruction (R234, R242) -/

theorem leNat_lt (bs : List Byte) : leNat bs < 256 ^ bs.length := by
  induction bs with
  | nil => simp [leNat]
  | cons b bs ih =>
    have hb := b.isLt
    rw [leNat, List.length_cons, pow_succ]
    omega

/-- The bytes read in a lane that has one piece. -/
theorem MemOp.laneBytes_eq {o : MemOp} (hn : (o.pieces.map (·.lane)).Nodup) {p : Piece} (hp : p ∈ o.pieces) :
    o.laneBytes p.lane = p.got.getD [] := by
  have : o.pieces.filter (fun q => q.lane == p.lane) = [p] := by
    generalize o.pieces = ps at hn hp ⊢
    induction ps with
    | nil => cases hp
    | cons a ps ih =>
      rw [List.map_cons, List.nodup_cons] at hn
      obtain ⟨ha, hn⟩ := hn
      obtain rfl | hp := List.mem_cons.1 hp
      · rw [List.filter_cons_of_pos (by simp), List.filter_eq_nil_iff.2 fun q hq he => ?_]
        exact ha (by rw [← eq_of_beq he]; exact List.mem_map_of_mem hq)
      · rw [List.filter_cons_of_neg (fun he => ha (by rw [eq_of_beq he]; exact List.mem_map_of_mem hp)), ih hn hp]
  rw [MemOp.laneBytes, this, List.flatMap_singleton]

/-- A value extended to a register's width, as SIGN says. -/
def MemOp.extended (o : MemOp) (w : Nat) (bs : List Byte) : Nat :=
  if o.sign && decide (bs.length < 4) then ofS w (toS (8 * bs.length) (leNat bs)) else leNat bs

/-- What a register of a lane holds after these bytes were loaded: none, what it held. -/
def MemOp.loaded (o : MemOp) (bs : List Byte) (r : Nat) : Option Nat :=
  if bs.length ≤ 4 then (if r = o.dst then some (o.extended 32 bs) else none)
  else if o.dst ≤ r ∧ r < o.dst + bs.length / 4 then some (leNat bs / 2 ^ (32 * (r - o.dst)) % 2 ^ 32) else none

theorem ofS_lt (w : Nat) (x : Int) : ofS w x < 2 ^ w := by
  have hpos : (0 : Int) < ((2 ^ w : Nat) : Int) := by positivity
  exact (Int.toNat_lt (Int.emod_nonneg _ hpos.ne')).2 (Int.emod_lt_of_pos _ hpos)

theorem MemOp.extended_lt (o : MemOp) {bs : List Byte} (h : bs.length ≤ 4) : o.extended 32 bs < 2 ^ 32 := by
  unfold MemOp.extended
  split
  · exact ofS_lt ..
  · exact (leNat_lt bs).trans_le ((Nat.pow_le_pow_right (by decide) h).trans (by decide))

/-- What a LD of a lane's bytes writes. -/
def MemOp.loadLane (o : MemOp) (t : Strand) (l : Nat) : Strand :=
  if (o.laneBytes l).length ≤ 4 then t.wrW l o.dst (o.extended 32 (o.laneBytes l))
  else if (o.laneBytes l).length = 8 then t.wrWX true l o.dst (leNat (o.laneBytes l))
  else (t.wrWX true l o.dst (leNat ((o.laneBytes l).take 8))).wrWX true l (o.dst + 2) (leNat ((o.laneBytes l).drop 8))

/-- What an ATOM's old value of a lane writes. -/
def MemOp.atomLane (o : MemOp) (t : Strand) (l : Nat) : Strand :=
  t.wrWX ((o.laneBytes l).length == 8) l o.dst (leNat (o.laneBytes l))

theorem MemOp.writeback_ld {o : MemOp} (h : o.kind = .ld) (t : Strand) (k : Hank) :
    o.writeback t k = (o.lanes.foldl o.loadLane t, k) := by
  simp only [MemOp.writeback, h]
  rfl

theorem MemOp.writeback_atom {o : MemOp} (h : o.kind = .atom) (t : Strand) (k : Hank) :
    o.writeback t k = (o.lanes.foldl o.atomLane t, k) := by
  simp only [MemOp.writeback, h]
  rfl

theorem MemOp.loadLane_noW (o : MemOp) (t : Strand) (l : Nat) : (o.loadLane t l).noW = t.noW := by
  unfold MemOp.loadLane
  split_ifs <;> simp

section

variable {o : MemOp} {bs : List Byte}

theorem MemOp.loaded_word (h : bs.length ≤ 4) (r : Nat) : o.loaded bs r = if r = o.dst then some (o.extended 32 bs) else none :=
  if_pos h

theorem MemOp.loaded_pair (h : bs.length = 8) (r : Nat) : o.loaded bs r = pairValue true o.dst (leNat bs) r := by
  unfold MemOp.loaded
  rw [h, if_neg (by decide)]
  obtain hr | rfl | rfl : (r < o.dst ∨ o.dst + 1 < r) ∨ r = o.dst ∨ r = o.dst + 1 := by omega
  · rw [pairValue_other hr, if_neg (by omega)]
  · rw [pairValue_low, if_pos (by omega)]
    simp
  · rw [pairValue_high, if_pos (by omega)]
    simp

/-- 16 bytes lie in two pairs. -/
theorem MemOp.loaded_quad (h : bs.length = 16) (r : Nat) :
    o.loaded bs r = (pairValue true (o.dst + 2) (leNat (bs.drop 8)) r).or (pairValue true o.dst (leNat (bs.take 8)) r) := by
  have hlow : leNat (bs.take 8) < 2 ^ 64 := by simpa [h] using leNat_lt (bs.take 8)
  have hbs : leNat bs = leNat (bs.take 8) + 2 ^ 64 * leNat (bs.drop 8) := by
    conv_lhs => rw [← List.take_append_drop 8 bs, leNat_append]
    simp [h]
  unfold MemOp.loaded
  rw [h, if_neg (by decide), hbs]
  generalize leNat (bs.take 8) = a at hlow ⊢
  generalize leNat (bs.drop 8) = b
  obtain hr | rfl | rfl | rfl | rfl : (r < o.dst ∨ o.dst + 3 < r) ∨ r = o.dst ∨ r = o.dst + 1 ∨ r = o.dst + 2 ∨ r = o.dst + 3 := by omega
  · rw [pairValue_other (by omega), pairValue_other (by omega), if_neg (by omega)]; rfl
  · rw [pairValue_other (by omega), pairValue_low, if_pos (by omega), Option.none_or]
    simp; omega
  · rw [pairValue_other (by omega), pairValue_high, if_pos (by omega), Option.none_or]
    simp; omega
  · rw [pairValue_low, if_pos (by omega), Option.some_or]
    simp; omega
  · rw [pairValue_high, if_pos (by omega), Option.some_or]
    simp; omega

end

section

variable {o : MemOp} (hd : o.dst + 3 < 256) {l : Nat}
include hd

/-- A lane's LD of up to 4, of 8 or of 16 bytes. -/
theorem MemOp.loadLane_writes (hl : (o.laneBytes l).length ≤ 4 ∨ (o.laneBytes l).length = 8 ∨ (o.laneBytes l).length = 16) :
    Strand.WritesLane o.loadLane (o.loaded (o.laneBytes l)) l := by
  intro t ht
  have hd1 : o.dst + b2n true < 256 := by simp [b2n]; omega
  have hd2 : o.dst + 2 + b2n true < 256 := by simp [b2n]; omega
  unfold MemOp.loadLane
  rcases hl with hl | hl | hl
  · rw [if_pos hl]
    refine ⟨Strand.wf_wrW ht .., fun l' r hr => ?_⟩
    rw [Strand.rdW_wrW ht (by omega) hr, MemOp.loaded_word hl, Nat.mod_eq_of_lt (o.extended_lt hl)]
    split_ifs <;> simp_all
  · rw [if_neg (by omega), if_pos hl]
    refine ⟨Strand.wf_wrWX ht .., fun l' r hr => ?_⟩
    rw [Strand.rdW_wrWX ht hd1 hr, MemOp.loaded_pair hl]
  · rw [if_neg (by omega), if_neg (by omega)]
    refine ⟨Strand.wf_wrWX (Strand.wf_wrWX ht ..) .., fun l' r hr => ?_⟩
    rw [Strand.rdW_wrWX (Strand.wf_wrWX ht ..) hd2 hr, Strand.rdW_wrWX ht hd1 hr, MemOp.loaded_quad hl, Option.getD_or]
    split_ifs <;> rfl

/-- A lane's ATOM of 4 or 8 bytes, whose old value is not extended. -/
theorem MemOp.atomLane_writes (hs : o.sign = false) (hl : (o.laneBytes l).length = 4 ∨ (o.laneBytes l).length = 8) :
    Strand.WritesLane o.atomLane (o.loaded (o.laneBytes l)) l := by
  intro t ht
  unfold MemOp.atomLane
  refine ⟨Strand.wf_wrWX ht .., fun l' r hr => ?_⟩
  rcases hl with hl | hl
  · have hv : leNat (o.laneBytes l) < 2 ^ 32 := by simpa [hl] using leNat_lt (o.laneBytes l)
    rw [hl]
    rw [Strand.rdW_wrWX ht (wide := 4 == 8) (show o.dst < 256 by omega) hr, MemOp.loaded_word (by omega), pairValue,
      Nat.mod_eq_of_lt hv]
    simp [MemOp.extended, hs]
  · rw [hl, Strand.rdW_wrWX ht (show o.dst + 1 < 256 by omega) hr, MemOp.loaded_pair hl]; rfl

end

/-- What a finished LD or ATOM leaves in a register, lane by lane. -/
theorem MemOp.rdW_writeback {o : MemOp} (hk : o.kind = .ld ∨ o.kind = .atom) (hd : o.dst + 3 < 256) {t : Strand} (ht : Tbl.wf 0 t.w = true)
    (hlen : ∀ l ∈ o.pieces.map (·.lane), (o.laneBytes l).length ∈ (if o.kind = .ld then [1, 2, 4, 8, 16] else [4, 8]))
    (hs : o.kind = .atom → o.sign = false) (h : Hank) (l : Nat) {r : Nat} (hr : r < 256) :
    (o.writeback t h).1.rdW l r =
      if l ∈ o.pieces.map (·.lane) then (o.loaded (o.laneBytes l) r).getD (t.rdW l r) else t.rdW l r := by
  have hmem (l) : l ∈ o.lanes ↔ l ∈ o.pieces.map (·.lane) := List.mem_eraseDups
  simp only [← hmem]
  rcases hk with hk | hk
  · rw [MemOp.writeback_ld hk]
    refine (Strand.foldl_writesLane (val := fun l => o.loaded (o.laneBytes l)) (fun l hl => MemOp.loadLane_writes hd ?_) ht).2 l r hr
    have := hlen l ((hmem l).1 hl)
    rw [if_pos hk] at this
    simp only [List.mem_cons, List.not_mem_nil, or_false] at this
    omega
  · rw [MemOp.writeback_atom hk]
    refine (Strand.foldl_writesLane (val := fun l => o.loaded (o.laneBytes l)) (fun l hl => MemOp.atomLane_writes hd (hs hk) ?_) ht).2 l r hr
    have := hlen l ((hmem l).1 hl)
    rw [if_neg (by rw [hk]; decide)] at this
    simpa using this

/-- Settles O13: a register of a lane by `MemOp.rdW_writeback`, the lane's bytes being those of its only piece. -/
theorem loadsReachTheirRegisters : Obligations.LoadsReachTheirRegisters := by
  refine ⟨fun o t h l r hk ht hn hgot hlen hs hd hl hr => ?registers, fun o t h hk => ?frame, fun o t h p bs hk hp hl hg => ?uniform,
    fun o t h hk => ?nothing⟩
  case registers =>
    have hbytes (p) (hp : p ∈ o.pieces) : o.laneBytes p.lane = p.got.getD [] ∧ (o.laneBytes p.lane).length = p.len := by
      obtain ⟨-, bs, hb, hbl⟩ := hgot p hp
      rw [MemOp.laneBytes_eq hn hp, hb]
      exact ⟨rfl, hbl⟩
    rw [MemOp.rdW_writeback hk hd ht ?_ hs h l hr]
    · cases hf : o.pieces.find? (fun p => p.lane == l) with
      | none =>
        rw [if_neg fun hm => ?_]
        obtain ⟨p, hp, rfl⟩ := List.mem_map.1 hm
        simpa using List.find?_eq_none.1 hf p hp
      | some p =>
        have hp := List.mem_of_find?_eq_some hf
        obtain rfl : p.lane = l := by simpa using List.find?_some hf
        obtain ⟨hb, hbl⟩ := hbytes p hp
        rw [if_pos (List.mem_map_of_mem hp), MemOp.loaded, hbl, MemOp.extended, hbl, hb]
        simp only [Bool.and_eq_true, decide_eq_true_eq]
        split_ifs <;> rfl
    · intro l hm
      obtain ⟨p, hp, rfl⟩ := List.mem_map.1 hm
      rw [(hbytes p hp).2]
      exact hlen p hp
  case frame =>
    rcases hk with hk | hk
    · rw [MemOp.writeback_ld hk]
      exact ⟨Strand.with_w_eq (Strand.foldl_part o.loadLane_noW _ t), rfl⟩
    · rw [MemOp.writeback_atom hk]
      exact ⟨Strand.with_w_eq (Strand.foldl_part (fun t l => Strand.wrWX_noW ..) _ t), rfl⟩
  case uniform =>
    have hb : o.laneBytes 0 = bs := by simp [MemOp.laneBytes, hp, hl, hg]
    simp only [MemOp.writeback, hk, hb, Bool.and_eq_true, decide_eq_true_eq]
  case nothing =>
    simp only [List.mem_cons, List.not_mem_nil, or_false] at hk
    rcases hk with hk | hk | hk | hk <;> simp only [MemOp.writeback, hk]

end Sys2Proof.Machine
end

section
/-! SUPPORT. Integer thread instructions and uniform instructions: what each comes to, legal or not. -/

namespace Sys2Proof.Machine

open Sys2Proof

/-! ### Integer thread instructions (R234, R240) -/

/-- A result that may wrap, with its INT_WRAP (R240). -/
theorem wrapTo_eq (w : Nat) (uns : Bool) (x : Int) : wrapTo w (w = 32 && !uns) x =
    (ofS w x, { intWrap := if w = 32 ∧ ¬uns = true ∧ toS 32 (ofS 32 x) ≠ x then 1 else 0 }) := by
  unfold wrapTo
  by_cases hw : w = 32
  · subst hw
    cases uns <;> simp [b2n]
  · simp [b2n, hw]

theorem Ev.sum_map_none (l : List Nat) : Ev.sum (l.map fun _ => ({} : Ev)) = {} := by
  rw [List.map_const', Ev.sum_none]

/-- What the row of an instruction says of it: illegal, outside the allocation, or carried out. -/
def LaneRow.Answers (r : LaneRow) (u slot : Nat) (f : FmtA) (s : State) (c : Ctx) : Prop :=
  ((modFits r.op f.mod && r.shape.legal f) = false → exec r.i s = .next ((s.raise c 0x10 0x01 0 0).took u slot)) ∧
  (modFits r.op f.mod → r.shape.legal f → r.shape.fits c.l.desc.regs f = false →
    exec r.i s = .next ((s.raise c 0x10 0x02 0 0).took u slot)) ∧
  (modFits r.op f.mod → r.shape.legal f → r.shape.fits c.l.desc.regs f →
    exec r.i s = .next (((s.countVts u (Ev.sum ((lanesOf (c.t.acting f.pg f.pn)).map r.count))).retire c
      (c.t.wrLanes (c.t.acting f.pg f.pn) (bit f.mod 0) f.d r.value).advance).took u slot))

section

variable {u slot : Nat} {f : FmtA} {s : State} {c : Ctx} (hc : s.ctx u slot = some c)
include hc

theorem LaneRow.answers_of_threadA {r : LaneRow} {body : Ctx → W32 → Strand × Ev}
    (hi : exec r.i s = .next (threadA u slot f r.shape (modFits r.op f.mod) body s))
    (hb : body c (c.t.acting f.pg f.pn) = (c.t.wrLanes (c.t.acting f.pg f.pn) (bit f.mod 0) f.d r.value,
      Ev.sum ((lanesOf (c.t.acting f.pg f.pn)).map r.count))) : r.Answers u slot f s c := by
  refine ⟨fun hl => hi.trans (congrArg _ (threadA_illegal hc hl)),
    fun hm hl hf => hi.trans (congrArg _ (threadA_resource hc hm hl hf)), fun hm hl hf => hi.trans (congrArg _ ?_)⟩
  rw [threadA_ok hc hm hl hf, hb]

/-- An operation of IALU by its code: its row gives what `ialuOp` delivers and counts in each lane. -/
theorem LaneRow.answers_of_ialu {r : LaneRow} {ob oc : Opnd} (hi : exec r.i s = .next (ialu r.op ob oc u slot f s))
    (hs : r.shape = ialuShape f .w ob oc)
    (hv : ∀ l, ialuOp (if bit f.mod 0 then 64 else 32) (bit f.mod 1) r.op (c.t.src (bit f.mod 0) (bit f.usrc 0) l f.a)
      (c.t.src (bit f.mod 0) (bit f.usrc 1) l f.b) (c.t.src (bit f.mod 0) (bit f.usrc 2) l f.c) = (r.value l, r.count l)) :
    r.Answers u slot f s c := by
  unfold ialu at hi
  rw [← hs] at hi
  refine LaneRow.answers_of_threadA hc hi ?_
  simp only [hv]

end

/-- Settles O1: seventeen operations are one thread instruction under their codes (`ialuOp`), the wrapping ones by `wrapTo_eq`; SEL is a
thread instruction of its own, which counts nothing. -/
theorem ialuResults : Obligations.IaluResults := by
  intro u slot f s c hc wide uns w a b k num m wrap row exact
  have plain {op : Nat} {i : Instr} {ob oc : Opnd} {v : Nat → Nat} (hi : exec i s = .next (ialu op ob oc u slot f s))
      (hv : ∀ l, ialuOp w uns op (a l) (b l) (k l) = (v l, {})) : (row op i ob oc v).Answers u slot f s c :=
    LaneRow.answers_of_ialu hc hi rfl hv
  have wraps {op : Nat} {i : Instr} {oc : Opnd} {x : Nat → Int} (hi : exec i s = .next (ialu op .w oc u slot f s))
      (hv : ∀ l, ialuOp w uns op (a l) (b l) (k l) = wrapTo w (w = 32 && !uns) (x l)) : (exact op i oc x).Answers u slot f s c :=
    LaneRow.answers_of_ialu hc hi rfl fun l => (hv l).trans (wrapTo_eq ..)
  have sel : (row 0x0F (.sel u slot f) .w .p (fun l => if (c.t.rdP f.c).getLsbD l then a l else b l)).Answers u slot f s c :=
    LaneRow.answers_of_threadA hc rfl (congrArg (Prod.mk _) (Ev.sum_map_none _).symm)
  simp only [List.forall_mem_cons, List.not_mem_nil, false_imp_iff, implies_true, and_true]
  exact ⟨plain rfl fun _ => rfl, wraps rfl fun _ => rfl, wraps rfl fun _ => rfl, wraps rfl fun _ => rfl, plain rfl fun _ => rfl,
    wraps rfl fun _ => rfl, plain rfl fun _ => rfl, plain rfl fun _ => rfl, plain rfl fun _ => rfl, plain rfl fun _ => rfl,
    wraps rfl fun _ => rfl, plain rfl fun _ => rfl, plain rfl fun _ => rfl, plain rfl fun _ => rfl, plain rfl fun _ => rfl,
    sel, plain rfl fun _ => rfl, plain rfl fun _ => rfl⟩

/-! ### Uniform instructions (R224, R234, R241, R254) -/

theorem ShapeA.check_illegal {k : ShapeA} {regs : Nat} {f : FmtA} (hl : k.legal f = false) : k.check regs f = .error illegal :=
  need_stop hl _ _

theorem ShapeA.check_resource {k : ShapeA} {regs : Nat} {f : FmtA} (hl : k.legal f = true) (hf : k.fits regs f = false) :
    k.check regs f = .error resource := (need_bind hl _ _).trans (by rw [hf]; rfl)

section

variable {u slot : Nat} {f : FmtA} {k : ShapeA} {extra : Bool} {body : Ctx → Strand} {s : State} {c : Ctx}
  (hc : s.ctx u slot = some c)
include hc

/-- A uniform instruction with a field that is not legal, a guard among them, ends its launch with ILLEGAL. -/
theorem uniformA_illegal (hl : (extra && ({ k with uniform := true } : ShapeA).legal f) = false) :
    uniformA u slot f k extra body s = (s.raise c 0x10 0x01 0 0).took u slot := by
  refine State.issue_cause hc ?_
  cases extra
  · rfl
  · rw [need_bind rfl, ShapeA.check_illegal hl]
    rfl

/-- A legal uniform instruction with a register outside the allocation ends its launch with RESOURCE. -/
theorem uniformA_resource (he : extra = true) (hl : ({ k with uniform := true } : ShapeA).legal f = true)
    (hf : ({ k with uniform := true } : ShapeA).fits c.l.desc.regs f = false) :
    uniformA u slot f k extra body s = (s.raise c 0x10 0x02 0 0).took u slot := by
  refine State.issue_cause hc ?_
  rw [need_bind he, ShapeA.check_resource hl hf]
  rfl

/-- What a uniform instruction of a shape comes to: illegal, outside the allocation, or carried out. -/
theorem UniformRow.answers {r : UniformRow} (hi : exec r.i s = .next (uniformA u slot f k extra body s))
    (hk : { k with uniform := true } = r.shape) (hb : body c = r.t) :
    ((extra && r.shape.legal f) = false → exec r.i s = .next ((s.raise c 0x10 0x01 0 0).took u slot)) ∧
    (extra → r.shape.legal f → r.shape.fits c.l.desc.regs f = false → exec r.i s = .next ((s.raise c 0x10 0x02 0 0).took u slot)) ∧
    (extra → r.shape.legal f → r.shape.fits c.l.desc.regs f → exec r.i s = .next ((s.retire c r.t.advance).took u slot)) := by
  rw [← hk, ← hb]
  exact ⟨fun hl => hi.trans (congrArg _ (uniformA_illegal hc hl)), fun he hl hf => hi.trans (congrArg _ (uniformA_resource hc he hl hf)),
    fun he hl hf => hi.trans (congrArg _ (uniformA_ok hc he hl hf))⟩

/-- An operation of UALU by its code: its row gives the strand with the value that `ialuOp` delivers. -/
theorem UniformRow.answers_of_ualu {r : UniformRow} {ob oc : Opnd} (hi : exec r.i s = .next (ualu r.op ob oc u slot f s))
    (hk : ({ d := .u, a := .u, b := ob, c := oc, modOk := true, uniform := true } : ShapeA) = r.shape)
    (hb : c.t.wrU f.d (ialuOp 64 (bit f.mod 1) r.op (c.t.rdU f.a) (c.t.rdU f.b) (c.t.rdU f.c)).1 = r.t) :
    ((modFits r.op f.mod && r.shape.legal f) = false → exec r.i s = .next ((s.raise c 0x10 0x01 0 0).took u slot)) ∧
    (modFits r.op f.mod → r.shape.legal f → r.shape.fits c.l.desc.regs f = false →
      exec r.i s = .next ((s.raise c 0x10 0x02 0 0).took u slot)) ∧
    (modFits r.op f.mod → r.shape.legal f → r.shape.fits c.l.desc.regs f → exec r.i s = .next ((s.retire c r.t.advance).took u slot)) := by
  unfold ualu at hi
  exact UniformRow.answers hc hi hk hb

/-- USET with a condition that exists. -/
theorem execUset_ok (hm : modFits 0x10 f.mod = true) (hr : f.rm < 8)
    (hl : ({ d := .u, a := .u, b := .u, modOk := true, rmOk := true, uniform := true } : ShapeA).legal f = true) :
    execUset u slot f s = .next ((s.retire c
      (c.t.wrU f.d (b2n (intCond 64 (bit f.mod 1) f.rm (c.t.rdU f.a) (c.t.rdU f.b)))).advance).took u slot) := by
  exact congrArg _ (uniformA_ok (k := { d := .u, a := .u, b := .u, modOk := true, rmOk := true }) hc
    (by rw [hm, decide_eq_true hr]; rfl) hl rfl)

/-- SREAD of a register that exists. -/
theorem execSread_ok (ha : f.a < 9) (hl : ({ d := .u, a := .code, uniform := true } : ShapeA).legal f = true) :
    execSread u slot f s = .next ((s.retire c (c.t.wrU f.d (s.special c f.a)).advance).took u slot) := by
  refine congrArg _ (State.issue_ok hc ?_)
  exact (need_bind (decide_eq_true ha) _ _).trans (by rw [ShapeA.check_ok hl rfl]; rfl)

end

section

variable {u slot : Nat} {f : FmtI} {s : State} {c : Ctx} (hc : s.ctx u slot = some c) (hg : f.pg = 0) (hn : f.pn = false) (hd : f.d < 64)
include hc hg hn hd

/-- A uniform immediate instruction without a guard. -/
theorem exec_of_uimm {i : Instr} {usesA : Bool} {v : Strand → Nat} (hi : exec i s = .next (uimm usesA u slot f v s))
    (ha : usesA = false ∨ f.a < 64) : exec i s = .next ((s.retire c (c.t.wrU f.d (v c.t)).advance).took u slot) :=
  hi.trans (congrArg _ (State.issue_ok hc (need_bind (by simpa [headOk, hg, hn, hd] using ha) _ _)))

end

/-- Settles O8: every operation of format A is a uniform instruction of its row's shape, those of UALU under their codes (`ialuOp`). -/
theorem uniformResults : Obligations.UniformResults := by
  refine ⟨fun u slot f s c hc => ?_, fun u slot f s c hc hg hn hd => ⟨?_, fun ha => ?_, ?_⟩⟩
  · intro t a b k uns num row toU toP
    refine ⟨?ualu, fun hm hr hl => ?uset, ?masks, ?sread⟩
    case ualu =>
      have op {n : Nat} {i : Instr} {ob oc : Opnd} {v : Nat} (hi : exec i s = .next (ualu n ob oc u slot f s))
          (hv : (ialuOp 64 uns n a b k).1 = v) := UniformRow.answers_of_ualu (r := row n i ob oc v) hc hi rfl (congrArg (t.wrU f.d) hv)
      have sel := UniformRow.answers (r := row 0x0F (.usel u slot f) .u .p (if t.rdP f.c ≠ 0 then a else b)) hc rfl rfl rfl
      simp only [List.forall_mem_cons, List.not_mem_nil, false_imp_iff, implies_true, and_true]
      exact ⟨op rfl rfl, op rfl rfl, op rfl rfl, op rfl rfl, op rfl rfl, op rfl rfl, op rfl rfl, op rfl rfl, op rfl rfl, op rfl rfl,
        op rfl rfl, op rfl rfl, op rfl rfl, op rfl rfl, op rfl rfl, sel, op rfl rfl, op rfl rfl⟩
    case uset =>
      refine (execUset_ok hc hm hr hl).trans ?_
      unfold intCond
      rfl
    case masks =>
      have op {r : UniformRow} {k : ShapeA} {body : Ctx → Strand} (hi : exec r.i s = .next (uniformA u slot f k true body s))
          (hk : { k with uniform := true } = r.shape) (hb : body c = r.t) :
          (r.shape.legal f = false → exec r.i s = .next ((s.raise c 0x10 0x01 0 0).took u slot)) ∧
          (r.shape.legal f → r.shape.fits c.l.desc.regs f = false → exec r.i s = .next ((s.raise c 0x10 0x02 0 0).took u slot)) ∧
          (r.shape.legal f → r.shape.fits c.l.desc.regs f → exec r.i s = .next ((s.retire c r.t.advance).took u slot)) :=
        have ⟨hill, hres, hok⟩ := UniformRow.answers hc hi hk hb
        ⟨hill, hres rfl, hok rfl⟩
      intro r hr
      fin_cases hr <;> exact op rfl rfl rfl
    case sread =>
      intro r hr ha hl
      obtain rfl := State.ctx_u hc
      have hv : s.special c f.a = r.2 ∧ f.a < 9 := by
        rw [ha]
        fin_cases hr <;> exact ⟨rfl, by simp⟩
      rw [← hv.1]
      exact execSread_ok hc hv.2 hl
  · exact exec_of_uimm hc hg hn hd (v := fun _ => ofS 64 f.imm.toInt) rfl (.inl rfl)
  · exact exec_of_uimm hc hg hn hd (v := fun t => ofS 64 ((t.rdU f.a : Int) + f.imm.toInt)) rfl (.inr ha)
  · exact exec_of_uimm hc hg hn hd (v := fun t => t.rdU f.d % 2 ^ 32 + 2 ^ 32 * f.imm.toNat) rfl (.inl rfl)

/-! ### Immediates and lanes (R229, R234, R240, R241) -/

section

variable {u slot : Nat} {f : FmtI} {s : State} {c : Ctx} (hc : s.ctx u slot = some c) (hg : f.pg < 8) (hd : f.d < c.l.desc.regs)
include hc hg hd

theorem execMovi_ok :
    execMovi u slot f s =
      .next ((s.retire c (c.t.wrLanes (c.t.acting f.pg f.pn) false f.d (fun _ => f.imm.toNat)).advance).took u slot) :=
  congrArg _ (State.issue_ok hc ((need_bind (by simp [headOk, hg]) _ _).trans (need_bind (decide_eq_true hd) _ _)))

/-- ADDI: the sum of each acting lane, with its INT_WRAP. -/
theorem execAddi_ok (ha : f.a < c.l.desc.regs) (sum : Nat → Int) (hs : ∀ l, sum l = toS 32 (c.t.rdW l f.a) + toS 32 f.imm.toNat) :
    execAddi u slot f s = .next (((s.countVts u (Ev.sum ((lanesOf (c.t.acting f.pg f.pn)).map (fun l =>
      ({ intWrap := if toS 32 (ofS 32 (sum l)) ≠ sum l then 1 else 0 } : Ev))))).retire c
      (c.t.wrLanes (c.t.acting f.pg f.pn) false f.d (fun l => ofS 32 (sum l))).advance).took u slot) := by
  have hv (l : Nat) : ialuOp 32 false 0x01 (c.t.rdW l f.a) f.imm.toNat 0 =
      (ofS 32 (sum l), { intWrap := if toS 32 (ofS 32 (sum l)) ≠ sum l then 1 else 0 }) := by
    rw [hs]
    exact (wrapTo_eq 32 false _).trans (by simp)
  refine congrArg _ (State.issue_ok hc ((need_bind (by simp [headOk, hg]) _ _).trans
    ((need_bind (by simp [hd, ha]) _ _).trans ?_)))
  simp only [hv]

end

theorem collCheck_outside {t : Strand} (h : t.cd = 0) : collCheck t = .error (.cause 0x13 0x11 0 0) := need_stop (by simp [h]) _ _

theorem collCheck_partial {t : Strand} (h : 0 < t.cd) (ha : t.active ≠ 0xFFFFFFFF) : collCheck t = .error (.cause 0x13 0x10 0 0) := by
  have hall : (t.active == BitVec.allOnes 32) = false := beq_false_of_ne ha
  exact (need_bind (decide_eq_true h) _ _).trans (by rw [hall]; rfl)

/-- A lane's value read with the sign that MOD says. -/
def lredRead (wide uns : Bool) (x : Nat) : Int :=
  if uns then ((x % 2 ^ (if wide then 64 else 32) : Nat) : Int) else toS (if wide then 64 else 32) x

/-- A result extended to u[D]: whole, or its sign-extended low half. -/
def lredExtend (wide : Bool) (v : Int) : Nat := if wide then ofS 64 v else ofS 64 (toS 32 (ofS 32 v))

/-- A minimum or maximum extended to u[D]; an unsigned one of 32 bits is zero-extended. -/
def lredPick (wide uns : Bool) (v : Int) : Nat := if !wide && uns then ofS 32 v else lredExtend wide v

theorem lredValue_add (wide uns : Bool) (xs : List Nat) : lredValue 0 wide uns xs =
    lredExtend wide ((xs.map (toS (if wide then 64 else 32))).foldl (· + ·) 0) := by
  cases wide <;> cases uns <;> rfl

theorem lredValue_min (wide uns : Bool) (y : Nat) (xs : List Nat) : lredValue 1 wide uns (y :: xs) =
    lredPick wide uns ((xs.map (lredRead wide uns)).foldl min (lredRead wide uns y)) := by
  cases wide <;> cases uns <;> rfl

theorem lredValue_max (wide uns : Bool) (y : Nat) (xs : List Nat) : lredValue 2 wide uns (y :: xs) =
    lredPick wide uns ((xs.map (lredRead wide uns)).foldl max (lredRead wide uns y)) := by
  cases wide <;> cases uns <;> rfl

section

variable {u slot op : Nat} {f : FmtA} {s : State} {c : Ctx} (hc : s.ctx u slot = some c) (hm : f.mod < 4)
  (hu : op = 0 → bit f.mod 1 = false)
  (hl : ({ d := .u, a := .w, wa := bit f.mod 0, uniform := true, usrc := true, modOk := true } : ShapeA).legal f = true)
  (hf : ({ d := .u, a := .w, wa := bit f.mod 0, uniform := true, usrc := true, modOk := true } : ShapeA).fits c.l.desc.regs f = true)

include hm hu in
theorem lred_legal : (decide (f.mod < 4) && (op != 0 || !bit f.mod 1)) = true := by
  by_cases h0 : op = 0
  · simp [hm, h0, hu h0]
  · simp [hm, h0]

include hc hm hu hl hf

/-- An LRED of every lane inside a collective region. -/
theorem lred_ok (h : Together c) : lred op u slot f s = (s.retire c (c.t.wrU f.d (lredValue op (bit f.mod 0) (bit f.mod 1)
    ((List.range 32).map (fun l => c.t.src (bit f.mod 0) (bit f.usrc 0) l f.a)))).advance).took u slot := by
  refine State.issue_ok hc ?_
  rw [need_bind (lred_legal hm hu), ShapeA.check_ok hl hf, collCheck_of_together h]
  rfl

/-- An LRED that its region's check stops. -/
theorem lred_stopped {st code kind a : Nat} (h : collCheck c.t = .error (.cause st code kind a)) :
    lred op u slot f s = (s.raise c st code kind a).took u slot := by
  refine State.issue_cause hc ?_
  rw [need_bind (lred_legal hm hu), ShapeA.check_ok hl hf, h]
  rfl

end

/-- Settles O9: each instruction through its checks to its lanes' values; a reduction by the value of its operation. -/
theorem laneImmediates : Obligations.LaneImmediates := by
  refine ⟨fun u slot f s c hc hg hd => ⟨execMovi_ok hc hg hd, fun ha => execAddi_ok hc hg hd ha _ fun _ => rfl⟩,
    fun u slot f s c hc => ⟨fun hl hf => ?lshfl, fun ha hl hf => ?sreadw, fun hm => ?lred⟩⟩
  case lshfl => exact congrArg _ (threadA_ok hc rfl hl hf)
  case sreadw => exact congrArg _ (threadA_ok hc (decide_eq_true ha) hl hf)
  case lred =>
    intro wide uns w k x num lanes ext pick hl hf
    refine ⟨fun hd ha r hr hu => ?together, fun r hr hu => ?stopped⟩
    case together =>
      have hi : ∃ op, (op = 0 → uns = false) ∧ exec r.2.1 s = .next (lred op u slot f s) ∧
          lredValue op wide uns ((List.range 32).map x) = r.2.2 := by
        have hx : (List.range 32).map x = x 0 :: lanes.map x := rfl
        fin_cases hr
        · exact ⟨0, fun _ => hu rfl, rfl, by rw [lredValue_add, List.map_map]; rfl⟩
        · exact ⟨1, by simp, rfl, by rw [hx, lredValue_min, List.map_map]; rfl⟩
        · exact ⟨2, by simp, rfl, by rw [hx, lredValue_max, List.map_map]; rfl⟩
      obtain ⟨op, hop, hi, hv⟩ := hi
      rw [hi, lred_ok hc hm hop hl hf ⟨hd, ha⟩, ← hv]
      rfl
    case stopped =>
      have hi : ∃ op, (op = 0 → uns = false) ∧ exec r.2 s = .next (lred op u slot f s) := by
        fin_cases hr
        · exact ⟨0, fun _ => hu rfl, rfl⟩
        · exact ⟨1, by simp, rfl⟩
        · exact ⟨2, by simp, rfl⟩
      obtain ⟨op, hop, hi⟩ := hi
      rw [hi]
      exact ⟨fun hd => congrArg _ (lred_stopped hc hm hop hl hf (collCheck_outside hd)),
        fun hd ha => congrArg _ (lred_stopped hc hm hop hl hf (collCheck_partial hd ha))⟩

end Sys2Proof.Machine
end

section
/-! SUPPORT. Memory instructions as they issue: the accesses that each makes, and the addresses that end a launch. -/

namespace Sys2Proof.Machine

open Sys2Proof

/-! ### Addresses (R242) -/

/-- The lowest address that breaks a rule, or none. -/
theorem firstBad_spec (bad : Nat → Bool) (as : List Nat) :
    (firstBad bad as = none ∧ ∀ a ∈ as, bad a = false) ∨
    ∃ a ∈ as, bad a = true ∧ firstBad bad as = some a ∧ ∀ b ∈ as, bad b = true → a ≤ b := by
  induction as using List.reverseRecOn with
  | nil => exact .inl ⟨rfl, by simp⟩
  | append_singleton as x ih =>
    have hstep : firstBad bad (as ++ [x]) = if bad x then some ((firstBad bad as).elim x (min x)) else firstBad bad as := by
      cases hx : bad x <;> simp [firstBad, hx]
    rw [hstep]
    cases hx : bad x with
    | false =>
      refine ih.imp (fun ⟨hn, ha⟩ => ⟨hn, ?_⟩) (fun ⟨a, ha, hb, hs, hm⟩ => ⟨a, by simp [ha], hb, hs, ?_⟩)
      · simpa [or_imp, forall_and, hx] using ha
      · simpa [or_imp, forall_and, hx] using hm
    | true =>
      refine .inr ?_
      obtain ⟨hn, ha⟩ | ⟨a, ha, hb, hs, hm⟩ := ih
      · refine ⟨x, by simp, hx, by rw [hn]; rfl, ?_⟩
        simpa [or_imp, forall_and] using fun b h hb => absurd (ha b h) (by simp [hb])
      · rw [hs]
        by_cases hxa : x ≤ a
        · refine ⟨x, by simp, hx, congrArg some (min_eq_left hxa), ?_⟩
          simpa [or_imp, forall_and] using fun b h hb => hxa.trans (hm b h hb)
        · refine ⟨a, by simp [ha], hb, congrArg some (min_eq_right (Nat.le_of_not_le hxa)), ?_⟩
          simpa [or_imp, forall_and, hx] using ⟨hm, Nat.le_of_not_le hxa⟩

theorem firstBad_eq_none {bad : Nat → Bool} {as : List Nat} (h : ∀ a ∈ as, bad a = false) : firstBad bad as = none := by
  obtain ⟨hn, -⟩ | ⟨a, ha, hb, -, -⟩ := firstBad_spec bad as
  · exact hn
  · exact absurd (h a ha) (by simp [hb])

theorem firstBad_eq_some {bad : Nat → Bool} {as : List Nat} {a : Nat} (ha : a ∈ as) (hb : bad a = true)
    (hm : ∀ b ∈ as, bad b = true → a ≤ b) : firstBad bad as = some a := by
  obtain ⟨-, hn⟩ | ⟨x, hx, hxb, hs, hxm⟩ := firstBad_spec bad as
  · exact absurd (hn a ha) (by simp [hb])
  · rw [hs, Nat.le_antisymm (hxm a ha hb) (hm x hx hxb)]

section

variable {align n limit : Nat} {hmem : Bool} {k : Access} {as : List Nat}

theorem firstBad_aligned (h : ∀ a ∈ as, a % align = 0) : firstBad (fun a => a % align != 0) as = none :=
  firstBad_eq_none fun a ha => by simp [h a ha]

theorem addrCheck_ok (h : ∀ a ∈ as, a % align = 0 ∧ (hmem → a + n ≤ limit)) : addrCheck align n hmem limit k as = .ok () := by
  have hr : (if hmem then firstBad (fun a => decide (limit < a + n)) as else none) = none := by
    cases hmem with
    | false => rfl
    | true => exact firstBad_eq_none fun a ha => decide_eq_false (Nat.not_lt.2 ((h a ha).2 rfl))
  unfold addrCheck
  rw [firstBad_aligned fun a ha => (h a ha).1, hr]

/-- The lowest address that is not aligned. -/
theorem addrCheck_align {a : Nat} (ha : a ∈ as) (hb : a % align ≠ 0) (hm : ∀ b ∈ as, b % align ≠ 0 → a ≤ b) :
    addrCheck align n hmem limit k as = .error (.cause 0x17 0x20 k.code a) := by
  unfold addrCheck
  rw [firstBad_eq_some (a := a) ha (by simpa using hb) (by simpa using hm)]

/-- The lowest address past the hank memory, where all are aligned. -/
theorem addrCheck_range {a : Nat} (hal : ∀ b ∈ as, b % align = 0) (ha : a ∈ as) (hb : limit < a + n)
    (hm : ∀ b ∈ as, limit < b + n → a ≤ b) : addrCheck align n true limit k as = .error (.cause 0x17 0x21 k.code a) := by
  unfold addrCheck
  rw [firstBad_aligned hal, if_pos rfl, firstBad_eq_some (a := a) ha (by simpa using hb) (by simpa using hm)]

end

theorem mAddress_eq (f : FmtM) (t : Strand) (off : Int) : mAddress f t off = laneAddress f t off := by
  funext l
  unfold mAddress laneAddress
  cases f.space with
  | true => rfl
  | false => exact (Nat.mod_eq_of_lt (ofS_lt ..)).symm

/-! ### Format M (R230, R234) -/

theorem mHead_of {uniform : Bool} {f : FmtM} {regs : Nat} (hg : headOk uniform f.pg f.pn = true) (hs : f.size < 5)
    (hb : BaseFits f regs) : mHead uniform f = true := by
  unfold BaseFits at hb
  cases hu : f.baseU <;> simp_all [mHead]

theorem mBaseFits_of {f : FmtM} {regs : Nat} (hb : BaseFits f regs) : mBaseFits f regs = true := by
  unfold BaseFits at hb
  cases hu : f.baseU <;> simp_all [mBaseFits]

section

variable {u slot : Nat} {f : FmtM} {s : State} {c : Ctx} {store : Bool} (hc : s.ctx u slot = some c) (hg : f.pg < 8) (hs : f.size < 5)
  (hb : BaseFits f c.l.desc.regs) (hd : f.data % sizeRegs f.size = 0) (hr : f.data + sizeRegs f.size ≤ c.l.desc.regs)
  (ho : if store then f.ord = 0 ∨ f.ord = 2 else f.ord < 2)
include hc hg hs hb hd hr ho

/-- A legal LD or ST within the allocation is what the check of its addresses says. -/
theorem ldst_checked :
    (addrCheck (2 ^ f.size) (2 ^ f.size) f.space (1024 * c.l.desc.hmem) (if store then .store else .load)
        ((lanesOf (c.t.acting f.pg f.pn)).map (laneAddress f c.t f.off.toInt)) = .ok () →
      ldst store u slot f s = (s.memStart c (ldStOp store f c)).took u slot) ∧
    ∀ st code kind a, addrCheck (2 ^ f.size) (2 ^ f.size) f.space (1024 * c.l.desc.hmem) (if store then .store else .load)
        ((lanesOf (c.t.acting f.pg f.pn)).map (laneAddress f c.t f.off.toInt)) = .error (.cause st code kind a) →
      ldst store u slot f s = (s.raise c st code kind a).took u slot := by
  have hlegal : (mHead false f && f.data % sizeRegs f.size == 0 &&
      (if store then f.ord == 0 || f.ord == 2 else decide (f.ord < 2))) = true := by
    rw [mHead_of (by simp [headOk, hg]) hs hb, hd]
    cases store <;> simpa using ho
  have hfits : (mBaseFits f c.l.desc.regs && decide (f.data + sizeRegs f.size ≤ c.l.desc.regs)) = true := by
    rw [mBaseFits_of hb, decide_eq_true hr]; rfl
  refine ⟨fun h => State.issue_ok hc ?_, fun st code kind a h => State.issue_cause hc ?_⟩
  · rw [need_bind hlegal, need_bind hfits]
    simp only [mAddress_eq, sizeBytes, h]
    cases store <;> rfl
  · rw [need_bind hlegal, need_bind hfits]
    simp only [mAddress_eq, sizeBytes, h]
    rfl

end

section

variable {u slot : Nat} {f : FmtM} {s : State} {c : Ctx} (hc : s.ctx u slot = some c)
include hc

theorem ldst_fine {store : Bool} (h : LdStFine store f c) : ldst store u slot f s = (s.memStart c (ldStOp store f c)).took u slot := by
  obtain ⟨hg, hs, hb, hd, hr, ho, ha⟩ := h
  exact (ldst_checked hc hg hs hb hd hr ho).1 (addrCheck_ok ha)

theorem execUld_fine (h : UldFine f c) : execUld u slot f s = .next ((s.memStart c (uldOp f c)).took u slot) := by
  obtain ⟨hg, hn, hs, hbu, hb, hsp, hd, ho, ha⟩ := h
  refine congrArg _ (State.issue_ok hc ?_)
  have hhead : mHead true f = true := mHead_of (regs := 0) (by simp [headOk, hg, hn]) (by omega) (by rw [BaseFits, if_pos hbu]; exact hb)
  have hlegal : (mHead true f && f.baseU && !f.space && decide (f.size < 4) && decide (f.data < 64) && decide (f.ord < 2)) = true := by
    simp [hhead, hbu, hsp, hs, hd, ho]
  have haddr : addrCheck (2 ^ f.size) (2 ^ f.size) false 0 .load [laneAddress f c.t f.off.toInt 0] = .ok () :=
    addrCheck_ok (by simpa using ha)
  rw [need_bind hlegal]
  simp only [mAddress_eq, sizeBytes, haddr]
  rfl

theorem atom_fine {op : Nat} (h : AtomFine op f c) : atom op u slot f s = (s.memStart c (atomOp op f c)).took u slot := by
  obtain ⟨hg, hs, hoff, ho, hb, hev, hfit, ha⟩ := h
  have hhead : mHead false f = true := mHead_of (by simp [headOk, hg]) (by omega) hb
  have hlegal : (mHead false f && f.off.toNat / 65536 == 0 && (f.size == 2 || (f.size == 3 && op != 0x12)) && decide (f.ord < 4)
      && (!(f.size == 3) || (f.data % 2 == 0 && f.off.toNat % 256 % 2 == 0 && (!(op == 0x11) || f.off.toNat / 256 % 256 % 2 == 0)))) =
      true := by
    rcases hs with hs | ⟨hs, hop⟩
    · simp [hhead, hs, ho, Nat.div_eq_of_lt hoff]
    · rw [if_pos hs] at hev
      obtain ⟨h1, h2, h3⟩ := hev
      simpa [hhead, hs, hop, ho, Nat.div_eq_of_lt hoff, h1, h2, Classical.or_iff_not_imp_left] using h3
  have hfits : (mBaseFits f c.l.desc.regs && decide (f.data + b2n (f.size == 3) < c.l.desc.regs)
      && decide (f.off.toNat % 256 + b2n (f.size == 3) < c.l.desc.regs)
      && (!(op == 0x11) || decide (f.off.toNat / 256 % 256 + b2n (f.size == 3) < c.l.desc.regs))) = true := by
    have hn : (if f.size = 3 then 2 else 1) = b2n (f.size == 3) + 1 := by rcases hs with hs | ⟨hs, -⟩ <;> simp [hs, b2n]
    simp only [hn, ← Nat.add_assoc, Nat.add_one_le_iff] at hfit
    obtain ⟨h1, h2, h3⟩ := hfit
    rw [mBaseFits_of hb, decide_eq_true h1, decide_eq_true h2]
    simpa [Classical.or_iff_not_imp_left] using h3
  refine State.issue_ok hc ?_
  rw [need_bind hlegal, need_bind hfits]
  simp only [mAddress_eq, sizeBytes, addrCheck_ok ha]
  rfl

theorem fence_fine (ord : Nat) (h : FenceFine f) : fence ord u slot f s = (s.memStart c (fenceOp ord f)).took u slot := by
  obtain ⟨hg, hn, ho, hd, hb, hs, hsg, hsp, hoff⟩ := h
  exact State.issue_ok hc (need_bind (by simp [headOk, hg, hn, ho, hd, hb, hs, hsg, hsp, hoff]) _ _)

end

/-! ### Tile transfers (R233, R242) -/

theorem ok_bind {α β : Type} (a : α) (k : α → Except Stop β) : (Except.ok a >>= k) = k a := rfl

section

variable {u slot : Nat} {f : FmtT} {s : State} {c : Ctx} (hc : s.ctx u slot = some c) {store : Bool}
  (hv : store = true → (s.unit u).copies = [])
include hc hv

/-- A store reads its tile with no copy in flight, a load reads none. -/
theorem State.storeView (t : Nat) : (if store then s.viewTiles c [t] else (c.hank, s)) = (c.hank, s) := by
  cases store with
  | false => rfl
  | true => exact State.ctx_viewTiles hc (hv rfl) _

theorem tileRows_fine (h : TileMoveFine true store f s c) :
    tileRows store u slot f s = (s.memStart c (tileMoveOp true store f c)).took u slot := by
  obtain ⟨hl, ht, hg, hm, ha⟩ := h
  have haddr : addrCheck 16 128 (bit f.mode 0) (1024 * c.l.desc.hmem) (if store then .store else .load)
      ((List.range 32).map (tileRowAddress f c)) = .ok () := addrCheck_ok ha
  obtain rfl := State.ctx_u hc
  rw [Bool.and_true] at hm
  refine State.issue_ok hc ((need_bind hl _ _).trans ((need_bind (decide_eq_true ht) _ _).trans ?_))
  rw [collCheck_of_together hg, ok_bind, if_neg (ne_true_of_eq_false hm)]
  refine (congrArg (· >>= _) haddr).trans ?_
  rw [ok_bind, State.storeView hc hv]
  cases store <;> rfl

theorem sideFile_fine (h : TileMoveFine false store f s c) :
    sideFile store u slot f s = (s.memStart c (tileMoveOp false store f c)).took u slot := by
  obtain ⟨hl, ht, hg, hm, ha⟩ := h
  have haddr : addrCheck 16 1024 (bit f.mode 0) (1024 * c.l.desc.hmem) (if store then .store else .load) [sideAddress f c] = .ok () :=
    addrCheck_ok ha
  obtain rfl := State.ctx_u hc
  rw [Bool.and_false, if_neg Bool.false_ne_true] at hm
  refine State.issue_ok hc ((need_bind hl _ _).trans ((need_bind (decide_eq_true ht) _ _).trans ?_))
  rw [collCheck_of_together hg, ok_bind, if_neg (ne_true_of_eq_false hm)]
  refine (congrArg (· >>= _) haddr).trans ?_
  rw [ok_bind, State.storeView hc hv]
  cases store <;> rfl

end

/-- Settles O10: each memory instruction through its checks to the accesses that it makes, or to the lowest address out of rule. -/
theorem memoryInstructionsAccess : Obligations.MemoryInstructionsAccess := by
  refine ⟨fun u slot f s c hc => ⟨fun h => congrArg _ (ldst_fine hc h), fun h => congrArg _ (ldst_fine hc h), execUld_fine hc,
    fun r hr h => ?atom, fun r hr h => ?fence, ?bad⟩,
    fun u slot f s c hc => ⟨fun h => congrArg _ (tileRows_fine hc (by simp) h), fun h => congrArg _ (sideFile_fine hc (by simp) h),
      fun hcp h => congrArg _ (tileRows_fine hc (fun _ => hcp) h), fun hcp h => congrArg _ (sideFile_fine hc (fun _ => hcp) h)⟩⟩
  case atom =>
    have hi : exec r.2 s = .next (atom r.1 u slot f s) := by fin_cases hr <;> rfl
    rw [hi, atom_fine hc h]
  case fence =>
    have hi : exec r.2 s = .next (fence r.1 u slot f s) := by fin_cases hr <;> rfl
    rw [hi, fence_fine hc r.1 h]
  case bad =>
    intro r hr k as hg hs hb hd hfit ho a ha
    have hi : exec r.2 s = .next (ldst r.1 u slot f s) ∧ (if r.1 then Access.store else .load).code = b2n r.1 := by
      fin_cases hr <;> exact ⟨rfl, rfl⟩
    have hstop := (ldst_checked hc hg hs hb hd hfit ho).2
    refine ⟨fun hbad hm => ?_, fun hsp hal hbad hm => ?_⟩
    · rw [hi.1, hstop _ _ _ _ (addrCheck_align ha hbad hm), hi.2]
    · rw [hsp] at hstop
      rw [hi.1, hstop _ _ _ _ (addrCheck_range hal ha hbad hm), hi.2]

end Sys2Proof.Machine
end

section
/-! SUPPORT. Asynchronous copies: what an ACPY comes to as it issues, and what a copy with its source read leaves. -/

namespace Sys2Proof.Machine

open Sys2Proof

/-! ### Issue (R265 to R272) -/

/-- Reading back a value that is not the default, in any table. -/
theorem Tbl.get_set_same {α : Type} [DecidableEq α] (d : α) (t : Tbl α) (i : Nat) {x : α} (hx : x ≠ d) :
    Tbl.get d (Tbl.set d t i x) i = x := by
  induction t with
  | nil => simp [Tbl.set, hx, Tbl.get_cons]
  | cons e t ih =>
    obtain ⟨k, v⟩ := e
    simp only [Tbl.set, if_neg hx]
    split_ifs with h1 h2
    · simp [Tbl.get_cons]
    · simp [Tbl.get_cons]
    · rw [Tbl.get_cons, if_neg (Ne.symm h2)]
      exact ih

/-- The copy that an ACPY word makes (R264 to R273). -/
def acpyCopy (kind : CopyKind) (slot : Nat) (f : FmtQ) (s : State) (c : Ctx) : Copy :=
  { kind := kind, launch := c.hank.launch, hank := c.hank.index, slot := slot, src := c.t.rdU f.us,
    rows := if decide (kind = .h) then bits (c.t.rdU f.ug) 16 16 else 0,
    rowBytes := if decide (kind = .h) then bits (c.t.rdU f.ug) 0 16 else 0,
    stride := if kind = .sf then 0 else bits (c.t.rdU f.ug) 32 32,
    dst := if decide (kind = .h) then c.t.rdU f.ud % 2 ^ 32 else f.td,
    ac := f.ac, qf := f.qf, h := f.h, rm := f.rm, bf := f.sf, cap := f.cap, ws := f.ws, pc := c.t.pc, id := (s.unit c.u).copySeq }

/-- The word is legal, its features are there and its objects are allocated. -/
def AcpyLegal (kind : CopyKind) (f : FmtQ) (c : Ctx) : Prop :=
  kind.fields.legal f = true ∧
    (kind = .q → c.cmd.features.getLsbD 4 = true ∧ (f.qf = 6 → c.cmd.features.getLsbD 6 = true)) ∧
    f.ac < c.l.desc.acs ∧ (¬kind = .h → f.td < c.l.desc.tiles)

/-- The shape of a copy (R268). -/
theorem Copy.shapeOk_iff (k : Copy) : k.shapeOk = true ↔
    (k.kind = .h → k.rowBytes ≠ 0 ∧ k.rows ≠ 0 ∧ k.rowBytes % 16 = 0) ∧ (k.kind ≠ .sf → k.stride % 16 = 0) := by
  unfold Copy.shapeOk
  cases k.kind <;> simp [and_assoc]

/-- A unit of which a copy takes the next number. -/
theorem State.modUnit_unit_of_ne {s : State} {u : Nat} {f : UnitSt → UnitSt} (h : f (s.unit u) ≠ {}) :
    (s.modUnit u f).unit u = f (s.unit u) := Tbl.get_set_same _ _ _ h

/-- The state with a copy's number taken. -/
def State.numberCopy (s : State) (u : Nat) : State := s.modUnit u (fun x => { x with copySeq := x.copySeq + 1 })

theorem State.numberCopy_inFlight (s : State) (u : Nat) : ((s.numberCopy u).unit u).inFlight = (s.unit u).inFlight := by
  have hne : ({ s.unit u with copySeq := (s.unit u).copySeq + 1 } : UnitSt) ≠ {} := fun h =>
    Nat.succ_ne_zero _ (congrArg UnitSt.copySeq h)
  rw [State.numberCopy, State.modUnit_unit_of_ne hne]
  rfl

section

variable {u slot : Nat} {f : FmtQ} {s : State} {c : Ctx} {kind : CopyKind} (hc : s.ctx u slot = some c) (hl : AcpyLegal kind f c)

include hl in
theorem AcpyLegal.features : (kind != .q || (c.cmd.features.getLsbD 4 && (f.qf != 6 || c.cmd.features.getLsbD 6))) = true := by
  obtain ⟨-, hq, -⟩ := hl
  cases kind <;> simp_all [Classical.or_iff_not_imp_left]

include hl in
theorem AcpyLegal.objects : (decide (f.ac < c.l.desc.acs) && (!kind.toTile || decide (f.td < c.l.desc.tiles))) = true := by
  obtain ⟨-, -, ha, ht⟩ := hl
  cases kind <;> simp_all [CopyKind.toTile]

include hc hl

/-- A copy of a shape out of rule (R268). -/
theorem acpy_misshapen (hs : (acpyCopy kind slot f s c).shapeOk = false) :
    acpy kind u slot f s = (s.raise c 0x10 0x07 0 0).took u slot := by
  obtain rfl := State.ctx_u hc
  exact State.issue_cause hc ((need_bind hl.1 _ _).trans ((need_bind hl.features _ _).trans ((need_bind hl.objects _ _).trans
    (need_stop hs _ _))))

variable (hs : (acpyCopy kind slot f s c).shapeOk = true)
include hs

/-- A copy from a source that is not aligned (R269). -/
theorem acpy_misaligned (ha : (acpyCopy kind slot f s c).src % 16 ≠ 0) :
    acpy kind u slot f s = (s.raise c 0x17 0x20 4 (acpyCopy kind slot f s c).src).took u slot := by
  obtain rfl := State.ctx_u hc
  exact State.issue_cause hc ((need_bind hl.1 _ _).trans ((need_bind hl.features _ _).trans ((need_bind hl.objects _ _).trans
    ((need_bind hs _ _).trans (need_stop (beq_false_of_ne ha) _ _)))))

/-- A copy that passes its checks takes a place, or waits for one (R271). -/
theorem acpy_issues (ha : (acpyCopy kind slot f s c).src % 16 = 0)
    (hd : kind = .h → (acpyCopy kind slot f s c).dst % 16 = 0 ∧ (acpyCopy kind slot f s c).dst + (acpyCopy kind slot f s c).rows *
      (acpyCopy kind slot f s c).rowBytes ≤ 1024 * c.l.desc.hmem) :
    acpy kind u slot f s = (if (s.unit u).inFlight < 64 then
      ((s.numberCopy u).copyIssue c (acpyCopy kind slot f s c)).retire c c.t.advance
      else (s.numberCopy u).setStrand c { c.t with wait := .copySlot (acpyCopy kind slot f s c) }).took u slot := by
  obtain rfl := State.ctx_u hc
  have hal : (!decide (kind = .h) || (acpyCopy kind slot f s c).dst % 16 == 0) = true := by
    simpa [Classical.or_iff_not_imp_left] using fun h => (hd h).1
  have hin : (!decide (kind = .h) || decide ((acpyCopy kind slot f s c).dst + (acpyCopy kind slot f s c).rows *
      (acpyCopy kind slot f s c).rowBytes ≤ 1024 * c.l.desc.hmem)) = true := by
    simpa [Classical.or_iff_not_imp_left] using fun h => (hd h).2
  refine State.issue_ok hc ((need_bind hl.1 _ _).trans ((need_bind hl.features _ _).trans ((need_bind hl.objects _ _).trans
    ((need_bind hs _ _).trans ((need_bind (beq_iff_eq.2 ha) _ _).trans ((need_bind hal _ _).trans ((need_bind hin _ _).trans ?_)))))))
  rw [← State.numberCopy_inFlight s c.u]
  rfl

end

/-! ### Completion (R162, R274 to R280) -/

section

variable {k : Copy} (hk : k.touched = [])
include hk

/-- Bytes that nothing has written over since the copy's issue, with no later copy done. -/
theorem copyBytes_untouched (bs : List Byte) (a : Nat) (h : Hank) (s : State) : copyBytes k [] bs a h s = (h.hwrite a bs, s) := by
  induction bs generalizing a h with
  | nil => rfl
  | cons b bs ih =>
    unfold copyBytes
    rw [hk]
    exact ih ..

theorem copyRows_untouched (tile : Bool) (rows : List Nat) (v : Hank → Nat → Hank) (h : Hank) (s : State) :
    copyRows k tile rows v h s = (rows.foldl v h, s) := by
  unfold copyRows
  rw [hk]
  induction rows generalizing h with
  | nil => rfl
  | cons r rows ih =>
    rw [List.foldl_cons, List.foldl_cons]
    exact ih ..

end

/-- What a copy writes of its hank: bytes, or rows and side-file rows. -/
def Copy.written (k : Copy) (d : CopyData) (h : Hank) : Hank :=
  match k.kind with
  | .h => h.hwrite k.dst d.bytes
  | _ => (List.range d.sides.length).foldl (fun h r => h.setSideRow k.dst r ((d.sides[r]?).getD 0))
      ((List.range d.rows.length).foldl (fun h r => h.setTileRow k.dst r ((d.rows[r]?).getD 0)) h)

theorem State.copyWrite_untouched {k : Copy} (hk : k.touched = []) (s : State) (d : CopyData) (h : Hank) :
    s.copyWrite k [] d h = (k.written d h, s) := by
  unfold State.copyWrite Copy.written
  cases k.kind
  · exact copyBytes_untouched hk ..
  all_goals
    simp only [List.any_nil, Bool.false_eq_true, if_false, copyRows_untouched hk]

/-- A hank once a copy has written it: its range counts, its capture, its witness tile, and the counters that count the copies
completed in order. -/
def Hank.afterCopy (h : Hank) (c : Ctx) (k : Copy) (d : CopyData) (counts : List Nat) (now : Nat) : Hank :=
  let h1 := k.written d h
  let h2 := { h1 with range := h1.range.count d.range, wit := h1.wit.capture c k d.bf16Rows }
  counts.foldl (fun h n => { h with acs := Tbl.upd 0 h.acs n (wrapAdd 32 · 1), progress := now })
    (if k.kind = .t || k.kind = .q then h2.wroteTile k.dst else h2)

/-- COPY_COMPLETE of a copy with its source read, where nothing has written over it and no later copy is done. -/
theorem execCopyComplete_read {u i : Nat} {s s1 : State} {k : Copy} {c : Ctx} {d : CopyData} {h : Hank}
    (hi : (s.unit u).copies[i]? = some k) (hc : s.ctxAny u k.slot = some c) (ha : s.alive = true) (hd : k.done = false)
    (hr : s.copyRead { c with t := { c.t with pc := k.pc } } k = (.ok d, s1)) (hh : s1.hankAt u k.slot = some h) (hk : k.touched = [])
    (hl : ∀ j ∈ (s1.unit u).copies.drop (i + 1), j.done = false) :
    execCopyComplete u i s =
      let c' : Ctx := { c with t := { c.t with pc := k.pc } }
      let cs := countCopies k.launch k.hank ((s1.unit u).copies.set i { k with done := true }) []
      .next (((((s1.onHank c' (fun _ => h.afterCopy c' k d cs.2 (s1.ucyc u))).modUnit u (fun x =>
        { x with copies := cs.1.dropWhile (·.counted) })).countVts u { flushIn := d.flush }).wakeCounters c').startCopyWaiter u) := by
  have hlater : ((s1.unit u).copies.drop (i + 1)).filter (fun j => j.launch == k.launch && j.hank == k.hank && j.done) = [] :=
    List.filter_eq_nil_iff.2 fun j hj => by simp [hl j hj]
  simp only [execCopyComplete, State.copyGo, hi, hc, ha, hd, hr, hh, hlater, State.copyWrite_untouched hk, Bool.not_true, Bool.or_self,
    Bool.false_eq_true, if_false]
  rfl

/-- Settles O19: an ACPY by its checks, a copy with its source read by what it writes and counts. -/
theorem copiesIssueAndComplete : Obligations.CopiesIssueAndComplete := by
  refine ⟨fun u slot f s c hc r hr => ?issue, ?complete, fun launch hank k hl hh hk => ?count⟩
  case issue =>
    intro g isH k s0 shape legal
    obtain rfl := State.ctx_u hc
    have hi : exec r.2 s = .next (acpy r.1 c.u slot f s) ∧ acpyCopy r.1 slot f s c = k := by fin_cases hr <;> exact ⟨rfl, rfl⟩
    obtain ⟨hi, hcopy⟩ := hi
    have hshape : k.shapeOk = true ↔ shape := Copy.shapeOk_iff k
    rw [hi]
    refine ⟨fun hl hs ha hd => ?_, fun hl hs => ?_, fun hl hs ha => ?_⟩
    · have hgo := acpy_issues (kind := r.1) hc hl (by rw [hcopy]; exact hshape.2 hs) (by rw [hcopy]; exact ha) (by rw [hcopy]; exact hd)
      rw [hgo, hcopy]
      exact ⟨fun h => by rw [if_pos h]; rfl, fun h => by rw [if_neg (Nat.not_lt.2 h)]; rfl⟩
    · rw [acpy_misshapen hc hl (by rw [hcopy]; exact eq_false_of_ne_true (mt hshape.1 hs))]
    · rw [acpy_misaligned hc hl (by rw [hcopy]; exact hshape.2 hs) (by rw [hcopy]; exact ha), hcopy]
  case complete =>
    intro u i s s1 k c d h hi hc ha hd c' hr hh hk hl rows sides h1 h2 h3 cs h4
    have hw : h1 = k.written d h := by
      unfold h1 Copy.written
      cases k.kind <;> rfl
    have h4eq : h4 = h.afterCopy c' k d cs.2 (s1.ucyc u) := by
      unfold h4 h3 h2 Hank.afterCopy
      simp only [hw, Bool.or_eq_true, decide_eq_true_eq]
    rw [h4eq]
    exact execCopyComplete_read hi hc ha hd hr hh hk hl
  case count =>
    subst hl hh
    simp [countCopies, hk]

end Sys2Proof.Machine
end

section

/-! SUPPORT. Retiring (R244, R342): what is looked up of the next instruction. -/

namespace Sys2Proof.Machine

open Sys2Proof

/-- Two changes of one unit are one. -/
theorem State.modUnit_modUnit {s : State} (u : Nat) (f g : UnitSt → UnitSt) (h : Tbl.wf {} s.units = true) :
    (s.modUnit u f).modUnit u g = s.modUnit u (fun x => g (f x)) := by
  have h1 := Tbl.wf_upd {} s.units u f h
  unfold State.modUnit
  refine congrArg (fun t => ({ s with units := t } : State)) (Tbl.ext_get {} _ _ (Tbl.wf_upd _ _ _ _ h1) (Tbl.wf_upd _ _ _ _ h) fun i => ?_)
  rw [Tbl.get_upd _ _ _ _ _ h1, Tbl.get_upd _ _ _ _ _ h, Tbl.get_upd _ _ _ _ _ h, Tbl.get_upd _ _ _ _ _ h, if_pos rfl]
  split <;> rfl

/-! ### The address map reads the image only -/
section

variable {s s' : State} (h : s'.sec = s.sec)
include h

theorem State.backed_of_sec : s'.backed = s.backed := by
  unfold State.backed State.scrWays
  rw [h]

theorem State.scrGroup_of_sec : s'.scrGroup = s.scrGroup := by
  unfold State.scrGroup State.scrWays
  rw [h]

theorem State.scrOwner_of_sec : s'.scrOwner = s.scrOwner := by
  unfold State.scrOwner
  rw [h]

theorem State.apertureEn_of_sec : s'.apertureEn = s.apertureEn := by
  unfold State.apertureEn
  rw [h]

theorem State.inSpillOrRemap_of_sec : s'.inSpillOrRemap = s.inSpillOrRemap := by
  unfold State.inSpillOrRemap State.remapBase State.spillBase State.remapEn State.spillShift
  rw [h]

theorem State.placeOf_of_sec : s'.placeOf = s.placeOf := by
  unfold State.placeOf
  rw [State.backed_of_sec h, State.apertureEn_of_sec h, State.inSpillOrRemap_of_sec h]

theorem State.localCause_of_sec : s'.localCause = s.localCause := by
  unfold State.localCause State.foreignScratch
  rw [State.placeOf_of_sec h, State.scrGroup_of_sec h, State.scrOwner_of_sec h]

theorem State.l1Tag_of_sec (hi : s'.hws = s.hws) : s'.l1Tag = s.l1Tag := by
  unfold State.l1Tag State.lineAt
  rw [State.placeOf_of_sec h, hi]

end
/-! ### Translations and lines -/

section

variable {s : State} {u asid va : Nat} {e : Tlb}

/-- A translation in the unit's cache. -/
theorem State.tlbLookup_unit (h : (s.unit u).tlb.find? (fun x => x.hits asid va) = some e) :
    s.tlbLookup u asid va = (some e, s.modUnit u (fun x => { x with tlb := keepMru 64 e x.tlb })) := by
  simp only [State.tlbLookup, h]

/-- A translation that only the cluster's cache holds. -/
theorem State.tlbLookup_cluster (h : (s.unit u).tlb.find? (fun x => x.hits asid va) = none)
    (hc : (s.cluster (clusterOf u)).tlb.find? (fun x => x.hits asid va) = some e) :
    s.tlbLookup u asid va = (some e, (s.modUnit u (fun x => { x with tlb := keepMru 64 e x.tlb })).modCluster (clusterOf u)
      (fun x => { x with tlb := keepLeaf e x.tlb })) := by
  simp only [State.tlbLookup, h, hc]

/-- A translation that no cache holds. -/
theorem State.tlbLookup_none (h : (s.unit u).tlb.find? (fun x => x.hits asid va) = none)
    (hc : (s.cluster (clusterOf u)).tlb.find? (fun x => x.hits asid va) = none) : s.tlbLookup u asid va = (none, s) := by
  simp only [State.tlbLookup, h, hc]

end

/-- An address of this package that the launch may use is served here. -/
theorem State.route_here {s : State} {c : Ctx} {pa : Nat} (hl : locality s.hws.indexValid s.hws.index pa = .here)
    (hp : s.localCause c.cmd.coil (paLocal pa) = none) : s.route c pa = .here (paLocal pa) := by
  simp only [State.route, hl, hp]

/-- The state once the line of a strand's next instruction is used, or asked of the cluster cache. -/
def State.fetchedLine (s : State) (u slot tag : Nat) : State :=
  if ((s.unit u).l1Find tag).isSome then s.modUnit u (fun x => x.l1Touch tag)
  else (s.modUnit u (fun x => { x with
    fetchMiss := x.fetchMiss ++ [(slot, tag)], misses := if x.misses.contains tag then x.misses else x.misses ++ [tag] })).agentMiss
      (clusterOf u) (tag % 2 ^ 42) false

/-- The line of an instruction on a cached page served here. -/
theorem State.fetchLine_here {s : State} {c : Ctx} {pa tag a : Nat} (hu : Tbl.wf {} s.units = true) (ht : s.l1Tag pa = some tag)
    (hr : s.route c pa = .here a) : s.fetchLine c pa 0 = (.ok (), s.fetchedLine c.u c.slot tag) := by
  unfold State.fetchLine State.fetchedLine
  rw [ht, hr]
  by_cases hf : ((s.unit c.u).l1Find tag).isSome = true
  · simp [hf]
  · simp only [hf, decide_true, Bool.and_false, Bool.false_eq_true, if_false, ne_eq, not_true]
    rw [State.modUnit_modUnit _ _ _ hu]

/-- A translation that lets the instruction be fetched from a cached page served here. -/
theorem State.fetchAhead_here {s0 s s1 : State} {c : Ctx} {pc tag : Nat} {e : Tlb} (hu : Tbl.wf {} s1.units = true)
    (hk : s.tlbLookup c.u (asAsid c.cmd.asroot) pc = (some e, s1)) (hsec : s1.sec = s0.sec) (hhws : s1.hws = s0.hws)
    (he : permCause e.flags .fetch = none) (hp : e.pbmt = 0) (hl : locality s0.hws.indexValid s0.hws.index (e.pa pc) = .here)
    (hc : s0.localCause c.cmd.coil (paLocal (e.pa pc)) = none) (ht : s0.l1Tag (e.pa pc) = some tag) :
    s.fetchAhead c pc = s1.fetchedLine c.u c.slot tag := by
  have hr : s1.route { c with t := { c.t with pc := pc } } (e.pa pc) = .here (paLocal (e.pa pc)) :=
    State.route_here (by rw [hhws]; exact hl) (by rw [State.localCause_of_sec hsec]; exact hc)
  have hf := State.fetchLine_here hu (by rw [State.l1Tag_of_sec hsec hhws]; exact ht) hr
  unfold State.fetchAhead
  rw [hk]
  simp only [he, hp, hr, hf]

/-! ### The frame of a strand -/

section

variable {s : State} (c : Ctx) (t : Strand) (hu : Tbl.wf {} s.units = true)
include hu

/-- The context's unit once its strand is replaced. -/
theorem State.setStrand_unit_same : (s.setStrand c t).unit c.u = { s.unit c.u with hanks := (s.unit c.u).hanks.map (fun h =>
    if h.launch == c.hank.launch && h.index == c.hank.index then h.setStrand t else h) } :=
  State.modUnit_unit_same _ _ hu

theorem State.setStrand_unit_ne {v : Nat} (h : v ≠ c.u) : (s.setStrand c t).unit v = s.unit v := by
  unfold State.setStrand State.modHank
  rw [State.modUnit_unit _ _ _ _ hu, if_neg h]

end

/-- A strand in another slot than the one replaced stood there before. -/
theorem Hank.mem_setStrand_ne {h : Hank} {t x : Strand} (hx : x ∈ (h.setStrand t).strands) (hn : x.slot ≠ t.slot) : x ∈ h.strands := by
  obtain ⟨y, hy, rfl⟩ := List.mem_map.1 hx
  by_cases hs : y.slot = t.slot <;> simp_all

/-- Settles O23: retiring through the translation that a cache holds (`State.fetchAhead_here`) or through a walk, and the frame of
`State.setStrand`. -/
theorem unitWorkStaysInItsUnit : Obligations.UnitWorkStaysInItsUnit := by
  refine ⟨fun s c t e tag hT he hp hl hc ht => ?cached, fun s c t hT hn hcn => ?walk, fun s c t hu => ?frame⟩
  case cached =>
    intro cl fetched own
    obtain ⟨hu, -⟩ := hT
    have hu1 : Tbl.wf {} (s.setStrand c t).units = true := State.wf_modUnit _ _ hu
    have hwf : Tbl.wf {} own.units = true := State.wf_modUnit _ _ hu1
    have hun := State.setStrand_unit_same c t hu
    have hf : ∀ s1 : State, (s1.unit c.u).l1 = (s.unit c.u).l1 → fetched s1 = s1.fetchedLine c.u c.slot tag := by
      intro s1 h1
      unfold fetched State.fetchedLine UnitSt.l1Find
      rw [h1]
    have hown : (own.unit c.u).l1 = (s.unit c.u).l1 := by
      unfold own
      rw [State.modUnit_unit_same _ _ hu1, hun]
    refine ⟨fun h => ?_, fun h h' => ?_⟩
    · exact (State.fetchAhead_here (s0 := s) (s1 := own) hwf (State.tlbLookup_unit (by rw [hun]; exact h))
        rfl rfl he hp hl hc ht).trans (hf own hown).symm
    · exact (State.fetchAhead_here (s0 := s) (s1 := own.modCluster cl _) hwf
        (State.tlbLookup_cluster (by rw [hun]; exact h) h') rfl rfl he hp hl hc ht).trans (hf (own.modCluster cl _) hown).symm
  case walk =>
    obtain ⟨hu, -⟩ := hT
    have hun := State.setStrand_unit_same c t hu
    refine ⟨{ unit := c.u, slot := c.slot, va := t.pc, kind := .fetch }, rfl, rfl, rfl, rfl, ?_⟩
    have hk : (s.setStrand c t).tlbLookup c.u (asAsid c.cmd.asroot) t.pc = (none, s.setStrand c t) :=
      State.tlbLookup_none (by rw [hun]; exact hn) hcn
    unfold State.retire State.fetchAhead
    rw [hk]
    rfl
  case frame =>
    intro s'
    have hun := State.setStrand_unit_same c t hu
    refine ⟨rfl, fun v hv => State.setStrand_unit_ne c t hu hv, ?_, ?_, fun i h h' hi hi' => ?_⟩
    · rw [hun]
    · rw [hun, List.length_map]
    · rw [hun, List.getElem?_map, hi, Option.map_some] at hi'
      by_cases hh : (h.launch == c.hank.launch && h.index == c.hank.index) = true
      · rw [if_pos hh] at hi'
        obtain rfl := Option.some.inj hi'
        rw [Bool.and_eq_true, beq_iff_eq, beq_iff_eq] at hh
        exact ⟨rfl, fun hne => absurd hh (by tauto), fun x hx hn => Hank.mem_setStrand_ne hx hn⟩
      · rw [if_neg hh] at hi'
        obtain rfl := Option.some.inj hi'
        exact ⟨rfl, fun _ => rfl, fun x hx _ => hx⟩

end Sys2Proof.Machine
end

section

/-! SUPPORT. A dispatch to a unit that waits for a line of another package (R302, R313, R315). -/

namespace Sys2Proof.Machine

open Sys2Proof

/-- A launch of two one-strand hanks, the first of them given. -/
def dispatchLaunch : Launch := { desc := { threads := 32 }, hankCount := 2, nextHank := 1, used := [0] }

def dispatchCmd : Cmd := { id := 0, queue := 0, seq := 0, work := .launch dispatchLaunch }

/-- Its first hank, whose strand waits for the line of its next instruction. -/
def dispatchHank : Hank := { launch := 0, index := 0, strands := [{ slot := 0, index := 0, pc := 0, live := 1, active := 1 }] }

/-- Coil 0 has region 0. Its unit 0 runs the first hank, and the line that it waits for has been asked of package 1. -/
def dispatchState : State :=
  { State.reset with
    frt := { active := some { seq := 0, digest := 0, bodies := [(1, [1, 0, 0, 0, 0, 0, 0, 0, 0, 0, 0, 0, 1, 0, 0, 0])] } }
    cmds := [dispatchCmd]
    units := [(0, { hanks := [dispatchHank], fetchMiss := [(0, 2 ^ 42)] })]
    hws := { indexValid := true, reqs := [{ tag := 0, peer := 1, who := .unit 0 0, packet := rdPacket 0 }] } }

/-- The marks of a state's reads in flight (R302). -/
def State.staleReads (s : State) : List Bool := s.hws.reqs.map (·.stale)

/-- The next state of an instruction that has one. -/
def nextOf (o : Out State) : Option State := match o with | .next s => some s | _ => none

theorem dispatchState_due :
    dispatchState.alive = true ∧ dispatchState.lhr.stage = 0 ∧ dispatchState.cmd? 0 = some dispatchCmd ∧
      dispatchLaunch.toGive = true ∧ dispatchState.firstToGive dispatchCmd = true ∧
      (dispatchState.unitOrder dispatchCmd).find? (fun u => dispatchState.hasRoom u dispatchLaunch.desc) = some 0 ∧
      dispatchState.splitFor 0 dispatchLaunch.desc = some (dispatchState.unit 0).l1Code := by
  decide +kernel

theorem dispatchState_stale : (nextOf (exec (.hankDispatch 0) dispatchState)).map State.staleReads = some [true] := by
  decide +kernel

/-- Refutes O22: in `dispatchState` HANK_DISPATCH gives the launch's second hank to unit 0, and the acquire of its start (R315) marks
the read in flight, so that its line does not enter L1 after it (R302, R313); the statement's state drops L1 lines but marks no read. -/
theorem not_hankDispatchStartsAHank : ¬ Obligations.HankDispatchStartsAHank := by
  rintro ⟨hstart, -⟩
  obtain ⟨ha, hl, hc, hg, hf, hu, hs⟩ := dispatchState_due
  have h := congrArg (fun o => (nextOf o).map State.staleReads)
    (hstart 0 0 dispatchState dispatchCmd dispatchLaunch ha hl hc rfl rfl hg hf hu hs)
  exact absurd (dispatchState_stale.symm.trans h) (by decide +kernel)

end Sys2Proof.Machine
end

section

/-! SUPPORT. Atomics on a hank memory whose table is not in canonical form (R243). -/

namespace Sys2Proof.Machine

open Sys2Proof

/-- A strand with two lanes: lane 0 exchanges 0 for the word at address 4, lane 1 exchanges 2 for the word at address 0. -/
def exchStrand : Strand := { slot := 0, index := 0, pc := 0, live := 3, active := 3, w := [(0, 4), (258, 2)] }

/-- Its hank, whose hank memory lists address 4 before address 0. -/
def exchHank : Hank := { launch := 0, index := 0, strands := [exchStrand], hmem := [(4, 1), (0, 1)] }

/-- ATOM.EXCH of w[2] at the address in the pair w[0], the old word to w[3]. -/
def exchWord : FmtM := { data := 3, size := 2, space := true, off := 2 }

def exchCtx : Ctx :=
  { u := 0, slot := 0, hank := exchHank, t := exchStrand,
    cmd := { id := 0, queue := 0, seq := 0, work := .launch { desc := { regs := 4, hmem := 1 } } }, l := { desc := { regs := 4, hmem := 1 } } }

def exchState : State := { State.reset with cmds := [exchCtx.cmd], units := [(0, { hanks := [exchHank] })] }

/-- The hank memory of unit 0's hanks, as listed. -/
def State.hmems (s : State) : List (Tbl Byte) := (s.unit 0).hanks.map (·.hmem)

theorem exchState_due : Tables exchState ∧ exchState.ctx 0 0 = some exchCtx ∧ (exchState.unit 0).copies = [] ∧
    AtomFine 0x10 exchWord exchCtx ∧ ReleaseDone exchState 0 (atomOp 0x10 exchWord exchCtx) := by
  unfold Tables AtomFine ReleaseDone BaseFits Reachable
  decide +kernel

/-- The exchanges in ascending order of address. -/
theorem exchState_hmems : (nextOf (exec (.atomExch 0 0 exchWord) exchState)).map State.hmems = some [[(0, 2), (0, 1)]] := by
  decide +kernel

/-- Refutes O11: the pieces of an ATOM are performed in ascending order of address, and the statement serves them in ascending order of
lanes. The two leave one hank memory where its table is canonical, which no premise of the statement says of a hank: `Tables` is of the
state's numbered parts. In `exchState` the two orders leave two tables. -/
theorem not_hankMemoryCompletes : ¬ Obligations.HankMemoryCompletes := by
  rintro ⟨hmemory, -⟩
  obtain ⟨hT, hc, hcp, hfine, hr⟩ := exchState_due
  obtain ⟨hspace, -⟩ := hmemory 0 0 exchWord exchState exchCtx hT hc hcp
  obtain ⟨-, -, hatom⟩ := hspace rfl
  have h := congrArg (fun o => (nextOf o).map State.hmems) (hatom (0x10, .atomExch 0 0 exchWord) (by simp) hfine hr)
  exact absurd (exchState_hmems.symm.trans h) (by decide +kernel)

end Sys2Proof.Machine
end

section
/-! SUPPORT. Arrival counters and belays (R281 to R289): what each instruction comes to, and which phases complete. -/

namespace Sys2Proof.Machine

open Sys2Proof

/-! ### Phases that complete (R286, R287) -/

/-- The present phase of belay k completes: a thread is live, one is marked, and every thread is marked or has exited. -/
def Hank.PhaseEnds (h : Hank) (threads k : Nat) : Prop :=
  (∃ t ∈ h.strands, t.live ≠ 0) ∧ (Tbl.get {} h.belays k).arrived ≠ 0 ∧
    ∀ t ∈ h.strands, ∀ l < 32, 32 * t.index + l < threads → t.live.getLsbD l = true →
      (Tbl.get {} h.belays k).arrived.getLsbD (32 * t.index + l) = true

/-- Belay k goes to its next phase, with its marks cleared. -/
def Hank.nextPhase (h : Hank) (k : Nat) : Hank := { h with belays := Tbl.upd {} h.belays k (fun b => { phase := b.phase + 1 }) }

theorem Hank.nextPhase_belays (h : Hank) (k : Nat) :
    (h.nextPhase k).belays = Tbl.upd {} h.belays k (fun b => { phase := b.phase + 1 }) := rfl

theorem Hank.anyLive_iff (h : Hank) : h.anyLive = true ↔ ∃ t ∈ h.strands, t.live ≠ 0 := by
  simp only [Hank.anyLive, List.any_eq_true, bne_iff_ne]

theorem Hank.arrivedAll_iff (h : Hank) (threads : Nat) (b : Belay) : h.arrivedAll threads b = true ↔
    ∀ t ∈ h.strands, ∀ l < 32, 32 * t.index + l < threads → t.live.getLsbD l = true → b.arrived.getLsbD (32 * t.index + l) = true := by
  simp only [Hank.arrivedAll, List.all_eq_true, List.mem_range, Bool.or_eq_true, Bool.not_eq_true', decide_eq_true_eq]
  refine forall₄_congr fun t _ l _ => ?_
  simp only [imp_iff_not_or, Nat.not_lt, Bool.not_eq_true, or_assoc]

theorem Hank.settleBelays_fst (h : Hank) (threads belays : Nat) :
    (h.settleBelays threads belays).1 = (h.settleBelays threads belays).2.foldl Hank.nextPhase h := rfl

/-- The belays whose phase ends are those allocated whose phase is complete. -/
theorem Hank.mem_settleBelays_snd {h : Hank} {threads belays k : Nat} :
    k ∈ (h.settleBelays threads belays).2 ↔ k < belays ∧ h.PhaseEnds threads k := by
  unfold Hank.settleBelays Hank.PhaseEnds
  rw [← Hank.anyLive_iff, ← Hank.arrivedAll_iff]
  cases h.anyLive <;> simp

theorem Hank.settleBelays_snd_nodup (h : Hank) (threads belays : Nat) : (h.settleBelays threads belays).2.Nodup := by
  unfold Hank.settleBelays
  split
  · exact List.nodup_range.filter _
  · exact List.nodup_nil

theorem Hank.wf_nextPhase {h : Hank} (hw : Tbl.wf {} h.belays = true) (j : Nat) : Tbl.wf {} (h.nextPhase j).belays = true := by
  rw [Hank.nextPhase_belays]
  exact Tbl.wf_upd _ _ _ _ hw

theorem Hank.belays_nextPhase {h : Hank} (hw : Tbl.wf {} h.belays = true) (j k : Nat) : Tbl.get {} (h.nextPhase j).belays k =
    if k = j then { phase := (Tbl.get {} h.belays j).phase + 1 } else Tbl.get {} h.belays k := by
  rw [Hank.nextPhase_belays, Tbl.get_upd _ _ _ _ _ hw]

/-- What a belay holds once each of some distinct belays is in its next phase. -/
theorem Hank.belays_foldl_nextPhase {ks : List Nat} {h : Hank} (hn : ks.Nodup) (hw : Tbl.wf {} h.belays = true) (k : Nat) :
    Tbl.get {} (ks.foldl Hank.nextPhase h).belays k =
      if k ∈ ks then { phase := (Tbl.get {} h.belays k).phase + 1 } else Tbl.get {} h.belays k := by
  induction ks generalizing h with
  | nil => rfl
  | cons j ks ih =>
    obtain ⟨hj, hn⟩ := List.nodup_cons.1 hn
    rw [List.foldl_cons, ih hn (Hank.wf_nextPhase hw j), Hank.belays_nextPhase hw j k]
    by_cases hkj : k = j
    · subst hkj
      rw [if_neg hj, if_pos rfl, if_pos List.mem_cons_self]
    · simp only [List.mem_cons, hkj, if_false, false_or]

theorem Hank.foldl_nextPhase_frame (ks : List Nat) (h : Hank) : { ks.foldl Hank.nextPhase h with belays := h.belays } = h := by
  induction ks generalizing h with
  | nil => rfl
  | cons j ks ih => exact congrArg (fun x : Hank => { x with belays := h.belays }) (ih (h.nextPhase j))

/-! ### Counters (R281) -/

section

variable {u slot : Nat} {f : FmtQ} {s : State} {c : Ctx} (hc : s.ctx u slot = some c)
include hc

/-- ACWAIT goes on, or its strand waits for the counter. -/
theorem execAcwait_eq (hl : ({ us := true } : ShapeQ).legal f = true) (ha : f.ac < c.l.desc.acs) :
    execAcwait u slot f s = .next ((if c.hank.reached f.ac (c.t.rdU f.us % 2 ^ 32) then s.retire c c.t.advance
      else (s.setStrand c { c.t with wait := .ac f.ac (c.t.rdU f.us % 2 ^ 32) }).onHank c
        (fun h => { h with progress := s.ucyc c.u })).took u slot) := by
  refine congrArg Host.Outcome.next (State.issue_ok hc ((need_bind hl _ _).trans ((need_bind (decide_eq_true ha) _ _).trans
    (apply_ite Except.ok _ _ _).symm)))

/-- ACREAD. -/
theorem execAcread_eq (hl : ({ ud := true } : ShapeQ).legal f = true) (ha : f.ac < c.l.desc.acs) :
    execAcread u slot f s = .next ((s.retire c (c.t.advance.wrU f.ud (Tbl.get 0 c.hank.acs f.ac))).took u slot) :=
  congrArg Host.Outcome.next (State.issue_ok hc ((need_bind hl _ _).trans (need_bind (decide_eq_true ha) _ _)))

/-! ### Belays (R284, R285, R288) -/

/-- The state with the strand's active threads marked at the belay that a word names. -/
def State.markArrived (s : State) (c : Ctx) (f : FmtQ) : State :=
  s.onHank c (fun h =>
    { h with progress := s.ucyc c.u, belays := Tbl.upd {} h.belays f.ac (fun b => { b with arrived := b.arrived ||| c.t.threads }) })

omit hc in
theorem belayCheck_ok (hl : ({ ac := 16 } : ShapeQ).legal f = true) (hb : f.ac < c.l.desc.belays) : belayCheck c f = .ok () :=
  (need_bind hl _ _).trans (need_of (decide_eq_true hb) _)

variable (hl : ({ ac := 16 } : ShapeQ).legal f = true) (hb : f.ac < c.l.desc.belays)
include hl hb

/-- An arrival of threads none of which has arrived, with the unit's stores drained and no TMMA of the strand still to start. -/
theorem blyArrive_marks (sync : Bool) (hm : (Tbl.get {} c.hank.belays f.ac).arrived &&& c.t.threads = 0) (hwc : (s.unit u).wc = [])
    (hq : ∀ m ∈ (s.unit u).mmaQ, m.slot ≠ slot) :
    blyArrive sync u slot f s = ((if sync then
        (s.markArrived c f).setStrand c { c.t with wait := .belay f.ac (Tbl.get {} c.hank.belays f.ac).phase }
      else (s.markArrived c f).retire c c.t.advance).settleBelays c).took u slot := by
  have hdue : ((s.unit u).mmaQ.any (fun m => m.slot == slot) || !(s.unit u).wc.isEmpty) = false := by simpa [hwc] using hq
  refine State.issue_ok hc ?_
  rw [belayCheck_ok hl hb]
  refine (need_bind (beq_iff_eq.2 hm) _ _).trans ?_
  simp only [State.drainWc_empty hwc, hdue, Bool.false_eq_true, if_false]
  rfl

/-- An arrival by a thread that has arrived (R285). -/
theorem blyArrive_twice (sync : Bool) (hm : (Tbl.get {} c.hank.belays f.ac).arrived &&& c.t.threads ≠ 0) :
    blyArrive sync u slot f s = (s.raise c 0x10 0x08 0 0).took u slot := by
  refine State.issue_cause hc ?_
  rw [belayCheck_ok hl hb]
  exact need_stop (beq_false_of_ne hm) _ _

/-- BLY.WAIT goes on, or its strand waits in the present phase. -/
theorem execBlyWait_eq : execBlyWait u slot f s = .next
    ((if (Tbl.get {} c.hank.belays f.ac).arrived &&& c.t.threads = 0 then s.retire c c.t.advance
      else (s.setStrand c { c.t with wait := .belay f.ac (Tbl.get {} c.hank.belays f.ac).phase }).onHank c
        (fun h => { h with progress := s.ucyc c.u })).took u slot) := by
  refine congrArg Host.Outcome.next (State.issue_ok hc ?_)
  rw [belayCheck_ok hl hb]
  simp only [← beq_iff_eq (b := (0 : BitVec 1024))]
  exact (apply_ite Except.ok _ _ _).symm

end

/-- Settles O20: each instruction by the lemma that says what it comes to, and a phase by whether it ends. -/
theorem countersAndBelays : Obligations.CountersAndBelays := by
  refine ⟨fun u slot f s c hc => ⟨?acwait, execAcread_eq hc, ?belay⟩, ?phases⟩
  case acwait =>
    intro hl ha target reached
    have hr : c.hank.reached f.ac target = true ↔ reached := by simp [Hank.reached, reached, target]
    have hgo : exec (.acwait u slot f) s = _ := execAcwait_eq hc hl ha
    rw [hgo]
    exact ⟨fun h => by rw [if_pos (hr.2 h)], fun h => by rw [if_neg (mt hr.1 h)]⟩
  case belay =>
    intro hl hb b mine arrived
    have hwait : exec (.blyWait u slot f) s = .next ((if b.arrived &&& mine = 0 then _ else _ : State).took u slot) := execBlyWait_eq hc hl hb
    rw [hwait]
    refine ⟨fun hm hwc hq => ⟨?_, ?_⟩, fun hm i hi => ?_, fun hm => by rw [if_pos hm], fun hm => by rw [if_neg hm]⟩
    · exact congrArg Host.Outcome.next (blyArrive_marks hc hl hb false hm hwc hq)
    · exact congrArg Host.Outcome.next (blyArrive_marks hc hl hb true hm hwc hq)
    · fin_cases hi
      · exact congrArg Host.Outcome.next (blyArrive_twice hc hl hb false hm)
      · exact congrArg Host.Outcome.next (blyArrive_twice hc hl hb true hm)
  case phases =>
    intro h threads belays k hw hk b r complete
    have hends : k ∈ r.2 ↔ complete := Hank.mem_settleBelays_snd.trans (and_iff_right hk)
    have hget : Tbl.get {} r.1.belays k = _ := Hank.belays_foldl_nextPhase (h.settleBelays_snd_nodup threads belays) hw k
    rw [hget]
    exact ⟨fun hd => ⟨if_pos (hends.2 hd), hends.2 hd⟩, fun hd => ⟨if_neg (mt hends.1 hd), mt hends.1 hd⟩,
      Hank.foldl_nextPhase_frame r.2 h⟩

end Sys2Proof.Machine
end

section
/-! SUPPORT. A CAS of global memory that finds its operand unequal, on a line that its cluster's cache holds in E (R309, R379). -/

namespace Sys2Proof.Machine

open Sys2Proof

/-- A strand with one lane: u[0] holds address 0x2000, w[1] holds 1. -/
def casStrand : Strand := { slot := 0, index := 0, pc := 0x1000, live := 1, active := 1, w := [(1, 1)], u := [(0, 0x2000)] }

def casHank : Hank := { launch := 0, index := 0, strands := [casStrand] }

/-- ATOM.CAS of the word at the address in u[0]: w[0] where the word equals w[1]; the old word to w[2]. -/
def casWord : FmtM := { data := 2, baseU := true, size := 2, off := 0x100 }

def casCtx : Ctx :=
  { u := 0, slot := 0, hank := casHank, t := casStrand, cmd := { id := 0, queue := 0, seq := 0, work := .launch { desc := { regs := 3 } } },
    l := { desc := { regs := 3 } } }

/-- A translation that maps the first 2^39 virtual addresses onto themselves. -/
def casPage : Tlb := { asid := 0, glob := true, size := 2 ^ 39, vpage := 0, ppage := 0, flags := 0xDF, pbmt := 0 }

/-- The line in the cache of the unit's cluster: exclusive, and zero, so that the operand 1 is not equal. -/
def casLine : CLine := { line := 0x2000, st := .E }

def casPiece : Piece := { lane := 0, va := 0x2000, len := 4, bytes := leBytes 4 0 ++ leBytes 4 1 }

def casState : State :=
  { State.reset with cmds := [casCtx.cmd], units := [(0, { hanks := [casHank], tlb := [casPage] })], agents := [(0, { lines := [casLine] })] }

/-- What cluster 0's cache holds of the line at 0x2000. -/
def State.casLineState (s : State) : CState := (s.agent 0).st 0x2000

theorem casState_due :
    Tables casState ∧ casState.ctx 0 0 = some casCtx ∧
      (casState.unit 0).tlb.find? (fun t => t.hits (asAsid casCtx.cmd.asroot) casPiece.va) = some casPage ∧
      casState.route casCtx (casPage.pa casPiece.va) = .here 0x2000 ∧ casState.l1Tag (casPage.pa casPiece.va) = some 0x2000 ∧
      AtomFine 0x11 casWord casCtx ∧ (atomOp 0x11 casWord casCtx).pieces = [casPiece] ∧ permCause casPage.flags .atomic = none ∧
      ReleaseDone casState 0 (atomOp 0x11 casWord casCtx) ∧ ((casState.unit 0).wc.any (fun w => w.addr == 0x2000) = false) ∧
      (casState.agent (clusterOf 0)).find (0x2000 % 2 ^ 42) = some casLine := by
  unfold Tables AtomFine ReleaseDone BaseFits Reachable
  decide +kernel

/-- The line stays exclusive. -/
theorem casState_exclusive : (nextOf (exec (.atomCas 0 0 casWord) casState)).map State.casLineState = some .E := by
  decide +kernel

/-- Refutes O12: where the old value of a CAS is not equal to its operand, the atomic writes nothing (R309), and the model leaves the line
as it was held; the statement writes the old value back through `State.agentWrite`, which takes a line in E to M. In `casState` the line
is in E and stays so. -/
theorem not_globalAccessesComplete : ¬ Obligations.GlobalAccessesComplete := by
  intro hglobal
  obtain ⟨hT, hc, htlb, hroute, htag, hfine, hpieces, hperm, hrel, hwc, hline⟩ := casState_due
  obtain ⟨-, -, hatom⟩ := hglobal 0 0 casWord casState casCtx casPiece casPage 0x2000 0x2000 hT hc rfl htlb hroute htag rfl
  have h := congrArg (fun o => (nextOf o).map State.casLineState)
    (hatom (0x11, .atomCas 0 0 casWord) (by simp) hfine hpieces hperm hrel hwc casLine hline (.inr rfl) rfl)
  exact absurd (casState_exclusive.symm.trans h) (by decide +kernel)

end Sys2Proof.Machine
end

section
/-! SUPPORT. Requests that a home serves as they arrive (R381, R382, R388), of a line that nobody holds. -/

namespace Sys2Proof.Machine

open Sys2Proof

/-! ### The home of a line (R27, R356) -/

theorem State.scrSlice_of_sec {s s' : State} (h : s'.sec = s.sec) : s'.scrSlice = s.scrSlice := by
  unfold State.scrSlice
  rw [State.scrGroup_of_sec h]

theorem State.homeOf_of_sec {s s' : State} (h : s'.sec = s.sec) : s'.homeOf = s.homeOf := by
  unfold State.homeOf
  rw [State.scrSlice_of_sec h]

theorem State.clearBusy_homeOf (s : State) (k : Nat) : (s.clearBusy k).homeOf = s.homeOf := State.homeOf_of_sec rfl

/-! ### A message that leaves those in flight (R375) -/

theorem taken_coh (s : State) (m : Msg) : (taken s m).coh = s.coh := (rfl)
theorem taken_slice (s : State) (m : Msg) : (taken s m).slice = s.slice := (rfl)
theorem taken_homeOf (s : State) (m : Msg) : (taken s m).homeOf = s.homeOf := State.homeOf_of_sec rfl
theorem taken_spillSet (s : State) (m : Msg) : (taken s m).spillSet = s.spillSet := (rfl)
theorem taken_setBlocked (s : State) (m : Msg) : (taken s m).setBlocked = s.setBlocked := (rfl)

theorem taken_dirReady (s : State) (m k : Msg) : (taken s m).dirReady k = s.dirReady k := by
  have hi : (taken s m).installs = s.installs := rfl
  unfold State.dirReady State.dirUsed
  rw [taken_homeOf, taken_slice, taken_spillSet, hi]

theorem Msg.withTy_eq {m : Msg} {ty : MsgType} (h : m.ty = ty) : ({ m with ty := ty } : Msg) = m := by
  subst h; rfl

/-! ### Requests at a home (R375, R381, R388, R389) -/

/-- A request that may arrive reaches its home. -/
theorem State.deliver_request {s : State} {m : Msg} (h : MayArrive s m) (hr : isRequest m = true) :
    s.deliver m = (taken s m).homeRequest m := by
  obtain ⟨ha, hserves, hsender, hfirst⟩ := h
  have hturn : (s.net.contains m && (s.net.takeWhile (fun x => !(x == m))).any (fun x => s.sameChannel x m)) = false := by
    simpa using hfirst
  have harrive : s.arrive m = (taken s m).homeRequest m := by
    unfold State.arrive taken
    simp only [hserves, hr, Bool.not_true, Bool.false_eq_true, if_false, if_true]
  simp only [State.deliver, ha, hsender, hturn, hr, harrive, Bool.not_true, Bool.or_self, Bool.false_and, Bool.false_eq_true, if_false]

/-- A request without an entry, on chip or in a spill set, acts at once. -/
theorem State.serve_unlisted {s : State} {m : Msg} (he : (s.slice (s.homeOf m.line)).entry m.line = none)
    (hs : ∀ i a, s.spillSet m.line = some (i, a) → i ∉ (s.slice (s.homeOf m.line)).summary) : s.serve m = s.act m none := by
  unfold State.serve
  simp only [he]
  cases hset : s.spillSet m.line with
  | none => rfl
  | some p => simp [hs p.1 p.2 hset]

theorem State.homeRequest_unlisted {s : State} {m : Msg} (h : ServedNow s m none) :
    (taken s m).homeRequest m = ((taken s m).act m none).pumpHome (s.homeOf m.line) := by
  obtain ⟨⟨-, hserves, -, -⟩, hlive, -, hbusy, hroom, hset, hwait, -, hdir, hentry, hspill⟩ := h
  have hserve : (taken s m).serve m = (taken s m).act m none :=
    State.serve_unlisted (by rw [taken_homeOf, taken_slice, hentry]) (by rw [taken_homeOf, taken_slice, taken_spillSet]; exact hspill rfl)
  have hgo : ((taken s m).lineFree (s.slice (s.homeOf m.line)).waiting m && (taken s m).dirReady m) = true := by
    simp [State.lineFree, taken_homeOf, taken_slice, taken_setBlocked, taken_dirReady, hbusy, hroom, hset, hwait, hdir]
  have hdue : (!s.coh.serving || s.coh.dead.contains m.src) = false := by simp [hserves, hlive]
  simp only [State.homeRequest, taken_coh, taken_homeOf, taken_slice, hdue, hgo, hserve, Bool.false_eq_true, if_false, if_true]

/-! ### A line that nobody holds (R382) -/

/-- The busy line of a request to a line that nobody holds: no snoop is owed, and an UPG is served as an RDO. -/
def freshLine (m : Msg) : BusyLine := { line := m.line, why := .bs, req := m, asRdo := m.ty == .upg }

/-- The state in which a request acts: some wake the engines that watch the line (R451). -/
def State.woken (s : State) (m : Msg) : State := match m.ty with | .rdo | .upg | .wnc | .sth | .anc => s.wake m.line | _ => s

theorem State.act_none (s : State) (m : Msg) : s.act m none = (s.woken m).progress (freshLine m) := by
  unfold State.act State.woken freshLine
  cases m.ty <;> rfl

/-- A request that needs the line's data, which is at hand. -/
theorem State.progress_data {s t : State} {m : Msg} {d : LineData × Bool} (hn : needsData (freshLine m) = true)
    (h : s.homeRead m.line m.src m.nc (m.ty != .wnc) = .data d t) : s.progress (freshLine m) = t.finishLine (freshLine m) d := by
  unfold State.progress
  rw [hn]
  unfold freshLine
  simp [h]

/-- A request that needs no data. -/
theorem State.progress_noData {s : State} {m : Msg} (hn : needsData (freshLine m) = false) :
    s.progress (freshLine m) = s.finishLine (freshLine m) (0, false) := by
  unfold State.progress
  rw [hn]
  rfl

section

variable {s : State} {m : Msg} {ty : MsgType} (h : ServedNow s m none) (hty : m.ty = ty) (hr : isRequest m = true)
include h hty hr

theorem deliver_served :
    s.deliver { m with ty := ty } = (((taken s m).woken m).progress (freshLine m)).pumpHome (s.homeOf m.line) := by
  obtain ⟨harrive, -⟩ := id h
  rw [Msg.withTy_eq hty, State.deliver_request harrive hr, State.homeRequest_unlisted h, State.act_none]

/-- A request that its home serves as it arrives, with the line's data at hand. -/
theorem deliver_served_data {t : State} {d : LineData × Bool} (hn : needsData (freshLine m) = true)
    (hd : ((taken s m).woken m).homeRead m.line m.src m.nc (m.ty != .wnc) = .data d t) :
    s.deliver { m with ty := ty } = (t.finishLine (freshLine m) d).pumpHome (s.homeOf m.line) := by
  rw [deliver_served h hty hr, State.progress_data hn hd]

theorem deliver_served_noData (hn : needsData (freshLine m) = false) :
    s.deliver { m with ty := ty } = (((taken s m).woken m).finishLine (freshLine m) (0, false)).pumpHome (s.homeOf m.line) := by
  rw [deliver_served h hty hr, State.progress_noData hn]

end

/-! ### The last part of a request to a line that nobody holds (R309, R364, R382) -/

theorem State.stashTarget_of_aside {s t : State} (h : t.aside = s.aside) (m : Msg) : t.stashTarget m = s.stashTarget m := by
  have hfea : t.fea = s.fea := congrArg (·.1.2.2.2.2.1) h
  unfold State.stashTarget State.feature
  rw [hfea]

/-- The sender owns the line. -/
def ownedBy (m : Msg) : Option DirEntry := some { line := m.line, st := .X, owner := m.src }

/-- A write-back or an eviction that finds nothing to end is counted and acknowledged (R382). -/
def State.stale (s : State) (m : Msg) : State :=
  (s.modSlice (s.homeOf m.line) (fun k => { k with ccnt := { k.ccnt with stale := (k.ccnt.stale + 1) % 2 ^ 64 } })).reply m { ty := .ack }

section

variable {m : Msg} (s : State) (d : LineData × Bool)

theorem finishLine_rds (hty : m.ty = .rds) : s.finishLine (freshLine m) d =
    ((s.clearBusy m.line).setDir m.line (ownedBy m)).reply m { ty := .dat, grant := .e, data := d.1, poison := d.2 } := by
  simp only [State.finishLine, freshLine, hty]
  rfl

theorem finishLine_rnc (hty : m.ty = .rnc) : s.finishLine (freshLine m) d =
    (s.clearBusy m.line).reply m { ty := .dat, grant := .s, data := d.1, poison := d.2 } := by
  simp only [State.finishLine, freshLine, hty]
  rfl

theorem finishLine_rdo (hty : m.ty = .rdo) : s.finishLine (freshLine m) d =
    ((s.clearBusy m.line).setDir m.line (ownedBy m)).reply m { ty := .dat, grant := .m, data := d.1, poison := d.2 } := by
  simp only [State.finishLine, freshLine, hty]
  rfl

theorem finishLine_upg (hty : m.ty = .upg) : s.finishLine (freshLine m) d =
    (((s.clearBusy m.line).modSlice (s.homeOf m.line) (fun k =>
      { k with ccnt := { k.ccnt with upgRdo := (k.ccnt.upgRdo + 1) % 2 ^ 64 } })).setDir m.line (ownedBy m)).reply m
        { ty := .dat, grant := .m, data := d.1, poison := d.2 } := by
  rw [← State.clearBusy_homeOf s m.line]
  simp only [State.finishLine, freshLine, hty]
  rfl

theorem finishLine_wnc (hty : m.ty = .wnc) : s.finishLine (freshLine m) d =
    (let t := s.clearBusy m.line
     let v := if d.2 = true ∧ m.mask ≠ BitVec.allOnes 128 then (d.1, true) else (mergeLine d.1 m.data m.mask, m.poison)
     (if m.nc then t.homeWriteInPlace m.line v.1 v.2 else t.homeWrite m.line v.1 v.2).setDir m.line none) := by
  simp only [State.finishLine, freshLine, hty, Bool.and_eq_true, bne_iff_ne]
  rfl

theorem finishLine_anc (hty : m.ty = .anc) : s.finishLine (freshLine m) d =
    (let r := lineAtomic d.1 m.offset (if m.size then 8 else 4) m.op m.srcOperand m.cmpOperand
     let u := s.clearBusy m.line
     let u := if d.2 then u else match r.2 with
       | some x => if m.nc then u.homeWriteInPlace m.line x false else u.homeWrite m.line x false
       | none => u
     (u.setDir m.line none).reply m (if d.2 then { ty := .dat, grant := .s, poison := true }
       else { ty := .dat, grant := .s, data := BitVec.ofNat 1024 r.1 })) := by
  simp only [State.finishLine, freshLine, hty]
  cases d.2 <;> rfl

theorem finishLine_sth (hty : m.ty = .sth) (ht : s.stashTarget m = none) : s.finishLine (freshLine m) d =
    ((s.clearBusy m.line).homeWrite m.line m.data m.poison).setDir m.line none := by
  have hw : ((s.clearBusy m.line).homeWrite m.line m.data m.poison).stashTarget m = none := by
    rw [State.stashTarget_of_aside (s := s) (by simp), ht]
  simp only [State.finishLine, freshLine, hty, hw]
  rfl

theorem finishLine_stale (hty : m.ty = .wbk ∨ m.ty = .evc) : s.finishLine (freshLine m) d = (s.clearBusy m.line).stale m := by
  rcases hty with hty | hty
  · simp only [State.finishLine, freshLine, hty]
    rfl
  · simp only [State.finishLine, freshLine, hty]
    rfl

end

/-- The requests that need the line's data, and get it. -/
theorem exec_served_data {s : State} {m : Msg} (h : ServedNow s m none) :
    ∀ i ∈ [(Instr.rds, MsgType.rds, taken s m), (.rnc, .rnc, taken s m), (.rdo, .rdo, (taken s m).wake m.line),
        (.upg, .upg, (taken s m).wake m.line), (.anc, .anc, (taken s m).wake m.line)],
      m.ty = i.2.1 → ∀ d t, i.2.2.homeRead m.line m.src m.nc true = .data d t →
        exec (i.1 m) s = .next ((t.finishLine (freshLine m) d).pumpHome (s.homeOf m.line)) := by
  intro i hi hty d t hd
  have hr : isRequest m = true ∧ needsData (freshLine m) = true ∧ (m.ty != .wnc) = true ∧ (taken s m).woken m = i.2.2 := by
    fin_cases hi <;> simp_all [isRequest, needsData, freshLine, State.woken]
  obtain ⟨hreq, hneeds, hwnc, hwoken⟩ := hr
  have hgo := deliver_served_data h hty hreq hneeds (by rw [hwoken, hwnc]; exact hd)
  fin_cases hi <;> exact congrArg Host.Outcome.next hgo

/-- The requests that need no data. -/
theorem exec_served_noData {s : State} {m : Msg} (h : ServedNow s m none) :
    ∀ i ∈ [(Instr.sth, MsgType.sth, (taken s m).wake m.line), (.wbk, .wbk, taken s m), (.evc, .evc, taken s m)],
      m.ty = i.2.1 → exec (i.1 m) s = .next ((i.2.2.finishLine (freshLine m) (0, false)).pumpHome (s.homeOf m.line)) := by
  intro i hi hty
  have hr : isRequest m = true ∧ needsData (freshLine m) = false ∧ (taken s m).woken m = i.2.2 := by
    fin_cases hi <;> simp_all [isRequest, needsData, freshLine, State.woken]
  obtain ⟨hreq, hneeds, hwoken⟩ := hr
  have hgo := deliver_served_noData h hty hreq hneeds
  rw [hwoken] at hgo
  fin_cases hi <;> exact congrArg Host.Outcome.next hgo

/-- A WNC needs the line's data where its mask leaves bytes out. -/
theorem wnc_facts {s : State} {m : Msg} (hty : m.ty = .wnc) :
    isRequest m = true ∧ needsData (freshLine m) = (m.mask != BitVec.allOnes 128) ∧ s.woken m = s.wake m.line := by
  simp [isRequest, needsData, freshLine, State.woken, hty]

/-- Settles O31: each request is served as it arrives, with the line's data (`served_data`) or without need of it (`served_noData`), and
ends by the lemma that says what its last part comes to. -/
theorem homesServeLinesNobodyHolds : Obligations.HomesServeLinesNobodyHolds := by
  intro s m h l n s0 w own stale
  have hdata := exec_served_data h
  refine ⟨fun hty d p t hd => ?rds, fun hty d p t hd => ?rnc, fun hty d p t hd => ?rdo, fun hty d p t hd => ?upg, fun hty hm => ?wncWhole,
    fun hty hm d p t hd => ?wncPart, fun hty d p t hd => ?anc, fun hty ht => ?sth, fun hty => ?wbk, fun hty => ?evc⟩
  case rds =>
    rw [hdata (.rds, .rds, s0) (by simp [s0]) hty (d, p) t hd, finishLine_rds _ _ hty]
    rfl
  case rnc =>
    rw [hdata (.rnc, .rnc, s0) (by simp [s0]) hty (d, p) t hd, finishLine_rnc _ _ hty]
  case rdo =>
    rw [hdata (.rdo, .rdo, w) (by simp [w, s0, l]) hty (d, p) t hd, finishLine_rdo _ _ hty]
    rfl
  case upg =>
    rw [hdata (.upg, .upg, w) (by simp [w, s0, l]) hty (d, p) t hd, finishLine_upg _ _ hty]
    rfl
  case anc =>
    exact (hdata (.anc, .anc, w) (by simp [w, s0, l]) hty (d, p) t hd).trans
      (congrArg (fun u => Host.Outcome.next (State.pumpHome u n)) (finishLine_anc t (d, p) hty))
  case wncWhole =>
    obtain ⟨hr, hn, hwoken⟩ := wnc_facts (s := s0) hty
    have hgo := deliver_served_noData h hty hr (by rw [hn, hm, bne_self_eq_false])
    rw [hwoken, finishLine_wnc _ _ hty, if_neg (by simp)] at hgo
    exact congrArg Host.Outcome.next hgo
  case wncPart =>
    obtain ⟨hr, hn, hwoken⟩ := wnc_facts (s := s0) hty
    have hgo := deliver_served_data h hty hr (by rw [hn]; exact bne_iff_ne.2 hm) (by rw [hwoken, hty]; exact hd)
    simp only [finishLine_wnc _ _ hty, ne_eq, hm, not_false_eq_true, and_true] at hgo
    exact congrArg Host.Outcome.next hgo
  case sth =>
    have ht' : w.stashTarget m = none := (State.stashTarget_of_aside (s := s) (State.wake_aside s0 l) m).trans ht
    rw [exec_served_noData h (.sth, .sth, w) (by simp [w, s0, l]) hty, finishLine_sth _ _ hty ht']
  case wbk =>
    rw [exec_served_noData h (.wbk, .wbk, s0) (by simp [s0]) hty, finishLine_stale _ _ (.inl hty), State.stale,
      State.clearBusy_homeOf, taken_homeOf]
  case evc =>
    rw [exec_served_noData h (.evc, .evc, s0) (by simp [s0]) hty, finishLine_stale _ _ (.inr hty), State.stale,
      State.clearBusy_homeOf, taken_homeOf]

end Sys2Proof.Machine
end

section
/-! SUPPORT. Events of the homes and of cached translations (R331 to R334, R352, R386, R394 to R401): what each comes to where it is due. -/

namespace Sys2Proof.Machine

open Sys2Proof

/-! ### Fills (R352, R361) -/

/-- The state once a fill's data is taken: placed in a way, unless the fill bypasses the cache or is a prefetch without a clean victim. -/
def State.placeFill (s : State) (l : Nat) (f : Fill) (d : LineData × Bool) : State :=
  let s := s.modSlice (homeSlice l) (fun k => { k with fills := k.fills.filter (fun g => g.line != l) })
  if f.bypass = true ∨ f.prefetch = true ∧ s.victimClean l = false then s
  else s.sliceAlloc (homeSlice l) { line := l, data := d.1, poison := d.2, pf := f.prefetch } (!f.prefetch)

section

variable {s : State} {l : Nat} {f : Fill} {d : LineData × Bool}
  (hf : (s.slice (homeSlice l)).fills.find? (fun f => f.line == l && f.got.isSome) = some f) (hd : f.got = some d)
include hf hd

/-- The request that waits for the line ends. -/
theorem State.fillComplete_awaited {b : BusyLine} (hb : ((s.placeFill l f d).slice (homeSlice l)).busyOf l = some b) (hw : b.why = .bd)
    (hs : b.stalled = false) (hp : f.prefetch = false) :
    s.fillComplete l = ((s.placeFill l f d).finishLine b d).pumpHome (homeSlice l) := by
  unfold State.placeFill at hb ⊢
  simp only [State.fillComplete, hf, hd, Bool.or_eq_true, Bool.and_eq_true, Bool.not_eq_true'] at hb ⊢
  simp only [hb]
  exact if_pos (by simp [hw, hs, hp])

theorem State.fillComplete_unawaited (h : ∀ b, ((s.placeFill l f d).slice (homeSlice l)).busyOf l = some b →
    b.why ≠ .bd ∨ b.stalled = true ∨ f.prefetch = true) : s.fillComplete l = (s.placeFill l f d).pumpHome (homeSlice l) := by
  unfold State.placeFill at h ⊢
  simp only [State.fillComplete, hf, hd, Bool.or_eq_true, Bool.and_eq_true, Bool.not_eq_true'] at h ⊢
  split
  · next b hb =>
    refine if_neg fun hends => ?_
    simp only [decide_eq_true_eq] at hends
    obtain ⟨⟨hw, hs⟩, hp⟩ := hends
    simpa [hw, hs, hp] using h b hb
  · rfl

end

/-! ### Spill sets (R394, R401) -/

/-- The line's entry stands in slot i of a spill set. -/
def SlotHolds (n l : Nat) (ws : List Nat) (i : Nat) : Prop := (decodeSpill n (ws.getD i 0)).map (·.line) = some l

theorem spillSlot_eq_some {n l i : Nat} {ws : List Nat} (hi : i < 8) (h : SlotHolds n l ws i) (hfirst : ∀ j < i, ¬ SlotHolds n l ws j) :
    spillSlot n l ws = some i :=
  List.find?_range_eq_some.2 ⟨beq_iff_eq.2 h, List.mem_range.2 hi, fun j hj => Bool.not_eq_true' _ ▸ beq_false_of_ne (hfirst j hj)⟩

theorem spillSlot_eq_none {n l : Nat} {ws : List Nat} (h : ∀ i < 8, ¬ SlotHolds n l ws i) : spillSlot n l ws = none :=
  List.find?_range_eq_none.2 fun i hi => Bool.not_eq_true' _ ▸ beq_false_of_ne (h i hi)

/-- The read of a spill set is counted. -/
def State.countSpillRead (s : State) (n : Nat) : State :=
  s.modSlice n (fun x => { x with ccnt := { x.ccnt with spillRd := (x.ccnt.spillRd + 1) % 2 ^ 64 } })

section

variable {s : State} {n k a : Nat} {e : LineErr} (hsum : k ∈ (s.slice n).summary)
include hsum

/-- A read that the controller holds. -/
theorem State.readSpill_held (hh : s.hbmHeld a = true) : s.readSpill n k a e = .held := by
  simp [State.readSpill, hsum, hh]

/-- A word that is uncorrectable or poisoned ends the coherent domain (R401). -/
theorem State.readSpill_lost (hh : s.hbmHeld a = false) (hp : ((s.countSpillRead n).readLine a e).poisoned = true) :
    ∃ f, s.readSpill n k a e = .lost (((s.countSpillRead n).modStack (stackOf a) f).fatal 0x22 6 n 0 a) := by
  unfold State.countSpillRead at *
  simp only [State.readSpill, List.contains_iff_mem.2 hsum, hh, hp, Bool.not_true, Bool.false_eq_true, if_false, if_true, wrapAdd]
  exact ⟨_, rfl⟩

theorem State.readSpill_words {got : (LineData × Bool) × State} (hh : s.hbmHeld a = false)
    (hp : ((s.countSpillRead n).readLine a e).poisoned = false)
    (hg : (s.countSpillRead n).readEvents a ((s.countSpillRead n).readLine a e) = got) :
    s.readSpill n k a e = .words (spillWords got.1.1) got.2 := by
  unfold State.countSpillRead at *
  subst hg
  simp only [State.readSpill, List.contains_iff_mem.2 hsum, hh, hp, Bool.not_true, Bool.false_eq_true, if_false, wrapAdd]

end

section

variable {s : State} {l : Nat} {e : LineErr} {b : BusyLine} {k a : Nat} (hb : (s.slice (s.homeOf l)).busyOf l = some b) (hw : b.why = .bp)
  (hset : s.spillSet l = some (k, a))
include hb hw hset

theorem State.spillRead_held (h : s.readSpill (s.homeOf l) k a e = .held) : s.spillRead l e = s := by
  simp only [State.spillRead, hb, hset, hw, h, ne_eq, not_true_eq_false, if_false]

theorem State.spillRead_lost {t : State} (h : s.readSpill (s.homeOf l) k a e = .lost t) : s.spillRead l e = t := by
  simp only [State.spillRead, hb, hset, hw, h, ne_eq, not_true_eq_false, if_false]

section

variable {ws : List Nat} {t : State} (h : s.readSpill (s.homeOf l) k a e = .words ws t)
include h

/-- A line without an entry in its spill set is held by nobody. -/
theorem State.spillRead_absent (hn : ∀ i < 8, ¬ SlotHolds (s.homeOf l) l ws i) :
    s.spillRead l e = ((t.clearBusy l).act b.req none).pumpHome (s.homeOf l) := by
  simp only [State.spillRead, hb, hset, hw, h, spillSlot_eq_none hn, ne_eq, not_true_eq_false, if_false]

/-- A line's entry moves on chip. -/
theorem State.spillRead_found {i : Nat} (hi : i < 8) (hh : SlotHolds (s.homeOf l) l ws i) (hfirst : ∀ j < i, ¬ SlotHolds (s.homeOf l) l ws j) :
    s.spillRead l e = ((((t.clearBusy l).emptySpill (s.homeOf l) k a ws i).setDir l (decodeSpill (s.homeOf l) (ws.getD i 0))).serve
      b.req).pumpHome (s.homeOf l) := by
  simp only [State.spillRead, hb, hset, hw, h, spillSlot_eq_some hi hh hfirst, ne_eq, not_true_eq_false, if_false]

end

end

/-! ### Held snoops (R386) -/

theorem execCleatExpiry_due {s : State} {a l : Nat} {x : CLine} {m : Msg} {ev : CEv} (ha : s.alive = true)
    (hx : (s.agent a).find l = some x) (hm : x.held = some m) (hc : s.cleatHolds x = false) (hev : msgEv m = some ev) :
    let t := (s.modAgent a (fun g => g.put { x with wonAt := none, held := none })).agentApply m ev
    execCleatExpiry a l s = .next (if a < 256 then t.pumpCluster a else t) := by
  simp only [execCleatExpiry, State.answerHeld, ha, hx, hm, hc, hev, Bool.not_true, Option.isNone_some, Bool.or_self, Bool.false_eq_true,
    if_false]

/-! ### The end of a reclaim (R398 to R400) -/

/-- Every slice has scanned its entries. -/
def State.scanAll (s : State) : State := (s.slices.map (·.1)).foldl (fun s n => s.scanSlice n) s

/-- The reclaim is over, and the directory mode is that of the time without one (R390). -/
def State.endReclaim (s : State) : State :=
  { s with coh := { s.coh with reclaim := false, spill := s.spillShift.isSome && !s.coh.test } }

/-- RECLAIM_END while a reclaim runs: it is over where every slice is scanned, and goes on otherwise. -/
theorem execReclaimEnd_due {s : State} (ha : s.alive = true) (hr : s.coh.reclaim = true) :
    execReclaimEnd s = .next ((s.slices.map (·.1)).foldl (fun s n => s.pumpHome n)
      (if s.scanAll.coh.serving && (s.slices.map (·.1)).all (fun n => s.scanAll.scanned n) then s.scanAll.endReclaim else s.scanAll)) := by
  have hmode : (State.spillMode { s.scanAll with coh := { s.scanAll.coh with reclaim := false } }) =
      (s.scanAll.spillShift.isSome && !s.scanAll.coh.test) := Bool.and_true _
  unfold State.endReclaim
  rw [← hmode]
  unfold State.scanAll
  simp only [execReclaimEnd, ha, hr, Bool.not_true, Bool.or_self, Bool.false_eq_true, if_false]

/-! ### Invalidation of cached translations (R331 to R334) -/

/-- What a table does not list has the default. -/
theorem Tbl.get_of_unlisted {β : Type} {d : β} {t : Tbl β} {i : Nat} (h : i ∉ t.map (·.1)) : Tbl.get d t i = d := by
  induction t with
  | nil => rfl
  | cons e t ih =>
    rw [List.map_cons, List.mem_cons, not_or] at h
    obtain ⟨hne, hi⟩ := h
    rw [Tbl.get_cons, if_neg (Ne.symm hne), ih hi]

section

variable {β α : Type} [DecidableEq β] {d : β} {f : β → β} {part : β → List α} {keep : α → Bool}

/-- A list of an entry after each of some entries has had that list filtered. -/
theorem Tbl.mem_foldl_filter (hf : ∀ x, part (f x) = (part x).filter keep) (ks : List Nat) {t : Tbl β} (hw : Tbl.wf d t = true)
    (i : Nat) (e : α) :
    e ∈ part (Tbl.get d (ks.foldl (fun t k => Tbl.upd d t k f) t) i) ↔ e ∈ part (Tbl.get d t i) ∧ (i ∈ ks → keep e = true) := by
  induction ks generalizing t with
  | nil => simp
  | cons k ks ih =>
    rw [List.foldl_cons, ih (Tbl.wf_upd _ _ _ _ hw), Tbl.get_upd _ _ _ _ _ hw, List.mem_cons]
    by_cases hi : i = k
    · subst hi
      rw [if_pos rfl, hf, List.mem_filter]
      tauto
    · rw [if_neg hi]
      tauto

theorem Tbl.wf_foldl_upd (ks : List Nat) {t : Tbl β} (hw : Tbl.wf d t = true) :
    Tbl.wf d (ks.foldl (fun t k => Tbl.upd d t k f) t) = true := by
  induction ks generalizing t with
  | nil => exact hw
  | cons k ks ih => exact ih (Tbl.wf_upd _ _ _ _ hw)

/-- The same of every entry listed, where the default's list is empty. -/
theorem Tbl.mem_filter_all (hf : ∀ x, part (f x) = (part x).filter keep) (hd : part d = []) {t : Tbl β} (hw : Tbl.wf d t = true)
    (i : Nat) (e : α) :
    e ∈ part (Tbl.get d ((t.map (·.1)).foldl (fun t k => Tbl.upd d t k f) t) i) ↔ e ∈ part (Tbl.get d t i) ∧ keep e = true := by
  rw [Tbl.mem_foldl_filter hf _ hw]
  refine and_congr_right fun he => ?_
  have hi : i ∈ t.map (·.1) := by
    by_contra hn
    rw [Tbl.get_of_unlisted hn, hd] at he
    cases he
  exact forall_prop_of_true hi

end

/-- A unit, a cluster and a DMA engine without the entries that an invalidation removes. -/
def UnitSt.dropXlt (x : XltInv) (k : UnitSt) : UnitSt := { k with tlb := k.tlb.filter (fun t => !x.leaf t) }
def Cluster.dropXlt (x : XltInv) (k : Cluster) : Cluster :=
  { k with tlb := k.tlb.filter (fun t => !x.leaf t), nonLeaf := k.nonLeaf.filter (fun e => !x.table e) }
def DmaEng.dropXlt (x : XltInv) (k : DmaEng) : DmaEng := { k with tlb := k.tlb.filter (fun t => !x.leaf t) }

section

variable (s : State)

theorem State.removeXlt_units : s.removeXlt.units =
    (s.units.map (·.1)).foldl (fun t u => Tbl.upd {} t u (UnitSt.dropXlt s.xlt)) s.units := by
  unfold State.removeXlt
  rw [foldl_part State.units fun _ _ => State.modDma_units .., foldl_part State.units fun _ _ => State.modCluster_units ..]
  exact (List.foldl_hom State.units fun _ _ => rfl).symm

theorem State.removeXlt_clusters : s.removeXlt.clusters =
    (s.clusters.map (·.1)).foldl (fun t c => Tbl.upd {} t c (Cluster.dropXlt s.xlt)) s.clusters := by
  unfold State.removeXlt
  rw [foldl_part State.clusters fun _ _ => State.modDma_clusters ..]
  refine (List.foldl_hom State.clusters (g₂ := fun t c => Tbl.upd {} t c (Cluster.dropXlt s.xlt)) fun _ _ => rfl).symm.trans ?_
  rw [foldl_part State.clusters fun _ _ => State.modUnit_clusters ..]

theorem State.removeXlt_dma : s.removeXlt.dma = (s.dma.map (·.1)).foldl (fun t e => Tbl.upd {} t e (DmaEng.dropXlt s.xlt)) s.dma := by
  unfold State.removeXlt
  refine (List.foldl_hom State.dma (g₂ := fun t e => Tbl.upd {} t e (DmaEng.dropXlt s.xlt)) fun _ _ => rfl).symm.trans ?_
  rw [foldl_part State.dma fun _ _ => State.modCluster_dma .., foldl_part State.dma fun _ _ => State.modUnit_dma ..]

theorem State.mem_removeXlt_unit (hw : Tbl.wf {} s.units = true) (u : Nat) (e : Tlb) :
    e ∈ (s.removeXlt.unit u).tlb ↔ e ∈ (s.unit u).tlb ∧ s.xlt.leaf e = false := by
  unfold State.unit
  rw [State.removeXlt_units, Tbl.mem_filter_all (f := UnitSt.dropXlt s.xlt) (part := UnitSt.tlb) (fun _ => rfl) rfl hw, Bool.not_eq_true']

theorem State.mem_removeXlt_cluster (hw : Tbl.wf {} s.clusters = true) (c : Nat) (e : Tlb) :
    e ∈ (s.removeXlt.cluster c).tlb ↔ e ∈ (s.cluster c).tlb ∧ s.xlt.leaf e = false := by
  unfold State.cluster
  rw [State.removeXlt_clusters, Tbl.mem_filter_all (f := Cluster.dropXlt s.xlt) (part := Cluster.tlb) (fun _ => rfl) rfl hw, Bool.not_eq_true']

theorem State.mem_removeXlt_nonLeaf (hw : Tbl.wf {} s.clusters = true) (c : Nat) (e : NonLeaf) :
    e ∈ (s.removeXlt.cluster c).nonLeaf ↔ e ∈ (s.cluster c).nonLeaf ∧ s.xlt.table e = false := by
  unfold State.cluster
  rw [State.removeXlt_clusters, Tbl.mem_filter_all (f := Cluster.dropXlt s.xlt) (part := Cluster.nonLeaf) (fun _ => rfl) rfl hw,
    Bool.not_eq_true']

theorem State.mem_removeXlt_dma (hw : Tbl.wf {} s.dma = true) (d : Nat) (e : Tlb) :
    e ∈ (s.removeXlt.dmaEng d).tlb ↔ e ∈ (s.dmaEng d).tlb ∧ s.xlt.leaf e = false := by
  unfold State.dmaEng
  rw [State.removeXlt_dma, Tbl.mem_filter_all (f := DmaEng.dropXlt s.xlt) (part := DmaEng.tlb) (fun _ => rfl) rfl hw, Bool.not_eq_true']

/-- What no change of a unit, a cluster or a DMA engine touches stays as translations are removed. -/
theorem State.removeXlt_part {β : Type} (p : State → β) (hu : ∀ s u f, p (State.modUnit s u f) = p s)
    (hc : ∀ s c f, p (State.modCluster s c f) = p s) (hd : ∀ s d f, p (State.modDma s d f) = p s) : p s.removeXlt = p s := by
  unfold State.removeXlt
  rw [foldl_part p fun _ _ => hd .., foldl_part p fun _ _ => hc .., foldl_part p fun _ _ => hu ..]

/-- Changes of units that keep their translations. -/
theorem State.foldl_modUnit_tlb {f : State → Nat → State}
    (hf : ∀ s u, ∃ g : UnitSt → UnitSt, (∀ x, (g x).tlb = x.tlb) ∧ f s u = s.modUnit u g) (us : List Nat) {s : State}
    (hw : Tbl.wf {} s.units = true) (u : Nat) : ((us.foldl f s).unit u).tlb = (s.unit u).tlb := by
  induction us generalizing s with
  | nil => rfl
  | cons v us ih =>
    obtain ⟨g, hg, hs⟩ := hf s v
    rw [List.foldl_cons, hs, ih (State.wf_modUnit _ _ hw), State.modUnit_unit _ _ _ _ hw]
    split
    · next h => rw [hg, h]
    · rfl

theorem State.untranslate_tlb (hw : Tbl.wf {} s.units = true) (u : Nat) : (s.untranslate.unit u).tlb = (s.unit u).tlb := by
  unfold State.untranslate
  refine State.foldl_modUnit_tlb (fun _ _ => ?_) _ hw u
  refine ⟨_, ?_, rfl⟩
  exact fun _ => rfl

/-- Only units are changed as translations not yet used are forgotten. -/
theorem State.untranslate_part {β : Type} (p : State → β) (hp : ∀ s u f, p (State.modUnit s u f) = p s) : p s.untranslate = p s :=
  foldl_part p (fun _ _ => hp ..) _ _

theorem State.untranslate_cluster (c : Nat) : s.untranslate.cluster c = s.cluster c :=
  State.untranslate_part s (State.cluster · c) fun _ _ _ => rfl

theorem State.untranslate_dmaEng (d : Nat) : s.untranslate.dmaEng d = s.dmaEng d :=
  State.untranslate_part s (State.dmaEng · d) fun _ _ _ => rfl

end

/-- XLT_INV_DONE once every access that used a removed translation has been performed. -/
theorem execXltInvDone_due {s : State} (ha : s.alive = true) (hb : s.xlt.busy = true) :
    let t := (s.units.map (·.1)).foldl (fun s u => s.drainWc u) s
    (∀ u ∈ s.units.map (·.1), t.xltOutstanding u = false) →
      execXltInvDone s = .next { t.removeXlt with xlt := { t.xlt with busy := false, done := (t.xlt.done + 1) % 2 ^ 32 } } := by
  intro t ht
  have hnone : (s.units.map (·.1)).any (fun u => t.xltOutstanding u) = false := by simpa using ht
  simp only [execXltInvDone, ha, hb, Bool.not_true, Bool.or_self, Bool.false_eq_true, if_false]
  rw [if_neg (ne_true_of_eq_false hnone)]
  rfl

/-- Settles O34: each event of the homes and of cached translations by the lemma that says what it comes to. -/
theorem homeEventsAct : Obligations.HomeEventsAct := by
  intro s ha
  refine ⟨fun l f d hf hd => ?fill, fun l e b k a hb hw hset => ?spill, fun a l x m ev hx hm hc hev => execCleatExpiry_due ha hx hm hc hev,
    fun hr => ?reclaim, fun hb => ?busy, fun hT hb => ?invalidate, execXltInvDone_due ha⟩
  case fill =>
    have hx : exec (.fillComplete l) s = .next (s.fillComplete l) := congrArg Host.Outcome.next (if_pos ha)
    rw [hx]
    exact ⟨fun b hb hw hs hp => congrArg Host.Outcome.next (State.fillComplete_awaited hf hd hb hw hs hp),
      fun h => congrArg Host.Outcome.next (State.fillComplete_unawaited hf hd h)⟩
  case spill =>
    intro n hsum s1 r got
    have hr : (s.countSpillRead n).readLine a e = r := rfl
    have hg : (s.countSpillRead n).readEvents a r = got := rfl
    clear_value r got
    intro ws s2 here
    have hx : exec (.spillRead l e) s = .next (s.spillRead l e) := congrArg Host.Outcome.next (if_pos ha)
    rw [hx]
    subst hr
    refine ⟨fun hh => ?_, fun hh hp => ?_, fun hh hp hn => ?_, fun hh hp i hi hi' hfirst => ?_⟩
    · rw [State.spillRead_held hb hw hset (State.readSpill_held hsum hh)]
    · obtain ⟨g, hlost⟩ := State.readSpill_lost hsum hh hp
      exact ⟨_, congrArg Host.Outcome.next (State.spillRead_lost hb hw hset hlost), rfl, rfl, rfl⟩
    · rw [State.spillRead_absent hb hw hset (State.readSpill_words hsum hh hp hg) hn]
    · rw [State.spillRead_found hb hw hset (State.readSpill_words hsum hh hp hg) hi hi' hfirst]
      rfl
  case reclaim =>
    intro ns t
    have hx : exec .reclaimEnd s = _ := execReclaimEnd_due ha hr
    rw [hx]
    refine ⟨fun hs hn => ?_, fun h => ?_⟩
    · rw [if_pos (by rw [Bool.and_eq_true, List.all_eq_true]; exact ⟨hs, hn⟩)]
      rfl
    · rw [if_neg]
      · rfl
      · rw [Bool.and_eq_true, List.all_eq_true]
        rintro ⟨hs, hn⟩
        obtain h | ⟨n, hm, hf⟩ := h
        · exact absurd (hs.symm.trans h) (by decide)
        · exact absurd ((hn n hm).symm.trans hf) (by decide)
  case busy =>
    exact congrArg Host.Outcome.next (if_pos (by rw [hb, Bool.or_true]))
  case invalidate =>
    obtain ⟨hu, hc, -, -, -, -, hd, -⟩ := hT
    let s' : State := { s with xlt := { s.xlt with busy := true } }
    have hw : Tbl.wf {} s'.removeXlt.units = true := by
      rw [State.removeXlt_units]
      exact Tbl.wf_foldl_upd _ hu
    refine ⟨s'.removeXlt.untranslate, congrArg Host.Outcome.next (if_neg (by rw [ha, hb]; decide)), ?_, fun u e => ?_, fun c e => ?_,
      fun c e => ?_, fun d e => ?_, ?_⟩
    · exact (State.untranslate_part _ State.xlt fun _ _ _ => rfl).trans
        (State.removeXlt_part s' State.xlt (fun _ _ _ => rfl) (fun _ _ _ => rfl) fun _ _ _ => rfl)
    · rw [State.untranslate_tlb _ hw]
      exact State.mem_removeXlt_unit s' hu u e
    · rw [State.untranslate_cluster]
      exact State.mem_removeXlt_cluster s' hc c e
    · rw [State.untranslate_cluster]
      exact State.mem_removeXlt_nonLeaf s' hc c e
    · rw [State.untranslate_dmaEng]
      exact State.mem_removeXlt_dma s' hd d e
    · exact (State.untranslate_part _ State.mem fun _ _ _ => rfl).trans
        (State.removeXlt_part s' State.mem (fun _ _ _ => rfl) (fun _ _ _ => rfl) fun _ _ _ => rfl)

end Sys2Proof.Machine
end

section
/-! SUPPORT. The rates, widths and modes at which a pass through Recovery leaves the link (R567, R582). -/

namespace Sys2Proof.Machine

open Sys2Proof

/-- The port once HPT_STATUS gives the link's rate, width and mode after a pass through Recovery, counted in RETRAINS (R582). -/
def State.retrained (s : State) (rate width : Nat) (flit : Bool) : State :=
  { s with hpt := { s.hpt with rate := rate, width := width, flit := flit, retrains := min (s.hpt.retrains + 1) (2 ^ 16 - 1) } }

section

variable {s : State} {rate width : Nat} {flit : Bool}

theorem exec_hostRetrain_modeOk (hu : s.hpt.linkUp = true) (hm : linkModeOk rate width flit = true) :
    exec (.hostRetrain rate width flit) s = .next (s.retrained rate width flit) :=
  congrArg Host.Outcome.next (if_neg (by rw [hu, hm]; decide))

theorem exec_hostRetrain_modeOff (hm : linkModeOk rate width flit = false) : exec (.hostRetrain rate width flit) s = .next s :=
  congrArg Host.Outcome.next (if_pos (by rw [hm, Bool.not_false, Bool.or_true]))

/-- A count below its top moves, so a state that counts a pass is another state. -/
theorem State.retrained_ne (hn : s.hpt.retrains < 2 ^ 16 - 1) : s.retrained rate width flit ≠ s := by
  intro h
  have hc : min (s.hpt.retrains + 1) (2 ^ 16 - 1) = s.hpt.retrains := congrArg (fun t : State => t.hpt.retrains) h
  omega

/-- With the link up, HOST_RETRAIN is recorded exactly where the link runs at that rate, width and mode. -/
theorem exec_hostRetrain_iff (hu : s.hpt.linkUp = true) (hn : s.hpt.retrains < 2 ^ 16 - 1) :
    exec (.hostRetrain rate width flit) s = .next (s.retrained rate width flit) ↔ linkModeOk rate width flit = true := by
  refine ⟨fun h => ?_, exec_hostRetrain_modeOk hu⟩
  by_contra hm
  rw [exec_hostRetrain_modeOff (Bool.eq_false_of_not_eq_true hm)] at h
  exact State.retrained_ne hn (Host.Outcome.next.inj h).symm

end

/-- A package alive with its host link up, and no pass through Recovery counted yet. -/
def linkedHost : State := { State.reset with hpt := { linkUp := true } }

theorem linkedHost_alive : linkedHost.alive = true := rfl

/-- Refutes O42: its clause of a pass through Recovery is stated for every rate, width and mode, and the model counts a pass only where
the link comes out of it at those of R567. On `linkedHost`, HOST_RETRAIN at rate code 0, which is 2.5 GT/s (R592) and no rate of
the link's once trained, leaves RETRAINS at 0, where the statement counts 1. -/
theorem not_hostAccessesAreAdmittedOrRefused : ¬ Obligations.HostAccessesAreAdmittedOrRefused := by
  intro h
  obtain ⟨-, -, -, -, -, hretrain, -, -⟩ := h linkedHost linkedHost_alive
  have hok : linkModeOk 0 16 false = true := (exec_hostRetrain_iff rfl (by decide)).mp (hretrain rfl 0 16 false)
  exact absurd hok (by decide)

end Sys2Proof.Machine
end

section
/-! SUPPORT. Requests to a line with a directory entry: the snoops of R382's table, and the notices of the line's holders (R374, R381,
R382, R389). -/

namespace Sys2Proof.Machine

open Sys2Proof

/-! ### Served at the home (R381, R388, R389) -/

theorem State.wake_coh (s : State) (l : Nat) : (s.wake l).coh = s.coh :=
  foldl_part State.coh (fun s w => by unfold State.wakeOne; split <;> rfl) _ _

/-- A home in service takes the messages of living agents. -/
theorem home_takes {s : State} {m : Msg} (hs : s.coh.serving = true) (hd : m.src ∉ s.coh.dead) :
    (!s.coh.serving || s.coh.dead.contains m.src) = false := by
  simp [hs, hd]

/-- A request that its home serves as it arrives. -/
theorem State.homeRequest_served {s : State} {m : Msg} {e : Option DirEntry} (h : ServedNow s m e) :
    (taken s m).homeRequest m = ((taken s m).serve m).pumpHome (s.homeOf m.line) := by
  obtain ⟨⟨-, hserves, -, -⟩, hlive, -, hbusy, hroom, hset, hwait, -, hdir, -, -⟩ := h
  have hgo : ((taken s m).lineFree (s.slice (s.homeOf m.line)).waiting m && (taken s m).dirReady m) = true := by
    simp [State.lineFree, taken_homeOf, taken_slice, taken_setBlocked, taken_dirReady, hbusy, hroom, hset, hwait, hdir]
  simp only [State.homeRequest, taken_coh, taken_homeOf, taken_slice, home_takes hserves hlive, hgo, Bool.false_eq_true, if_false, if_true]

/-- With no reclaim under way an entry becomes the most recently used, and the request acts on it. -/
theorem State.serve_listed {s : State} {m : Msg} {e : DirEntry} (he : (s.slice (s.homeOf m.line)).entry m.line = some e)
    (hr : s.coh.reclaim = false) : s.serve m = (s.setDir m.line (some e)).act m (some e) := by
  simp only [State.serve, he, hr, Bool.false_and, Bool.false_eq_true, if_false]

/-- The commands that bring a home its requests (R376). -/
def homeRequests : List ((Msg → Instr) × MsgType) :=
  [(.rds, .rds), (.rdo, .rdo), (.upg, .upg), (.wbk, .wbk), (.evc, .evc), (.sth, .sth), (.wnc, .wnc), (.rnc, .rnc), (.anc, .anc)]

/-- A request of any type to a line with an entry acts on it. -/
theorem exec_listed {s : State} {m : Msg} {e : DirEntry} (h : ServedNow s m (some e)) :
    ∀ i ∈ homeRequests, m.ty = i.2 →
      exec (i.1 m) s = .next ((((taken s m).setDir m.line (some e)).act m (some e)).pumpHome (s.homeOf m.line)) := by
  intro i hi hty
  obtain ⟨harrive, -, hreclaim, -, -, -, -, -, -, hentry, -⟩ := id h
  have hreq : isRequest m = true := by fin_cases hi <;> simp_all [isRequest]
  have hact : (taken s m).serve m = _ := State.serve_listed (by rw [taken_homeOf, taken_slice, hentry]) hreclaim
  have hgo : s.deliver { m with ty := i.2 } = (((taken s m).setDir m.line (some e)).act m (some e)).pumpHome (s.homeOf m.line) := by
    rw [Msg.withTy_eq hty, State.deliver_request harrive hreq, State.homeRequest_served h, hact]
  fin_cases hi <;> exact congrArg Host.Outcome.next hgo

/-! ### The snoops of a request (R382) -/

/-- The agents of a list that are not dead (R398). -/
def living (dead as : List Nat) : List Nat := as.filter (fun a => !dead.contains a)

theorem living_ne_nil {dead : List Nat} {a : Nat} (h : a ∉ dead) : living dead [a] ≠ [] := by simp [living, h]

/-- The living owner that a request snoops, if it snoops one and the line has one. -/
def snoopedOwner (dead : List Nat) (e : DirEntry) (own : Option MsgType) : List Nat :=
  if own.isSome then living dead (if e.st = .S then [] else [e.owner]) else []

theorem snoopedOwner_eq (dead : List Nat) (e : DirEntry) (own : Option MsgType) :
    snoopedOwner dead e own = living dead (if e.st = .S ∨ own = none then [] else [e.owner]) := by
  cases own <;> simp [snoopedOwner, living]

/-- The state once a request's snoops are sent: `own` to the owner, SNI to the agents of `sni`. -/
def State.sendSnoops (s : State) (m : Msg) (e : DirEntry) (own : Option MsgType) (sni : List Nat) : State :=
  let t := match own with
    | some ty => s.snoops m.line m.txn ty (snoopedOwner s.coh.dead e own)
    | none => s
  t.snoops m.line m.txn .sni (living s.coh.dead sni)

/-- The busy line of a request that has sent its snoops. -/
def snoopingLine (dead : List Nat) (m : Msg) (e : DirEntry) (asRdo : Bool) (own : Option MsgType) (sni : List Nat) : BusyLine :=
  { line := m.line, why := .bs, req := m, was := some e, asRdo := asRdo,
    owed := (snoopedOwner dead e own).map (fun a => (a, true)) ++ (living dead sni).map (fun a => (a, false)) }

/-- A request sends its snoops, and goes on at once where no living agent owes it an answer. -/
def State.ask (s : State) (m : Msg) (e : DirEntry) (asRdo : Bool) (own : Option MsgType) (sni : List Nat) : State :=
  (s.sendSnoops m e own sni).progress (snoopingLine s.coh.dead m e asRdo own sni)

section

variable {s : State} {m : Msg} {e : DirEntry}

theorem State.act_read (hty : m.ty = .rds ∨ m.ty = .rnc) (hs : e.st ≠ .S) : s.act m (some e) = s.ask m e false (some .sns) [] := by
  unfold State.act
  rcases hty with hty | hty
  · simp only [hty]
    exact if_neg hs
  · simp only [hty]
    exact if_neg hs

/-- The requests that leave no other copy of the line. -/
theorem State.act_exclusive (hty : m.ty ∈ [MsgType.rdo, .wnc, .anc, .sth]) :
    s.act m (some e) =
      if e.st = .S then (s.wake m.line).ask m e false none e.holders else (s.wake m.line).ask m e false (some .sno) e.holders := by
  unfold State.act
  generalize m.ty = ty at hty
  fin_cases hty <;> rfl

theorem State.act_upg (hty : m.ty = .upg) :
    s.act m (some e) =
      (let others := e.holders.filter (fun a => a != m.src)
       if e.st = .S ∧ e.pointed m.src then (s.wake m.line).ask m e false none others
       else if e.st = .O ∧ e.owner = m.src then (s.wake m.line).ask m e false none e.holders
       else if e.st = .O ∧ e.pointed m.src then (s.wake m.line).ask m e false (some .sno) others
       else if e.st = .S then (s.wake m.line).ask m e true none e.holders
       else (s.wake m.line).ask m e true (some .sno) e.holders) := by
  unfold State.act
  simp only [hty]
  rfl

theorem State.progress_owed {b : BusyLine} (h : b.owed ≠ []) : s.progress b = s.setBusy { b with why := .bs } := by
  unfold State.progress
  exact if_pos (by simpa using h)

variable {asRdo : Bool} {own : Option MsgType} {sni : List Nat}

theorem State.ask_owed (h : snoopedOwner s.coh.dead e own ≠ [] ∨ living s.coh.dead sni ≠ []) :
    s.ask m e asRdo own sni = (s.sendSnoops m e own sni).setBusy (snoopingLine s.coh.dead m e asRdo own sni) :=
  State.progress_owed (by simpa [snoopingLine, imp_iff_not_or] using h)

/-- A request whose snoops go to sharers of which one lives. -/
theorem State.ask_sharers (h : living s.coh.dead sni ≠ []) :
    s.ask m e asRdo none sni = (s.sendSnoops m e none sni).setBusy (snoopingLine s.coh.dead m e asRdo none sni) :=
  State.ask_owed (.inr h)

/-- A request that snoops a living owner. -/
theorem State.ask_owner {ty : MsgType} (hs : e.st ≠ .S) (hd : e.owner ∉ s.coh.dead) :
    s.ask m e asRdo (some ty) sni = (s.sendSnoops m e (some ty) sni).setBusy (snoopingLine s.coh.dead m e asRdo (some ty) sni) :=
  State.ask_owed (.inl (by simpa [snoopedOwner, hs] using living_ne_nil hd))

end

/-! ### A request that is owed nothing (R381) -/

section

variable {s : State} {b : BusyLine} (ho : b.owed = [])
include ho

theorem State.progress_unneeded (hn : needsData b = false) : s.progress b = s.finishLine b (b.data.getD (0, false)) := by
  unfold State.progress
  rw [ho, hn]
  rfl

/-- Data that an owner supplied ends the request, needed or not. -/
theorem State.progress_supplied {d : LineData × Bool} (hd : b.data = some d) : s.progress b = s.finishLine b d := by
  unfold State.progress
  rw [ho, hd]
  exact ite_self _

end

/-! ### The notices of a holder (R382) -/

/-- The busy line of a request that snoops nobody. -/
def listedLine (m : Msg) (e : DirEntry) : BusyLine := { line := m.line, why := .bs, req := m, was := some e }

section

variable {s : State} {m : Msg} {e : DirEntry}

theorem State.act_notice (hty : m.ty = .wbk ∨ m.ty = .evc) : s.act m (some e) = s.finishLine (listedLine m e) (0, false) := by
  have hn : needsData (listedLine m e) = false := by rcases hty with hty | hty <;> simp [needsData, listedLine, hty]
  have hact : s.act m (some e) = s.progress (listedLine m e) := by
    unfold State.act
    rcases hty with hty | hty <;> simp only [hty] <;> rfl
  rw [hact, State.progress_unneeded rfl hn]
  rfl

/-- State S with the entry's sharers, or no entry (R382). -/
theorem DirEntry.toS_eq (e : DirEntry) :
    e.toS = if e.coarse = false ∧ e.sharers = [] then none else some { e with st := .S, owner := 0 } := by
  simp [DirEntry.toS]

theorem DirEntry.toS_shared (hs : e.st = .S) (hc : e.coarse = false) :
    e.toS = if e.sharers = [] then none else some { e with owner := 0 } := by
  rw [DirEntry.toS_eq, ← hs]
  simp [hc]

variable (d : LineData × Bool)

theorem finishLine_wbk_owner (hty : m.ty = .wbk) (hs : e.st ≠ .S) (ho : e.owner = m.src) : s.finishLine (listedLine m e) d =
    (((s.clearBusy m.line).homeWrite m.line m.data m.poison).setDir m.line (if e.st = .X then none else e.toS)).reply m
      { ty := .ack } := by
  simp only [State.finishLine, listedLine, hty, Bool.false_eq_true, if_false]
  exact if_pos ⟨hs, ho⟩

theorem finishLine_evc_owner (hty : m.ty = .evc) (hs : e.st = .X) (ho : e.owner = m.src) : s.finishLine (listedLine m e) d =
    ((s.clearBusy m.line).setDir m.line none).reply m { ty := .ack } := by
  simp only [State.finishLine, listedLine, hty, Bool.false_eq_true, if_false]
  exact if_pos ⟨hs, ho⟩

theorem finishLine_evc_sharer (hty : m.ty = .evc) (hs : e.st ≠ .X) (hp : e.pointed m.src = true) : s.finishLine (listedLine m e) d =
    ((s.clearBusy m.line).setDir m.line
      (let rest : DirEntry := { e with sharers := e.sharers.filter (fun a => a != m.src) }
       if e.st = .S then rest.toS else some rest)).reply m { ty := .ack } := by
  simp only [State.finishLine, listedLine, hty, Bool.false_eq_true, if_false]
  exact (if_neg fun h => hs h.1).trans (if_pos ⟨hs, hp⟩)

end

/-- Settles O32: a request that its home serves acts by its row of R382's table (`State.act_read` and the lemmas after it); where a living
agent is snooped the line is left busy (`State.ask_owed`), and a notice of a holder ends by the lemma of its last part. -/
theorem homesSnoopTheHolders : Obligations.HomesSnoopTheHolders := by
  intro s m e h l n s0 w live snoop others
  have hgo : ∀ i ∈ homeRequests, m.ty = i.2 → exec (i.1 m) s = .next ((s0.act m (some e)).pumpHome n) := exec_listed h
  have hw : w.coh = s.coh := State.wake_coh s0 l
  have hsnoop : ∀ (t : State) asRdo own sni, t.coh = s.coh →
      ((t.sendSnoops m e own sni).setBusy (snoopingLine t.coh.dead m e asRdo own sni)).pumpHome n = snoop t asRdo own sni := by
    intro t asRdo own sni ht
    simp only [State.sendSnoops, snoopingLine, snoopedOwner_eq, ht]
    rfl
  have howner : ∀ (t : State) asRdo ty sni, t.coh = s.coh → e.st ≠ .S → e.owner ∉ s.coh.dead →
      (t.ask m e asRdo (some ty) sni).pumpHome n = snoop t asRdo (some ty) sni := by
    intro t asRdo ty sni ht hs hd
    rw [State.ask_owner hs (ht ▸ hd), hsnoop _ _ _ _ ht]
  have hsharers : ∀ (t : State) asRdo sni, t.coh = s.coh → live sni ≠ [] →
      (t.ask m e asRdo none sni).pumpHome n = snoop t asRdo none sni := by
    intro t asRdo sni ht hl
    rw [State.ask_sharers (by rw [ht]; exact hl), hsnoop _ _ _ _ ht]
  refine ⟨fun hty hs hd => ?rds, fun hty hs hd => ?rnc, fun i hi hty => ?exclusive, fun hty => ?upg,
    fun hty hs ho => ?wbk, fun hty hs ho => ?evcOwner, fun hty hs hp => ?evcSharer⟩
  case rds =>
    rw [hgo (.rds, .rds) (by simp [homeRequests]) hty, State.act_read (.inl hty) hs, howner s0 _ _ _ rfl hs hd]
  case rnc =>
    rw [hgo (.rnc, .rnc) (by simp [homeRequests]) hty, State.act_read (.inr hty) hs, howner s0 _ _ _ rfl hs hd]
  case exclusive =>
    have hmem : m.ty ∈ [MsgType.rdo, .wnc, .anc, .sth] := hty ▸ List.mem_map_of_mem (f := Prod.snd) hi
    rw [hgo i (by fin_cases hi <;> simp [homeRequests]) hty, State.act_exclusive hmem]
    exact ⟨fun hs hl => by rw [if_pos hs, hsharers _ _ _ hw hl], fun hs hd => by rw [if_neg hs, howner _ _ _ _ hw hs hd]⟩
  case upg =>
    rw [hgo (.upg, .upg) (by simp [homeRequests]) hty, State.act_upg hty]
    refine ⟨fun hs hp hl => ?_, fun hs ho hl => ?_, fun hs ho hd hp => ?_, fun hs hp hl => ?_, fun hs ho hd hp => ?_, fun hs hd => ?_⟩
    · simpa [hs, hp] using hsharers _ _ _ hw hl
    · simpa [hs, ho] using hsharers _ _ _ hw hl
    · simpa [hs, ho, hp] using howner _ _ _ _ hw (by simp [hs]) hd
    · simpa [hs, hp] using hsharers _ _ _ hw hl
    · simpa [hs, ho, hp] using howner _ _ _ _ hw (by simp [hs]) hd
    · simpa [hs] using howner _ _ _ _ hw (by simp [hs]) hd
  case wbk =>
    rw [hgo (.wbk, .wbk) (by simp [homeRequests]) hty, State.act_notice (.inl hty), finishLine_wbk_owner _ hty hs ho, DirEntry.toS_eq]
    simp only [← ite_or]
    rfl
  case evcOwner =>
    rw [hgo (.evc, .evc) (by simp [homeRequests]) hty, State.act_notice (.inr hty), finishLine_evc_owner _ hty hs ho]
  case evcSharer =>
    intro rest
    have hc : e.coarse = false := by simpa using (Bool.and_eq_true_iff.1 hp).1
    rw [hgo (.evc, .evc) (by simp [homeRequests]) hty, State.act_notice (.inr hty), finishLine_evc_sharer _ hty hs hp]
    by_cases hS : e.st = .S
    · rw [if_pos hS, if_pos hS, DirEntry.toS_shared (e := { e with sharers := rest }) hS hc]
    · rw [if_neg hS, if_neg hS]

end Sys2Proof.Machine
end

section
/-! SUPPORT. Answers at a home (R381, R383, R386): which the home waits for, and what the last one ends. -/

namespace Sys2Proof.Machine

open Sys2Proof

/-! ### Which answers are taken (R375, R380, R383) -/

/-- The commands that bring a home its answers (R376). -/
def homeAnswers : List ((Msg → Instr) × MsgType) := [(.dat, .dat), (.datd, .datd), (.ack, .ack)]

/-- An answer that may arrive reaches the home. -/
theorem exec_answer {s : State} {m : Msg} (h : MayArrive s m) (hd : m.dst = homeId) :
    ∀ i ∈ homeAnswers, m.ty = i.2 → exec (i.1 m) s = .next ((taken s m).homeResponse m) := by
  intro i hi hty
  obtain ⟨ha, hserves, hsender, hfirst⟩ := h
  have hreq : isRequest m = false := by fin_cases hi <;> simp_all [isRequest]
  have hturn : (s.net.contains m && (s.net.takeWhile (fun x => !(x == m))).any (fun x => s.sameChannel x m)) = false := by
    simpa using hfirst
  have harrive : s.arrive m = (taken s m).homeResponse m := by
    unfold State.arrive taken
    simp only [hserves, hreq, hd, Bool.not_true, Bool.false_eq_true, if_false, if_true]
  have hgo : s.deliver { m with ty := i.2 } = (taken s m).homeResponse m := by
    rw [Msg.withTy_eq hty]
    simp only [State.deliver, ha, hsender, hturn, hreq, harrive, hd, Bool.not_true, Bool.or_self, Bool.not_false, Bool.false_eq_true,
      if_false]
    rfl
  fin_cases hi <;> exact congrArg Host.Outcome.next hgo

/-- An answer that no busy line waits for (R380). -/
theorem State.homeResponse_unawaited {s : State} {m : Msg} (hs : s.coh.serving = true) (hd : m.src ∉ s.coh.dead)
    (hb : (s.slice (s.homeOf m.line)).busyOf m.line = none) : s.homeResponse m = s.fatal 0x23 6 (s.homeOf m.line) 0 m.line := by
  simp only [State.homeResponse, home_takes hs hd, hb, Bool.false_eq_true, if_false]
  rfl

/-- The busy line with a sharer's answer no longer owed. -/
def BusyLine.settled (b : BusyLine) (src : Nat) : BusyLine := { b with owed := b.owed.erase (src, false) }

/-- The busy line with the owner's answer: its kind (R383) and its data. -/
def BusyLine.answered (b : BusyLine) (m : Msg) (ans : Nat) : BusyLine :=
  { b with owed := b.owed.erase (m.src, true), ans := ans, data := some (m.data, m.poison) }

section

variable {s : State} {m : Msg} {b : BusyLine}

theorem State.homeResponse_sharer (h : AnswerDue s m b false) (hty : m.ty = .ack) :
    (taken s m).homeResponse m = ((taken s m).progress (b.settled m.src)).pumpHome (s.homeOf m.line) := by
  obtain ⟨⟨-, hserves, -, -⟩, -, hlive, hbusy, hwhy, howed⟩ := h
  simp only [State.homeResponse, taken_coh, taken_homeOf, taken_slice, home_takes hserves hlive, hbusy, howed, BusyLine.settled, hwhy,
    hty]
  rfl

section

variable (h : AnswerDue s m b true) (hf : b.forced = false)
include h hf

theorem State.homeResponse_dat (hty : m.ty = .dat) :
    (taken s m).homeResponse m = ((taken s m).progress (b.answered m 1)).pumpHome (s.homeOf m.line) := by
  obtain ⟨⟨-, hserves, -, -⟩, -, hlive, hbusy, hwhy, howed⟩ := h
  simp only [State.homeResponse, taken_coh, taken_homeOf, taken_slice, home_takes hserves hlive, hbusy, howed, BusyLine.answered, hwhy,
    hty, hf]
  rfl

/-- Dirty data of which its owner keeps a copy. -/
theorem State.homeResponse_datd_kept (hty : m.ty = .datd) (hr : m.retain = true) (hreq : b.req.ty = .rds) :
    (taken s m).homeResponse m = ((taken s m).progress (b.answered m 2)).pumpHome (s.homeOf m.line) := by
  obtain ⟨⟨-, hserves, -, -⟩, -, hlive, hbusy, hwhy, howed⟩ := h
  simp only [State.homeResponse, taken_coh, taken_homeOf, taken_slice, home_takes hserves hlive, hbusy, howed, BusyLine.answered, hwhy,
    hty, hr, hreq, hf]
  rfl

/-- Dirty data of which its owner keeps no copy, to a request that shares the line: the home writes it. -/
theorem State.homeResponse_datd_shared (hty : m.ty = .datd) (hr : m.retain = false) (hreq : b.req.ty = .rds) :
    (taken s m).homeResponse m =
      (((taken s m).homeWrite m.line m.data m.poison).progress (b.answered m 3)).pumpHome (s.homeOf m.line) := by
  obtain ⟨⟨-, hserves, -, -⟩, -, hlive, hbusy, hwhy, howed⟩ := h
  simp only [State.homeResponse, taken_coh, taken_homeOf, taken_slice, home_takes hserves hlive, hbusy, howed, BusyLine.answered, hwhy,
    hty, hr, hreq, hf]
  rfl

/-- Dirty data of which its owner keeps no copy, to a request that takes the line over. -/
theorem State.homeResponse_datd_passed (hty : m.ty = .datd) (hr : m.retain = false) (hreq : b.req.ty = .rdo) :
    (taken s m).homeResponse m = ((taken s m).progress (b.answered m 3)).pumpHome (s.homeOf m.line) := by
  obtain ⟨⟨-, hserves, -, -⟩, -, hlive, hbusy, hwhy, howed⟩ := h
  simp only [State.homeResponse, taken_coh, taken_homeOf, taken_slice, home_takes hserves hlive, hbusy, howed, BusyLine.answered, hwhy,
    hty, hr, hreq, hf]
  rfl

end

/-! ### The last answer (R382, R383) -/

/-- Line `l` owned by the requester, in the mode of the entry that it had (R374). -/
def BusyLine.owned (b : BusyLine) (l : Nat) : DirEntry := { line := l, st := .X, owner := b.req.src, coarse := b.was.any (·.coarse) }

/-- The entry of line `l` once its owner has answered an RDS, by the kind of its answer (R383). -/
def BusyLine.shared (b : BusyLine) (l : Nat) (e : DirEntry) (ans : Nat) : DirEntry :=
  if ans = 1 then (({ line := l, st := .S, coarse := b.was.any (·.coarse) } : DirEntry).add e.owner).add b.req.src
  else if ans = 2 then { (e.add b.req.src) with st := .O }
  else { (e.add b.req.src) with st := .S, owner := 0 }

section

variable {l : Nat} (hl : b.line = l) (hf : b.forced = false)
include hl hf

/-- The last sharer's ACK ends an UPG. -/
theorem State.progress_upg_acked (hr : b.owed.erase (m.src, false) = []) (hty : b.req.ty = .upg) (hu : b.asRdo = false) :
    s.progress (b.settled m.src) = ((s.clearBusy l).setDir l (some (b.owned l))).reply b.req { ty := .ack } := by
  subst hl
  have hn : needsData (b.settled m.src) = false := by simp [needsData, BusyLine.settled, hf, hty, hu]
  rw [State.progress_unneeded hr hn]
  simp only [State.finishLine, BusyLine.settled, hf, hty, hu, Bool.false_eq_true, if_false]
  rfl

variable {ans : Nat} (hr : b.owed.erase (m.src, true) = [])
include hr

/-- The owner's data ends an RDO. -/
theorem State.progress_rdo_answered (hty : b.req.ty = .rdo) :
    s.progress (b.answered m ans) = ((s.clearBusy l).setDir l (some (b.owned l))).reply b.req
      { ty := .dat, grant := .m, data := m.data, poison := m.poison } := by
  subst hl
  rw [State.progress_supplied hr rfl]
  simp only [State.finishLine, BusyLine.answered, hf, hty, Bool.false_eq_true, if_false]
  rfl

/-- The owner's data ends an RDS. -/
theorem State.progress_rds_answered (hty : b.req.ty = .rds) {e : DirEntry} (hw : b.was = some e) (hs : e.st ≠ .S) :
    s.progress (b.answered m ans) = ((s.clearBusy l).setDir l (some (b.shared l e ans))).reply b.req
      { ty := .dat, grant := .s, data := m.data, poison := m.poison } := by
  subst hl
  rw [State.progress_supplied hr rfl]
  simp only [State.finishLine, BusyLine.answered, BusyLine.shared, hf, hty, hw, hs, Bool.false_eq_true, if_false]

end

end

/-- Settles O33: an answer that its home waits for leaves the answers owed; while others are owed the line stays busy, and the last ends
the request by the lemma of its last part. -/
theorem homesTakeAnswers : Obligations.HomesTakeAnswers := by
  intro s m b l n s0
  refine ⟨?due, fun h hty hd hlive hb => ?unawaited⟩
  case unawaited =>
    obtain ⟨-, hserves, -, -⟩ := id h
    have hfatal : s0.homeResponse m = s0.fatal 0x23 6 (s0.homeOf l) 0 l :=
      State.homeResponse_unawaited hserves hlive (by rw [taken_homeOf]; exact hb)
    rw [exec_answer h hd (.ack, .ack) (by simp [homeAnswers]) hty, hfatal, taken_homeOf]
  case due =>
    intro owner h rest coarse own hline hf
    obtain ⟨harrive, hd, -, -, hwhy, -⟩ := id h
    have hgo : ∀ i ∈ homeAnswers, m.ty = i.2 → exec (i.1 m) s = .next (s0.homeResponse m) := exec_answer harrive hd
    have hack := hgo (.ack, .ack) (by simp [homeAnswers])
    have hdat := hgo (.dat, .dat) (by simp [homeAnswers])
    have hdatd := hgo (.datd, .datd) (by simp [homeAnswers])
    refine ⟨fun hty ho hr => ?others, fun hty ho hr hreq hu => ?upg, fun hty ho hr hreq e hw hs => ?dat,
      fun hty hk ho hr hreq e hw hs => ?kept, fun hty hk ho hr hreq e hw hs => ?shared, fun i hi hty hk ho hr hreq => ?rdo⟩
    all_goals subst ho
    case others =>
      rw [hack hty, State.homeResponse_sharer h hty, State.progress_owed hr]
      simp only [BusyLine.settled, ← hwhy]
      rfl
    case upg =>
      rw [hack hty, State.homeResponse_sharer h hty, State.progress_upg_acked hline hf hr hreq hu]
      rfl
    case dat =>
      rw [hdat hty, State.homeResponse_dat h hf hty, State.progress_rds_answered hline hf hr hreq hw hs]
      rfl
    case kept =>
      rw [hdatd hty, State.homeResponse_datd_kept h hf hty hk hreq, State.progress_rds_answered hline hf hr hreq hw hs]
      rfl
    case shared =>
      rw [hdatd hty, State.homeResponse_datd_shared h hf hty hk hreq, State.progress_rds_answered hline hf hr hreq hw hs]
      rfl
    case rdo =>
      fin_cases hi
      · refine (hdat hty).trans ?_
        rw [State.homeResponse_dat h hf hty, State.progress_rdo_answered hline hf hr hreq]
        rfl
      · refine (hdatd hty).trans ?_
        rw [State.homeResponse_datd_passed h hf hty hk hreq, State.progress_rdo_answered hline hf hr hreq]
        rfl

end Sys2Proof.Machine
end

section
/-! SUPPORT. What every command and every step keep: the queue behind the front command, and the form of tables and memory. -/

namespace Sys2Proof.Machine

open Sys2Proof

/-! ### Every command -/

/-- A command at which the standby island has its power keeps what `Keeps` says: each by the law of its meaning. -/
theorem exec_keeps {c : Instr} (hc : cutsIsland c = false) (s : State) : KeepsOut s (exec c s) := by
  have k := Keeps.refl s
  cases c with
  | powerUp | vinLoss | sbRstAssert | sbRstRelease => cases hc
  | frameTick => exact execFrameTick_keeps k _ | beacon => exact execBeacon_keeps k _ _ _ _ _
  | beaconMiss => exact execBeaconMiss_keeps k | frameLock => exact execFrameLock_keeps k
  | electionStart => exact execElectionStart_keeps k | elect => exact execElect_keeps k _ _
  | electionEnd => exact execElectionEnd_keeps k | reload => exact execReload_keeps k _
  | fritVerifyEnd => exact execFritVerifyEnd_keeps k | commit => exact execCommit_keeps k
  | registerWrite => exact execRegisterWrite_keeps k _ _ _ _ | nop => exact execNop_keeps k _ _ _
  | exit => exact execExit_keeps k _ _ _ | bra => exact execBra_keeps k _ _ _ | bru => exact execBru_keeps k _ _ _
  | brc => exact execBrc_keeps k _ _ _ | divPush => exact execDivPush_keeps k _ _ _ | rcv => exact execRcv_keeps k _ _ _
  | call => exact execCall_keeps k _ _ _ | ret => exact execRet_keeps k _ _ _ | collEnter => exact execCollEnter_keeps k _ _ _
  | collExit => exact execCollExit_keeps k _ _ _ | mov => exact execMov_keeps k _ _ _ | add => exact execAdd_keeps k _ _ _
  | sub => exact execSub_keeps k _ _ _ | mul => exact execMul_keeps k _ _ _ | mulhi => exact execMulhi_keeps k _ _ _
  | mad => exact execMad_keeps k _ _ _ | and => exact execAnd_keeps k _ _ _ | or => exact execOr_keeps k _ _ _
  | xor => exact execXor_keeps k _ _ _ | not => exact execNot_keeps k _ _ _ | shl => exact execShl_keeps k _ _ _
  | shr => exact execShr_keeps k _ _ _ | shra => exact execShra_keeps k _ _ _ | min => exact execMin_keeps k _ _ _
  | max => exact execMax_keeps k _ _ _ | sel => exact execSel_keeps k _ _ _ | setp => exact execSetp_keeps k _ _ _
  | popc => exact execPopc_keeps k _ _ _ | clz => exact execClz_keeps k _ _ _ | fmov => exact execFmov_keeps k _ _ _
  | fadd => exact execFadd_keeps k _ _ _ | fsub => exact execFsub_keeps k _ _ _ | fmul => exact execFmul_keeps k _ _ _
  | ffma => exact execFfma_keeps k _ _ _ | fmin => exact execFmin_keeps k _ _ _ | fmax => exact execFmax_keeps k _ _ _
  | fabs => exact execFabs_keeps k _ _ _ | fneg => exact execFneg_keeps k _ _ _ | fdiv => exact execFdiv_keeps k _ _ _
  | fsqrt => exact execFsqrt_keeps k _ _ _ | frcp => exact execFrcp_keeps k _ _ _ | frsqrt => exact execFrsqrt_keeps k _ _ _
  | fexp2 => exact execFexp2_keeps k _ _ _ | fexp => exact execFexp_keeps k _ _ _ | flog2 => exact execFlog2_keeps k _ _ _
  | flog => exact execFlog_keeps k _ _ _ | fsinpi => exact execFsinpi_keeps k _ _ _ | fcospi => exact execFcospi_keeps k _ _ _
  | ftanh => exact execFtanh_keeps k _ _ _ | fsetp => exact execFsetp_keeps k _ _ _ | fcvt => exact execFcvt_keeps k _ _ _
  | umov => exact execUmov_keeps k _ _ _ | uadd => exact execUadd_keeps k _ _ _ | usub => exact execUsub_keeps k _ _ _
  | umul => exact execUmul_keeps k _ _ _ | umulhi => exact execUmulhi_keeps k _ _ _ | umad => exact execUmad_keeps k _ _ _
  | uand => exact execUand_keeps k _ _ _ | uor => exact execUor_keeps k _ _ _ | uxor => exact execUxor_keeps k _ _ _
  | unot => exact execUnot_keeps k _ _ _ | ushl => exact execUshl_keeps k _ _ _ | ushr => exact execUshr_keeps k _ _ _
  | ushra => exact execUshra_keeps k _ _ _ | umin => exact execUmin_keeps k _ _ _ | umax => exact execUmax_keeps k _ _ _
  | usel => exact execUsel_keeps k _ _ _ | uset => exact execUset_keeps k _ _ _ | upopc => exact execUpopc_keeps k _ _ _
  | uclz => exact execUclz_keeps k _ _ _ | movi => exact execMovi_keeps k _ _ _ | addi => exact execAddi_keeps k _ _ _
  | umovi => exact execUmovi_keeps k _ _ _ | uaddi => exact execUaddi_keeps k _ _ _ | umovhi => exact execUmovhi_keeps k _ _ _
  | lshfl => exact execLshfl_keeps k _ _ _ | lbal => exact execLbal_keeps k _ _ _ | lredAdd => exact execLredAdd_keeps k _ _ _
  | lredMin => exact execLredMin_keeps k _ _ _ | lredMax => exact execLredMax_keeps k _ _ _
  | lfirst => exact execLfirst_keeps k _ _ _ | pand => exact execPand_keeps k _ _ _ | por => exact execPor_keeps k _ _ _
  | pxor => exact execPxor_keeps k _ _ _ | pandn => exact execPandn_keeps k _ _ _ | pnot => exact execPnot_keeps k _ _ _
  | pfromu => exact execPfromu_keeps k _ _ _ | ptou => exact execPtou_keeps k _ _ _ | ld => exact execLd_keeps k _ _ _
  | st => exact execSt_keeps k _ _ _ | uld => exact execUld_keeps k _ _ _ | atomAdd => exact execAtomAdd_keeps k _ _ _
  | atomSmin => exact execAtomSmin_keeps k _ _ _ | atomSmax => exact execAtomSmax_keeps k _ _ _
  | atomUmin => exact execAtomUmin_keeps k _ _ _ | atomUmax => exact execAtomUmax_keeps k _ _ _
  | atomAnd => exact execAtomAnd_keeps k _ _ _ | atomOr => exact execAtomOr_keeps k _ _ _
  | atomXor => exact execAtomXor_keeps k _ _ _ | atomExch => exact execAtomExch_keeps k _ _ _
  | atomCas => exact execAtomCas_keeps k _ _ _ | atomFadd => exact execAtomFadd_keeps k _ _ _
  | fenceAcq => exact execFenceAcq_keeps k _ _ _ | fenceRel => exact execFenceRel_keeps k _ _ _
  | fenceAr => exact execFenceAr_keeps k _ _ _ | tld => exact execTld_keeps k _ _ _ | tst => exact execTst_keeps k _ _ _
  | tldSf => exact execTldSf_keeps k _ _ _ | tstSf => exact execTstSf_keeps k _ _ _ | tzero => exact execTzero_keeps k _ _ _
  | tsetvl => exact execTsetvl_keeps k _ _ _ | tmma => exact execTmma_keeps k _ _ _ | tmmaStart => exact execTmmaStart_keeps k _
  | wtile => exact execWtile_keeps k _ _ _ | wchk => exact execWchk_keeps k _ _ _ | tew => exact execTew_keeps k _ _ _
  | tcmp => exact execTcmp_keeps k _ _ _ | tmsk => exact execTmsk_keeps k _ _ _ | tredRow => exact execTredRow_keeps k _ _ _
  | tredCol => exact execTredCol_keeps k _ _ _ | tpermRow => exact execTpermRow_keeps k _ _ _
  | tpermCol => exact execTpermCol_keeps k _ _ _ | tpermT => exact execTpermT_keeps k _ _ _ | tqnt => exact execTqnt_keeps k _ _ _
  | tcvt => exact execTcvt_keeps k _ _ _ | tcvtDq => exact execTcvtDq_keeps k _ _ _ | tstat => exact execTstat_keeps k _ _ _
  | sread => exact execSread_keeps k _ _ _ | sreadw => exact execSreadw_keeps k _ _ _ | acpyH => exact execAcpyH_keeps k _ _ _
  | acpyT => exact execAcpyT_keeps k _ _ _ | acpySf => exact execAcpySf_keeps k _ _ _ | acpyQ => exact execAcpyQ_keeps k _ _ _
  | acwait => exact execAcwait_keeps k _ _ _ | acread => exact execAcread_keeps k _ _ _
  | blyArrive => exact execBlyArrive_keeps k _ _ _ | blyWait => exact execBlyWait_keeps k _ _ _
  | blySync => exact execBlySync_keeps k _ _ _ | copyComplete => exact execCopyComplete_keeps k _ _
  | stall => exact execStall_keeps k _ _ _ | writeCombiningDrain => exact execWriteCombiningDrain_keeps k _ _
  | l1Fill => exact execL1Fill_keeps k _ _ | walkComplete => exact execWalkComplete_keeps k _ _
  | hankDispatch => exact execHankDispatch_keeps k _ | hankEnd => exact execHankEnd_keeps k _ _ _
  | cmdNop => exact execCmdNop_keeps k _ _ | launch => exact execLaunch_keeps k _ _ | cane => exact execCane_keeps k _ _
  | canePublish => exact execCanePublish_keeps k _ _ | dma => exact execDma_keeps k _ _ | bend => exact execBend_keeps k _ _
  | knotSignal => exact execKnotSignal_keeps k _ _ | knotWait => exact execKnotWait_keeps k _ _
  | qfence => exact execQfence_keeps k _ _ | hintHeavy => exact execHintHeavy_keeps k _ _
  | hintLight => exact execHintLight_keeps k _ _ | hintExpiry => exact execHintExpiry_keeps k _ | mark => exact execMark_keeps k _ _
  | tailRead => exact execTailRead_keeps k _ _ | commandFetch => exact execCommandFetch_keeps k _ _
  | knotRead => exact execKnotRead_keeps k _ _ | commandComplete => exact execCommandComplete_keeps k _
  | timeout => exact execTimeout_keeps k _ | qdtEnable => exact execQdtEnable_keeps k _
  | qdtDisable => exact execQdtDisable_keeps k _ | qdtCancel => exact execQdtCancel_keeps k _
  | qdtResume => exact execQdtResume_keeps k _ | dmaBurstData => exact execDmaBurstData_keeps k _ _ _ _
  | dmaTransferComplete => exact execDmaTransferComplete_keeps k _ _ | dmaBusError => exact execDmaBusError_keeps k _ _
  | dmaBusErrDrain => exact execDmaBusErrDrain_keeps k _ | starved => exact execStarved_keeps k _ _
  | paceRead => exact execPaceRead_keeps k _ _ | dmaChDisable => exact execDmaChDisable_keeps k _ _
  | dmaChEnable => exact execDmaChEnable_keeps k _ _ | rds => exact execRds_keeps k _ | rdo => exact execRdo_keeps k _
  | upg => exact execUpg_keeps k _ | wbk => exact execWbk_keeps k _ | evc => exact execEvc_keeps k _ | sth => exact execSth_keeps k _
  | wnc => exact execWnc_keeps k _ | rnc => exact execRnc_keeps k _ | anc => exact execAnc_keeps k _ | sns => exact execSns_keeps k _
  | sni => exact execSni_keeps k _ | sno => exact execSno_keeps k _ | dat => exact execDat_keeps k _
  | datd => exact execDatd_keeps k _ | ack => exact execAck_keeps k _ | fillComplete => exact execFillComplete_keeps k _
  | spillRead => exact execSpillRead_keeps k _ _ | cleatExpiry => exact execCleatExpiry_keeps k _ _
  | reclaimEnd => exact execReclaimEnd_keeps k | xltInvGo => exact execXltInvGo_keeps k | xltInvDone => exact execXltInvDone_keeps k
  | hbmRead => exact execHbmRead_keeps k _ _ | scrubRead => exact execScrubRead_keeps k _ _ _
  | remapComplete => exact execRemapComplete_keeps k _ _ _ _ | trackerFree => exact execTrackerFree_keeps k _ _ _ _ _
  | eyeTrack => exact execEyeTrack_keeps k _ _ | tgGo => exact execTgGo_keeps k _ _ | tgStop => exact execTgStop_keeps k _ _
  | tgDone => exact execTgDone_keeps k _ _ _ | hbmStkClear => exact execHbmStkClear_keeps k _ _
  | hbmChCntClear => exact execHbmChCntClear_keeps k _ _ _ | uniVtsClear => exact execUniVtsClear_keeps k _ _
  | llmCntClear => exact execLlmCntClear_keeps k _ _ | cohCntClear => exact execCohCntClear_keeps k _ _
  | hwsPortCntClear => exact execHwsPortCntClear_keeps k _ _ | bndCntClear => exact execBndCntClear_keeps k _ _
  | dlkCntClear => exact execDlkCntClear_keeps k _ _ | flit => exact execFlit_keeps k _ _ _ _ _ | lack => exact execLack_keeps k _ _
  | lnak => exact execLnak_keeps k _ _ | lcred => exact execLcred_keeps k _ _ _ | linkAckDue => exact execLinkAckDue_keeps k _
  | e2eackDue => exact execE2eackDue_keeps k _ _ | e2eack => exact execE2eack_keeps k _ _ _ | rd => exact execRd_keeps k _ _
  | wr => exact execWr_keeps k _ _ | atomicPacket => exact execAtomicPacket_keeps k _ _ | bwr => exact execBwr_keeps k _ _
  | data => exact execData_keeps k _ _ | ackPacket => exact execAckPacket_keeps k _ _ | refuse => exact execRefuse_keeps k _ _
  | join => exact execJoin_keeps k _ _ | drain => exact execDrain_keeps k _ | leave => exact execLeave_keeps k _
  | leaveBroadcast => exact execLeaveBroadcast_keeps k | absenceLimit => exact execAbsenceLimit_keeps k _
  | leafReport => exact execLeafReport_keeps k _ _ _ | indexValid => exact execIndexValid_keeps k
  | laneLockLoss => exact execLaneLockLoss_keeps k _ | laserLoss => exact execLaserLoss_keeps k _
  | retrainStart => exact execRetrainStart_keeps k _ | retrainEnd => exact execRetrainEnd_keeps k _ _
  | portTrained => exact execPortTrained_keeps k _ _ _ _ _ | portRetry => exact execPortRetry_keeps k _
  | retrain => exact execRetrain_keeps k _ | bendPacket => exact execBendPacket_keeps k _ _
  | abort => exact execAbort_keeps k _ _ _ _ _ | collectiveComplete => exact execCollectiveComplete_keeps k _ _
  | jobfreqResult => exact execJobfreqResult_keeps k _ _ | bar2Read => exact execBar2Read_keeps k _ _ _
  | bar2Write => exact execBar2Write_keeps k _ _ _ _ | hptFlush => exact execHptFlush_keeps k
  | hostRetrain => exact execHostRetrain_keeps k _ _ _ | linkDown => exact execLinkDown_keeps k _
  | hotReset => exact execHotReset_keeps k _ | flr => exact execFlr_keeps k _ | perstAssert => exact execPerstAssert_keeps k _
  | perstRelease => exact execPerstRelease_keeps k | attach => exact execAttach_keeps k
  | hptParkHead => exact execHptParkHead_keeps k _ | confirmReadback => exact execConfirmReadback_keeps k _ _
  | overpower => exact execOverpower_keeps k | droop => exact execDroop_keeps k _ _ | droopRelax => exact execDroopRelax_keeps k _
  | rampGrant => exact execRampGrant_keeps k _ | rampStep => exact execRampStep_keeps k _
  | regionQuiet => exact execRegionQuiet_keeps k _ | stageRequest => exact execStageRequest_keeps k _
  | stageExit => exact execStageExit_keeps k | memReady => exact execMemReady_keeps k | dlkFlit => exact execDlkFlit_keeps k _ _ _
  | dlkNak => exact execDlkNak_keeps k _ _ | unitSram => exact execUnitSram_keeps k _
  | clusterCache => exact execClusterCache_keeps k _ | ccCache => exact execCcCache_keeps k _ | vital => exact execVital_keeps k _
  | fenceReq => exact execFenceReq_keeps k | errStatusClear => exact execErrStatusClear_keeps k _ _
  | errBankHead => exact execErrBankHead_keeps k _ _ | warmReset => exact execWarmReset_keeps k
  | railRaise => exact execRailRaise_keeps k | pwrGood => exact execPwrGood_keeps k | marverStart => exact execMarverStart_keeps k
  | trainingComplete => exact execTrainingComplete_keeps k _ _ _ | memtestComplete => exact execMemtestComplete_keeps k _
  | nodeStart => exact execNodeStart_keeps k | hartStart => exact execHartStart_keeps k | knotArm => exact execKnotArm_keeps k _
  | knotDisarm => exact execKnotDisarm_keeps k _ | report => exact execReport_keeps k _ | cert => exact execCert_keeps k _
  | log => exact execLog_keeps k _ | extend => exact execExtend_keeps k _ | flashWrite => exact execFlashWrite_keeps k _
  | flashActivate => exact execFlashActivate_keeps k _ | commitSvn => exact execCommitSvn_keeps k _
  | revoke => exact execRevoke_keeps k _ | mbxOpDone => exact execMbxOpDone_keeps k _ | status => exact execStatus_keeps k
  | wake => exact execWake_keeps k | mgmtWarmReset => exact execMgmtWarmReset_keeps k
  | vinUndervoltage => exact execVinUndervoltage_keeps k | vinOvervoltage => exact execVinOvervoltage_keeps k
  | ftrefLoss => exact execFtrefLoss_keeps k | ftrefReturn => exact execFtrefReturn_keeps k
  | linkUp => exact execLinkUp_keeps k _ _ _ | nodeCoreInstruction => exact execNodeCoreInstruction_keeps k _ _
  | mtimecmpExpiry => exact execMtimecmpExpiry_keeps k _ | spdmRequest => exact execSpdmRequest_keeps k _

/-- Every command keeps the form and the queue, the four of the standby island's power included. -/
theorem exec_off (c : Instr) (s : State) : ∃ t, exec c s = .next t ∧ KeepsOff s t := by
  cases hc : cutsIsland c with
  | false =>
    obtain ⟨t, ht, hk⟩ := exec_keeps hc s
    exact ⟨t, ht, hk.off⟩
  | true =>
    unfold cutsIsland at hc
    split at hc
    case h_1 => exact execPowerUp_off s
    case h_2 => exact execVinLoss_off s
    case h_3 => exact execSbRstAssert_off s
    case h_4 => exact execSbRstRelease_off s
    case h_5 => cases hc

/-- A step of a state with a command waiting performs that command on the rest of the queue. -/
theorem step_front {c : Instr} {rest : List Instr} {s : State} (h : s.pending = c :: rest) :
    step s = exec c { s with pending := rest } := by
  simp only [step, h]

/-- A step keeps the form and fuses of the state it takes the front command from. -/
theorem step_off {s t : State} (h : step s = .next t) : KeepsOff { s with pending := s.pending.tail } t := by
  cases hp : s.pending with
  | nil =>
    have hk : Keeps s s.idle := State.idle_keeps (Keeps.refl s)
    rw [step_empty hp, Host.Outcome.next.injEq] at h
    subst h
    exact ⟨hk.queue.trans hp, hk.form, hk.fuses⟩
  | cons c rest =>
    obtain ⟨u, hu, hk⟩ := exec_off c { s with pending := rest }
    rw [step_front hp, hu, Host.Outcome.next.injEq] at h
    exact h ▸ hk

/-- Settles O58: neither the form nor the memory speaks of the queue, and the command works on the state without the front one. -/
theorem everyStepKeepsCanonicalForm : Obligations.EveryStepKeepsCanonicalForm := by
  intro s t h
  obtain ⟨hqueue, hform, -⟩ := step_off h
  exact ⟨hform, hqueue⟩

end Sys2Proof.Machine
end

section
/-! SUPPORT. A traffic generator whose stack is held (R421, R428 to R434, R620). -/

namespace Sys2Proof.Machine

open Sys2Proof

/-- A generator that a change leaves with a field set reads back as it was left, in any table of stacks and of channels. -/
theorem State.modTg_tg {s : State} {st ch : Nat} {f : Tg → Tg} (h : f ((s.stack st).channel ch).tg ≠ {}) :
    (((s.modTg st ch f).stack st).channel ch).tg = f ((s.stack st).channel ch).tg := by
  let g := fun c : Channel => { c with tg := f c.tg }
  have hc : ((s.stack st).modChannel ch g).channel ch = g ((s.stack st).channel ch) :=
    Tbl.get_set_of_ne (fun e => h (congrArg Channel.tg e)) _ _
  have hk : (s.modTg st ch f).stack st = (s.stack st).modChannel ch g :=
    Tbl.get_set_of_ne (fun e => h ((congrArg Channel.tg hc).symm.trans (congrArg (fun k : Stack => (k.channel ch).tg) e))) _ _
  rw [hk, hc]

/-- TG_DONE does nothing while the controller holds an access of the run. -/
theorem execTgDone_held {s : State} {st ch : Nat} (h : s.tgHeld st ch = true) (errs : List (Nat × LineErr)) :
    exec (.tgDone st ch errs) s = .next s := by
  show execTgDone st ch errs s = _
  simp only [execTgDone, h, Bool.or_true, if_true]

/-- Powered, with a generator that runs one pass on a stack that is held for its temperature (R620). -/
def heldRun : State :=
  { State.reset with hbm := [(0, { hold := true, channels := [(0, { tg := { busy := true, passes := 1 } })] })] }

theorem heldRun_tgHeld : heldRun.tgHeld 0 0 = true := by decide

/-- Refutes O36: its clause of TG_DONE is stated for every run, and one whose stack is held waits: in `heldRun` the controller holds
every access of the run (R421, R620), so TG_DONE leaves the generator BUSY, where the statement has DONE set. -/
theorem not_trafficGeneratorsRun : ¬ Obligations.TrafficGeneratorsRun := by
  intro h
  obtain ⟨-, -, -, -, -, -, hdone⟩ := h heldRun 0 0 rfl
  have hstays := (execTgDone_held heldRun_tgHeld []).symm.trans (hdone rfl rfl (by decide) (by decide) [])
  have hleft : ((heldRun.stack 0).channel 0).tg.done = true := by
    rw [Host.Outcome.next.inj hstays, State.modTg_tg (fun e => Bool.noConfusion (congrArg Tg.done e))]
  exact absurd hleft (by decide)

end Sys2Proof.Machine
end

section
/-! SUPPORT. The boot sequence: what each command of it comes to where it is due. -/

namespace Sys2Proof.Machine

open Sys2Proof

/-! ### The measurements (R676) -/

/-- A measurement changes the register of its number and the log, and nothing else. -/
theorem State.measure_eq (s : State) (i digest : Nat) : ∃ l n, s.measure i digest = { s with boot := { s.boot with
    meas := Tbl.set 0 s.boot.meas i (sha256N (beBytes 32 (Tbl.get 0 s.boot.meas i) ++ beBytes 32 digest))
    log := l, logOverflow := n } } := by
  unfold State.measure
  dsimp only
  split
  · exact ⟨s.boot.log, s.boot.logOverflow, rfl⟩
  · split
    · exact ⟨_, s.boot.logOverflow, rfl⟩
    · exact ⟨s.boot.log, _, rfl⟩

/-! ### MARVER_START (R667, R670, R674, R679) -/

section

variable {s : State} (ha : s.alive = true) (hp : s.pins.pwrGood = true) (hs : s.boot.stage = .rom)
include ha hp hs

theorem execMarverStart_noFlash (hf : s.flash.ok = false) : exec .marverStart s = .next (s.bootFail 4) := by
  show execMarverStart s = _
  simp only [execMarverStart, ha, hp, hs, hf, Bool.not_true, Bool.not_false, Bool.or_self, Bool.false_eq_true, ne_eq, not_true_eq_false,
    decide_false, if_false, if_true]

theorem execMarverStart_noImage (hf : s.flash.ok = true) (hn : s.bootChoice 1 = none) :
    exec .marverStart s = .next (s.bootFail 1) := by
  show execMarverStart s = _
  simp only [execMarverStart, ha, hp, hs, hf, hn, Bool.not_true, Bool.or_self, Bool.false_eq_true, ne_eq, not_true_eq_false,
    decide_false, if_false]

end

/-- The state in which Marver begins to train, from image `i` of slot `b`. -/
def State.marverRuns (s : State) (b : Bool) (i : BootImage) : State :=
  let m := s.measure 1 (sha256N i.signed)
  { m with
    boot := { m.boot with marverSlot := b, svnMarver := i.svn, aliasSeed := m.boot.aliasSeedOf, secretLocked := true, stage := .train }
    coh := { m.coh with test := true }
    hbm := (List.range 24).foldl (fun t k => Tbl.upd {} t k (fun x => { x with state := .training })) m.hbm }

theorem execMarverStart_image {s : State} (ha : s.alive = true) (hp : s.pins.pwrGood = true) (hs : s.boot.stage = .rom)
    (hf : s.flash.ok = true) {b : Bool} {i : BootImage} (hi : s.bootChoice 1 = some (b, i)) :
    exec .marverStart s = .next (s.marverRuns b i) := by
  show execMarverStart s = _
  simp only [execMarverStart, ha, hp, hs, hf, hi, Bool.not_true, Bool.or_self, Bool.false_eq_true, ne_eq, not_true_eq_false,
    decide_false, if_false]
  rfl

/-- The entries that a run of changes names are changed once each, the others not. -/
theorem Tbl.get_foldl_upd {α : Type} [DecidableEq α] {d : α} (f : α → α) {ks : List Nat} (hn : ks.Nodup) {t : Tbl α}
    (hw : Tbl.wf d t = true) (j : Nat) :
    Tbl.get d (ks.foldl (fun t k => Tbl.upd d t k f) t) j = if j ∈ ks then f (Tbl.get d t j) else Tbl.get d t j := by
  induction ks generalizing t with
  | nil => simp
  | cons k ks ih =>
    obtain ⟨hk, hn⟩ := List.nodup_cons.1 hn
    rw [List.foldl_cons, ih hn (Tbl.wf_upd _ _ _ _ hw), Tbl.get_upd _ _ _ _ _ hw]
    by_cases hj : j = k
    · subst hj
      simp [hk]
    · simp [hj]

theorem State.marverRuns_stack {s : State} (hw : Tbl.wf {} s.hbm = true) (b : Bool) (i : BootImage) (k : Nat) :
    (s.marverRuns b i).stack k = if k < 24 then { s.stack k with state := .training } else s.stack k := by
  obtain ⟨l, n, hm⟩ := State.measure_eq s 1 (sha256N i.signed)
  rw [State.marverRuns, hm, State.stack]
  dsimp only
  rw [Tbl.get_foldl_upd _ List.nodup_range hw]
  simp only [List.mem_range, State.stack]

/-- What Marver finds as it starts: the image's measurement and SVN, the seed that follows from the measurements, the secret locked. -/
theorem State.marverRuns_boot (s : State) (b : Bool) (i : BootImage) : ∃ l n, (s.marverRuns b i).boot = { s.boot with
    meas := Tbl.set 0 s.boot.meas 1 (sha256N (beBytes 32 (Tbl.get 0 s.boot.meas 1) ++ beBytes 32 (sha256N i.signed)))
    log := l, logOverflow := n, marverSlot := b, svnMarver := i.svn, aliasSeed := (s.marverRuns b i).boot.aliasSeedOf
    secretLocked := true, stage := .train } := by
  obtain ⟨l, n, hm⟩ := State.measure_eq s 1 (sha256N i.signed)
  refine ⟨l, n, ?_⟩
  simp only [State.marverRuns, hm]
  rfl

theorem State.marverRuns_frame (s : State) (b : Bool) (i : BootImage) : (s.marverRuns b i).mem = s.mem ∧
    (s.marverRuns b i).fuses = s.fuses ∧ (s.marverRuns b i).pins = s.pins ∧ (s.marverRuns b i).err = s.err := by
  obtain ⟨l, n, hm⟩ := State.measure_eq s 1 (sha256N i.signed)
  simp only [State.marverRuns, hm, and_self]

/-! ### A command at its stage -/

/-- A command of the boot is not ignored in a package that serves and is at the command's stage. -/
theorem boot_due {s : State} {g : BootStage} (ha : s.alive = true) (hs : s.boot.stage = g) :
    (!s.alive || decide (s.boot.stage ≠ g)) = false := by
  simp [ha, hs]

/-! ### TRAINING_COMPLETE (R423, R424, R641, R667, R670) -/

section

variable {s : State} (ha : s.alive = true) (hs : s.boot.stage = .train) (halves channels : List Nat) (left : List (Nat × Nat))
include ha hs

/-- Training with a stitch or a channel that failed stops the boot, each failure with its record. -/
theorem execTrainingComplete_failed :
    let t := (List.range 48).foldl (fun s n => s.trainBundle halves n) s
    let stitch := (List.range 48).filter (fun n => decide ((t.bundle n).state = .down ∧ 40 ≤ n))
    let bad := (List.range 768).filter (fun c => channels.contains c)
    (stitch ≠ [] ∨ bad ≠ []) → exec (.trainingComplete halves channels left) s =
      .next (bad.foldl (fun s c => s.logErr .fe 0x14 7 c) (stitch.foldl (fun s n => s.logErr .fe 0x61 12 n)
        ((List.range 24).foldl (fun s k => s.modStack k (fun x =>
            { x with state := if bad.any (fun c => c / 32 == k) then .failed else .ready }))
          (t.bootFail (if stitch = [] then 3 else 2))))) := by
  intro t stitch bad hfail
  have hstitch : ((List.range 48).filter (fun n => (t.bundle n).state == .down)).filter (fun n => decide (40 ≤ n)) = stitch := by
    rw [List.filter_filter]
    exact List.filter_congr (fun n _ => by simp only [Bool.decide_and, Bool.and_comm, beq_eq_decide])
  show execTrainingComplete halves channels left s = _
  simp only [execTrainingComplete, boot_due ha hs, Bool.false_eq_true, if_false]
  rw [hstitch, if_pos hfail]

/-- Training without a bundle down or a channel that failed, with no hard repair in force, goes on. -/
theorem execTrainingComplete_passed :
    let t := (List.range 48).foldl (fun s n => s.trainBundle halves n) s
    (∀ n < 48, (t.bundle n).state ≠ .down) → (∀ c < 768, c ∉ channels) → t.boot.pprKept = false →
      exec (.trainingComplete halves channels left) s = .next t.afterTraining := by
  intro t hup hch hppr
  have hdown : (List.range 48).filter (fun n => (t.bundle n).state == .down) = [] :=
    List.filter_eq_nil_iff.2 (fun n hn => by simpa using hup n (List.mem_range.1 hn))
  have hbad : (List.range 768).filter (fun c => channels.contains c) = [] :=
    List.filter_eq_nil_iff.2 (fun c hc => by simpa using hch c (List.mem_range.1 hc))
  show execTrainingComplete halves channels left s = _
  simp only [execTrainingComplete, boot_due ha hs, Bool.false_eq_true, if_false]
  rw [hdown, hbad, List.filter_nil, if_neg (by simp), List.foldl_nil, if_pos (by rw [hppr]; rfl)]

end

/-- The state of a bundle by its halves that failed (R641). -/
theorem State.trainBundle_eq (s : State) (halves : List Nat) (n : Nat) :
    s.trainBundle halves n = s.modBundle n (fun x => { x with
      state := if 2 * n ∈ halves ∧ 2 * n + 1 ∈ halves then .down else if 2 * n ∈ halves then .narrow1
        else if 2 * n + 1 ∈ halves then .narrow0 else .full
      spares0 := (s.fuses.spares.getD n (0, 0)).1, spares1 := (s.fuses.spares.getD n (0, 0)).2 }) := by
  simp only [State.trainBundle, List.contains_iff_mem, Bool.and_eq_true]

/-! ### MEMTEST_COMPLETE (R667) -/

theorem execMemtestComplete_due {s : State} (ha : s.alive = true) (hs : s.boot.stage = .test) (rows : List (Nat × Nat)) :
    let t := rows.foldl (fun s r => s.modStack (r.1 % 24) (fun k => k.addRepair (chOf r.2, pchOf r.2, bankIx r.2, rowOf r.2))) s
    exec (.memtestComplete rows) s = .next (({ t with boot := { t.boot with memtest := false } } : State).takeFrit) := by
  intro t
  show execMemtestComplete rows s = _
  simp only [execMemtestComplete, boot_due ha hs, Bool.false_eq_true, if_false]
  rfl

/-! ### NODE_START and HART_START (R698, R699) -/

theorem execNodeStart_due {s : State} (ha : s.alive = true) (hs : s.boot.stage = .released) (hn : s.boot.nodeState = 0) :
    exec .nodeStart s = .next s.nodeBoot := by
  show execNodeStart s = _
  simp only [execNodeStart, boot_due ha hs, hn, ne_eq, not_true_eq_false, decide_false, Bool.or_self, Bool.false_eq_true, if_false]

theorem State.nodeBoot_noImage {s : State} (h : s.bootChoice 2 = none) :
    s.nodeBoot = { s with boot := { s.boot with nodeState := 2 } } := by
  simp only [State.nodeBoot, h]

/-- The node image verified, measured and copied to LOAD (R698). -/
def State.nodeLoaded (s : State) (b : Bool) (i : BootImage) : State :=
  let m := s.measure 5 (sha256N i.signed)
  ({ m with boot := { m.boot with nodeSlot := b, svnNode := i.svn } } : State).packageWrite slotAgent i.load (i.signed.drop 128)

/-- The node cores of a state with an image loaded: the boot hart is the lowest that no fence holds (R698). -/
def State.nodesStart (t : State) (i : BootImage) : State :=
  match (List.range 96).find? (fun h => !t.hartFenced h) with
  | none => { t with boot := { t.boot with nodeState := 3 } }
  | some h =>
    ({ t with boot := { t.boot with nodeState := 1 }, ncc := { t.ncc with imsic := [] } } : State).startHart h i.entry i.load i.length

theorem State.nodeBoot_image {s : State} {b : Bool} {i : BootImage} (h : s.bootChoice 2 = some (b, i)) :
    s.nodeBoot = (s.nodeLoaded b i).nodesStart i := by
  simp only [State.nodeBoot, h]
  rfl

section

variable {s : State} (ha : s.alive = true) (hs : s.boot.stage = .released) (hn : s.boot.nodeState = 0) {b : Bool} {i : BootImage}
  (hi : s.bootChoice 2 = some (b, i))
include ha hs hn hi

theorem execNodeStart_hart {h : Nat} (hh : h < 96) (hf : (s.nodeLoaded b i).hartFenced h = false)
    (hbelow : ∀ k < h, (s.nodeLoaded b i).hartFenced k = true) :
    let t := s.nodeLoaded b i
    exec .nodeStart s = .next
      (({ t with boot := { t.boot with nodeState := 1 }, ncc := { t.ncc with imsic := [] } } : State).startHart h i.entry i.load i.length) := by
  have hfirst : (List.range 96).find? (fun h => !(s.nodeLoaded b i).hartFenced h) = some h := by
    rw [List.find?_range_eq_some]
    simpa [hh, hf] using hbelow
  rw [execNodeStart_due ha hs hn, State.nodeBoot_image hi]
  simp only [State.nodesStart, hfirst]

theorem execNodeStart_allFenced (hf : ∀ h < 96, (s.nodeLoaded b i).hartFenced h = true) :
    let t := s.nodeLoaded b i
    exec .nodeStart s = .next { t with boot := { t.boot with nodeState := 3 } } := by
  have hnone : (List.range 96).find? (fun h => !(s.nodeLoaded b i).hartFenced h) = none := by simpa using hf
  rw [execNodeStart_due ha hs hn, State.nodeBoot_image hi]
  simp only [State.nodesStart, hnone]

end

theorem execHartStart_held {s : State} (ha : s.alive = true) (hs : s.boot.stage = .released)
    (hf : s.hartFenced s.ncc.startHart = false) (hh : (s.hart s.ncc.startHart).state = .held) :
    exec .hartStart s = .next (s.startHart s.ncc.startHart s.ncc.hartAddr 0 0) := by
  show execHartStart s = _
  simp only [execHartStart, boot_due ha hs, hf, hh, ne_eq, not_true_eq_false, decide_false, Bool.or_self, Bool.false_eq_true, if_false]

/-- The registers of a hart that starts: a0, a1 and a2 (R698, R699). -/
theorem startRegs_get (h a1 a2 : W64) (r : Nat) :
    Tbl.get 0 (Tbl.set 0 (Tbl.set 0 (Tbl.set 0 [] 10 h) 11 a1) 12 a2) r =
      if r = 12 then a2 else if r = 11 then a1 else if r = 10 then h else 0 := by
  have h1 := Tbl.wf_set (0 : W64) [] 10 h rfl
  rw [Tbl.get_set _ _ _ _ _ (Tbl.wf_set _ _ _ _ h1), Tbl.get_set _ _ _ _ _ h1, Tbl.get_set _ _ _ _ _ rfl, Tbl.get_nil]

/-- A hart that starts runs at its address, whatever it held before. -/
theorem State.startHart_hart (s : State) (h pc a1 a2 : Nat) : (s.startHart h pc a1 a2).hart h =
    { state := .running, pc := pc,
      x := Tbl.set 0 (Tbl.set 0 (Tbl.set 0 [] 10 (BitVec.ofNat 64 h)) 11 (BitVec.ofNat 64 a1)) 12 (BitVec.ofNat 64 a2) } :=
  State.modHart_hart_running rfl

/-- Settles O47: each step of the boot by the lemma that says what it comes to, and what Marver finds by `State.marverRuns_boot`. -/
theorem bootSequenceRuns : Obligations.BootSequenceRuns := by
  intro s ha
  refine ⟨fun hp hs => ⟨execMarverStart_noFlash ha hp hs, execMarverStart_noImage ha hp hs, fun hf b i hi => ?marver⟩,
    fun hs halves channels left => ⟨execTrainingComplete_failed ha hs halves channels left,
      execTrainingComplete_passed ha hs halves channels left⟩,
    State.trainBundle_eq s, execMemtestComplete_due ha, fun hs hn hi => ?noImage,
    fun hs hn b i hi => ⟨fun h hh => execNodeStart_hart ha hs hn hi hh, execNodeStart_allFenced ha hs hn hi⟩, fun hs hf hh => ?hart⟩
  case marver =>
    obtain ⟨l, n, hb⟩ := State.marverRuns_boot s b i
    refine ⟨s.marverRuns b i, execMarverStart_image ha hp hs hf hi, ?_⟩
    have hmeas (hw : Tbl.wf 0 s.boot.meas = true) : Tbl.get 0 (s.marverRuns b i).boot.meas 1 =
        sha256N (beBytes 32 (Tbl.get 0 s.boot.meas 1) ++ beBytes 32 (sha256N i.signed)) := by
      rw [hb, Tbl.get_set _ _ _ _ _ hw, if_pos rfl]
    have hstack (hw : Tables s) : ∀ k, (s.marverRuns b i).stack k =
        if k < 24 then { s.stack k with state := .training } else s.stack k := by
      obtain ⟨-, -, -, -, hhbm, -⟩ := hw
      exact State.marverRuns_stack hhbm b i
    exact ⟨by rw [hb], by rw [hb], by rw [hb], by rw [hb], rfl, hmeas, rfl,
      fun hw => ⟨fun k hk => (hstack hw k).trans (if_pos hk), fun k hk => (hstack hw k).trans (if_neg (Nat.not_lt.2 hk))⟩,
      State.marverRuns_frame s b i⟩
  case noImage => rw [execNodeStart_due ha hs hn, State.nodeBoot_noImage hi]
  case hart =>
    refine ⟨_, execHartStart_held ha hs hf hh, ?_⟩
    rw [State.startHart_hart]
    refine ⟨rfl, rfl, rfl, fun r => ?_, rfl, rfl, rfl⟩
    rw [startRegs_get]
    by_cases h1 : r = 10
    · simp [h1]
    · simp [h1]

end Sys2Proof.Machine
end

section
/-! SUPPORT. What persists through every step: blown fuses and fences. -/

namespace Sys2Proof.Machine
open Sys2Proof

/-- Settles O59: fuses by `step_off`; a fence stays at every command at which the standby island has its power, and as time passes. -/
theorem fusesOnlyBlowAndFencesStay : Obligations.FusesOnlyBlowAndFencesStay := by
  intro s t h
  obtain ⟨-, -, hfuses⟩ := step_off h
  refine ⟨hfuses, fun hcut => ?_⟩
  cases hp : s.pending with
  | nil =>
    rw [step_empty hp, Host.Outcome.next.injEq] at h
    exact h ▸ (State.idle_keeps (Keeps.refl s)).fences
  | cons c rest =>
    obtain ⟨u, hu, hk⟩ := exec_keeps (hcut c (by rw [hp]; rfl)) { s with pending := rest }
    rw [step_front hp, hu, Host.Outcome.next.injEq] at h
    exact h ▸ hk.fences

end Sys2Proof.Machine
end

section
/-! SUPPORT. Error records: what a log changes in the ERR block, the ring of its bank, and what it leaves. -/

namespace Sys2Proof.Machine

open Sys2Proof

/-! ### The banks (R647) -/

theorem ErrBank.at?_put (k : ErrBank) (p q : Nat) (r : ErrRec) : (k.put p r).at? q = if q = p then some r else k.at? q := by
  simp only [ErrBank.put, ErrBank.at?, List.find?_cons]
  by_cases h : q = p
  · simp [h]
  · have hpq : (p == q) = false := beq_false_of_ne (Ne.symm h)
    have hkeep (a : Nat × ErrRec) : decide ((a.1 != p) = true ∧ (a.1 == q) = true) = (a.1 == q) := by
      by_cases ha : a.1 = q <;> simp [ha, h]
    simp only [hpq, if_neg h, List.find?_filter, hkeep]

theorem Err.bank_setBank_self (e : Err) (b : Nat) (k : ErrBank) : (e.setBank b k).bank b = k := by
  match b with
  | 0 | 1 | 2 | _ + 3 => rfl

theorem Err.bank_setBank_other {b c : Nat} (hb : b < 4) (hc : c < 4) (h : c ≠ b) (e : Err) (k : ErrBank) :
    (e.setBank b k).bank c = e.bank c := by
  interval_cases b <;> interval_cases c <;> simp_all [Err.setBank, Err.bank]

theorem Err.thisFrame_bank (e : Err) (l) (b : Nat) : ({ e with thisFrame := l } : Err).bank b = e.bank b := by
  match b with
  | 0 | 1 | 2 | _ + 3 => rfl

theorem bankOf_lt (c : ErrClass) : bankOf c < 4 := by cases c <;> decide

/-- A bank's place in the ERR block: a write of it changes the four banks at most. -/
theorem Err.setBank_frame (e : Err) (b : Nat) (k : ErrBank) : e.setBank b k =
    { e with bank0 := (e.setBank b k).bank0, bank1 := (e.setBank b k).bank1
             bank2 := (e.setBank b k).bank2, bank3 := (e.setBank b k).bank3 } := by
  match b with
  | 0 | 1 | 2 | _ + 3 => rfl

/-! ### Counting a record (R650, R662, R663) -/

theorem Err.occur_bank (e : Err) (c : ErrClass) (b : Nat) : (e.occur c).bank b = e.bank b := by
  cases c <;> rfl

theorem Err.occur_thisFrame (e : Err) (c : ErrClass) : (e.occur c).thisFrame = e.thisFrame := by
  cases c <;> rfl

/-! ### Storing a record (R648, R649) -/

/-- A bank that drops a record counts it in OVERFLOW. -/
abbrev ErrBank.dropped (k : ErrBank) : ErrBank := { k with overflow := satAdd 16 k.overflow 1 }

/-- The bank of `b` that takes a record at its tail. -/
abbrev ErrBank.logged (k : ErrBank) (size : Nat) (r : ErrRec) : ErrBank :=
  { k.put (k.tail % size) { r with seq := k.tail } with tail := (k.tail + 1) % 2 ^ 32 }

/-- Whether two records are of the same source, code and frame. -/
abbrev SameRecord (n r : ErrRec) : Prop :=
  n.srcKind = r.srcKind ∧ n.srcIndex = r.srcIndex ∧ n.code = r.code ∧ n.frame = r.frame

section

variable {e : Err} {r : ErrRec} {b size : Nat} {k : ErrBank} (hb : bankOf r.cls = b) (hs : bankSize b = size) (hk : e.bank b = k)
include hb hs hk

theorem Err.store_new (h : (r.srcKind, r.srcIndex, r.code) ∉ e.thisFrame) (hf : (k.tail + 2 ^ 32 - k.head) % 2 ^ 32 ≠ size) :
    e.store r = { e.setBank b (k.logged size r) with thisFrame := (r.srcKind, r.srcIndex, r.code) :: e.thisFrame } := by
  simp only [Err.store, List.contains_iff_mem, h, if_false, hb, hs, hk, hf, decide_false, Bool.false_eq_true]

theorem Err.store_full (h : (r.srcKind, r.srcIndex, r.code) ∉ e.thisFrame) (hf : (k.tail + 2 ^ 32 - k.head) % 2 ^ 32 = size) :
    e.store r = e.setBank b k.dropped := by
  simp only [Err.store, List.contains_iff_mem, h, if_false, hb, hs, hk, hf, decide_true, if_true]

theorem Err.store_merged (h : (r.srcKind, r.srcIndex, r.code) ∈ e.thisFrame) {n : ErrRec}
    (hn : k.at? ((k.tail + 2 ^ 32 - 1) % 2 ^ 32 % size) = some n) (hm : SameRecord n r) :
    e.store r = e.setBank b (k.put ((k.tail + 2 ^ 32 - 1) % 2 ^ 32 % size) { n with merged := satAdd 8 n.merged 1 }) := by
  obtain ⟨hkind, hi, hc, hf⟩ := hm
  simp only [Err.store, List.contains_iff_mem, h, if_true, hb, hs, hk, hn, hkind, hi, hc, hf, BEq.rfl, Bool.and_self]

theorem Err.store_unmerged (h : (r.srcKind, r.srcIndex, r.code) ∈ e.thisFrame)
    (hn : ∀ n, k.at? ((k.tail + 2 ^ 32 - 1) % 2 ^ 32 % size) = some n → ¬ SameRecord n r) : e.store r = e.setBank b k.dropped := by
  simp only [Err.store, List.contains_iff_mem, h, if_true, hb, hs, hk]
  split
  case h_1 n hat => rw [if_neg (by simpa only [Bool.and_eq_true, beq_iff_eq, and_assoc] using hn n hat)]
  case h_2 => rfl

end

/-- A record stored changes its class's bank and the sources of the frame at most. -/
theorem Err.store_eq (e : Err) (r : ErrRec) : ∃ k l, e.store r = { e.setBank (bankOf r.cls) k with thisFrame := l } := by
  have hsame (k) : ∃ k' l, e.setBank (bankOf r.cls) k = { e.setBank (bankOf r.cls) k' with thisFrame := l } := ⟨k, _, rfl⟩
  by_cases h : (r.srcKind, r.srcIndex, r.code) ∈ e.thisFrame
  · by_cases hn : ∃ n, (e.bank (bankOf r.cls)).at? (((e.bank (bankOf r.cls)).tail + 2 ^ 32 - 1) % 2 ^ 32 % bankSize (bankOf r.cls)) =
        some n ∧ SameRecord n r
    · obtain ⟨n, hat, hm⟩ := hn
      exact Err.store_merged rfl rfl rfl h hat hm ▸ hsame _
    · exact Err.store_unmerged rfl rfl rfl h (fun n hat hm => hn ⟨n, hat, hm⟩) ▸ hsame _
  · by_cases hf : ((e.bank (bankOf r.cls)).tail + 2 ^ 32 - (e.bank (bankOf r.cls)).head) % 2 ^ 32 = bankSize (bankOf r.cls)
    · exact Err.store_full rfl rfl rfl h hf ▸ hsame _
    · exact ⟨_, _, Err.store_new rfl rfl rfl h hf⟩

theorem Err.store_frame (e : Err) (r : ErrRec) : e.store r =
    { e with bank0 := (e.store r).bank0, bank1 := (e.store r).bank1, bank2 := (e.store r).bank2, bank3 := (e.store r).bank3
             thisFrame := (e.store r).thisFrame } := by
  obtain ⟨k, l, h⟩ := Err.store_eq e r
  rw [h, Err.setBank_frame]

theorem Err.store_bank_other (e : Err) (r : ErrRec) {c : Nat} (hc : c < 4) (h : c ≠ bankOf r.cls) : (e.store r).bank c = e.bank c := by
  obtain ⟨k, l, hs⟩ := Err.store_eq e r
  rw [hs]
  exact Err.bank_setBank_other (bankOf_lt _) hc h e k

/-! ### Logging a record -/

theorem State.raiseIrq_frame (s : State) (dest n : Nat) :
    s.raiseIrq dest n = { s with hpt := (s.raiseIrq dest n).hpt, ncc := (s.raiseIrq dest n).ncc } := by
  unfold State.raiseIrq State.raiseMsix State.raiseRoute
  dsimp only
  repeat' split
  all_goals rfl

@[simp] theorem State.raiseIrq_err (s : State) (dest n : Nat) : (s.raiseIrq dest n).err = s.err := by rw [State.raiseIrq_frame]

/-- A log stores one record and raises its interrupt where that is enabled; a detail that no rule states takes a free value. -/
theorem State.logErr_eq (s : State) (cls : ErrClass) (code kind index detail addr : Nat) : ∃ d n,
    let e := (s.err.occur cls).store
      { seq := 0, cls := cls, code := code, srcKind := kind, srcIndex := index, detail := d, frame := s.frm.count, addr := addr }
    let t : State := { s with err := e, free := n }
    s.logErr cls code kind index detail addr = if e.irqOn cls then t.raiseIrq e.irqDest e.irqNum else t := by
  unfold State.logErr
  by_cases hd : detailStated code detail = true
  · rw [if_pos hd]
    exact ⟨detail, s.free, rfl⟩
  · rw [if_neg hd]
    exact ⟨(s.freeVal 32).1, s.free + 1, rfl⟩

theorem State.logErr_err (s : State) (cls : ErrClass) (code kind index detail addr : Nat) : ∃ d,
    (s.logErr cls code kind index detail addr).err = (s.err.occur cls).store
      { seq := 0, cls := cls, code := code, srcKind := kind, srcIndex := index, detail := d, frame := s.frm.count, addr := addr } := by
  obtain ⟨d, n, h⟩ := State.logErr_eq s cls code kind index detail addr
  refine ⟨d, ?_⟩
  rw [h]
  split
  · exact State.raiseIrq_err ..
  · rfl

theorem State.logErr_frame (s : State) (cls : ErrClass) (code kind index detail addr : Nat) :
    let t := s.logErr cls code kind index detail addr
    t = { s with err := t.err, hpt := t.hpt, ncc := t.ncc, free := t.free } := by
  obtain ⟨d, n, h⟩ := State.logErr_eq s cls code kind index detail addr
  dsimp only
  rw [h]
  split
  · rw [State.raiseIrq_frame]
  · rfl

/-- Settles O60: a log stores a counted record (`State.logErr_err`), and its bank is by the case of `Err.store` it is in. -/
theorem errorRecordsAreCountedMergedAndKept : Obligations.ErrorRecordsAreCountedMergedAndKept := by
  intro s cls code kind index detail addr t one
  obtain ⟨d, herr⟩ := State.logErr_err s cls code kind index detail addr
  set r : ErrRec := { seq := 0, cls := cls, code := code, srcKind := kind, srcIndex := index, detail := d, frame := s.frm.count, addr := addr }
  have hterr : t.err = (s.err.occur cls).store r := herr
  have hkeep := Err.store_frame (s.err.occur cls) r
  rw [← hterr] at hkeep
  refine ⟨?counters, ?flags, ?banks, State.logErr_frame ..⟩
  case counters =>
    rw [hkeep]
    cases cls <;> exact ⟨rfl, rfl, rfl, rfl, rfl⟩
  case flags =>
    rw [hkeep]
    cases cls <;> simp [Err.occur]
  case banks =>
    intro b size k new full
    have hb : bankOf r.cls = b := by cases cls <;> rfl
    have hsize : bankSize b = size := by rw [← hb]; cases cls <;> rfl
    have hk : (s.err.occur cls).bank b = k := Err.occur_bank ..
    have hin : (kind, index, code) ∈ (s.err.occur cls).thisFrame ↔ ¬ new := by rw [Err.occur_thisFrame, not_not]
    rw [hterr]
    refine ⟨fun c hc hcb => ?other, fun hnew hfull => ?logged, fun hnew hfull => ?dropped,
      fun hseen => ⟨fun n hn h1 h2 h3 h4 => ?merged, fun hn => ?counted⟩⟩
    case other => rw [Err.store_bank_other _ _ hc (by rwa [hb]), Err.occur_bank]
    case logged =>
      rw [Err.store_new hb hsize hk (fun h => hin.1 h hnew) hfull]
      rw [Err.thisFrame_bank, Err.bank_setBank_self]
      exact ⟨rfl, rfl, rfl, ⟨_, (ErrBank.at?_put ..).trans (if_pos rfl), rfl, rfl, rfl, rfl, rfl, rfl, rfl, rfl⟩,
        fun p hp => (ErrBank.at?_put ..).trans (if_neg hp), List.mem_cons_self⟩
    case dropped =>
      rw [Err.store_full hb hsize hk (fun h => hin.1 h hnew) hfull, Err.bank_setBank_self]
      rfl
    case merged =>
      rw [Err.store_merged hb hsize hk (hin.2 hseen) hn ⟨h1, h2, h3, h4⟩, Err.bank_setBank_self]
      exact ⟨(ErrBank.at?_put ..).trans (if_pos rfl), rfl, rfl⟩
    case counted =>
      rw [Err.store_unmerged hb hsize hk (hin.2 hseen) (fun n hat hsame => ?_), Err.bank_setBank_self]
      · rfl
      · obtain ⟨h1, h2, h3, h4⟩ := hsame
        rcases hn n hat with h | h | h | h
        exacts [h h1, h h2, h h3, h h4]

end Sys2Proof.Machine
end

section
/-! SUPPORT. The sharing of the power budget: what a round and all rounds keep, and the limit that a grant gives. -/

namespace Sys2Proof.Machine

open Sys2Proof

/-- The sum of what the shares have been given. -/
abbrev granted (l : List Share) : Nat := (l.map (fun e => e.got)).sum

/-- A share that has been given more: the same domain, weight and demand, and not above the demand. -/
abbrev Share.grown (e f : Share) : Prop :=
  (f.dom, f.w, f.want) = (e.dom, e.w, e.want) ∧ e.got ≤ f.got ∧ (e.got ≤ e.want → f.got ≤ f.want)

/-- Shares that have been given more, in order. -/
abbrev Shares.grow (l r : List Share) : Prop := List.Forall₂ Share.grown l r

theorem Shares.grow_refl (l : List Share) : Shares.grow l l :=
  List.forall₂_same.2 (fun _ _ => ⟨rfl, le_rfl, id⟩)

theorem Shares.grow_trans {l r m : List Share} (a : Shares.grow l r) (b : Shares.grow r m) : Shares.grow l m := by
  induction a generalizing m with
  | nil => cases b; exact List.Forall₂.nil
  | cons h _ ih =>
    cases b with
    | cons h' t' =>
      obtain ⟨h1, h2, h3⟩ := h
      obtain ⟨k1, k2, k3⟩ := h'
      exact .cons ⟨k1.trans h1, h2.trans k2, fun x => k3 (h3 x)⟩ (ih t')

/-- What shares that grow within their demands keep. -/
theorem Shares.grow_keeps {l r : List Share} (h : Shares.grow l r) (hw : ∀ e ∈ l, e.got ≤ e.want) :
    r.map (fun e => (e.dom, e.w, e.want)) = l.map (fun e => (e.dom, e.w, e.want)) ∧ (∀ e ∈ r, e.got ≤ e.want) ∧
      ∀ e ∈ r.zip l, e.2.got ≤ e.1.got := by
  induction h with
  | nil => simp
  | cons h _ ih =>
    obtain ⟨hsame, hmore, hdemand⟩ := h
    rw [List.forall_mem_cons] at hw
    obtain ⟨i1, i2, i3⟩ := ih hw.2
    rw [List.map_cons, List.map_cons, List.zip_cons_cons, List.forall_mem_cons, List.forall_mem_cons]
    exact ⟨congrArg₂ _ hsame i1, ⟨hdemand hw.1, i2⟩, hmore, i3⟩

/-- What a domain takes in a round with quotient q (R601). -/
def Share.takes (q : Nat) (e : Share) : Nat := if e.got < e.want then min (q * e.w) (e.want - e.got) else 0

theorem Share.takes_le (q : Nat) (e : Share) : e.takes q ≤ if e.got < e.want then q * e.w else 0 := by
  unfold Share.takes
  split
  · exact min_le_left _ _
  · exact le_rfl

/-- A round gives each share what it takes, and takes that from the budget. -/
theorem shareRound_eq (q : Nat) (l : List Share) (b : Nat) :
    shareRound q l b = (l.map (fun e => { e with got := e.got + e.takes q }), b - (l.map (fun e => e.takes q)).sum) := by
  have h (acc : List Share) (b : Nat) : l.foldl (fun (a : List Share × Nat) e =>
      (a.1 ++ [{ e with got := e.got + e.takes q }], a.2 - e.takes q)) (acc, b) =
        (acc ++ l.map (fun e => { e with got := e.got + e.takes q }), b - (l.map (fun e => e.takes q)).sum) := by
    induction l generalizing acc b with
    | nil => simp
    | cons e l ih => simp [ih, Nat.sub_sub]
  exact h [] b

theorem Shares.grow_round (q : Nat) (l : List Share) (b : Nat) : Shares.grow l (shareRound q l b).1 := by
  rw [shareRound_eq, Shares.grow, List.forall₂_map_right_iff, List.forall₂_same]
  refine fun e _ => ⟨rfl, Nat.le_add_right _ _, fun h => ?_⟩
  simp only [Share.takes]
  split <;> omega

/-- The weights of the shares still open, as `shareOut` sums them. -/
theorem openWeights_eq (l : List Share) : (l.filter (fun e => decide (e.got < e.want))).foldl (fun a e => a + e.w) 0 =
    (l.map (fun e => if e.got < e.want then e.w else 0)).sum := by
  rw [← List.foldl_map (f := Share.w) (g := (· + ·)), ← List.sum_eq_foldl]
  induction l with
  | nil => rfl
  | cons e l ih => by_cases h : e.got < e.want <;> simp [h, ih]

/-- A round takes no more than the quotient for each unit of open weight. -/
theorem takes_sum_le (q : Nat) (l : List Share) :
    (l.map (fun e => e.takes q)).sum ≤ q * (l.map (fun e => if e.got < e.want then e.w else 0)).sum := by
  rw [← List.sum_map_mul_left]
  refine List.sum_le_sum (fun e _ => (e.takes_le q).trans_eq ?_)
  split <;> simp

/-- The rounds give more, and in all no more than the budget. -/
theorem shareOut_grows (n : Nat) (l : List Share) (b : Nat) :
    Shares.grow l (shareOut n l b) ∧ granted (shareOut n l b) ≤ granted l + b := by
  induction n generalizing l b with
  | zero => exact ⟨Shares.grow_refl l, Nat.le_add_right _ _⟩
  | succ n ih =>
    rw [shareOut, openWeights_eq]
    set w := (l.map (fun e => if e.got < e.want then e.w else 0)).sum
    dsimp only
    split
    · exact ⟨Shares.grow_refl l, Nat.le_add_right _ _⟩
    · obtain ⟨hgrow, hsum⟩ := ih (shareRound (b / w) l b).1 (shareRound (b / w) l b).2
      refine ⟨Shares.grow_trans (Shares.grow_round _ l b) hgrow, hsum.trans ?_⟩
      have htaken : (l.map (fun e => e.takes (b / w))).sum ≤ b := (takes_sum_le _ l).trans (Nat.div_mul_le_self b w)
      have hround : granted (shareRound (b / w) l b).1 = granted l + (l.map (fun e => e.takes (b / w))).sum := by
        simp only [shareRound_eq, granted, List.map_map, Function.comp_def, List.sum_map_add]
      rw [hround, shareRound_eq]
      omega

theorem limitOf_bounds (g d : Nat) :
    1 ≤ limitOf g d ∧ limitOf g d ≤ 64 ∧ (d ≤ g → limitOf g d = 64) ∧ (0 < d → g < d → limitOf g d < 64) := by
  unfold limitOf
  split
  case isTrue h => exact ⟨by decide, le_rfl, fun _ => rfl, fun h0 hg => by omega⟩
  case isFalse h =>
    obtain ⟨hg, hd⟩ := not_or.1 h
    have hlt : 64 * g / d < 64 := (Nat.div_lt_iff_lt_mul (Nat.pos_of_ne_zero hd)).2 (by omega)
    exact ⟨le_max_left _ _, max_le (by decide) hlt.le, fun h => absurd h hg, fun _ _ => max_lt (by decide) hlt⟩

/-- Settles O52: the rounds by induction on their number, each by what its shares take. -/
theorem grantsStayWithinBudgetAndDemand : Obligations.GrantsStayWithinBudgetAndDemand := by
  refine ⟨fun n l b hwant => ?_, limitOf_bounds⟩
  obtain ⟨hgrow, hsum⟩ := shareOut_grows n l b
  obtain ⟨hsame, hdemand, hfloor⟩ := Shares.grow_keeps hgrow hwant
  exact ⟨hsame, hdemand, hfloor, hsum⟩

end Sys2Proof.Machine
end

section
/-! SUPPORT. Memory becomes ready while the controller holds a write (R421, R625). -/

namespace Sys2Proof.Machine

open Sys2Proof

/-- After an exit from L4 or L5, memory not yet ready, one write of line 0 held by its stack. -/
def heldWrite : State := { State.reset with lhr := { memReady := false }, hbm := [(0, { held := [(0, 0, false)] })] }

theorem execMemReady_due {s : State} (ha : s.alive = true) (hm : s.lhr.memReady = false) (hs : s.lhr.stage = 0) :
    let t := (List.range 24).foldl (fun s k => s.flushHeld k) ({ s with lhr := { s.lhr with memReady := true } } : State)
    exec .memReady s = .next ((t.slices.map (·.1)).foldl (fun s n => s.pumpHome n) t).retryHome := by
  intro t
  have hdue : ¬ (!s.alive || s.lhr.memReady || decide (s.lhr.stage ≠ 0)) = true := by simp [ha, hm, hs]
  exact congrArg Host.Outcome.next (if_neg hdue)

/-- MEM_READY performs the write that waits. -/
theorem execMemReady_heldWrite {t : State} (h : exec .memReady heldWrite = .next t) : (t.stack 0).held = [] := by
  rw [execMemReady_due rfl rfl rfl] at h
  rw [← Host.Outcome.next.inj h]
  decide

/-- Refutes O44: its clause of MEM_READY goes on with the homes and the requests that waited, without the writes that the controller held
(R421): in `heldWrite` one waits, and MEM_READY performs it, where the statement leaves it held. -/
theorem not_lehrEventsAct : ¬ Obligations.LehrEventsAct := by
  intro h
  obtain ⟨-, -, -, -, -, -, -, -, -, -, hready⟩ := h heldWrite
  have hflushed := execMemReady_heldWrite (hready rfl rfl rfl)
  exact absurd hflushed (by decide)

end Sys2Proof.Machine
end

section
/-! SUPPORT. Mailbox operations: what each answers once it is taken, and what MBX_OP_DONE publishes. -/

namespace Sys2Proof.Machine

open Sys2Proof

/-! ### Taking an operation (R683, R684) -/

theorem isFlashOp_false {op : Nat} (h1 : op ≠ 0x10) (h2 : op ≠ 0x11) : isFlashOp op = false := by simp [isFlashOp, h1, h2]

section

variable {s : State} (hr : s.pins.rails = true) (hl : s.boot.secretLocked = true) {r : MbxRun} (h1 : r.op ≠ 0x10) (h2 : r.op ≠ 0x11)
include hr hl h1 h2

theorem State.opTake_ch0 (hrun : s.mbx0.running = some r) (ho : s.mbx0.outcome = none) : s.opTake .ch0 r.op = some (.ch0, r, s) := by
  simp [State.opTake, State.mbx, hr, hl, hrun, ho, isFlashOp_false h1 h2]

theorem State.opTake_ch1 (hrun : s.mbx1.running = some r) (ho : s.mbx1.outcome = none) : s.opTake .ch1 r.op = some (.ch1, r, s) := by
  simp [State.opTake, State.mbx, hr, hl, hrun, ho, isFlashOp_false h1 h2]

end

/-! ### The operations (R676 to R681, R701 to R703) -/

section

variable {s t : State} {src : OpFrom} {ch : Chan} {r : MbxRun}

theorem execReport_taken (h : s.opTake src 0x01 = some (ch, r, t)) :
    exec (.report src) s = .next (t.opEnd ch 0 (t.reportBody r.input ++ t.aliasSig (sha256N (t.reportBody r.input)))) := by
  show execReport src s = _
  simp only [execReport, h]

theorem execCert_taken (h : s.opTake src 0x02 = some (ch, r, t)) : exec (.cert src) s = .next (t.opEnd ch 0 t.certs) := by
  show execCert src s = _
  simp only [execCert, h]

theorem execLog_taken (h : s.opTake src 0x03 = some (ch, r, t)) :
    exec (.log src) s = .next (t.opEnd ch 0 (((t.boot.log.drop r.offset).take (r.len / 48)).flatMap LogEntry.bytes)) := by
  show execLog src s = _
  simp only [execLog, h]

theorem execExtend_taken (h : s.opTake src 0x04 = some (ch, r, t)) : exec (.extend src) s = .next
    (if r.arg < 8 ∨ 15 < r.arg then t.opEnd ch 8 []
      else (t.measure r.arg (beNat ((r.input ++ List.replicate 32 0).take 32))).opEnd ch 0 []) := by
  show execExtend src s = _
  simp only [execExtend, h]

/-- What keeps KNOT_ARM from arming a slot (R701). -/
def State.armRefused (t : State) (ch : Chan) (r : MbxRun) : Prop :=
  ch ≠ .ch1 ∨ 64 ≤ r.arg ∨ (t.kwait r.arg).state = .armed ∨ (fieldAt r.input 8 8).testBit 63 = true ∨
    ¬ locality t.hws.indexValid t.hws.index (fieldAt r.input 0 8) = .here ∧ t.feature 3 = false ∨ fieldAt r.input 0 8 % 8 ≠ 0

theorem execKnotArm_taken [Decidable (t.armRefused ch r)] (h : s.opTake src 0x20 = some (ch, r, t)) : exec (.knotArm src) s = .next
    (if t.armRefused ch r then t.opEnd ch 8 []
      else (t.modKwait r.arg (fun x => { x with state := .armed, addr := fieldAt r.input 0 8, target := fieldAt r.input 8 8
                                                irq := fieldAt r.input 16 2 % 512, due := true })).opEnd ch 0 []) := by
  show execKnotArm src s = _
  simp only [execKnotArm, h]
  refine congrArg Host.Outcome.next (if_congr ?_ rfl rfl)
  simp only [State.armRefused, Bool.or_eq_true, Bool.and_eq_true, decide_eq_true_eq, beq_iff_eq, bit, Bool.not_eq_true', or_assoc]
  cases locality t.hws.indexValid t.hws.index (fieldAt r.input 0 8) <;> simp [Nat.lt_iff_add_one_le]

theorem execKnotDisarm_taken (h : s.opTake src 0x21 = some (ch, r, t)) : exec (.knotDisarm src) s = .next
    (let u : State := (t.dropWatch 2 r.arg).modKwait r.arg (fun x => { x with state := .idle, due := false })
      if ch ≠ .ch1 ∨ 64 ≤ r.arg then t.opEnd ch 8 []
      else if (t.kwait r.arg).state ≠ .armed then t.opEnd ch 0 []
      else ({ u with hws := { u.hws with reqs := u.hws.reqs.filter (fun q => decide (q.who ≠ .knot (.slot r.arg))) } } : State).opEnd ch 0
        []) := by
  show execKnotDisarm src s = _
  simp only [execKnotDisarm, h]
  refine congrArg Host.Outcome.next (if_congr ?_ rfl ?_)
  · simp only [Bool.or_eq_true, decide_eq_true_eq, Nat.lt_iff_add_one_le]
  · simp only [bne, beq_eq_decide, decide_not]

end

/-! ### MBX_OP_DONE (R685, R686) -/

section

variable {s : State} {ch : Chan} (hr : s.pins.rails = true)
include hr

theorem execMbxOpDone_outcome {r n : Nat} (ho : (s.mbx ch).outcome = some (r, n)) : exec (.mbxOpDone ch) s = .next
    (s.modMbx ch (fun m => { m with busy := false, result := r, length := n, running := none, outcome := none })) := by
  show execMbxOpDone ch s = _
  simp only [execMbxOpDone, hr, ho, Bool.not_true, Bool.false_eq_true, if_false]

theorem execMbxOpDone_unknown {r : MbxRun} (ho : (s.mbx ch).outcome = none) (hrun : (s.mbx ch).running = some r) (hop : r.op ∉ knownOps) :
    exec (.mbxOpDone ch) s = .next (s.modMbx ch (fun m => { m with busy := false, result := 8, length := 0, running := none })) := by
  show execMbxOpDone ch s = _
  simp only [execMbxOpDone, hr, ho, hrun, List.contains_iff_mem, hop, Bool.not_true, Bool.false_eq_true, if_false]

end

/-- Settles O48: each operation by the lemma that says what it answers once taken. -/
theorem mailboxOperationsAnswer : Obligations.MailboxOperationsAnswer := by
  intro s
  refine ⟨fun hr hl r hrun ho h1 h2 => State.opTake_ch0 hr hl h1 h2 hrun ho, fun hr hl r hrun ho h1 h2 => State.opTake_ch1 hr hl h1 h2 hrun ho,
    fun src ch r t h => execReport_taken h, fun src ch r t h => execCert_taken h, fun src ch r t h => execLog_taken h,
    fun src ch r t h => ?extend, fun src ch r t h => ?arm, fun src ch r t h => ?disarm,
    fun hr ch => ⟨fun r n ho => execMbxOpDone_outcome hr ho, fun r ho hrun hop => execMbxOpDone_unknown hr ho hrun hop⟩⟩
  case extend =>
    rw [execExtend_taken h]
    exact ⟨fun ho => by rw [if_pos ho], fun h8 h15 => by rw [if_neg (by omega)]⟩
  case arm =>
    classical
    intro addr target home
    rw [execKnotArm_taken h]
    refine ⟨fun hch hslot hidle ht hplace ha => ?_, fun hbad => congrArg Host.Outcome.next (if_pos hbad)⟩
    refine congrArg Host.Outcome.next (if_neg ?_)
    rintro (h | h | h | h | ⟨h1, h2⟩ | h)
    · exact h hch
    · omega
    · exact hidle h
    · exact Bool.false_ne_true (ht.symm.trans h)
    · exact hplace.elim h1 (fun h3 => Bool.false_ne_true (h2.symm.trans h3))
    · exact h ha
  case disarm =>
    rw [execKnotDisarm_taken h]
    refine ⟨fun hbad => by rw [if_pos hbad], fun hch hslot hst => ?_, fun hch hslot hst => ?_⟩
    all_goals have hok : ¬ (ch ≠ .ch1 ∨ 64 ≤ r.arg) := fun hbad => hbad.elim (fun h => h hch) (Nat.not_le.2 hslot)
    · rw [if_neg hok, if_pos hst]
    · rw [if_neg hok, if_neg (not_not.2 hst)]

end Sys2Proof.Machine
end

section
/-! SUPPORT. Flash, fuses and SPDM: what each operation answers once it is taken. -/

namespace Sys2Proof.Machine

open Sys2Proof

/-! ### Fuses that are blown (R673, R675, R677) -/

theorem State.freeBytes_length (n : Nat) (s : State) : (State.freeBytes n s).1.length = n := by
  induction n generalizing s with
  | zero => rfl
  | succ n ih => exact congrArg (· + 1) (ih _)

/-- Blowing fuses changes the bytes that show them, their number kept, and takes free values. -/
theorem State.blown_eq (s : State) : ∃ k ws, ws.length = s.fuses.words.length ∧
    s.blown = { s with free := k, fuses := { s.fuses with words := ws } } := by
  obtain ⟨k, hk⟩ := State.freeBytes_free s.fuses.words.length s
  refine ⟨k, (s.freeBytes s.fuses.words.length).1, State.freeBytes_length .., ?_⟩
  unfold State.blown
  dsimp only
  rw [hk]

/-- An operation that ended has its result waiting in its channel. -/
theorem State.opEnd_outcome (s : State) (ch : Chan) (result : Nat) (out : List Byte) :
    ((s.opEnd ch result out).mbx ch).outcome = some (result, out.length) := by
  rw [State.opEnd, State.modMbx_mbx, if_pos rfl]

@[simp] theorem State.opEnd_fuses (s : State) (ch : Chan) (n : Nat) (bs : List Byte) : (s.opEnd ch n bs).fuses = s.fuses :=
  State.modMbx_fuses ..

@[simp] theorem State.opEnd_flash (s : State) (ch : Chan) (n : Nat) (bs : List Byte) : (s.opEnd ch n bs).flash = s.flash :=
  State.modMbx_flash ..

@[simp] theorem State.opEnd_mem (s : State) (ch : Chan) (n : Nat) (bs : List Byte) : (s.opEnd ch n bs).mem = s.mem :=
  State.modMbx_mem ..

section

variable {s t : State} {src : OpFrom} {ch : Chan} {r : MbxRun}

/-! ### FLASH_WRITE and FLASH_ACTIVATE (R671, R686) -/

theorem execFlashWrite_taken (h : s.opTake src 0x10 = some (ch, r, t)) : exec (.flashWrite src) s = .next
    (if r.arg < 1 ∨ 3 < r.arg ∨ (t.flash.slot r.arg (t.inactiveSlot r.arg)).size < r.offset + r.len then t.opEnd ch 8 []
      else if t.flash.answers = false then t.opEnd ch 9 [] else (t.flashPut r r.len).opEnd ch 0 []) := by
  show execFlashWrite src s = _
  simp only [execFlashWrite, h, Bool.not_eq_true']

/-- The pairs of a list with its positions are those with more positions. -/
theorem zip_range_of_le {α : Type} {l : List α} {n : Nat} (h : l.length ≤ n) : l.zip (List.range l.length) = l.zip (List.range n) := by
  rw [List.zip_eq_zip_take_min (l₂ := List.range n), List.length_range, min_eq_left h, List.take_length, List.take_range, min_eq_left h]

theorem State.flashPut_whole (t : State) (r : MbxRun) : t.flashPut r r.len = { t with
    flash := t.flash.modSlot r.arg (t.inactiveSlot r.arg) (fun f => { f with
      bytes := ((r.input.take r.len).zip (List.range r.len)).foldl (fun m e => Tbl.set 0 m (r.offset + e.2) e.1) f.bytes }) } := by
  simp only [State.flashPut, FlashSlot.write, List.take_take, min_self, zip_range_of_le (List.length_take_le r.len r.input)]

/-- The flash once the inactive slot of a KIND is the preferred one. -/
def State.prefers (t : State) (kind : Nat) : Flash :=
  (t.flash.modSlot kind (t.inactiveSlot kind) (fun f => { f with preferred := true })).modSlot kind (!t.inactiveSlot kind)
    (fun f => { f with preferred := false })

theorem execFlashActivate_marver (h : s.opTake src 0x11 = some (ch, r, t)) (ha : t.flash.answers = true) (hk : r.arg = 1)
    {code : Nat} {i : Option BootImage} (hc : t.slotCheck r.arg (t.flash.slot r.arg (t.inactiveSlot r.arg)) = (code, i)) :
    exec (.flashActivate src) s = .next (match i with
      | none => t.opEnd ch code []
      | some _ => ({ t with flash := t.prefers r.arg } : State).opEnd ch 0 []) := by
  show execFlashActivate src s = _
  have hkind : ¬ (r.arg < 1 ∨ 3 < r.arg) := by omega
  have hmarver : decide (r.arg = 2) = false := by simp [hk]
  simp only [execFlashActivate, h, if_neg hkind, ha, Bool.not_true, Bool.false_eq_true, if_false, if_neg (show r.arg ≠ 3 by omega),
    hmarver, Bool.false_and, hc]
  cases i <;> rfl

theorem execFlashActivate_frit (h : s.opTake src 0x11 = some (ch, r, t)) (ha : t.flash.answers = true) (hk : r.arg = 3)
    (hc : (t.fritCheck false (t.flash.fritB.read t.flash.fritB.size)).1 = 0) : exec (.flashActivate src) s = .next
      (({ t with flash := { t.flash with fritA := t.flash.fritB, fritB := t.flash.fritA } } : State).opEnd ch 0 []) := by
  show execFlashActivate src s = _
  simp only [execFlashActivate, h, ha, hk, hc]
  rfl

/-! ### COMMIT_SVN and REVOKE (R673, R675) -/

theorem execCommitSvn_taken (h : s.opTake src 0x12 = some (ch, r, t)) : exec (.commitSvn src) s = .next
    (if r.arg = 1 then
      ({ t.blown with fuses := { t.blown.fuses with countMarver := max t.fuses.countMarver (min 64 t.boot.svnMarver) } } : State).opEnd ch 0 []
      else if r.arg = 2 ∧ t.boot.nodeState = 1 then
        ({ t.blown with fuses := { t.blown.fuses with countNode := max t.fuses.countNode (min 64 t.boot.svnNode) } } : State).opEnd ch 0 []
      else t.opEnd ch 8 []) := by
  show execCommitSvn src s = _
  simp only [execCommitSvn, h]

/-- The owner keys that may sign a revocation of slot k: those of the other live slots (R673). -/
def Fuses.others (f : Fuses) (k : Nat) : List Nat := (List.range 4).filter (fun i => decide (i ≠ k) && f.ownerLive i)

/-- Whether a REVOKE carries another live owner's signature (R673). -/
def Fuses.revokeSigned (f : Fuses) (r : MbxRun) : Prop :=
  96 ≤ r.len ∧ sigBlockOk ((f.others r.arg).map (fun k => f.ownerKeys.getD k 0)) (r.input.take (r.len - 96))
    ((r.input.drop (r.len - 96)).take 96) = true

theorem execRevoke_taken [Decidable (t.fuses.revokeSigned r)] (h : s.opTake src 0x13 = some (ch, r, t)) : exec (.revoke src) s = .next
    (if 3 < r.arg ∨ t.fuses.ownerLive r.arg = false ∨ t.fuses.others r.arg = [] then t.opEnd ch 8 []
      else if ¬ t.fuses.revokeSigned r then t.opEnd ch 1 []
      else ({ t.blown with fuses := { t.blown.fuses with ownerRevoked := t.fuses.ownerRevoked ||| BitVec.ofNat 4 (2 ^ r.arg) } } : State).opEnd
        ch 0 []) := by
  have hothers : (List.range 4).filter (fun k => k != r.arg && t.fuses.ownerLive k) = t.fuses.others r.arg := by
    simp only [Fuses.others, bne, beq_eq_decide, decide_not]
  show execRevoke src s = _
  simp only [execRevoke, h, hothers]
  refine congrArg Host.Outcome.next (if_congr ?_ rfl (if_congr ?_ rfl rfl))
  · simp only [Bool.not_eq_true', List.isEmpty_iff]
  · simp only [Fuses.revokeSigned, not_and_or, Nat.not_le, Bool.not_eq_true, Bool.not_eq_true']

/-- The revoke fuses after one more is blown. -/
theorem ownerRevoked_blown (f : BitVec 4) {i k : Nat} (hk : k < 4) :
    (f ||| BitVec.ofNat 4 (2 ^ i)).getLsbD k = true ↔ f.getLsbD k = true ∨ k = i := by
  rw [BitVec.getLsbD_or, Bool.or_eq_true, BitVec.getLsbD_ofNat, Nat.testBit_two_pow, decide_eq_true hk, Bool.true_and,
    decide_eq_true_eq, eq_comm (a := i)]

end

/-! ### SPDM_REQUEST (R682) -/

theorem execSpdmRequest_due {s : State} (hr : s.pins.rails = true) (hl : s.boot.secretLocked = true) (hu : s.hpt.linkUp = true)
    {q r : List Byte} {signed : Bool} {t : State} (h : s.spdmReply q = (r, signed, t)) :
    let before := if fieldAt q 1 1 = 0x84 then [] else s.hpt.spdm
    let full := if signed then r ++ Config.spdmSign t.boot.aliasSeed (before ++ q ++ r) else r
    exec (.spdmRequest q) s = .next { t with hpt := { t.hpt with doe := full, spdm := before ++ q ++ full } } := by
  intro before full
  have hdue : ¬ (!s.pins.rails || !s.boot.secretLocked || !s.hpt.linkUp) = true := by simp [hr, hl, hu]
  show execSpdmRequest q s = _
  rw [execSpdmRequest, if_neg hdue, h]

/-- Settles O49: each operation by the lemma that says what it answers once taken, and blown fuses by `State.blown_eq`. -/
theorem flashFusesAndSpdm : Obligations.FlashFusesAndSpdm := by
  intro s
  refine ⟨fun src ch r t h => ?write, fun src ch r t h ha => ⟨fun code hk hc => ?failed, fun code i hk hc => ?preferred,
    fun hk hc => execFlashActivate_frit h ha hk hc⟩, fun src ch r t h => ?commit, fun src ch r t h => ?revoke,
    fun hr hl hu q r signed t h => execSpdmRequest_due hr hl hu h⟩
  case write =>
    rw [execFlashWrite_taken h]
    refine ⟨fun hbad => congrArg _ (if_pos (hbad.imp_left (by omega))), fun h1 h3 hfits => ?_⟩
    rw [if_neg (by omega)]
    refine ⟨fun ha => congrArg _ (if_pos ha), fun ha => ?_⟩
    rw [if_neg (by simp [ha]), State.flashPut_whole]
  case failed => exact execFlashActivate_marver h ha hk hc
  case preferred => exact execFlashActivate_marver h ha hk hc
  case commit =>
    obtain ⟨k, ws, hlen, hblown⟩ := t.blown_eq
    rw [execCommitSvn_taken h, hblown]
    refine ⟨fun hbad => ?_, fun hok => ?_⟩
    · rw [if_neg (by tauto), if_neg (by tauto)]
    · by_cases h1 : r.arg = 1
      · simp only [if_pos h1]
        exact ⟨_, rfl, by simp, by simpa using hlen, by simp, by simp, State.opEnd_outcome ..⟩
      · simp only [if_neg h1, if_pos (hok.resolve_left h1)]
        exact ⟨_, rfl, by simp, by simpa using hlen, by simp, by simp, State.opEnd_outcome ..⟩
  case revoke =>
    classical
    intro others signed
    obtain ⟨k, ws, -, hblown⟩ := t.blown_eq
    rw [execRevoke_taken h, hblown]
    have hgo (h3 : r.arg ≤ 3) (hlive : t.fuses.ownerLive r.arg = true) (ho : others ≠ []) :
        ¬ (3 < r.arg ∨ t.fuses.ownerLive r.arg = false ∨ t.fuses.others r.arg = []) := by
      rintro (h | h | h)
      · omega
      · exact Bool.false_ne_true (h.symm.trans hlive)
      · exact ho h
    refine ⟨fun hbad => congrArg _ (if_pos hbad), fun h3 hlive ho hs => ?_, fun h3 hlive ho hs => ?_⟩
    · rw [if_neg (hgo h3 hlive ho)]
      exact congrArg _ (if_pos hs)
    · rw [if_neg (hgo h3 hlive ho)]
      refine ⟨_, congrArg _ (if_neg (not_not.2 hs)), fun k hk => ?_, by simp, by simp, by simp, by simp, State.opEnd_outcome ..⟩
      rw [State.opEnd_fuses]
      exact ownerRevoked_blown _ hk

end Sys2Proof.Machine
end

section
/-! SUPPORT. Power, resets and the management port's own operations: what each command comes to where it is due. -/

namespace Sys2Proof.Machine

open Sys2Proof

/-! ### Bytes laid in a table -/

/-- Bytes written from the start of a table stand there, and what lies behind them stays. -/
theorem Tbl.get_foldl_set_mapIdx {t : Tbl Byte} (hw : Tbl.wf 0 t = true) (bs : List Byte) :
    let u := (bs.mapIdx (fun i b => (i, b))).foldl (fun t e => Tbl.set 0 t e.1 e.2) t
    Tbl.wf 0 u = true ∧ ∀ i, Tbl.get 0 u i = if i < bs.length then bs.getD i 0 else Tbl.get 0 t i := by
  induction bs using List.reverseRecOn with
  | nil => exact ⟨hw, fun i => rfl⟩
  | append_singleton bs b ih =>
    obtain ⟨hwf, hget⟩ := ih
    simp only [List.mapIdx_concat, List.foldl_append, List.foldl_cons, List.foldl_nil]
    refine ⟨Tbl.wf_set _ _ _ _ hwf, fun i => ?_⟩
    rw [Tbl.get_set _ _ _ _ _ hwf, hget, List.length_append, List.length_singleton]
    rcases lt_trichotomy i bs.length with h | h | h
    · rw [if_neg h.ne, if_pos h, if_pos (Nat.lt_succ_of_lt h), List.getD_append _ _ _ _ h]
    · rw [if_pos h, if_pos (h ▸ Nat.lt_succ_self _), List.getD_append_right _ _ _ _ h.ge, h, Nat.sub_self, List.getD_cons_zero]
    · rw [if_neg h.ne', if_neg h.not_gt, if_neg (Nat.not_lt.2 h)]

/-! ### Loss of the standby island's power (R713, R717, R718, R720) -/

theorem State.tornWrite_idle {s : State} (h : s.boot.flashQ = []) : s.tornWrite = s := by
  simp only [State.tornWrite, h, List.head?_nil, Option.bind_none]

/-- A flash write that power loss cuts leaves some number of its bytes in its slot (R720). -/
theorem State.tornWrite_flashing {s : State} {ch : Chan} {r : MbxRun} {rest : List Chan} (hq : s.boot.flashQ = ch :: rest)
    (hrun : (s.mbx ch).running = some r) (hop : r.op = 0x10) (h1 : 1 ≤ r.arg) (h3 : r.arg ≤ 3) (ha : s.flash.answers = true)
    (hfits : r.offset + r.len ≤ (s.flash.slot r.arg (s.inactiveSlot r.arg)).size) :
    ∃ n, s.tornWrite = { s with free := s.free + 1, flash := s.flash.modSlot r.arg (s.inactiveSlot r.arg) (fun f =>
      f.write r.offset ((r.input.take r.len).take n)) } := by
  refine ⟨(s.freeVal 32).1, ?_⟩
  have hcut : ¬ (r.op ≠ 0x10 ∨ r.arg < 1 ∨ 3 < r.arg ∨ (s.flash.slot r.arg (s.inactiveSlot r.arg)).size < r.offset + r.len ∨
      (!s.flash.answers) = true) := by
    rintro (h | h | h | h | h)
    · exact h hop
    · omega
    · omega
    · omega
    · rw [ha] at h; cases h
  simp only [State.tornWrite, hq, List.head?_cons, Option.bind_some, hrun, if_neg hcut]
  rfl

theorem execVinLoss_eq (s : State) : exec .vinLoss s = .next (let t := s.tornWrite.unpowered
    { t with pins := { t.pins with vinOk := false, sbGood := false } }) := rfl

theorem execSbRstAssert_eq {s : State} (h : s.pins.sbRstN = true) : exec .sbRstAssert s = .next (let t := s.tornWrite.unpowered
    { t with pins := { t.pins with sbRstN := false } }) :=
  congrArg Host.Outcome.next (if_neg (by simp [h]))

theorem execPowerUp_eq (s : State) : exec .powerUp s = .next
    (if s.pins.vinOk = true then s else ({ s with pins := { s.pins with vinOk := true } } : State).standbyStart) := rfl

theorem execSbRstRelease_eq {s : State} (h : s.pins.sbRstN = false) : exec .sbRstRelease s = .next
    (if s.pins.vinOk = true then ({ s with pins := { s.pins with sbRstN := true } } : State).standbyStart
      else { s with pins := { s.pins with sbRstN := true } }) :=
  congrArg Host.Outcome.next (if_neg (by simp [h]))

/-! ### The main rails and event P (R529, R666, R667, R717) -/

theorem State.powered_iff (s : State) : s.powered = true ↔
    s.pins.vinOk = true ∧ s.pins.sbGood = true ∧ s.pins.sbRstN = true ∧ s.pins.thermtrip = false ∧ s.lhr.stage < 4 := by
  simp only [State.powered, Bool.and_eq_true, Bool.not_eq_true', decide_eq_true_eq, and_assoc]

theorem execRailRaise_eq (s : State) : exec .railRaise s = .next
    (if (s.powered && !s.pins.rails) = true then { s with pins := { s.pins with rails := true } } else s) := rfl

theorem execPwrGood_due {s : State} (hp : s.powered = true) (hr : s.pins.rails = true) (hg : s.pins.pwrGood = false) :
    let t : State := if s.boot.cold then { s with hws := { s.hws with incarnation := (s.hws.incarnation + 1) % 2 ^ 16 } }
      else { s with free := s.free + 1, hws := { s.hws with incarnation := (Config.freeWord s.free).toNat % 2 ^ 16 } }
    exec .pwrGood s = .next (t.eventP false) := by
  intro t
  have hdue : ¬ (!s.powered || !s.pins.rails || s.pins.pwrGood) = true := by simp [hp, hr, hg]
  refine congrArg Host.Outcome.next ((if_neg hdue).trans ?_)
  simp only [t]
  split <;> rfl

/-- The state in which event P begins to measure: the time and the boot anew, and the nonce drawn. -/
def State.bootAnew (s : State) (warm : Bool) : State :=
  { s with
    now := 0, free := s.free + 1, hws := { s.hws with nonce := (s.freeVal 64).1, uid := s.fuses.uid }
    boot := { s.boot with stage := .rom, warm := warm, cold := false }, pins := { s.pins with pwrGood := true, rails := true } }

/-- A measurement register extended by a digest (R676). -/
def measured (m : Tbl Nat) (i digest : Nat) : Tbl Nat := Tbl.set 0 m i (sha256N (beBytes 32 (Tbl.get 0 m i) ++ beBytes 32 digest))

/-- Event P begins anew and extends MEAS0 and MEAS2. -/
theorem State.eventP_eq (s : State) (warm : Bool) : ∃ l n, s.eventP warm = { s.bootAnew warm with boot := { (s.bootAnew warm).boot with
    meas := measured (measured s.boot.meas 0 (sha256N s.fuses.rom)) 2 (sha256N s.fuses.words), log := l, logOverflow := n } } := by
  obtain ⟨l, n, h⟩ := State.measure_eq (s.bootAnew warm) 0 (sha256N s.fuses.rom)
  obtain ⟨l', n', h'⟩ := State.measure_eq ((s.bootAnew warm).measure 0 (sha256N s.fuses.rom)) 2 (sha256N s.fuses.words)
  refine ⟨l', n', h'.trans ?_⟩
  rw [h]
  rfl

theorem measured_wf {m : Tbl Nat} (hw : Tbl.wf 0 m = true) (i d : Nat) : Tbl.wf 0 (measured m i d) = true := Tbl.wf_set _ _ _ _ hw

theorem measured_get {m : Tbl Nat} (hw : Tbl.wf 0 m = true) (i d j : Nat) : Tbl.get 0 (measured m i d) j =
    if j = i then sha256N (beBytes 32 (Tbl.get 0 m i) ++ beBytes 32 d) else Tbl.get 0 m j := Tbl.get_set _ _ _ _ _ hw

/-! ### Warm resets and the management port (R624, R665, R666, R683) -/

theorem State.alive_eq {s : State} (h : s.pins.rails = true) : s.alive = !s.err.fatal := by
  simp [State.alive, h]

theorem execWarmReset_eq {s : State} (h : s.pins.rails = true) : exec .warmReset s = .next
    (if s.err.fatal = true then s.restart else s.departFor .warmReset) := by
  refine congrArg Host.Outcome.next ((if_pos h).trans ?_)
  rw [State.warmReset, State.alive_eq h]
  cases s.err.fatal <;> rfl

section

variable {s : State} (hm : s.mgmtUp = true)
include hm

theorem execMgmtWarmReset_eq : exec .mgmtWarmReset s = .next
    (if s.pins.thermtrip = true then s.coldRestart
      else if (s.pins.rails || decide (4 ≤ s.lhr.stage)) = true then s.warmReset else s) :=
  congrArg Host.Outcome.next (if_neg (by simp [hm]))

theorem execWake_due (ht : s.pins.thermtrip = false) (hs : s.lhr.stage ≠ 0) :
    exec .wake s = .next { s with lhr := { s.lhr with waking := true } } := by
  refine congrArg Host.Outcome.next ((if_pos (by simp [hm, ht])).trans ?_)
  exact if_pos (by simp [hs])

theorem execStatus_due (hb : s.mgmt.busy = false) : exec .status s = .next { s with mgmt := { s.mgmt with
    op := 0x30, result := 0, length := 8
    buf := ((leBytes 8 s.bootWords.1).mapIdx (fun i b => (i, b))).foldl (fun t e => Tbl.set 0 t e.1 e.2) s.mgmt.buf } } :=
  congrArg Host.Outcome.next (if_neg (by simp [hm, hb]))

end

/-- Settles O46: each command by the lemma that says what it comes to where it is due. -/
theorem powerAndResetSequence : Obligations.PowerAndResetSequence := by
  intro s cut bare noVin inReset stby
  refine ⟨fun hv => ?up, fun hv => ?stays, fun hq => ?loss, fun hq hr => ?assert,
    fun ch r rest hq hrun hop h1 h3 ha hfits => ?torn, fun hr hv => ?release, fun hr hv => ?releaseOff,
    ⟨fun hp hr => ?raise, fun hp => ?unpowered, fun hp hr hg => execPwrGood_due (s.powered_iff.2 hp) hr hg⟩, fun warm => ?eventP,
    fun hr i hi => ?supply, fun hr hf => ?fatal, fun hr hf => ?departs,
    fun hm => ⟨fun ht => ?cold, fun ht hr => ?warm, execWake_due hm, fun hb => ⟨_, execStatus_due hm hb, rfl, fun hw i => ?status⟩⟩,
    rfl, fun hf => ?ftref⟩
  case up => rw [execPowerUp_eq, if_neg (by simp [hv])]; rfl
  case stays => rw [execPowerUp_eq, if_pos hv]
  case loss => rw [execVinLoss_eq, State.tornWrite_idle hq]; rfl
  case assert => rw [execSbRstAssert_eq hr, State.tornWrite_idle hq]; rfl
  case torn =>
    obtain ⟨n, hn⟩ := State.tornWrite_flashing hq hrun hop h1 h3 ha hfits
    refine ⟨n, ?_, fun hr => ?_⟩
    · rw [execVinLoss_eq, hn]; rfl
    · rw [execSbRstAssert_eq hr, hn]; rfl
  case release => rw [execSbRstRelease_eq hr, if_pos hv]; rfl
  case releaseOff => rw [execSbRstRelease_eq hr, if_neg (by simp [hv])]
  case raise => rw [execRailRaise_eq, if_pos (by simp [s.powered_iff.2 hp, hr])]
  case unpowered => rw [execRailRaise_eq, if_neg (fun h => hp (s.powered_iff.1 (Bool.and_eq_true_iff.1 h).1))]
  case eventP =>
    obtain ⟨l, n, h⟩ := State.eventP_eq s warm
    intro t
    rw [show t = _ from h]
    refine ⟨rfl, rfl, rfl, rfl, rfl, rfl, fun hw => ?_, rfl⟩
    show Tbl.get 0 (measured (measured _ 0 _) 2 _) 0 = _
    rw [measured_get (measured_wf hw _ _), if_neg (by decide), measured_get hw, if_pos rfl]
  case supply => fin_cases hi <;> exact congrArg _ (if_pos hr)
  case fatal => rw [execWarmReset_eq hr, if_pos hf]
  case departs => rw [execWarmReset_eq hr, if_neg (by simp [hf])]
  case cold => rw [execMgmtWarmReset_eq hm, if_pos ht]; rfl
  case warm => rw [execMgmtWarmReset_eq hm, if_neg (by simp [ht]), if_pos (by simpa using hr)]
  case status => exact (Tbl.get_foldl_set_mapIdx hw (leBytes 8 s.bootWords.1)).2 i
  case ftref => exact congrArg _ (if_neg (by simp [hf]))

end Sys2Proof.Machine
end

section
/-! SUPPORT. Link control and flits: what each comes to at a port where it is due. -/

namespace Sys2Proof.Machine

open Sys2Proof

/-! ### Changes of one port -/

/-- Two changes of one entry are one. -/
theorem Tbl.upd_upd {α : Type} [DecidableEq α] {d : α} {t : Tbl α} (h : Tbl.wf d t = true) (i : Nat) (f g : α → α) :
    Tbl.upd d (Tbl.upd d t i f) i g = Tbl.upd d t i (fun x => g (f x)) := by
  have h1 := Tbl.wf_upd d t i f h
  refine Tbl.ext_get d _ _ (Tbl.wf_upd _ _ _ _ h1) (Tbl.wf_upd _ _ _ _ h) fun j => ?_
  rw [Tbl.get_upd _ _ _ _ _ h1, Tbl.get_upd _ _ _ _ _ h, Tbl.get_upd _ _ _ _ _ h, Tbl.get_upd _ _ _ _ _ h, if_pos rfl]
  split <;> rfl

theorem State.modPort_modPort {s : State} (h : Tbl.wf {} s.hws.ports = true) (p : Nat) (f g : Port → Port) :
    (s.modPort p f).modPort p g = s.modPort p (fun x => g (f x)) :=
  congrArg (fun t => ({ s with hws := { s.hws with ports := t } } : State)) (Tbl.upd_upd h p f g)

/-- A change of a port is known by what it makes of that port. -/
theorem State.modPort_congr {s : State} {p : Nat} {f g : Port → Port} (h : f (s.port p) = g (s.port p)) : s.modPort p f = s.modPort p g :=
  congrArg (fun x => ({ s with hws := { s.hws with ports := Tbl.set {} s.hws.ports p x } } : State)) h

theorem State.modPort_port_self {s : State} (h : Tbl.wf {} s.hws.ports = true) (p : Nat) (f : Port → Port) :
    (s.modPort p f).port p = f (s.port p) := (State.modPort_port s p p f h).trans (if_pos rfl)

theorem ports_of_tables {s : State} (h : Tables s) : Tbl.wf {} s.hws.ports = true := by
  obtain ⟨-, -, -, -, -, -, -, -, -, -, -, -, hp, -⟩ := h
  exact hp

/-! ### Acknowledgements (R522) -/

/-- An acknowledgement of flits that are held drops them; a port with no packet waiting refills nothing. -/
theorem Port.acked_held {x : Port} {seq : Nat} (hw : x.txWait = []) (h : (seq + 4096 - x.base) % 4096 ≤ x.replayBuf.length) :
    let n := (seq + 4096 - x.base) % 4096
    x.acked seq = { x with replayBuf := x.replayBuf.drop n, failedReplays := if n = 0 then x.failedReplays else 0
                           nakSeq := if n = 0 then x.nakSeq else none } := by
  intro n
  show (if x.replayBuf.length < n then x else _) = _
  rw [if_neg (Nat.not_lt.2 h), hw]
  rfl

section

variable {s : State} {p : Nat} (hr : s.pins.rails = true)
include hr

theorem execLack_due {seq : Nat} (hw : (s.port p).txWait = []) (h0 : 0 < (seq + 4096 - (s.port p).base) % 4096)
    (hn : (seq + 4096 - (s.port p).base) % 4096 ≤ (s.port p).replayBuf.length) : exec (.lack p seq) s =
      .next (s.modPort p (fun x => { x with
        replayBuf := x.replayBuf.drop ((seq + 4096 - (s.port p).base) % 4096), failedReplays := 0, nakSeq := none })) := by
  refine congrArg Host.Outcome.next ((if_pos hr).trans (State.modPort_congr ?_))
  rw [Port.acked_held hw hn, if_neg h0.ne', if_neg h0.ne']

/-- A NAK of a flit that is held drops those before it and sends the rest again (R519, R522). -/
theorem execLnak_due (ht : Tbl.wf {} s.hws.ports = true) {seq : Nat} (hu : (s.port p).state = .up) (hw : (s.port p).txWait = [])
    (hn : (seq + 4096 - (s.port p).base) % 4096 < (s.port p).replayBuf.length) : exec (.lnak p seq) s =
      .next (let n := (seq + 4096 - (s.port p).base) % 4096
        let t := s.modPort p (fun x => { x with
          replayBuf := x.replayBuf.drop n, nakSeq := some seq, replay := (x.replay + 1) % 2 ^ 64
          failedReplays := if x.nakSeq = some seq then x.failedReplays + 1 else 0 })
        { t with hws := { t.hws with sent := t.hws.sent ++ ((s.port p).replayBuf.drop n).flatten } }) := by
  have hdue : ¬ ((s.port p).state ≠ .up ∨ (s.port p).replayBuf.length ≤ (seq + 4096 - (s.port p).base) % 4096) := by
    rintro (h | h)
    · exact h hu
    · omega
  refine congrArg Host.Outcome.next ((if_pos hr).trans ((if_neg hdue).trans ?_))
  simp only [State.replay]
  rw [State.modPort_modPort ht, State.modPort_port_self ht]
  refine congrArg₂ (fun (t : State) (l : List Packet) => ({ t with hws := { t.hws with sent := t.hws.sent ++ l } } : State))
    (State.modPort_congr ?_) ?_
  · rw [Port.acked_held hw hn.le]
    simp only [beq_iff_eq]
    rfl
  · rw [Port.acked_held hw hn.le]

theorem execLinkAckDue_due (hu : (s.port p).state = .up) (h0 : 0 < (s.port p).rxUnacked)
    (hd : 64 ≤ (s.port p).rxUnacked ∨ (s.port p).rxSince + 512 ≤ s.now) : exec (.linkAckDue p) s =
      .next ((s.modPort p (fun x => { x with rxUnacked := 0 })).portSend p { ty := 0x30, cls := 0, addr := (s.port p).rxSeq }) := by
  refine congrArg Host.Outcome.next (if_neg ?_)
  simp only [hr, hu, Bool.or_eq_true, Bool.and_eq_true, decide_eq_true_eq, Bool.not_true, ne_eq, not_true_eq_false, decide_false,
    Bool.false_eq_true, false_or]
  omega

/-! ### Flits (R520 to R522) -/

/-- The state once the symbols that the code corrected in a flit, and whether it failed, are counted. -/
def State.flitCounted (s : State) (p corrected : Nat) (failed : Bool) : State :=
  s.modPort p (fun x => { x with fecCorr := wrapAdd 64 x.fecCorr corrected, fecUnc := wrapAdd 64 x.fecUnc (b2n failed) })

variable {bytes : List Byte} {corrected : Nat} {failed replay : Bool} (hu : (s.port p).state = .up)
include hu

theorem execFlit_up : exec (.flit p bytes corrected failed replay) s = .next (let t := s.flitCounted p corrected failed
    if ((t.port p).rxNak && !replay) = true then t
    else if (failed || decide (bytes.length ≠ 256) || decide (fieldAt bytes 252 4 ≠ crc32 (bytes.take 252))) = true then t.flitFailed p
    else t.flitTaken p bytes) := by
  refine congrArg Host.Outcome.next (if_neg ?_)
  simp [hr, hu]

end

theorem wrapAdd_b2n (w x : Nat) (b : Bool) : wrapAdd w x (b2n b) = (x + if b = true then 1 else 0) % 2 ^ w := by
  cases b <;> rfl

/-- Settles O38: each row by the lemma that says what it comes to at an UP port; a flit by the case of `execFlit_up` it is in. -/
theorem linksAcknowledgeAndReplay : Obligations.LinksAcknowledgeAndReplay := by
  intro p s htables hr x
  have ht := ports_of_tables htables
  refine ⟨fun seq hw h0 hn => execLack_due hr hw h0 hn, fun seq hu hw hn => execLnak_due hr ht hu hw hn,
    fun cls n => congrArg _ (if_pos hr), fun hu h0 hd => execLinkAckDue_due hr hu h0 hd, fun hu bytes corrected failed replay => ?flit⟩
  intro corr unc good
  have hcounted : s.flitCounted p corrected failed = s.modPort p (fun x => { x with fecCorr := corr, fecUnc := unc }) :=
    State.modPort_congr (by rw [wrapAdd_b2n]; rfl)
  have hport := State.modPort_port_self ht p (fun x => { x with fecCorr := corr, fecUnc := unc })
  have hnak : ((s.flitCounted p corrected failed).port p).rxNak = x.rxNak := by rw [hcounted, hport]
  have hgood : (failed || decide (bytes.length ≠ 256) || decide (fieldAt bytes 252 4 ≠ crc32 (bytes.take 252))) = true ↔ ¬ good := by
    simp only [good, Bool.or_eq_true, decide_eq_true_eq, not_and_or, ne_eq, Bool.not_eq_false, or_assoc]
  have hturn (h : x.rxNak = false ∨ replay = true) : ¬ (((s.flitCounted p corrected failed).port p).rxNak && !replay) = true := by
    rw [hnak]
    rcases h with h | h <;> simp [h]
  rw [execFlit_up hr hu]
  refine ⟨fun hn hrep => ?discarded, fun h hbad => ?failed, fun h hok => ?taken⟩
  case discarded => rw [if_pos (by rw [hnak, hn, hrep]; rfl), hcounted]
  case failed =>
    rw [if_neg (hturn h), if_pos (hgood.2 hbad), hcounted, State.flitFailed,
      State.modPort_modPort ht, State.modPort_port_self ht]
    rfl
  case taken =>
    intro r
    rw [if_neg (hturn h), if_neg (fun hb => hgood.1 hb hok), hcounted, State.flitTaken,
      State.modPort_modPort ht, hport]
    rfl

end Sys2Proof.Machine
end

section
/-! SUPPORT. The states of a Hawser port: what each event of training comes to where it is due. -/

namespace Sys2Proof.Machine

open Sys2Proof

section

variable {s : State} {p : Nat} (hr : s.pins.rails = true)
include hr

/-! ### Loss of lock and of the laser, and retraining (R518, R519) -/

theorem execLaneLockLoss_up (hu : (s.port p).state = .up) : exec (.laneLockLoss p) s =
    .next ((s.setPort p .training 0).modPort p (fun x => { x with lockLost := some s.now })) :=
  congrArg Host.Outcome.next (if_neg (by simp [hr, hu]))

theorem execLaserLoss_due (hu : (s.port p).state = .up ∨ (s.port p).state = .training) : exec (.laserLoss p) s =
    .next (((s.modPort p (fun x => { x with laserOk := false })).portLost p .down 1).chooseIndex) :=
  congrArg Host.Outcome.next (if_pos (by simp [hr, hu]))

theorem execRetrainStart_due (hn : (s.port p).retraining = false)
    (h : ((s.port p).state = .training ∧ ∃ t, (s.port p).lockLost = some t ∧ t + 3600 ≤ s.now) ∨
      (s.port p).state = .up ∧ 8 ≤ (s.port p).failedReplays) : exec (.retrainStart p) s = .next (s.startRetrain p) := by
  refine congrArg Host.Outcome.next (if_pos ?_)
  simp only [hr, hn, Bool.not_false, Bool.and_true, Bool.true_and, Bool.or_eq_true, Bool.and_eq_true, decide_eq_true_eq]
  refine h.imp_left fun ⟨ht, t, hl, hlate⟩ => ⟨ht, ?_⟩
  rw [hl]
  exact decide_eq_true hlate

theorem execRetrainEnd_training (ht : (s.port p).state = .training) (ok : Bool) : exec (.retrainEnd p ok) s = .next
    (if (s.port p).retraining = true then
      (if ok = true then
        (((s.setPort p .up 0).modPort p (fun x => { x with retraining := false, rxNak := false })).replay p).sendAllKept
        else s.portLost p .down 3)
      else if ok = true then s else (s.portLost p .down 2).chooseIndex) :=
  congrArg Host.Outcome.next (if_neg (by simp [hr, ht]))

theorem execPortRetry_due (hd : (s.port p).state = .down) (hf : s.frm.count % 1024 = 0) :
    exec (.portRetry p) s = .next (s.setPort p .training 0) :=
  congrArg Host.Outcome.next (if_pos (by simp [hr, hd, hf]))

theorem execRetrain_up (hu : (s.port p).state = .up) : exec (.retrain p) s = .next (s.startRetrain p) := by
  refine congrArg Host.Outcome.next ((if_neg (by simp [hr])).trans ?_)
  rw [hu]

theorem execRetrain_stopped (hd : (s.port p).state = .down ∨ (s.port p).state = .refused) :
    exec (.retrain p) s = .next (s.setPort p .training 0) := by
  refine congrArg Host.Outcome.next ((if_neg (by simp [hr])).trans ?_)
  rcases hd with hd | hd <;> rw [hd]

/-! ### The end of training (R518, R524, R527) -/

theorem execPortTrained_due (ht : (s.port p).state = .training) (hn : (s.port p).retraining = false) (hl : (s.port p).lockLost = none)
    (plane leaf transit half : Nat) : exec (.portTrained p plane leaf transit half) s = .next (((s.modPort p (fun x =>
      { x with laserOk := true, plane := plane, leaf := leaf, transit := transit, halfTrip := half })).portTrained p).chooseIndex) :=
  congrArg Host.Outcome.next (if_neg (by simp [hr, ht, hn, hl]))

end

/-- A port below p that is at p's plane, or was and retrains (R524). -/
def State.planeUsed (t : State) (p : Nat) : Prop := ∃ q < p, (t.port q).plane = (t.port p).plane ∧
  ((t.port q).state = .up ∨ (t.port q).state = .training ∧ (t.port q).retraining = true)

/-- A port that trained is REFUSED by its plane, by a port at it already or by its leaf, or is UP. -/
theorem State.portTrained_eq {t : State} {p : Nat} [Decidable (t.planeUsed p)] (hp : p < 48) : t.portTrained p =
    if t.planeMap p ≠ 0xFF ∧ t.planeMap p ≠ (t.port p).plane then t.portLost p .refused 4
    else if t.planeUsed p then t.portLost p .refused 6
    else if t.hws.indexChosen = true ∧ (t.port p).leaf ≠ t.hws.index then t.portLost p .refused 5
    else
      let u := (t.modPort p (fun x => x.fresh)).setPort p .up 0
      (if u.hws.indexChosen then u.sendJoin p else u).sendAllKept := by
  unfold State.portTrained
  refine if_congr ?_ rfl (if_congr ?_ rfl (if_congr ?_ rfl rfl))
  · simp only [Bool.and_eq_true, decide_eq_true_eq]
  · simp only [State.planeUsed, List.any_eq_true, List.mem_range, Bool.and_eq_true, Bool.or_eq_true, decide_eq_true_eq, beq_iff_eq]
    refine exists_congr fun q => ?_
    constructor
    · exact fun ⟨_, ⟨hq, hpl⟩, hst⟩ => ⟨hq, hpl, hst⟩
    · exact fun ⟨hq, hpl, hst⟩ => ⟨hq.trans hp, ⟨hq, hpl⟩, hst⟩
  · simp only [Bool.and_eq_true, decide_eq_true_eq]

/-! ### A change of state (R535, R646) -/

theorem State.setPort_eq {s : State} {p : Nat} {st : PortState} (cause : Nat) (h : (s.port p).state ≠ st) :
    let gone := st = .down ∨ st = .refused
    let t := s.modPort p (fun x => { x with state := st, cause := if gone then cause else x.cause })
    s.setPort p st cause =
      (if (s.port p).state = .up ∨ st = .refused ∨ st = .down ∧ (s.port p).retraining = true then t.logErr .event 0x40 10 p cause
        else t).hwsEvent 1 st.code (s.port p).state.code (if gone then cause else (s.port p).cause) p 0 := by
  intro gone t
  refine (if_neg h).trans ?_
  refine congrArg (fun u : State => u.hwsEvent 1 st.code (s.port p).state.code (if gone then cause else (s.port p).cause) p 0) ?_
  refine if_congr ?_ rfl rfl
  simp only [Bool.or_eq_true, Bool.and_eq_true, decide_eq_true_eq, or_assoc]

/-- Settles O41: each event by the lemma that says what it comes to where it is due, the end of training by `State.portTrained_eq`. -/
theorem portsTrainAndRetrain : Obligations.PortsTrainAndRetrain := by
  classical
  intro p s hr x
  refine ⟨execLaneLockLoss_up hr, fun _ => execLaserLoss_due hr, execRetrainStart_due hr, fun ht hn => ?retrained, fun ht hn => ?failed,
    fun htables ht hn hl plane leaf transit half => ?trained, execPortRetry_due hr, execRetrain_up hr, execRetrain_stopped hr,
    fun st cause h => State.setPort_eq cause h⟩
  case retrained =>
    constructor
    · rw [execRetrainEnd_training hr ht, if_pos hn, if_pos rfl]
    · rw [execRetrainEnd_training hr ht, if_pos hn, if_neg Bool.false_ne_true]
  case failed => rw [execRetrainEnd_training hr ht, if_neg (by simp [x, hn]), if_neg Bool.false_ne_true]
  case trained =>
    intro t used wrong hp
    have hports := ports_of_tables htables
    have hself : t.port p = { s.port p with laserOk := true, plane := plane, leaf := leaf, transit := transit, halfTrip := half } :=
      State.modPort_port_self hports ..
    have hused : t.planeUsed p ↔ used := by
      refine exists_congr fun q => and_congr_right fun hq => ?_
      have hother : t.port q = s.port q := (State.modPort_port _ _ _ _ hports).trans (if_neg hq.ne)
      rw [hother, hself]
    have hwrong : (t.planeMap p ≠ 0xFF ∧ t.planeMap p ≠ (t.port p).plane) ↔ wrong := by rw [hself]; rfl
    rw [execPortTrained_due hr ht hn hl, State.portTrained_eq hp]
    refine ⟨fun hw => ?_, fun hw hu => ?_, fun hw hu hc hleaf => ?_, fun hw hu hleaf => ?_⟩
    · rw [if_pos (hwrong.2 hw)]
    · rw [if_neg (hw ∘ hwrong.1), if_pos (hused.2 hu)]
    · rw [if_neg (hw ∘ hwrong.1), if_neg (hu ∘ hused.1), if_pos ⟨hc, by rw [hself]; exact hleaf⟩]
    · rw [if_neg (hw ∘ hwrong.1), if_neg (hu ∘ hused.1), if_neg (fun h => h.2 (by rw [hself]; exact hleaf h.1))]

end Sys2Proof.Machine
end

section
/-! SUPPORT. The DMA events: what each comes to where it is due. -/

namespace Sys2Proof.Machine

open Sys2Proof

section

variable {e c : Nat} {s : State}

/-! ### Data of a burst (R493, R510) -/

section

variable {x : Xfer} {i : Nat} {b : Burst} {ext : ReadBack (List Byte)} (hs : s.alive = true) (hb : (s.dmaEng e).busErr = false)
  (hx : (s.dmaCh e c).act = some x) (hi : (s.dmaCh e c).bursts[i]? = some b)
include hs hb hx hi

theorem execDmaBurstData_failed (hf : ext = .failed) (he : b.external = true) :
    exec (.dmaBurstData e c i ext) s = .next (s.dmaBusError e (x.srcAt b.from_)) := by
  show Host.Outcome.next _ = _
  rw [hx, hi]
  exact congrArg Host.Outcome.next ((if_neg (by simp [hs, hb])).trans (if_pos (by simp [hf, he])))

/-- Data that came, or that was all here, lets the channel write whole bursts and issue more. -/
theorem execDmaBurstData_came (hf : ¬(ext = .failed ∧ b.external = true)) :
    let r := b.parts.foldl (fun (acc : List DmaPart × ReadBack (List Byte) × State) p =>
      let n := acc.2.2.dmaPart e c acc.2.1 p
      (acc.1 ++ [n.1], n.2.1, n.2.2)) ([], ext, s)
    (r.1 ≠ b.parts ∨ b.parts = [] ∨ b.external = false) → exec (.dmaBurstData e c i ext) s = .next
      ((r.2.2.modDmaCh e c (fun k => { k with bursts := k.bursts.set i { b with parts := r.1 } })).dmaArrived e c) := by
  intro r hcame
  show Host.Outcome.next _ = _
  rw [hx, hi]
  refine congrArg Host.Outcome.next ((if_neg (by simp [hs, hb])).trans ((if_neg (by simpa using hf)).trans (if_pos ?_)))
  have hdue : (r.1 != b.parts || b.parts.isEmpty || !b.external) = true := by simpa [or_assoc] using hcame
  exact hdue

end

/-! ### The end of a transfer and bus errors (R495, R510) -/

theorem dmaOver_of {x : Xfer} (hx : (s.dmaCh e c).act = some x) (hb : (s.dmaCh e c).bursts = [])
    (ht : x.total ≤ (s.dmaCh e c).issued) (hr : ∀ r ∈ s.hws.reqs, r.who ≠ .dma e c) : s.dmaOver e c = true := by
  have hreqs : s.hws.reqs.any (fun r => r.who == .dma e c) = false := by simpa using hr
  simp [State.dmaOver, hx, hb, ht, hreqs]

theorem execDmaTransferComplete_over (hs : s.alive = true) {x : Xfer} (hx : (s.dmaCh e c).act = some x) (hop : x.op ≠ 1)
    (ho : s.dmaOver e c = true) : exec (.dmaTransferComplete e c) s = .next ((s.dmaFinish e c).dmaRun e c) := by
  show Host.Outcome.next _ = _
  simp only [hx, hop, hs, ho, decide_false, Bool.false_and, Bool.not_true, Bool.false_eq_true, if_false, if_true]

theorem execDmaBusError_due (hs : s.alive = true) (hb : (s.dmaEng e).busErr = false) (hc : c < 16) (hx : (s.dmaCh e c).act ≠ none)
    (a : Nat) : exec (.dmaBusError e a) s = .next (s.dmaBusError e a) := by
  have hact : (List.range 16).all (fun c => (s.dmaCh e c).act.isNone) = false :=
    List.all_eq_false.2 ⟨c, List.mem_range.2 hc, by simpa using hx⟩
  exact congrArg Host.Outcome.next (if_neg (by simp [hs, hb, hact]))

theorem execDmaBusErrDrain_due (hs : s.alive = true) (hb : (s.dmaEng e).busErr = true) : exec (.dmaBusErrDrain e) s = .next
    ((List.range 16).foldl (fun s c => s.dmaRun e c) (s.modDma e (fun k => { k with busErr := false }))) :=
  congrArg Host.Outcome.next (if_neg (by simp [hs, hb]))

/-! ### Starving and pacing (R506, R513) -/

theorem execStarved_due (hs : s.alive = true) (hl : (s.dmaCh e c).stallLimit ≠ 0) (hn : (s.dmaCh e c).starved = false)
    (hstarve : (s.dmaCh e c).starving = true) (ht : (s.dmaCh e c).stallLimit ≤ (s.dmaCh e c).starveTicks) :
    exec (.starved e c) s = .next ((s.modDmaCh e c (fun k =>
      { k with starved := true, event := 0x21, starveCount := satAdd 16 k.starveCount 1 })).logErr .event 0x31 8 e c) :=
  congrArg Host.Outcome.next (if_neg (by simp [hs, hl, hn, hstarve, ht]))

theorem execPaceRead_due (hs : s.alive = true) (hd : (s.dmaCh e c).paceDue = true) (hx : (s.dmaCh e c).act ≠ none) :
    exec (.paceRead e c) s = .next ((s.attempt (s.dmaPace e c)).dmaRun e c) :=
  congrArg Host.Outcome.next (if_neg (by simp [hs, hd, hx]))

/-! ### Disabling a channel (R508) -/

theorem execDmaChDisable_empty (ho : s.dmaOver e c = false) (hx : (s.dmaCh e c).act = none) (hd : (s.dmaCh e c).shd = none) :
    exec (.dmaChDisable e c) s = .next (s.modDmaCh e c (fun k => { k with disable := true })) := by
  show Host.Outcome.next _ = _
  rw [ho]
  exact congrArg Host.Outcome.next (if_pos (by simp [hx, hd]))

/-- What a channel holds ends with CANCELLED, and DONE is a free value. -/
theorem execDmaChDisable_active (ho : s.dmaOver e c = false) {x : Xfer} (hx : (s.dmaCh e c).act = some x)
    (hd : (s.dmaCh e c).shd = none) :
    let s1 := (s.modDmaCh e c (fun k => { k with disable := true })).dmaEnd e c (dmaEnding e c 0x1B 0x51)
    exec (.dmaChDisable e c) s =
      .next ((s1.freeVal 64).2.modDmaCh e c (fun k => { k with shd := none, done := (s1.freeVal 64).1 })) := by
  intro s1
  show Host.Outcome.next _ = _
  rw [ho]
  refine congrArg Host.Outcome.next ((if_neg (by simp [hx])).trans ?_)
  simp only [Bool.false_eq_true, if_false, hd]
  rfl

end

/-- Settles O28: each event where it is due, by the lemma about its row; enabling a channel is its definition. -/
theorem dmaEventsAct : Obligations.DmaEventsAct := by
  unfold Obligations.DmaEventsAct
  intro e c s k
  refine ⟨fun hs hb x i b ext hx hi => ⟨execDmaBurstData_failed hs hb hx hi, execDmaBurstData_came hs hb hx hi⟩,
    fun hs x hx hop hb ht hr => execDmaTransferComplete_over hs hx hop (dmaOver_of hx hb ht hr),
    execDmaBusError_due, execDmaBusErrDrain_due, execStarved_due, execPaceRead_due,
    fun ho => ⟨execDmaChDisable_empty ho, fun x => execDmaChDisable_active ho⟩, rfl⟩

end Sys2Proof.Machine
end

section
/-! SUPPORT. Admission: a queue whose next command may be taken, and what it does where its checks pass or fail (R455, R480). -/

namespace Sys2Proof.Machine

open Sys2Proof

section

variable {s : State} {q : Nat}

/-! ### A queue whose next command may be taken (R455 to R457) -/

theorem State.cmdReady_of_mayAdmit (h : MayAdmit s q) : s.cmdReady q = true := by
  obtain ⟨ha, hl, hr, ht, -, hhold, -⟩ := h
  have hfree : s.cmds.any (fun c => c.own q && s.holdsBack c) = false := by simpa using hhold
  simp [State.cmdReady, ha, hl, hr, ht, hfree]

theorem State.queueTurn_of_mayAdmit (h : MayAdmit s q) : s.queueTurn q = true := by
  obtain ⟨-, -, -, -, -, -, hturn⟩ := h
  refine List.all_eq_true.2 fun x hx => ?_
  by_cases hs : x.2.served = (s.queue q).served
  · by_cases hc : s.cmdReady x.1 = true
    · simp [hturn x hx hs hc]
    · simp [hc]
  · simp [hs]

theorem State.canAdmit_of_mayAdmit (h : MayAdmit s q) : s.canAdmit q = true := by
  have hn : s.cmds.length < maxInFlight := h.2.2.2.2.1
  simp [State.canAdmit, State.cmdReady_of_mayAdmit h, State.queueTurn_of_mayAdmit h, hn]

/-- Counting a command changes its queue's head only: a RUNNING queue is listed, however the queues are. -/
theorem counted_queue (hr : (s.queue q).state = .running) (c : CmdImg) :
    (counted s q c).queue q = { s.queue q with headSeq := ((s.queue q).headSeq + 1) % 2 ^ 32 } := by
  refine Tbl.get_set_of_ne (fun hd => ?_) s.queues q
  have hst : (s.queue q).state = QState.disabled := congrArg Queue.state hd
  rw [hr] at hst
  cases hst

theorem counted_queue_kind (hr : (s.queue q).state = .running) (c : CmdImg) : ((counted s q c).queue q).kind = (s.queue q).kind := by
  rw [counted_queue hr c]

/-- An admission that no home holds takes effect, and a cane's first nodes start. -/
theorem State.admitCmd_of_mayAdmit (h : MayAdmit s q) {op : Nat} {c : CmdImg} {t : State}
    (ht : (counted s q c).admitGo op c (s.nextCommand q c) (s.queue q).kind = t) (hstuck : t.stuck = false) :
    s.admitCmd q op c = t.startNodes (s.nextCommand q c).id := by
  subst ht
  refine (if_neg (by simp [State.canAdmit_of_mayAdmit h])).trans ?_
  exact congrArg (fun t : State => t.startNodes (s.nextCommand q c).id) (if_neg (Bool.eq_false_iff.1 hstuck))

end

/-! ### The checks (R480) -/

section

variable {s s2 : State} {op kind : Nat} {c : CmdImg} {k : Cmd}

theorem State.admitGo_checked (h : s.admitCheck op c k kind = (none, s2)) : s.admitGo op c k kind = s2.admitAct op c k := by
  unfold State.admitGo
  rw [h]

theorem State.admitGo_failed {e : Ending} (hop : op ≠ 8) (h : s.admitCheck op c k kind = (some e, s2)) :
    s.admitGo op c k kind = s2.endCmd k.id e := by
  unfold State.admitGo
  rw [h]
  exact congrArg (fun s : State => s.endCmd k.id e) (if_neg hop)

theorem State.admitCheck_illFormed (h : ¬(headOk' c = true ∧ cmdBodyOk op c = true)) :
    s.admitCheck op c k kind = (some (stateEnd 0x40), s) :=
  if_pos (by simpa [or_assoc, imp_iff_not_or] using Or.inr h)

variable (hop : opcodes.contains op = true) (hok : headOk' c = true ∧ cmdBodyOk op c = true) (hn : k.node = none)
include hop hok hn

theorem State.admitCheck_wrongKind (hk : kindAccepts op kind = false) : s.admitCheck op c k kind = (some (stateEnd 0x41), s) := by
  unfold State.admitCheck
  simp only [hop, hok.1, hok.2, hn, hk, Option.isSome_none, Bool.not_true, Bool.or_self, Bool.false_eq_true, if_false,
    Bool.not_false, if_true]

theorem State.admitCheck_featureOff (hk : kindAccepts op kind = true) {b : Nat} (hf : opFeature op = some b)
    (hb : k.features.getLsbD b = false) : s.admitCheck op c k kind = (some (stateEnd 0x06), s) := by
  unfold State.admitCheck
  simp only [hop, hok.1, hok.2, hn, hk, hf, hb, Option.isSome_none, Option.any_some, Bool.not_true, Bool.or_self,
    Bool.false_eq_true, if_false, Bool.not_false, if_true]

end

/-! ### MARK (R467) -/

section

variable {s s' : State} {k : Cmd} {c : CmdImg}

theorem State.admitAct_markAfter (hn : k.node = none) (h : (cmdFld c 24 1).testBit 0 = true) :
    s.admitAct 0x0E c k = s.modCmd k.id (fun x => { x with work := .mark (cmdFld c 16 8) true }) := by
  refine if_pos ?_
  rw [hn]
  exact (Bool.and_true _).trans h

theorem State.admitAct_markNow (h : (cmdFld c 24 1).testBit 0 = false) :
    s.admitAct 0x0E c k = (s.modCmd k.id (fun x => { x with work := .mark (cmdFld c 16 8) false })).markGo k (cmdFld c 16 8) := by
  refine if_neg fun hb => ?_
  have hset : (cmdFld c 24 1).testBit 0 = true := (Bool.and_eq_true_iff.1 hb).1
  rw [h] at hset
  cases hset

theorem State.markGo_ok {va : Nat} {bs : List Byte} (h : s.vmWrite k va (s.markBytes k.seq) .store = (.ok bs, s')) :
    s.markGo k va = s'.endCmd k.id { status := 0 } := by
  unfold State.markGo
  rw [h]

end

/-- Settles O24: `State.admitCmd_of_mayAdmit` with what the command's checks and work come to. -/
theorem commandsActOnceAdmitted : Obligations.CommandsActOnceAdmitted := by
  unfold Obligations.CommandsActOnceAdmitted
  intro q c s hmay k s1 kind f goes done doing checked closed hinted
  have hkind : kind = (s.queue q).kind := counted_queue_kind hmay.2.2.1 c
  have acts : ∀ {op : Nat} {t : State}, s1.admitGo op c k kind = t → t.stuck = false → s.admitCmd q op c = t.startNodes k.id :=
    fun ht => State.admitCmd_of_mayAdmit hmay (hkind ▸ ht)
  have ends : ∀ {op : Nat} {i : Instr}, exec i s = .next (s.admitCmd q op c) → ∀ {t : State}, s1.admitGo op c k kind = t → goes i t :=
    fun hi _ ht hstuck => hi.trans (congrArg Host.Outcome.next (acts ht hstuck))
  refine ⟨rfl, rfl, rfl, fun s2 h => ends rfl (State.admitGo_checked h), fun s2 h => ends rfl (State.admitGo_checked h),
    fun s2 h => ends rfl (State.admitGo_checked h), fun s2 h => ends rfl (State.admitGo_checked h),
    fun s2 h => ends rfl (State.admitGo_checked h), fun s2 h => ends rfl (State.admitGo_checked h),
    fun s2 h => ⟨fun hafter => ends rfl ((State.admitGo_checked h).trans (State.admitAct_markAfter rfl hafter)),
      fun hnow n s3 hw => ends rfl ((State.admitGo_checked h).trans ((State.admitAct_markNow hnow).trans (State.markGo_ok hw)))⟩, ?_⟩
  intro r hr
  have hr' : opcodes.contains r.1 = true ∧ r.1 ≠ 8 ∧ exec r.2 s = .next (s.admitCmd q r.1 c) := by
    simp only [List.mem_cons, List.not_mem_nil, or_false] at hr
    rcases hr with rfl | rfl | rfl | rfl | rfl | rfl | rfl | rfl | rfl | rfl | rfl <;> exact ⟨rfl, by simp, rfl⟩
  obtain ⟨hop, h8, hexec⟩ := hr'
  exact ⟨fun hbad => ends hexec (State.admitGo_failed h8 (State.admitCheck_illFormed hbad)),
    fun hok hk => ends hexec (State.admitGo_failed h8 (State.admitCheck_wrongKind hop hok rfl hk)),
    fun hok hk b hf hb => ends hexec (State.admitGo_failed h8 (State.admitCheck_featureOff hop hok rfl hk hf hb))⟩

end Sys2Proof.Machine
end

section
/-! SUPPORT. The long commands at admission: what LAUNCH, CANE, CANE.PUBLISH, DMA and BEND come to where what they read is in rule. -/

namespace Sys2Proof.Machine

open Sys2Proof

/-! ### LAUNCH (R464, R466) -/

section

variable {s s3 : State} {k c0 : Cmd} {c : CmdImg} {bs : List Byte} {args n : Nat} {rerun : Bool}

theorem State.launchAdmit_read (h : s.vmRead k.engine k.coil k.asroot (cmdFld c 16 8) 64 .load = (.ok bs, s3)) :
    s.launchAdmit k c = s3.launchWith k.id bs (cmdFld c 24 8) (cmdFld c 32 4) (bit (cmdFld c 36 1) 0) := by
  unfold State.launchAdmit
  dsimp only
  rw [h]

/-- A descriptor read is invalid, is of a coil whose units are all fenced, or begins its hanks. -/
theorem State.launchWith_read {id : Nat} (h : s.cmd? id = some c0) :
    let l : Launch := { desc := parseDesc bs, args := args, hankCount := n, rerun := rerun }
    let t := s.modCmd id (fun c => { c with work := .launch l })
    let ok := n ≠ 0 ∧ (parseDesc bs).rsvdSet = false ∧ (parseDesc bs).ok c0.features = true
    let all := (t.unitsOfCoil c0.coil).all (fun u => t.unitFenced u) = true
    (ok → ¬all → s.launchWith id bs args n rerun = t) ∧
    (¬ok → s.launchWith id bs args n rerun = t.endCmd id (stateEnd 0x42)) ∧
    (ok → all → s.launchWith id bs args n rerun = t.endCmd id { status := 0x14 }) := by
  intro l t ok all
  have hgo : s.launchWith id bs args n rerun = if (n = 0 || (parseDesc bs).rsvdSet || !(parseDesc bs).ok c0.features) = true then
      t.endCmd id (stateEnd 0x42) else if all then t.endCmd id { status := 0x14 } else t := by
    unfold State.launchWith
    rw [h]
  have hbad : (n = 0 || (parseDesc bs).rsvdSet || !(parseDesc bs).ok c0.features) = true ↔ ¬ok := by
    simp only [Bool.or_eq_true, decide_eq_true_eq, Bool.not_eq_true', ok, not_and_or, not_not, Bool.not_eq_false, Bool.not_eq_true,
      or_assoc]
  rw [hgo]
  exact ⟨fun hok hall => (if_neg (fun hb => hbad.1 hb hok)).trans (if_neg hall), fun hok => if_pos (hbad.2 hok),
    fun hok hall => (if_neg (fun hb => hbad.1 hb hok)).trans (if_pos hall)⟩

end

/-! ### CANE and CANE.PUBLISH (R487, R490, R491) -/

section

variable {s2 s3 s4 s5 s6 s7 : State} {k : Cmd} {c : CmdImg} {header : Nat} {nc : Bool} {h t n : List Byte}
  (hat : s2.caneAt k (cmdFld c 16 8) .atomic = (.ok (header, nc), s3)) (hh : s3.bytesRead k.engine header 128 nc = (.ok h, s4))
include hat hh

/-- A CANE in rule takes a count on the current slot, zeroes its node knots and reads its node records. -/
theorem State.caneAdmit_read :
    let slot := bits (fieldAt h 0 8) 0 2
    let nodes := fieldAt h (caneSlot slot + 6) 2
    fieldAt h (caneSlot slot + 4) 1 = 1 → nodes ≠ 0 → nodes ≤ 4096 →
    (s4.atomWord k.engine header 0x08 (caneWeight slot) 0 nc).2.scratchAt k (cmdFld c 24 8) nodes = (none, s5) →
    s5.vmRead k.engine k.coil k.asroot (fieldAt h (caneSlot slot + 8) 8) (8 * nodes) .load = (.ok t, s6) →
    s6.zeroKnots k (cmdFld c 24 8) nodes = (.ok n, s7) →
    let r := (List.range nodes).foldl (fun (acc : List CaneNode × State) i =>
      let x := acc.2.readNode k nodes (fieldAt t (8 * i) 8)
      (acc.1 ++ [x.1], x.2)) ([], s7)
    s2.caneAdmit k c = r.2.modCmd k.id (fun x =>
      { x with work := .cane { header := header, nc := nc, scratch := cmdFld c 24 8, slot := slot, nodes := r.1 } }) := by
  intro slot nodes hst h0 hmax hscratch htable hzero r
  have hrule : (fieldAt h (caneSlot slot + 4) 1 ≠ 1 || nodes = 0 || decide (4096 < nodes)) = false := by simp [hst, h0, hmax]
  unfold State.caneAdmit
  rw [hat]
  dsimp only
  rw [hh]
  refine (if_neg (Bool.eq_false_iff.1 hrule)).trans ?_
  rw [hscratch]
  dsimp only
  rw [htable]
  dsimp only
  rw [hzero]

/-- CANE.PUBLISH makes a PUBLISHED slot in rule current, and retires the slot before it where no launch of it is left. -/
theorem State.canePublish_read :
    let slot := cmdFld c 24 1
    let ctrl := fieldAt h 0 8
    let nodes := fieldAt h (caneSlot slot + 6) 2
    let s5 := (s4.atomWord k.engine header 0x10 (setBits ctrl 0 2 slot) 0 nc).2
    let ok := fieldAt h (caneSlot slot + 4) 1 = 1 ∧ slot ≠ bits ctrl 0 2 ∧ nodes ≠ 0 ∧ nodes ≤ 4096
    (ok → s2.canePublish k c = (if caneCount ctrl (bits ctrl 0 2) = 0 then s5.caneRetire k header nc (bits ctrl 0 2) else s5).endCmd
      k.id { status := 0 }) ∧
    (¬ok → s2.canePublish k c = s4.endCmd k.id (stateEnd 0x44)) := by
  intro slot ctrl nodes s5 ok
  unfold State.canePublish
  rw [hat]
  dsimp only
  rw [hh]
  have hbad : (fieldAt h (caneSlot slot + 4) 1 ≠ 1 || slot = bits ctrl 0 2 || nodes = 0 || decide (4096 < nodes)) = true ↔ ¬ok := by
    simp only [Bool.or_eq_true, decide_eq_true_eq, ok, not_and_or, not_not, not_le, or_assoc, ne_eq]
  exact ⟨fun hok => if_neg (fun hb => hbad.1 hb hok), fun hok => if_pos (hbad.2 hok)⟩

end

/-! ### DMA (R496, R500) -/

theorem State.namedEngine_queue {s : State} {k : Cmd} (hn : k.node = none) (dma : Bool) (c : CmdImg) :
    s.namedEngine k dma c = some (s.queue k.queue).engine := by
  refine if_pos ?_
  rw [hn]
  rfl

theorem State.admitAct_dma {s : State} {k : Cmd} (hn : k.node = none) (c : CmdImg) :
    let e := (s.queue k.queue).engine
    let ch := bits (cmdFld c 16 1) 0 4
    s.admitAct 0x04 c k = (s.modCmd k.id (fun x => { x with work := .dma e ch, engine := 512 + e })).dmaSubmit e ch
      { cmd := k.id, queue := k.queue, seq := k.seq, coil := k.coil, asroot := k.asroot, features := k.features, image := c.body } := by
  intros
  unfold State.admitAct
  rw [State.namedEngine_queue hn true]
  rfl

/-- An image in rule waits for its channel's shadow set. -/
theorem State.dmaSubmit_accepted {s : State} {e ch : Nat} {x : Xfer} (hok : x.ok = true) (hf : x.op = 2 → x.features.getLsbD 8 = true)
    (hd : (s.dmaCh e ch).disable = false) :
    s.dmaSubmit e ch x = (s.modDmaCh e ch (fun k => { k with queueing := k.queueing ++ [x] })).dmaRun e ch := by
  have hcmp : (x.op = 2 && !x.features.getLsbD 8) = false := by
    by_cases h2 : x.op = 2
    · simp [hf h2]
    · simp [h2]
  exact (if_neg (by simp [hok])).trans ((if_neg (Bool.eq_false_iff.1 hcmp)).trans (if_neg (by simp [hd])))

/-! ### BEND (R549, R556) -/

theorem State.admitAct_bend {s : State} {k : Cmd} (hn : k.node = none) (c : CmdImg) :
    let b := (s.queue k.queue).engine
    s.admitAct 0x05 c k = (s.modCmd k.id (fun x => { x with work := .bend b, engine := 528 + b })).bendSubmit b
      { k with engine := 528 + b } c.body := by
  intros
  unfold State.admitAct
  rw [State.namedEngine_queue hn false]
  rfl

/-- The collective that a BEND command starts, from its body and its group table, by its number (R548, R549). -/
def bendCollective (s : State) (c : Cmd) (body head tab : List Byte) (number : Nat) : Collective :=
  let members := (List.range (fieldAt head 2 2)).map (fun i => fieldAt tab (2 * i) 2 % 16384)
  { cmd := c.id, group := fieldAt head 0 2, tag := fieldAt head 4 4, number := number, members := members
    rank := members.idxOf s.hws.index, op := fieldAt body 0 1 / 8, dtype := fieldAt body 1 1 % 16
    red := bits (fieldAt body 1 1) 4 2, out32 := bit (fieldAt body 1 1) 6, root := fieldAt body 4 2
    src := fieldAt body 8 8, dst := fieldAt body 16 8, count := fieldAt body 24 4
    asroot := c.asroot, coil := c.coil, signature := bendSignature body head }

theorem State.any_partner_gone {s : State} {members : List Nat} : members.any (fun p => p != s.hws.index && s.peerGone p) = true ↔
    ∃ p ∈ members, p ≠ s.hws.index ∧ s.peerGone p = true := by simp

theorem State.no_partner_gone {s : State} {members : List Nat} (h : ∀ p ∈ members, p ≠ s.hws.index → s.peerGone p = false) :
    ¬∃ p ∈ members, p ≠ s.hws.index ∧ s.peerGone p = true := by simpa using h

section

variable {s3 s4 s5 s6 s7 s8 s9 s10 : State} {b ga a n : Nat} {gnc nc : Bool} {c : Cmd} {body head tab : List Byte}

/-- A BEND with a group table and ranges in rule takes its group's next number and waits for its engine, unless a member is GONE. -/
theorem State.bendSubmit_numbered (hbody : bendBodyOk body = true)
    (htab : s3.xlate c.engine c.coil c.asroot (fieldAt body 32 8) .load = (.here ga gnc, s4))
    (hhead : s4.vmRead c.engine c.coil c.asroot (fieldAt body 32 8) 16 .load = (.ok head, s5))
    (h0 : 0 < fieldAt head 2 2) (hmax : fieldAt head 2 2 ≤ 16384)
    (hmem : s5.vmRead c.engine c.coil c.asroot (fieldAt body 32 8 + 16) (2 * fieldAt head 2 2) .load = (.ok tab, s6)) :
    let x := bendCollective s6 c body head tab
    (x 0).root < fieldAt head 2 2 → (x 0).members.count s6.hws.index = 1 →
    s6.bendRange c (x 0).src (x 0).srcLen .load = (none, s7) → s7.bendRange c (x 0).dst (x 0).dstLen .store = (none, s8) →
    s8.xlate c.engine c.coil c.asroot (fieldAt body 32 8 + 8) .atomic = (.here a nc, s9) →
    s9.atomWord c.engine a 0x08 1 0 nc 4 = (.ok n, s10) →
    let s11 := s10.modBend b (fun y => y.sawNumber (x n).group (x n).tag n)
    (s11.bend b).early.contains ((x n).group, (x n).tag, n) = false →
    s3.bendSubmit b c body = if (x n).members.any (fun p => p != s11.hws.index && s11.peerGone p) = true then
        s11.bendFail b (x n) { status := 0x18, cause := 0x62 }
      else (s11.modBend b (fun y => { y with queueing := y.queueing ++ [x n] })).bendRun b := by
  intro x hroot hcount hsrc hdst hword hnum s11 hearly
  unfold State.bendSubmit
  refine (if_neg (by simp [hbody])).trans ?_
  dsimp only
  rw [htab]
  dsimp only
  rw [hhead]
  refine (if_neg (by simp [h0.ne', hmax])).trans ?_
  rw [hmem]
  refine (if_neg hroot.not_ge).trans ((if_neg (not_not.2 hcount)).trans ?_)
  dsimp only [x, bendCollective] at hsrc hdst
  rw [hsrc]
  dsimp only
  rw [hdst]
  dsimp only
  rw [hword]
  dsimp only
  rw [hnum]
  exact if_neg (Bool.eq_false_iff.1 hearly)

end

/-- Settles O25: `State.admitCmd_of_mayAdmit` with what each long command comes to where what it reads is in rule. -/
theorem longCommandsBegin : Obligations.LongCommandsBegin := by
  unfold Obligations.LongCommandsBegin
  intro q c s s2 hmay k checked f goes
  have starts : ∀ {op : Nat} {i : Instr}, exec i s = .next (s.admitCmd q op c) → checked op → ∀ {t : State},
      s2.admitAct op c k = t → goes i t := fun hi hc _ ht hstuck =>
    hi.trans (congrArg Host.Outcome.next (State.admitCmd_of_mayAdmit hmay ((State.admitGo_checked hc).trans ht) hstuck))
  refine ⟨fun hc bs s3 c0 hread hcmd => ?launch, fun hc header nc h s3 s4 s5 t s6 n s7 hat hh => ?cane,
    fun hc header nc h s3 s4 hat hh => ?publish, fun hc => ?dma, fun hc hbody => ?bend⟩
  case launch =>
    obtain ⟨hgo, hbad, hfenced⟩ := State.launchWith_read (bs := bs) (args := f 24 8) (n := f 32 4) (rerun := bit (f 36 1) 0) hcmd
    exact ⟨fun hok hall => starts rfl hc ((State.launchAdmit_read hread).trans (hgo hok hall)),
      fun hok => starts rfl hc ((State.launchAdmit_read hread).trans (hbad hok)),
      fun hok hall => starts rfl hc ((State.launchAdmit_read hread).trans (hfenced hok hall))⟩
  case cane =>
    exact fun hst h0 hmax hscratch htable hzero => starts rfl hc (State.caneAdmit_read hat hh hst h0 hmax hscratch htable hzero)
  case publish =>
    obtain ⟨hgo, hbad⟩ := State.canePublish_read hat hh
    exact ⟨fun hok => starts rfl hc (hgo hok), fun hok => starts rfl hc (hbad hok)⟩
  case dma =>
    exact fun hok hf hd => starts rfl hc ((State.admitAct_dma rfl c).trans (State.dmaSubmit_accepted hok hf hd))
  case bend =>
    intro b eng gtab c1 s3 ga gnc s4 head s5 tab s6 htab hhead m h0 hmax hmem members x hroot hcount s7 s8 a nc s9 n s10 hsrc hdst
      hword hnum s11 hearly
    have hsubmit := State.bendSubmit_numbered (c := c1) hbody htab hhead h0 hmax hmem hroot hcount hsrc hdst hword hnum hearly
    have hact := (State.admitAct_bend rfl c).trans hsubmit
    exact ⟨fun hup => starts rfl hc (hact.trans (if_neg fun hany => State.no_partner_gone hup (State.any_partner_gone.1 hany))),
      fun hgone => starts rfl hc (hact.trans (if_pos (State.any_partner_gone.2 hgone)))⟩

end Sys2Proof.Machine
end

section
/-! SUPPORT. The queues' controls and fetches: what each comes to where it is due. -/

namespace Sys2Proof.Machine

open Sys2Proof

section

variable {s : State} {q : Nat}

/-! ### ENABLE, DISABLE, CANCEL and RESUME (R441 to R445) -/

section

variable (hs : s.alive = true)
include hs

theorem execQdtEnable_ok (hd : (s.queue q).state = .disabled) (he : s.enableErr q = 0) : exec (.qdtEnable q) s =
    .next ((s.modQueue q (fun k => { k with
      enableErr := 0, state := .running, headSeq := 0, lastValid := false, fValid := false, served := s.servedBy k
      dmaMask := ((s.binding q).map (·.dmaMask)).getD 0, bendMask := ((s.binding q).map (·.bendMask)).getD 0, tail := 0
      tailDue := !k.ringLoc, win := k.win + 1, winErr := false, nextRecord := 0, park := false })).watchTail q) :=
  congrArg Host.Outcome.next ((if_neg (by simp [hs, hd])).trans (if_neg (not_not.2 he)))

theorem execQdtEnable_err (hd : (s.queue q).state = .disabled) (he : s.enableErr q ≠ 0) :
    exec (.qdtEnable q) s = .next (s.modQueue q (fun k => { k with enableErr := s.enableErr q })) :=
  congrArg Host.Outcome.next ((if_neg (by simp [hs, hd])).trans (if_pos he))

/-- A drain ends exactly the queue's waits and fences that have no ending. -/
theorem execQdtDisable_due (hd : (s.queue q).state = .running ∨ (s.queue q).state = .halted) :
    ∃ ws : List Cmd, ws.Sublist s.cmds ∧
      (∀ c ∈ s.cmds, c ∈ ws ↔
        c.queue = q ∧ c.ending = none ∧ ((∃ a b d, c.work = .knotWait a b d) ∨ ∃ a b, c.work = .qfence a b)) ∧
      exec (.qdtDisable q) s = .next ((ws.foldl (fun s c => s.stopCmd c.id 0x1B)
        (s.modQueue q (fun k => { k with state := .draining }))).settleQueue q) := by
  refine ⟨_, List.filter_sublist, fun c hc => ?_,
    congrArg Host.Outcome.next (if_neg (by rcases hd with hd | hd <;> simp [hs, hd]))⟩
  rw [List.mem_filter, and_iff_right hc, Bool.and_eq_true, Bool.and_eq_true, beq_iff_eq, Option.isNone_iff_eq_none, and_assoc]
  cases c.work <;> simp

theorem execQdtCancel_due (hd : (s.queue q).state ≠ .disabled) (hc : (s.queue q).state ≠ .cancelling) : exec (.qdtCancel q) s =
    .next (((s.cmds.filter (fun c => c.own q)).foldl (fun s c => s.attempt (s.stopCmd c.id 0x1B))
      (s.modQueue q (fun k => { k with state := .cancelling }))).settleQueue q) :=
  congrArg Host.Outcome.next (if_neg (by simp [hs, hd, hc]))

theorem execQdtResume_halted (hh : (s.queue q).state = .halted) :
    exec (.qdtResume q) s = .next (s.modQueue q (fun k => { k with state := .running, tailDue := !k.ringLoc })) :=
  congrArg Host.Outcome.next (if_pos (by simp [hs, hh]))

end

theorem execQdtResume_other (hh : (s.queue q).state ≠ .halted) : exec (.qdtResume q) s = .next s :=
  congrArg Host.Outcome.next (if_neg (by simp [hh]))

/-! ### Reads of the tail word (R448 to R454) -/

/-- The tail word w of a queue that read as k is taken, or faults and halts the queue. -/
def State.takeTail (s : State) (q : Nat) (k : Queue) (w : Nat) : State :=
  if 2 ^ 32 ≤ w ∨ k.entries < (w % 2 ^ 32 + 2 ^ 32 - k.headSeq) % 2 ^ 32 then s.tailFault q 0x48
  else
    let t := s.modQueue q (fun k => { k with tail := w % 2 ^ 32 })
    if t.lhr.stage ≠ 0 ∧ w % 2 ^ 32 ≠ k.headSeq then { t with lhr := { t.lhr with waking := true } } else t

/-- The same test as the row makes it. -/
theorem State.takeTail_eq (k : Queue) (w : Nat) : s.takeTail q k w =
    if (2 ^ 32 ≤ w || decide (k.entries < (w % 2 ^ 32 + 2 ^ 32 - k.headSeq) % 2 ^ 32)) = true then s.tailFault q 0x48
    else
      let t := s.modQueue q (fun k => { k with tail := w % 2 ^ 32 })
      if (t.lhr.stage ≠ 0 && w % 2 ^ 32 != k.headSeq) = true then { t with lhr := { t.lhr with waking := true } } else t := by
  unfold State.takeTail
  simp only [Bool.or_eq_true, Bool.and_eq_true, decide_eq_true_eq, bne_iff_ne]

section

variable (hs : s.alive = true) (hr : (s.queue q).state = .running) (hd : (s.queue q).tailDue = true)
include hs hr hd

theorem execTailRead_host (hl : (s.queue q).ringLoc = true) (hup : s.hpt.linkUp = true) (w : Nat) : exec (.tailRead q (.ok w)) s =
    .next ((s.modQueue q (fun k => { k with tailDue := false })).takeTail q (s.queue q) w) := by
  refine congrArg Host.Outcome.next ((if_neg (by simp [hs, hr, hd])).trans ?_)
  rw [State.takeTail_eq, hl]
  have hlink : (s.modQueue q (fun k => { k with tailDue := false })).hpt.linkUp = true := hup
  simp only [if_true, hlink]

theorem execTailRead_linkDown (hl : (s.queue q).ringLoc = true) (hdown : s.hpt.linkUp = false) (host : ReadBack Nat) :
    exec (.tailRead q host) s = .next ((s.modQueue q (fun k => { k with tailDue := false })).tailFault q 0x49) := by
  refine congrArg Host.Outcome.next ((if_neg (by simp [hs, hr, hd])).trans ?_)
  have hlink : (s.modQueue q (fun k => { k with tailDue := false })).hpt.linkUp = false := hdown
  rw [hl]
  simp only [if_true, hlink, Bool.false_eq_true, if_false]

theorem execTailRead_local (hl : (s.queue q).ringLoc = false) (host : ReadBack Nat) {bs : List Byte} {s1 : State}
    (hread : (s.modQueue q (fun k => { k with tailDue := false })).bytesRead (s.queue q).served ((s.queue q).tailAddr * 8) 8 =
      (.ok bs, s1)) : exec (.tailRead q host) s = .next (s1.takeTail q (s.queue q) (leNat bs)) := by
  refine congrArg Host.Outcome.next ((if_neg (by simp [hs, hr, hd])).trans ?_)
  rw [State.takeTail_eq, hl]
  simp only [Bool.false_eq_true, if_false, hread]

theorem execTailRead_localFault (hl : (s.queue q).ringLoc = false) (host : ReadBack Nat) {s1 : State}
    (hread : (s.modQueue q (fun k => { k with tailDue := false })).bytesRead (s.queue q).served ((s.queue q).tailAddr * 8) 8 =
        (.poisoned, s1) ∨
      (s.modQueue q (fun k => { k with tailDue := false })).bytesRead (s.queue q).served ((s.queue q).tailAddr * 8) 8 =
        (.failed, s1)) : exec (.tailRead q host) s = .next (s1.tailFault q 0x49) := by
  refine congrArg Host.Outcome.next ((if_neg (by simp [hs, hr, hd])).trans ?_)
  rw [hl]
  rcases hread with hread | hread <;> simp only [Bool.false_eq_true, if_false, hread]

end

/-! ### Command fetches (R454, R455) -/

section

variable (h : MayAdmit s q)
include h

theorem execCommandFetch_host (hl : (s.queue q).ringLoc = true) (hup : s.hpt.linkUp = true) (bs : List Byte) :
    exec (.commandFetch q (.ok bs)) s = .next (s.admitCmd q (parseCmd bs).1 (parseCmd bs).2) := by
  refine congrArg Host.Outcome.next ((if_neg (by simp [State.canAdmit_of_mayAdmit h])).trans ?_)
  simp only [hl, hup, if_true]

theorem execCommandFetch_local (hl : (s.queue q).ringLoc = false) (host : ReadBack (List Byte)) {bs : List Byte} {s1 : State}
    (hread : s.bytesRead (s.queue q).served (s.queue q).slotAt 64 = (.ok bs, s1)) :
    exec (.commandFetch q host) s = .next (s1.admitCmd q (parseCmd bs).1 (parseCmd bs).2) := by
  refine congrArg Host.Outcome.next ((if_neg (by simp [State.canAdmit_of_mayAdmit h])).trans ?_)
  simp only [hl, Bool.false_eq_true, if_false, hread]

theorem execCommandFetch_linkDown (hl : (s.queue q).ringLoc = true) (hdown : s.hpt.linkUp = false) (host : ReadBack (List Byte)) :
    exec (.commandFetch q host) s = .next (s.fetchFault q) := by
  refine congrArg Host.Outcome.next ((if_neg (by simp [State.canAdmit_of_mayAdmit h])).trans ?_)
  simp only [hl, hdown, if_true, Bool.false_eq_true, if_false]

end

end

/-- Settles O26: each control, tail read and fetch where it is due, by the lemma about its row. -/
theorem queueControl : Obligations.QueueControl := by
  unfold Obligations.QueueControl
  intro q s hs k
  exact ⟨fun hd => ⟨execQdtEnable_ok hs hd, execQdtEnable_err hs hd⟩, execQdtDisable_due hs, execQdtCancel_due hs,
    execQdtResume_halted hs, execQdtResume_other,
    fun hr hd => ⟨execTailRead_host hs hr hd, execTailRead_linkDown hs hr hd,
      fun hl host bs s1 => execTailRead_local hs hr hd hl host, fun hl host s1 => execTailRead_localFault hs hr hd hl host⟩,
    fun h => ⟨execCommandFetch_host h, fun hl host bs s1 => execCommandFetch_local h hl host, execCommandFetch_linkDown h⟩⟩

end Sys2Proof.Machine
end

section
/-! SUPPORT. A waited knot whose read is held: the counterexample to O27. -/

namespace Sys2Proof.Machine

open Sys2Proof

/-- A KNOT.WAIT for the value 3 on the word at 0x5000, which holds 0. -/
def knotWaiter : Cmd :=
  { id := 7, queue := 2, seq := 0, asroot := 10 * 2 ^ 60 + 1, engine := 536, work := .knotWait 0x5000 3 true }

/-- Its command alone in flight, with one leaf in the page table at 0x1000 that maps every address to itself. -/
def knotWaiting : State := { State.reset with mem := [(0x1000, 0xDF)], cmds := [knotWaiter] }

theorem knotWaiting_alive : knotWaiting.alive = true := by decide +kernel

/-- Once its knot's address is translated. -/
def knotTranslated : State := (knotWaiting.xlate knotWaiter.engine knotWaiter.coil knotWaiter.asroot 0x5000 .atomic).2

theorem knotWaiting_xlate : knotWaiting.xlate knotWaiter.engine knotWaiter.coil knotWaiter.asroot 0x5000 .atomic =
    (.here 0x5000 false, knotTranslated) := Prod.fst_eq_iff.1 (by decide +kernel)

/-- Once the wait is no longer due. -/
def knotReached : State := knotTranslated.modCmd 7 (fun c => { c with work := .knotWait 0x5000 3 false })

/-- Once its knot is read. -/
def knotSeen : State := (knotReached.knotLocal (.cmd 7) knotWaiter.engine 0x5000 false).2

theorem knotReached_knotLocal : knotReached.knotLocal (.cmd 7) knotWaiter.engine 0x5000 false = (.ok 0, knotSeen) :=
  Prod.fst_eq_iff.1 (by decide +kernel)

theorem knotWaiting_work : (knotWaiting.cmd? 7).map (·.work) = some (.knotWait 0x5000 3 true) := by decide +kernel

theorem knotSeen_work : (knotSeen.cmd? 7).map (·.work) = some (.knotWait 0x5000 3 false) := by decide +kernel

/-- A read that is held leaves its waiter as it is. -/
theorem execKnotRead_held {s : State} (hs : s.alive = true) (w : KnotWaiter) : exec (.knotRead w .held) s = .next s :=
  congrArg Host.Outcome.next ((if_pos hs).trans (if_pos rfl))

/-- Refutes O27: its last clause takes every outcome of the knot's read, but KNOT_READ of one that is held leaves the wait due, where
the clause has the local knot read and the wait no longer due. -/
theorem not_commandsComplete : ¬ Obligations.CommandsComplete := by
  unfold Obligations.CommandsComplete
  rintro ⟨-, -, -, -, h⟩
  have hread := h 7 0x5000 3 0x5000 0 false knotWaiting knotTranslated knotSeen knotWaiter .held knotWaiting_alive (by decide +kernel)
    rfl rfl (by decide +kernel) knotWaiting_xlate knotReached_knotLocal
  rw [execKnotRead_held knotWaiting_alive] at hread
  have hsame : knotWaiting = knotSeen := (Host.Outcome.next.inj hread).trans ((if_neg (by decide)).trans (if_neg (by decide)))
  have hwork := knotSeen_work
  rw [← hsame, knotWaiting_work] at hwork
  cases hwork

end Sys2Proof.Machine
end
